-- ==== Sys2Proof/Word.lean ====
section
/-! DEFINITION. The word types and the keyed tables in one canonical form (R11, R15, R22). -/

namespace Sys2Proof

abbrev Byte := BitVec 8
abbrev Half := BitVec 16
/-- A vector, uniform or 32-bit special register. -/
abbrev Word := BitVec 32
/-- A 64-bit register pair, an instruction word or an address while it is computed. -/
abbrev DWord := BitVec 64
/-- A set of lanes of a cohort: bit L is lane L (R85 %amask). -/
abbrev Mask := BitVec 64

/-- A table by number: keys strictly rising, and no entry equal to the value an absent key reads as. -/
abbrev Sparse (β : Type) := List (Nat × β)

end Sys2Proof
end

