-- ==== Sys2Proof/Machine/Float.lean ====
section
/-! DEFINITION. Number formats, rounding and special values (R112-R115, R140-R149, R153): exact dyadic arithmetic on Nat and
Int, one rounding at the end, and the correctly rounded functions of R121. -/

namespace Sys2Proof.Machine

/-- Rounding directions (R111). -/
inductive Rnd where
  | rn
  | rz
  | rm
  | rp
  deriving DecidableEq, Repr

/-- How a format marks infinities and NaNs (R142). -/
inductive Specials where
  /-- top exponent: fraction 0 is infinity, otherwise NaN -/
  | ieee
  /-- only the all-ones code is NaN -/
  | onlyNan
  /-- every code is finite -/
  | none
  deriving DecidableEq, Repr

/-- A binary format (R112, R140): exponent bits, fraction bits, bias, specials, and the NaN it writes. -/
structure Fmt where
  w : Nat
  t : Nat
  bias : Nat
  specials : Specials
  nan : Nat
  deriving DecidableEq, Repr

def Fmt.f32 : Fmt := ⟨8, 23, 127, .ieee, 0x7FC00000⟩
def Fmt.f16 : Fmt := ⟨5, 10, 15, .ieee, 0x7E00⟩
def Fmt.bf16 : Fmt := ⟨8, 7, 127, .ieee, 0x7FC0⟩
def Fmt.e4m3 : Fmt := ⟨4, 3, 7, .onlyNan, 0x7F⟩
def Fmt.e5m2 : Fmt := ⟨5, 2, 15, .ieee, 0x7E⟩
def Fmt.e3m2 : Fmt := ⟨3, 2, 3, .none, 0⟩
def Fmt.e2m3 : Fmt := ⟨2, 3, 1, .none, 0⟩
def Fmt.e2m1 : Fmt := ⟨2, 1, 1, .none, 0⟩

/-- Significant bits, the implicit one included. -/
def Fmt.p (f : Fmt) : Nat := f.t + 1
def Fmt.emin (f : Fmt) : Int := 1 - (f.bias : Int)
/-- Bits of a code without its sign. -/
def Fmt.body (f : Fmt) : Nat := f.w + f.t
/-- The code of the largest finite magnitude (R112, R142). -/
def Fmt.maxCode (f : Fmt) : Nat :=
  match f.specials with
  | .ieee => (2 ^ f.w - 1) * 2 ^ f.t - 1
  | .onlyNan => 2 ^ f.body - 2
  | .none => 2 ^ f.body - 1
def Fmt.infCode (f : Fmt) : Nat := (2 ^ f.w - 1) * 2 ^ f.t
/-- ftz acts on FP32 and BF16 alone (R115). -/
def Fmt.flushes (f : Fmt) : Bool := f == Fmt.f32 || f == Fmt.bf16

/-- The scalar type field of R111; 0b11 is illegal and never reaches a result. -/
def fmtOf (k : Nat) : Fmt := if k == 0 then .f32 else if k == 1 then .f16 else .bf16
def rndOf (k : Nat) : Rnd := if k == 0 then .rn else if k == 1 then .rz else if k == 2 then .rm else .rp

/-- A value: NaN, a signed infinity, or (-1)^s * m * 2^e exactly. -/
inductive FV where
  | nan
  | inf (s : Bool)
  | fin (s : Bool) (m : Nat) (e : Int)
  deriving DecidableEq, Repr

/-- R140, R142. -/
def decodeF (f : Fmt) (bits : Nat) : FV :=
  let s := bits / 2 ^ f.body % 2 == 1
  let ex := bits / 2 ^ f.t % 2 ^ f.w
  let fr := bits % 2 ^ f.t
  if ex == 0 then .fin s fr (f.emin - f.t)
  else if f.specials == .ieee && ex == 2 ^ f.w - 1 then (if fr == 0 then .inf s else .nan)
  else if f.specials == .onlyNan && bits % 2 ^ f.body == 2 ^ f.body - 1 then .nan
  else .fin s (2 ^ f.t + fr) (ex - f.bias - f.t)

/-- Read an operand under R115: a subnormal of a flushing format counts as zero when ftz is set. -/
def readF (ftz : Bool) (f : Fmt) (bits : Nat) : FV :=
  match decodeF f (bits % 2 ^ (f.body + 1)) with
  | .fin s m e => if ftz && f.flushes && decide (m < 2 ^ f.t) then .fin s 0 e else .fin s m e
  | v => v

/-- m * 2^k for k ≥ 0, and the floor of m / 2^(-k) otherwise. -/
def scale (m : Nat) (k : Int) : Nat := if 0 ≤ k then m * 2 ^ k.toNat else m / 2 ^ (-k).toNat

/-- Is m1 * 2^e1 less than m2 * 2^e2? -/
def magLt (m1 : Nat) (e1 : Int) (m2 : Nat) (e2 : Int) : Bool :=
  let e := min e1 e2
  decide (scale m1 (e1 - e) < scale m2 (e2 - e))

/-- Round the magnitude m * 2^e to a multiple of 2^qe; the answer is the multiple. -/
def roundAt (qe : Int) (r : Rnd) (s : Bool) (m : Nat) (e : Int) : Nat :=
  if qe ≤ e then scale m (e - qe)
  else
    let k := (qe - e).toNat
    let lo := m / 2 ^ k
    let rem := m % 2 ^ k
    if rem == 0 then lo
    else
      let up := match r with
        | .rn => decide (2 ^ k < 2 * rem) || (2 * rem == 2 ^ k && lo % 2 == 1)
        | .rz => false
        | .rm => s
        | .rp => !s
      if up then lo + 1 else lo

/-- The exponent of Round's quantum q = 2^(e - p + 1) (R113). -/
def quantum (f : Fmt) (m : Nat) (e : Int) : Int :=
  max ((Nat.log2 m : Int) + e) f.emin - f.t

/-- R113 Round: a magnitude that may exceed the format's maximum. -/
def roundF (f : Fmt) (r : Rnd) (s : Bool) (m : Nat) (e : Int) : Nat × Int :=
  let q := quantum f m e
  (roundAt q r s m e, q)

/-- Does the magnitude exceed the largest finite one of the format? -/
def exceeds (f : Fmt) (m : Nat) (e : Int) : Bool :=
  match decodeF f f.maxCode with
  | .fin _ mm me => magLt mm me m e
  | _ => false

def signBits (f : Fmt) (s : Bool) : Nat := if s then 2 ^ f.body else 0

/-- The code of a magnitude that the format represents. -/
def encodeF (f : Fmt) (s : Bool) (m : Nat) (e : Int) : Nat :=
  if m == 0 then signBits f s
  else
    let k := (Nat.log2 m : Int) + e
    if k < f.emin then signBits f s + scale m (e - (f.emin - f.t))
    else signBits f s + (k + f.bias).toNat * 2 ^ f.t + (scale m (e - (k - f.t)) - 2 ^ f.t)

/-- R113 Fit of a rounded magnitude, as a code. -/
def fitCode (f : Fmt) (r : Rnd) (s : Bool) (m : Nat) (e : Int) : Nat :=
  if exceeds f m e then
    let toInf := match r with
      | .rn => true
      | .rz => false
      | .rm => s
      | .rp => !s
    signBits f s + (if toInf then f.infCode else f.maxCode)
  else encodeF f s m e

/-- R113 Saturate, as a code, and whether the lane is saturated. -/
def satCode (f : Fmt) (s : Bool) (m : Nat) (e : Int) : Nat × Bool :=
  if exceeds f m e then (signBits f s + f.maxCode, true) else (encodeF f s m e, false)

/-- R113 Flush of a result code (R115). -/
def flushCode (ftz : Bool) (f : Fmt) (code : Nat) : Nat :=
  if ftz && f.flushes && decide (code % 2 ^ f.body < 2 ^ f.t) then signBits f (code / 2 ^ f.body % 2 == 1) else code

/-- Flush(Fit(Round(x))) of a nonzero exact magnitude. -/
def finish (ftz : Bool) (f : Fmt) (r : Rnd) (s : Bool) (m : Nat) (e : Int) : Nat :=
  let q := roundF f r s m e
  flushCode ftz f (fitCode f r s q.1 q.2)

def infBits (f : Fmt) (s : Bool) : Nat := signBits f s + f.infCode

/-- A signed dyadic number: value m * 2^e. -/
structure Dy where
  m : Int
  e : Int
  deriving DecidableEq, Repr

def Dy.ofFin (s : Bool) (m : Nat) (e : Int) : Dy := ⟨if s then -(m : Int) else m, e⟩
def Dy.add (x y : Dy) : Dy :=
  let e := min x.e y.e
  ⟨x.m * 2 ^ (x.e - e).toNat + y.m * 2 ^ (y.e - e).toNat, e⟩
def Dy.mul (x y : Dy) : Dy := ⟨x.m * y.m, x.e + y.e⟩

/-- The sign of an exact zero sum (R114): both zeros negative, or opposite signs under .RM. -/
def zeroSum (r : Rnd) (s1 s2 : Bool) : Bool := if s1 == s2 then s1 else r == .rm

/-- S1 + S2 with one rounding (R114, R116). -/
def addF (ftz : Bool) (f : Fmt) (r : Rnd) (x y : FV) : Nat :=
  match x, y with
  | .nan, _ => f.nan
  | _, .nan => f.nan
  | .inf s1, .inf s2 => if s1 == s2 then infBits f s1 else f.nan
  | .inf s, _ => infBits f s
  | _, .inf s => infBits f s
  | .fin s1 m1 e1, .fin s2 m2 e2 =>
    let d := (Dy.ofFin s1 m1 e1).add (Dy.ofFin s2 m2 e2)
    if d.m == 0 then signBits f (if m1 == 0 && m2 == 0 then zeroSum r s1 s2 else r == .rm)
    else finish ftz f r (decide (d.m < 0)) d.m.natAbs d.e

def FV.neg : FV → FV
  | .nan => .nan
  | .inf s => .inf (!s)
  | .fin s m e => .fin (!s) m e

/-- The exact product of two values (R114). -/
def FV.mul (x y : FV) : FV :=
  match x, y with
  | .nan, _ => .nan
  | _, .nan => .nan
  | .inf s1, .inf s2 => .inf (s1 != s2)
  | .inf s1, .fin s2 m _ => if m == 0 then .nan else .inf (s1 != s2)
  | .fin s1 m _, .inf s2 => if m == 0 then .nan else .inf (s1 != s2)
  | .fin s1 m1 e1, .fin s2 m2 e2 => .fin (s1 != s2) (m1 * m2) (e1 + e2)

/-- One rounding of an exact value. -/
def roundFV (ftz : Bool) (f : Fmt) (r : Rnd) : FV → Nat
  | .nan => f.nan
  | .inf s => infBits f s
  | .fin s m e => if m == 0 then signBits f s else finish ftz f r s m e

def mulF (ftz : Bool) (f : Fmt) (r : Rnd) (x y : FV) : Nat := roundFV ftz f r (x.mul y)

/-- S1 * S2 + S3 with one rounding. -/
def fmaF (ftz : Bool) (f : Fmt) (r : Rnd) (x y z : FV) : Nat := addF ftz f r (x.mul y) z

/-- The exact sum of a list of terms under R153, rounded once to FP32. -/
def sumF (terms : List FV) : Nat :=
  let pos := terms.any fun t => t == .inf false
  let neg := terms.any fun t => t == .inf true
  if terms.any (· == .nan) || (pos && neg) then Fmt.f32.nan
  else if pos then infBits .f32 false
  else if neg then infBits .f32 true
  else
    let d := terms.foldl (fun (acc : Dy) t => match t with | .fin s m e => acc.add (.ofFin s m e) | _ => acc) (⟨0, 0⟩ : Dy)
    if d.m == 0 then
      signBits .f32 (!terms.isEmpty && terms.all fun t => match t with | .fin s m _ => s && m == 0 | _ => false)
    else finish false .f32 .rn (decide (d.m < 0)) d.m.natAbs d.e

/-- The clamp of .SAT to [+0.0, 1.0] (R116). -/
def satUnit (f : Fmt) (code : Nat) : Nat :=
  match decodeF f code with
  | .nan => 0
  | .inf s => if s then 0 else f.bias * 2 ^ f.t
  | .fin s m e => if s then 0 else if magLt 1 0 m e then f.bias * 2 ^ f.t else code

/-- Is x < y on values that are not NaN, with -0 equal to +0 (R118)? -/
def FV.lt (x y : FV) : Bool :=
  match x, y with
  | .nan, _ => false
  | _, .nan => false
  | .inf s1, .inf s2 => s1 && !s2
  | .inf s, .fin _ _ _ => s
  | .fin _ _ _, .inf s => !s
  | .fin s1 m1 e1, .fin s2 m2 e2 =>
    if s1 then (if s2 then magLt m2 e2 m1 e1 else m1 != 0 || m2 != 0)
    else if s2 then false else magLt m1 e1 m2 e2

def FV.isNan : FV → Bool
  | .nan => true
  | _ => false

def FV.sign : FV → Bool
  | .nan => false
  | .inf s => s
  | .fin s _ _ => s

/-- R117: the smaller operand's code, -0 below +0, NaNs as stated; `c1`, `c2` are the codes read through R115. -/
def minF (f : Fmt) (ftz : Bool) (b1 b2 : Nat) (wantMax : Bool) : Nat :=
  let x := readF ftz f b1
  let y := readF ftz f b2
  let c1 := flushCode ftz f b1
  let c2 := flushCode ftz f b2
  if x.isNan && y.isNan then f.nan
  else if x.isNan then c2
  else if y.isNan then c1
  else
    let xLess := x.lt y || (!(y.lt x) && x.sign && !y.sign)
    if xLess != wantMax then c1 else c2

/-- Round to an integral value (R120); the magnitude as a natural number. -/
def integral (r : Rnd) (s : Bool) (m : Nat) (e : Int) : Nat := roundAt 0 r s m e

/-- FRND (R120). -/
def frndF (ftz : Bool) (f : Fmt) (r : Rnd) (bits : Nat) : Nat :=
  match readF ftz f bits with
  | .nan => f.nan
  | .inf s => infBits f s
  | .fin s m e =>
    let n := integral r s m e
    if n == 0 then signBits f s else finish ftz f .rn s n 0

/-- FEXP (R120): the exponent as a 32-bit signed integer. -/
def fexpF (ftz : Bool) (f : Fmt) (bits : Nat) : Word :=
  match readF ftz f bits with
  | .nan => 0x7FFFFFFF#32
  | .inf _ => 0x7FFFFFFF#32
  | .fin _ m e => if m == 0 then 0x80000000#32 else BitVec.ofInt 32 ((Nat.log2 m : Int) + e)

/-- FLDEXP (R120): S1 * 2^k. -/
def fldexpF (ftz : Bool) (f : Fmt) (r : Rnd) (bits : Nat) (k : Int) : Nat :=
  match readF ftz f bits with
  | .fin s m e => roundFV ftz f r (.fin s m (e + k))
  | v => roundFV ftz f r v

/-- FCLASS (R119), of the operand as stored. -/
def fclassF (f : Fmt) (bits0 : Nat) : Nat :=
  let bits := bits0 % 2 ^ (f.body + 1)
  match decodeF f bits with
  | .nan => if bits / 2 ^ (f.t - 1) % 2 == 1 then 0x200 else 0x100
  | .inf s => if s then 0x001 else 0x080
  | .fin s m _ =>
    if m == 0 then (if s then 0x008 else 0x010)
    else if m < 2 ^ f.t then (if s then 0x004 else 0x020)
    else if s then 0x002 else 0x040

/-! The functions of R121. Each result is rounded once from an approximation cut below the last place that rounding
can reach; a one appended below the cut stands for the nonzero rest. -/

/-- A result known to lie strictly between m * 2^e and (m + 1) * 2^e. -/
def inexact (ftz : Bool) (s : Bool) (m : Nat) (e : Int) : Nat := finish ftz .f32 .rn s (2 * m + 1) (e - 1)

/-- Floor of the square root, by bits from 2^(n-1) down. -/
def isqrt (v : Nat) : Nat → Nat → Nat
  | 0, r => r
  | n + 1, r => isqrt v n (if (r + 2 ^ n) * (r + 2 ^ n) ≤ v then r + 2 ^ n else r)

def frcpF (ftz : Bool) (x : FV) : Nat :=
  match x with
  | .nan => Fmt.f32.nan
  | .inf s => signBits .f32 s
  | .fin s m e =>
    if m == 0 then infBits .f32 s
    else
      let k := Nat.log2 m + 64
      let q := 2 ^ k / m
      if q * m == 2 ^ k then finish ftz .f32 .rn s q (-(k : Int) - e) else inexact ftz s q (-(k : Int) - e)

/-- m * 2^e with an even exponent and at least 80 more bits. -/
def evenScale (m : Nat) (e : Int) : Nat × Int :=
  if e % 2 == 0 then (m * 2 ^ 80, e - 80) else (m * 2 ^ 81, e - 81)

def fsqrtF (ftz : Bool) (x : FV) : Nat :=
  match x with
  | .nan => Fmt.f32.nan
  | .inf s => if s then Fmt.f32.nan else infBits .f32 false
  | .fin s m e =>
    if m == 0 then signBits .f32 s
    else if s then Fmt.f32.nan
    else
      let q := evenScale m e
      let r := isqrt q.1 64 0
      if r * r == q.1 then finish ftz .f32 .rn false r (q.2 / 2) else inexact ftz false r (q.2 / 2)

def frsqF (ftz : Bool) (x : FV) : Nat :=
  match x with
  | .nan => Fmt.f32.nan
  | .inf s => if s then Fmt.f32.nan else 0
  | .fin s m e =>
    if m == 0 then infBits .f32 s
    else if s then Fmt.f32.nan
    else
      let m' := if e % 2 == 0 then m else 2 * m
      let e' := if e % 2 == 0 then e else e - 1
      let r := isqrt (2 ^ 192 / m') 97 0
      if r * r * m' == 2 ^ 192 then finish ftz .f32 .rn false r (-96 - e' / 2)
      else inexact ftz false r (-96 - e' / 2)

/-- ln 2, scaled by 2^256. -/
def ln2Scaled : Nat := 0xb17217f7d1cf79abc9e3b39803f2f6af40f343267298b62d8a0d175b8baafa2b
/-- pi / 2, scaled by 2^480. -/
def halfPiScaled : Nat := 0x1921fb54442d18469898cc51701b839a252049c1114cf98e804177d4c76273644a29410f31c6809bbdf2a33679a748636605614dbe4be286e9fc26ada

/-- Sum of y^i / i! for i ≥ k, all scaled by 2^256; `t` is the term y^(k-1) / (k-1)!. -/
def expSeries (y : Nat) : Nat → Nat → Nat → Nat
  | 0, _, _ => 0
  | n + 1, k, t => let t' := t * y / 2 ^ 256 / k; t' + expSeries y n (k + 1) t'

def ex2F (ftz : Bool) (x : FV) : Nat :=
  match x with
  | .nan => Fmt.f32.nan
  | .inf s => if s then 0 else infBits .f32 false
  | .fin s m e =>
    if m == 0 then Fmt.f32.bias * 2 ^ 23
    else if s && !magLt m e 150 0 then 0
    else if !s && !magLt m e 128 0 then infBits .f32 false
    else
      let num : Int := (if s then -(m : Int) else m) * (2 : Int) ^ (e + 256).toNat
      let k : Int := num / (2 : Int) ^ 256
      let fr : Nat := (num % (2 : Int) ^ 256).toNat
      if fr == 0 then finish ftz .f32 .rn false 1 k
      else
        let y := fr * ln2Scaled / 2 ^ 256
        inexact ftz false (2 ^ 256 + expSeries y 64 1 (2 ^ 256)) (k - 256)

/-- Sum of z^(2i+1) / (2i+1), scaled by 2^256; `t` is z^(2i+1). -/
def atanhSeries (z2 : Nat) : Nat → Nat → Nat → Nat
  | 0, _, _ => 0
  | n + 1, k, t => t / k + atanhSeries z2 n (k + 2) (t * z2 / 2 ^ 256)

def lg2F (ftz : Bool) (x : FV) : Nat :=
  match x with
  | .nan => Fmt.f32.nan
  | .inf s => if s then Fmt.f32.nan else infBits .f32 false
  | .fin s m e =>
    if m == 0 then infBits .f32 true
    else if s then Fmt.f32.nan
    else
      let j := Nat.log2 m
      let k : Int := (j : Int) + e
      if m == 2 ^ j then (if k == 0 then 0 else finish ftz .f32 .rn (decide (k < 0)) k.natAbs 0)
      else
        let z := (m - 2 ^ j) * 2 ^ 256 / (m + 2 ^ j)
        let l : Nat := 2 * atanhSeries (z * z / 2 ^ 256) 96 1 z * 2 ^ 256 / ln2Scaled
        let v : Int := k * (2 : Int) ^ 256 + (l : Int)
        inexact ftz (decide (v < 0)) (if v < 0 then v.natAbs - 1 else v.natAbs) (-256)

/-- Alternating series of sine (k = 2, t = r) and cosine (k = 1, t = 1), scaled by 2^320. -/
def trigSeries (r2 : Nat) : Nat → Nat → Int → Int
  | 0, _, _ => 0
  | n + 1, k, t =>
    let d : Nat := k * (k + 1)
    let u : Int := t * (r2 : Int) / (2 : Int) ^ 320 / (d : Int)
    t + trigSeries r2 n (k + 2) (-u)

/-- SIN and COS with the argument reduced by quarter turns (R121); `q0` is 0 for sine and 1 for cosine. -/
def trigF (ftz : Bool) (q0 : Nat) (x : FV) : Nat :=
  match x with
  | .nan => Fmt.f32.nan
  | .inf _ => Fmt.f32.nan
  | .fin s m e =>
    if m == 0 then (if q0 == 0 then signBits .f32 s else Fmt.f32.bias * 2 ^ 23)
    else if magLt m e 1 (-12) then (if q0 == 0 then finish ftz .f32 .rn s m e else Fmt.f32.bias * 2 ^ 23)
    else
      let xs : Nat := m * 2 ^ (e + 480).toNat
      let n : Nat := xs / halfPiScaled
      let r : Nat := xs % halfPiScaled / 2 ^ 160
      let r2 : Nat := r * r / 2 ^ 320
      let quad : Nat := (n + q0) % 4
      let v : Int := if quad % 2 == 0 then trigSeries r2 48 2 (r : Int) else trigSeries r2 48 1 ((2 : Int) ^ 320)
      inexact ftz ((quad ≥ 2) != (s && q0 == 0)) v.natAbs (-320)

/-! QN4 (R147, R133) and the scale formats (R144, R146). -/

/-- The codebook, in units of 1/256. -/
def qn4Value (code : Nat) : Int :=
  match code % 16 with
  | 0 => 0
  | 1 => 20
  | 2 => 42
  | 3 => 66
  | 4 => 94
  | 5 => 127
  | 6 => 167
  | 7 => 208
  | 8 => 256
  | 9 => -22
  | 10 => -47
  | 11 => -76
  | 12 => -110
  | 13 => -152
  | 14 => -202
  | _ => -256

def qn4FV (code : Nat) : FV :=
  let v := qn4Value code
  .fin (decide (v < 0)) v.natAbs (-8)

/-- E8M0 (R144). -/
def e8FV (code : Nat) : FV := if code % 256 == 255 then .nan else .fin false 1 ((code % 256 : Nat) - 127)

/-- S9 (R146); bits [15:9] ignored. -/
def s9FV (c : Nat) : FV :=
  let e := c / 2 % 256
  if e == 255 then .nan else .fin false (2 + c % 2) ((e : Int) - 128)

/-- R133: the QN4 code of a finite nonzero value, and whether the element is saturated. -/
def qn4Code (rz : Bool) (s : Bool) (m : Nat) (e : Int) : Nat × Bool :=
  if magLt 1 0 m e then (if s then 15 else 8, true)
  else
    let x := Dy.ofFin s m e
    let dist (c : Nat) : Dy :=
      let d := x.add ⟨-(qn4Value c), -8⟩
      ⟨d.m.natAbs, d.e⟩
    let lt (a b : Dy) : Bool := magLt a.m.toNat a.e b.m.toNat b.e
    let codes := if s then [9, 10, 11, 12, 13, 14, 15] else [1, 2, 3, 4, 5, 6, 7, 8]
    if rz then (codes.foldl (fun best c => if magLt m e (qn4Value c).natAbs (-8) then best else c) 0, false)
    else (codes.foldl (fun best c => if lt (dist c) (dist best) then c else best) 0, false)

/-- Narrow element formats by CVTQ's and CVTX's code (R131): 0-4. -/
def narrowFmt (k : Nat) : Fmt :=
  match k with
  | 0 => .e4m3
  | 1 => .e5m2
  | 2 => .e3m2
  | 3 => .e2m3
  | _ => .e2m1

/-- R131, R132: one element of CVTQ: its code and whether it is saturated. -/
def cvtqElem (ftz rz : Bool) (fmt bits : Nat) : Nat × Bool :=
  let f := narrowFmt fmt
  match readF ftz .f32 bits with
  | .nan =>
    if fmt == 0 then (0x7F, false) else if fmt == 1 then (0x7E, false) else (0, true)
  | .inf s =>
    if fmt == 5 then (if s then 15 else 8, true)
    else if fmt == 1 then (infBits f s, false)
    else (signBits f s + f.maxCode, true)
  | .fin s m e =>
    if fmt == 5 then (if m == 0 then (0, false) else qn4Code rz s m e)
    else if m == 0 then (signBits f s, false)
    else
      let q := roundF f (if rz then .rz else .rn) s m e
      satCode f s q.1 q.2

end Sys2Proof.Machine
end

