-- ==== Sys2Proof/Syntax.lean ====
section
/-! DEFINITION. Syntax of Esust: the fields every instruction word carries (R15), one payload per operand format
(R18), and ONE inductive with a constructor for each row of the table of operations and events. -/

namespace Sys2Proof

/-- The dependence and guard fields of R15, common to every instruction word. -/
structure Hdr where
  gap : BitVec 3
  wait : BitVec 12
  set : BitVec 4
  guard : BitVec 4
  deriving DecidableEq, Repr

/-- Format A (R18): destination, source 1, source 2, modifier or fourth register. -/
structure OpA where
  h : Hdr
  d : BitVec 8
  a : BitVec 8
  b : BitVec 8
  m : BitVec 8
  deriving DecidableEq, Repr

/-- Format B: destination, source 1, imm16. -/
structure OpB where
  h : Hdr
  d : BitVec 8
  a : BitVec 8
  imm : BitVec 16
  deriving DecidableEq, Repr

/-- Format C: destination, imm24. -/
structure OpC where
  h : Hdr
  d : BitVec 8
  imm : BitVec 24
  deriving DecidableEq, Repr

/-- Format J: a signed count of words (R20). -/
structure OpJ where
  h : Hdr
  off : BitVec 32
  deriving DecidableEq, Repr

/-- Format M: data register, base register, scaled signed offset, scope, hint (R19). -/
structure OpM where
  h : Hdr
  d : BitVec 8
  a : BitVec 8
  off : BitVec 12
  scope : BitVec 2
  hint : BitVec 2
  deriving DecidableEq, Repr

/-- Format X with one inline word (R21). -/
structure OpX1 where
  op : OpA
  w0 : DWord
  deriving DecidableEq, Repr

/-- Format X with two inline words. -/
structure OpX2 where
  op : OpA
  w0 : DWord
  w1 : DWord
  deriving DecidableEq, Repr

/-- Format X with four inline words, a shape record (R45). -/
structure OpX4 where
  op : OpA
  w0 : DWord
  w1 : DWord
  w2 : DWord
  w3 : DWord
  deriving DecidableEq, Repr

/-- A word whose opcode is unassigned, reserved or an emulation slot (R51): nothing but the common fields is decoded. -/
structure OpU where
  h : Hdr
  op : BitVec 9
  low : BitVec 32
  deriving DecidableEq, Repr

/-- A block: launch identifier of its grid and linear block index. -/
structure BRef where
  grid : Nat
  block : Nat
  deriving DecidableEq, Repr

/-- A cohort of a block, by the model's identifier. -/
structure CRef where
  b : BRef
  cohort : Nat
  deriving DecidableEq, Repr

/-- A split of a cohort, by the model's identifier. -/
structure SRef where
  c : CRef
  split : Nat
  deriving DecidableEq, Repr

/-- The two control ports (R408). -/
inductive Port where
  | a
  | b
  deriving DecidableEq, Repr

/-- A place in one of a control port's two windows: the registers of BAR0, or the memory window of BAR2 (R408). -/
inductive BarPlace where
  | bar0 (off : Nat)
  | bar2 (off : Nat)
  deriving DecidableEq, Repr

/-- What an uncorrectable error damages (R401). -/
inductive Damage where
  /-- registers, split table, flags, handles, latch, scratchpad, tiles, table entry or draft line of this block; the
  number is the recorder's kind-of-state code -/
  | block (b : BRef) (kind : Nat)
  /-- the L1 tags of a core -/
  | l1Tags (core : Nat)
  /-- residue mismatches of one team instruction of a core: quadrants and physical columns of their arrays (R321) -/
  | residue (core : Nat) (columns : List (Nat × Nat))
  /-- a 64-byte sector of DRAM (R250) or a weight-store line (R404), by physical address -/
  | memory (pa : Nat)
  /-- an entry of a core that belongs to no block, with its kind-of-state code (R401) -/
  | orphan (core kind : Nat)
  /-- a data line of a core's L1, an instruction-cache line, by line number (R404) -/
  | l1Line (core line : Nat)
  | codeLine (core line : Nat)
  /-- an entry of a core's TLB, or of its domain's, by its place there (R404) -/
  | tlbEntry (core : Nat) (second : Bool) (place : Nat)
  deriving DecidableEq, Repr

/-- What is power-gated as one unit (R258, R425). -/
inductive PowerUnit where
  | core (name : Nat)
  | banks (domain : Nat)
  deriving DecidableEq, Repr

/-- A TLB miss: the core, the grid whose tables are walked and the virtual address (R235). -/
structure WalkReq where
  core : Nat
  grid : Nat
  va : Nat
  deriving DecidableEq, Repr

/-- One constructor per row of the table of operations and events. The instructions carry the fields of their word;
the events name the agent they happen to. -/
inductive Instr where
  | mov (o : OpA)
  | movi (o : OpC)
  | movh (o : OpB)
  | iadd (o : OpA)
  | iaddImmediate (o : OpB)
  | iadd3 (o : OpA)
  | isub (o : OpA)
  | imul (o : OpA)
  | imulImmediate (o : OpB)
  | imulh (o : OpA)
  | imad (o : OpA)
  | imadw (o : OpA)
  | idiv (o : OpA)
  | irem (o : OpA)
  | imin (o : OpA)
  | imax (o : OpA)
  | iabs (o : OpA)
  | ineg (o : OpA)
  | and (o : OpA)
  | andImmediate (o : OpB)
  | or (o : OpA)
  | orImmediate (o : OpB)
  | xor (o : OpA)
  | xorImmediate (o : OpB)
  | andn (o : OpA)
  | not (o : OpA)
  | shl (o : OpA)
  | shr (o : OpA)
  | sar (o : OpA)
  | rot (o : OpA)
  | fshl (o : OpA)
  | bfx (o : OpA)
  | bfi (o : OpA)
  | popc (o : OpA)
  | clz (o : OpA)
  | brev (o : OpA)
  | sel (o : OpA)
  | isetp (o : OpA)
  | isetpImmediate (o : OpB)
  | plop (o : OpA)
  | lea (o : OpA)
  | nadd (o : OpA)
  | fadd (o : OpA)
  | fsub (o : OpA)
  | fmul (o : OpA)
  | ffma (o : OpA)
  | fmin (o : OpA)
  | fmax (o : OpA)
  | fsetp (o : OpA)
  | fclass (o : OpA)
  | frnd (o : OpA)
  | fexp (o : OpA)
  | fldexp (o : OpA)
  | frcp (o : OpA)
  | frsq (o : OpA)
  | fsqrt (o : OpA)
  | ex2 (o : OpA)
  | lg2 (o : OpA)
  | sin (o : OpA)
  | cos (o : OpA)
  | f2i (o : OpA)
  | i2f (o : OpA)
  | f2f (o : OpA)
  | cvtq (o : OpA)
  | cvtx (o : OpA)
  | prmt (o : OpA)
  | hadd2 (o : OpA)
  | hmul2 (o : OpA)
  | hfma2 (o : OpA)
  | vadd2 (o : OpA)
  | vsub2 (o : OpA)
  | vmax2 (o : OpA)
  | vmin2 (o : OpA)
  | acs2 (o : OpA)
  | sread (o : OpB)
  | swrite (o : OpB)
  | shfl (o : OpA)
  | vote (o : OpA)
  | redx (o : OpA)
  | umov (o : OpA)
  | elect (o : OpA)
  | ovclr (o : OpA)
  | bra (o : OpJ)
  | brp (o : OpJ)
  | bru (o : OpJ)
  | brx (o : OpA)
  | call (o : OpJ)
  | callx (o : OpA)
  | ret (o : OpA)
  | exit (o : OpA)
  | yield (o : OpA)
  | nop (o : OpA)
  | ldI8 (o : OpM)
  | ldN8 (o : OpM)
  | ldI16 (o : OpM)
  | ldN16 (o : OpM)
  | ldB32 (o : OpM)
  | ldB64 (o : OpM)
  | ldB128 (o : OpM)
  | stB8 (o : OpM)
  | stB16 (o : OpM)
  | stB32 (o : OpM)
  | stB64 (o : OpM)
  | stB128 (o : OpM)
  | ldsI8 (o : OpM)
  | ldsN8 (o : OpM)
  | ldsI16 (o : OpM)
  | ldsN16 (o : OpM)
  | ldsB32 (o : OpM)
  | ldsB64 (o : OpM)
  | ldsB128 (o : OpM)
  | stsB8 (o : OpM)
  | stsB16 (o : OpM)
  | stsB32 (o : OpM)
  | stsB64 (o : OpM)
  | stsB128 (o : OpM)
  | ldwB32 (o : OpM)
  | ldwB64 (o : OpM)
  | ldwB128 (o : OpM)
  | pref (o : OpM)
  | atomGlobal (o : OpA)
  | atomScratchpad (o : OpA)
  | atomCasB128 (o : OpA)
  | redGlobal (o : OpA)
  | redScratchpad (o : OpA)
  | fence (o : OpA)
  | waitm (o : OpM)
  | bar (o : OpA)
  | barbInit (o : OpA)
  | barbArrive (o : OpA)
  | barbWait (o : OpA)
  | qpush (o : OpA)
  | qpop (o : OpA)
  | qtry (o : OpA)
  | ckpt (o : OpA)
  | copy (o : OpX1)
  | tcopy (o : OpX4)
  | tcopyPeer (o : OpX4)
  | fill (o : OpX1)
  | htest (o : OpA)
  | hcancel (o : OpA)
  | hmovH (o : OpA)
  | hmovS (o : OpA)
  | hmovC (o : OpA)
  | hmovA (o : OpA)
  | qfence (o : OpA)
  | qbind (o : OpA)
  | qfree (o : OpA)
  | mmaBf16 (o : OpA)
  | mmaF16 (o : OpA)
  | mmaE4m3 (o : OpA)
  | mmaE5m2 (o : OpA)
  | mmaE3m2 (o : OpA)
  | mmaE2m3 (o : OpA)
  | mmaE2m1 (o : OpA)
  | mmaE4m3Qn4 (o : OpA)
  | mmaE2m1Qn4 (o : OpA)
  | mmasBf16 (o : OpA)
  | mmasF16 (o : OpA)
  | mmasE4m3 (o : OpA)
  | mmasE5m2 (o : OpA)
  | mmasE2m1 (o : OpA)
  | accld (o : OpA)
  | accst (o : OpA)
  | accz (o : OpA)
  | scacc (o : OpA)
  | subscribe (o : OpX2)
  | unsub (o : OpA)
  | subsync (o : OpA)
  | launch (o : OpA)
  | tready (o : OpA)
  | sysc (o : OpC)
  | sret (o : OpA)
  | hcall (o : OpC)
  | hret (o : OpA)
  | pread (o : OpB)
  | pwrite (o : OpB)
  | tlbi (o : OpA)
  | gridend (o : OpA)
  | ebreak (o : OpA)
  | illegal (o : OpA)
  | unimplementedOpcode (o : OpU)
  | spawn (r : SRef)
  | cohortFormation (b : BRef) (target : Nat)
  | issueSelect (core quad : Nat)
  | fetchFault (r : SRef)
  | loadReply (uid : Nat)
  | copyResolve (op units reads : Nat)
  | peerDelivery (op bit : Nat)
  | fillLineLanded (op : Nat)
  | teamInstructionBegin (core : Nat)
  | teamInstructionRetire (core : Nat)
  | hallPassIdleExpiry (core : Nat)
  | dispatchEntry (g : Nat)
  | placementMark (g : Nat)
  | save (b : BRef)
  | saveComplete (b : BRef)
  | restore (b : BRef)
  | deadlockRescue (g : Nat)
  | blockRetire (b : BRef)
  | gridRetire (g : Nat)
  | checkpoint (b : BRef)
  | uncorrectableError (e : Damage)
  | pageWalk (w : WalkReq)
  | leaseGrant (acc : Nat)
  | writeArrival (acc : Nat)
  | writePerform (acc : Nat)
  | revoke (core acc : Nat)
  | revokeAck (what : PowerUnit) (acc : Nat)
  | invalidation (domain acc : Nat)
  | l2ModeChange (part : Nat)
  | packetService (acc : Nat)
  | subscribeRequest (id : Nat)
  | updatePacket (id : Nat)
  | updateAck (id : Nat)
  | absentNotice (id : Nat)
  | presentNotice (id : Nat)
  | removalNotice (id : Nat)
  | coreGate (core : Nat)
  | bankGroupGate (domain : Nat)
  | wakeRequest (domain : Nat) (what : PowerUnit)
  | post (p : Port) (full : Bool) (record : List DWord)
  | pfence (p : Port)
  | pstat (p : Port) (ones : DWord)
  | hostRead (p : Port) (bar0 : Bool) (off len : Nat)
  | hostWrite (p : Port) (off : BarPlace) (bytes : List (Option Byte))
  | msemClaim (p : Port)
  | msemRelease (p : Port)
  | portLinkDown (p : Port)
  | registerWrite (p : Port) (off : Nat) (value : DWord)
  | readRecorder (p : Port) (domain : Nat)
  | attestationReport (p : Port)
  | unfreeze (p : Port)
  | identityPublicKey (p : Port)
  | fatalEvent (domain code : Nat)
  | edgeLinkDown (link : Nat)
  | inboundRequest (link addr len : Nat) (data : Option (List Byte))
  | cxlPortFailure (n : Nat)
  | classVCompletion (uid : Nat)
  | walkCompletion (id : Nat)
  | snapshotLanded (id : Nat)
  | noticeAcknowledgement (id : Nat)
  | restoreComplete (b : BRef)
  | gatingComplete (what : PowerUnit)
  | reset
  | blockPlacement
  | preemption
  | epochStart
  | afnarCommandDone
  | classLatencyEnd
  | recessStart
  | recessEnd
  | leaseExpiry
  | cohortPromotion
  | splitStarvation
  | yieldExpiry
  | inrushTokenRelease
  | chunkClose
  deriving DecidableEq, Repr

end Sys2Proof
end

