-- ==== Sys2Proof/Machine/Operands.lean ====
section
/-! DEFINITION. Operand codes and the field rules of every instruction: which codes are registers, which constants, which
fields must be zero (R17, R22-R26, R68, R69). `shape` says once, for every instruction, which registers it reads and
writes and whether its remaining fields are legal. -/

namespace Sys2Proof.Machine

/-- A register a result can go to. -/
inductive Reg where
  | vec (n : Nat)
  | uni (n : Nat)
  | prd (n : Nat)
  deriving DecidableEq, Repr

/-- An operand code (R22): a vector register, a uniform register, or a constant code 0xF0-0xFE. -/
inductive Opnd where
  | vec (n : Nat)
  | uni (n : Nat)
  | konst (code : Nat)
  deriving DecidableEq, Repr

/-- R22. 0xFF is no operand. -/
def opnd (c : BitVec 8) : Option Opnd :=
  let n := c.toNat
  if n < 0xC0 then some (.vec n)
  else if n < 0xF0 then some (.uni (n - 0xC0))
  else if n < 0xFF then some (.konst n)
  else none

/-- R23. The value of a constant code in a lane of a cohort of width `w`; 0xF1 is the lane index. -/
def konstWord (w lane code : Nat) : Word :=
  match code with
  | 0xF1 => BitVec.ofNat 32 lane
  | 0xF2 => 0x00000001#32
  | 0xF3 => 0xFFFFFFFF#32
  | 0xF4 => 0x3F800000#32
  | 0xF5 => 0x40000000#32
  | 0xF6 => 0x3F000000#32
  | 0xF7 => 0xBF800000#32
  | 0xF8 => 0x7F800000#32
  | 0xF9 => 0x7FC00000#32
  | 0xFA => 0x80000000#32
  | 0xFB => 0x7FFFFFFF#32
  | 0xFC => BitVec.ofNat 32 w
  | 0xFD => 0x40490FDB#32
  | 0xFE => 0x3F317218#32
  | _ => 0#32

/-- The constant codes that R25 admits in a 64-bit or 128-bit position. -/
def wideKonst (code : Nat) : Bool :=
  code == 0xF0 || code == 0xF1 || code == 0xF2 || code == 0xF3 || code == 0xFC

/-- R22, R25. Is `c` a legal source of `n` registers (1, 2, 4 or 8)? -/
def srcOk (c : BitVec 8) (n : Nat) : Bool :=
  match opnd c with
  | none => false
  | some (.vec k) => k % n == 0 && k + n ≤ 192
  | some (.uni k) => k % n == 0 && k + n ≤ 48
  | some (.konst k) => if n == 1 then true else if n ≤ 4 then wideKonst k else false

def isUni (c : BitVec 8) : Bool := match opnd c with | some (.uni _) => true | _ => false
def isVec (c : BitVec 8) : Bool := match opnd c with | some (.vec _) => true | _ => false
def isKonst (c : BitVec 8) : Bool := match opnd c with | some (.konst _) => true | _ => false

/-- Which register classes an instruction's description admits as its destination (R24, R69). -/
inductive DstKind where
  /-- a vector register, or 0xF0 -/
  | vecOnly
  /-- a uniform register too, when no source is a vector register (R69, R109) -/
  | uniIfUniform
  /-- a uniform register too, whatever the sources -/
  | uniAny
  /-- a uniform register and nothing else (R91) -/
  | uniOnly
  deriving DecidableEq, Repr

/-- R24, R25. Is `c` a legal destination of `n` registers? -/
def dstOk (c : BitVec 8) (n : Nat) (k : DstKind) : Bool :=
  match opnd c with
  | none => false
  | some (.vec r) => k != .uniOnly && r % n == 0 && r + n ≤ 192
  | some (.uni r) => k != .vecOnly && r % n == 0 && r + n ≤ 48
  | some (.konst code) => code == 0xF0 && k != .uniOnly

/-- The registers an operand code names, lowest first. -/
def regsOf (c : BitVec 8) (n : Nat) : List Reg :=
  match opnd c with
  | some (.vec k) => (List.range n).map fun i => Reg.vec (k + i)
  | some (.uni k) => (List.range n).map fun i => Reg.uni (k + i)
  | _ => []

/-- Latency classes (R31). -/
inductive Cls where
  | a
  | b
  | v
  deriving DecidableEq, Repr

/-- What an instruction's fields name. -/
structure Shape where
  /-- sources: operand code and number of registers -/
  srcs : List (BitVec 8 × Nat) := []
  /-- register destinations -/
  dsts : List (BitVec 8 × Nat × DstKind) := []
  /-- predicate sources besides the guard -/
  preds : List Nat := []
  /-- predicate destinations -/
  pdsts : List Nat := []
  /-- every other field rule of the instruction -/
  ok : Bool := true

/-- The field rules that need no machine state (R17, R22-R25, R68, R69). -/
def Shape.legal (s : Shape) : Bool :=
  s.ok && s.srcs.all (fun p => srcOk p.1 p.2) && s.dsts.all (fun p => dstOk p.1 p.2.1 p.2.2) &&
    (s.dsts.all fun p => !(isUni p.1 && p.2.2 == .uniIfUniform && s.srcs.any fun q => isVec q.1))

/-- Does the instruction write a register, a predicate included (R27, R33)? -/
def Shape.writes (s : Shape) : Bool :=
  s.dsts.any (fun p => !isKonst p.1) || s.pdsts.any (fun p => p != 7)

/-- Bits [hi:lo] of a field as a number. -/
def fld {n : Nat} (x : BitVec n) (hi lo : Nat) : Nat := (x.toNat >>> lo) % 2 ^ (hi + 1 - lo)

/-- Are bits [hi:lo] all zero? -/
def zf {n : Nat} (x : BitVec n) (hi lo : Nat) : Bool := fld x hi lo == 0

def pairIf (b : Bool) : Nat := if b then 2 else 1

namespace Shape

/-- A two-source arithmetic form under R70: `mask` lists the modifier bits the form uses. -/
def alu2 (o : OpA) (mask : Nat) : Shape :=
  let n := pairIf (o.m.getLsbD 0 && mask % 2 == 1)
  { srcs := [(o.a, n), (o.b, n)], dsts := [(o.d, n, .uniIfUniform)], ok := o.m.toNat &&& (255 - mask) == 0 }

/-- A one-source form: source 2 is zero; `dn` registers of result (0: as the source). -/
def alu1 (o : OpA) (mask dn : Nat) : Shape :=
  let n := pairIf (o.m.getLsbD 0 && mask % 2 == 1)
  { srcs := [(o.a, n)], dsts := [(o.d, if dn == 0 then n else dn, .uniIfUniform)],
    ok := o.m.toNat &&& (255 - mask) == 0 && o.b == 0 }

/-- Three 32-bit sources; the modifier byte is the fourth register. -/
def alu3 (o : OpA) : Shape :=
  { srcs := [(o.a, 1), (o.b, 1), (o.m, 1)], dsts := [(o.d, 1, .uniIfUniform)] }

/-- Format B with one source and an immediate. -/
def immB (o : OpB) : Shape := { srcs := [(o.a, 1)], dsts := [(o.d, 1, .uniIfUniform)] }

/-- R75. -/
def shift (o : OpA) : Shape :=
  let n := pairIf (o.m.getLsbD 0)
  let imm := o.m.getLsbD 1
  { srcs := (o.a, n) :: (if imm then [] else [(o.b, 1)]), dsts := [(o.d, n, .uniIfUniform)],
    ok := if imm then o.b == 0 && decide (fld o.m 7 2 < 32 * n) else zf o.m 7 2 }

/-- A floating-point form of R111 with the given number of sources; `mask` lists the fields it uses. -/
def fp (o : OpA) (n mask : Nat) : Shape :=
  { srcs := if n == 2 then [(o.a, 1), (o.b, 1)] else [(o.a, 1)], dsts := [(o.d, 1, .uniIfUniform)],
    ok := o.m.toNat &&& (255 - mask) == 0 && fld o.m 1 0 != 3 && (n == 2 || o.b == 0) }

/-- A packed form of R124 and R125. -/
def packed (o : OpA) (mask : Nat) : Shape :=
  { srcs := [(o.a, 1), (o.b, 1)], dsts := [(o.d, 1, .uniIfUniform)], ok := o.m.toNat &&& (255 - mask) == 0 }

/-- Every operand field zero. -/
def none (o : OpA) : Shape := { ok := o.d == 0 && o.a == 0 && o.b == 0 && o.m == 0 }

/-- A base register of R100: a vector or uniform register or pair, no constant. -/
def baseOk (c : BitVec 8) : Bool := !isKonst c

def load (o : OpM) (n base : Nat) (plain : Bool) : Shape :=
  { srcs := [(o.a, base)], dsts := [(o.d, n, .vecOnly)], ok := baseOk o.a && (plain || o.scope == 0) }

def loadS (o : OpM) (n : Nat) : Shape :=
  { load o n 1 true with ok := baseOk o.a && o.scope == 0 && o.hint == 0 }

def store (o : OpM) (n : Nat) : Shape := { srcs := [(o.a, 2), (o.d, n)], ok := baseOk o.a }

def storeS (o : OpM) (n : Nat) : Shape :=
  { srcs := [(o.a, 1), (o.d, n)], ok := baseOk o.a && o.scope == 0 && o.hint == 0 }

end Shape

/-- R198. Registers of an atomic's value: 1 for a 32-bit op, 2 for a 64-bit op. -/
def atomRegs (op : Nat) : Nat := if op == 0x1 || op == 0xA || op == 0xC then 2 else 1

/-- R196. Registers of operand b: CAS takes the compare value and the new value. -/
def atomSrcRegs (op : Nat) : Nat := if op == 0xB then 2 else if op == 0xC then 4 else atomRegs op

namespace Shape

def atom (o : OpA) (addr : Nat) : Shape :=
  let op := fld o.m 7 4
  { srcs := [(o.a, addr), (o.b, atomSrcRegs op)], dsts := [(o.d, atomRegs op, .vecOnly)],
    ok := addr == 2 || fld o.m 3 2 == 0 }

def red (o : OpA) (addr : Nat) : Shape :=
  let op := fld o.m 7 4
  { srcs := [(o.a, addr), (o.b, atomSrcRegs op)],
    ok := !(decide (9 ≤ op) && decide (op ≤ 12)) && fld o.m 1 0 != 1 && fld o.m 1 0 != 3 &&
      (if addr == 2 then zf o.d 7 1 && (o.d == 0 || op == 0xD) else o.d == 0 && fld o.m 3 2 == 0) }

/-- R217. The count word of COPY and FILL. -/
def countOk (w : DWord) : Bool :=
  fld w 63 48 == 0 && (fld w 47 40 == 0xF0 || (fld w 39 0 == 0 && srcOk (BitVec.ofNat 8 (fld w 47 40)) 2))

def countSrc (w : DWord) : List (BitVec 8 × Nat) :=
  if fld w 47 40 == 0xF0 then [] else [(BitVec.ofNat 8 (fld w 47 40), 2)]

/-- R48. The uniform registers that the markers of word 3 name. -/
def markerSrc (w3 : DWord) : List (BitVec 8 × Nat) :=
  ([0, 1, 2, 3].map fun i => fld w3 (39 + 8 * i) (32 + 8 * i)).filterMap fun b =>
    if b == 0 then Option.none else some (BitVec.ofNat 8 (0xC0 + b % 32), 1)

/-- R48. Marker bytes: no field code 0 with a register, no two of one code. -/
def markersOk (w3 : DWord) : Bool :=
  let bs := ([0, 1, 2, 3].map fun i => fld w3 (39 + 8 * i) (32 + 8 * i)).filter (· != 0)
  bs.all (fun b => b / 32 != 0) && decide ((bs.map (· / 32)).Nodup)

/-- Does a marker of the record replace the field that a code names (R48)? -/
def marked (w3 : DWord) (code : Nat) : Bool := [0, 1, 2, 3].any fun i => fld w3 (39 + 8 * i) (37 + 8 * i) == code

/-- R45, R47, R49: the fields of a shape record as they stand in the code, but for those that a marker replaces. -/
def recordOk (x : OpX4) : Bool :=
  let format := fld x.w0 55 51
  let four := format == 0x0B || format == 0x0C
  let nonzero (w : DWord) (n lo : Nat) : Bool := fld w (lo + n - 1) lo != 0
  decide (format ≤ 0x0E) &&
    (marked x.w3 3 || (nonzero x.w1 16 0 && nonzero x.w1 16 16 && !(four && fld x.w1 0 0 == 1))) &&
    (marked x.w3 4 || (nonzero x.w1 16 32 && nonzero x.w1 16 48)) &&
    (marked x.w3 7 || ((List.range 4).all (fun i => nonzero x.w3 8 (8 * i)) && !(four && fld x.w3 0 0 == 1)))

/-- A peer form that reads the scratchpad: its base lies there (R219), but for the parts that a marker replaces. -/
def baseInScratch (x : OpX4) : Bool := (marked x.w3 1 || fld x.w0 31 19 == 0) && (marked x.w3 2 || fld x.w0 50 32 == 0)

/-- R287. An MMA or MMAS with fragments of `ka` and `kb` registers. -/
def mma (o : OpA) (ka kb : Nat) (sparse : Bool) : Shape :=
  { srcs := (o.a, ka) :: (o.b, kb) :: (if sparse then [(o.m, 2)] else []),
    ok := zf o.d 7 5 && isVec o.a && isVec o.b && (if sparse then isUni o.m else zf o.m 7 1) }

end Shape

/-- Width in bits of a special register (R85), or `none` for an unassigned number. -/
def specialWidth (n : Nat) : Option Nat :=
  if n ≤ 0x007 then some 32
  else if n == 0x008 then some 64
  else if 0x010 ≤ n && n ≤ 0x01A then some 32
  else if 0x020 ≤ n && n ≤ 0x023 then some 32
  else if n == 0x030 || n == 0x031 then some 64
  else if n == 0x032 || n == 0x038 || n == 0x039 then some 32
  else if 0x040 ≤ n && n ≤ 0x047 then some 64
  else if 0x050 ≤ n && n ≤ 0x054 then some 32
  else none

/-- Width in bits of a privileged register (R356), or `none` for an unassigned number. -/
def privWidth (n : Nat) : Option Nat :=
  if n == 0x001 || n == 0x004 || n == 0x007 || n == 0x00B then some 32
  else if n ≤ 0x00C then some 64
  else if n == 0x010 || n == 0x012 then some 64
  else if n == 0x011 then some 32
  else if 0x020 ≤ n && n ≤ 0x02B then some 32
  else if n == 0x042 then some 32
  else if 0x040 ≤ n && n ≤ 0x044 then some 64
  else if n == 0x080 || n == 0x081 then some 64
  else if n == 0x082 then some 32
  else if 0x090 ≤ n && n ≤ 0x09D then some 64
  else if 0x0C1 ≤ n && n ≤ 0x0CF then some 64
  else none

/-- A register-destination read of a numbered register (SREAD, PREAD): R83, R353. -/
def Shape.readReg (o : OpB) (width : Option Nat) (perLane : Bool) : Shape :=
  let b64 := o.imm.getLsbD 12
  { dsts := [(o.d, pairIf b64, if perLane then .vecOnly else .uniAny)],
    ok := o.a == 0 && zf o.imm 15 13 && width.isSome && (!b64 || width == some 64) }

/-- R18, R68 and each instruction's own description: what its fields name and whether they are legal. -/
def shape : Instr → Shape
  | .mov o => Shape.alu1 o 1 0
  | .movi o => { dsts := [(o.d, 1, .uniIfUniform)] }
  | .movh o => Shape.immB o
  | .iadd o => Shape.alu2 o 7
  | .iaddImmediate o => Shape.immB o
  | .iadd3 o => Shape.alu3 o
  | .isub o => Shape.alu2 o 7
  | .imul o => Shape.alu2 o 1
  | .imulImmediate o => Shape.immB o
  | .imulh o => Shape.alu2 o 5
  | .imad o => Shape.alu3 o
  | .imadw o => { srcs := [(o.a, 1), (o.b, 1), (o.m, 2)], dsts := [(o.d, 2, .uniIfUniform)] }
  | .idiv o => Shape.alu2 o 5
  | .irem o => Shape.alu2 o 5
  | .imin o => Shape.alu2 o 5
  | .imax o => Shape.alu2 o 5
  | .iabs o => Shape.alu1 o 3 0
  | .ineg o => Shape.alu1 o 3 0
  | .and o => Shape.alu2 o 1
  | .andImmediate o => Shape.immB o
  | .or o => Shape.alu2 o 1
  | .orImmediate o => Shape.immB o
  | .xor o => Shape.alu2 o 1
  | .xorImmediate o => Shape.immB o
  | .andn o => Shape.alu2 o 1
  | .not o => Shape.alu1 o 1 0
  | .shl o => Shape.shift o
  | .shr o => Shape.shift o
  | .sar o => Shape.shift o
  | .rot o => Shape.shift o
  | .fshl o => Shape.alu3 o
  | .bfx o => { Shape.alu2 o 4 with srcs := [(o.a, 1), (o.b, 1)] }
  | .bfi o => Shape.alu3 o
  | .popc o => Shape.alu1 o 1 1
  | .clz o => Shape.alu1 o 1 1
  | .brev o => Shape.alu1 o 1 0
  | .sel o =>
    let n := pairIf (o.m.getLsbD 4)
    { srcs := [(o.a, n), (o.b, n)], dsts := [(o.d, n, .uniIfUniform)], preds := [fld o.m 2 0], ok := zf o.m 7 5 }
  | .isetp o =>
    let n := pairIf (o.d.getLsbD 3)
    { srcs := [(o.a, n), (o.b, n)], pdsts := [fld o.d 2 0, fld o.m 6 4],
      ok := decide (fld o.d 7 5 ≤ 5) && zf o.m 7 7 && zf o.m 3 0 }
  | .isetpImmediate o =>
    { srcs := [(o.a, pairIf (o.d.getLsbD 3))], pdsts := [fld o.d 2 0], ok := decide (fld o.d 7 5 ≤ 5) }
  | .plop o =>
    { preds := [fld o.a 2 0, fld o.a 6 4, fld o.b 2 0], pdsts := [fld o.d 2 0, fld o.d 6 4],
      ok := zf o.d 7 7 && zf o.d 3 3 && zf o.a 7 7 && zf o.a 3 3 && zf o.b 7 3 }
  | .lea o => { srcs := [(o.a, 2), (o.b, 1)], dsts := [(o.d, 2, .uniIfUniform)], ok := zf o.m 7 4 }
  | .nadd o =>
    { srcs := [(o.a, 1), (o.b, 1)], dsts := [(o.d, 1, .uniIfUniform)], pdsts := [fld o.m 2 0], ok := zf o.m 7 3 }
  | .fadd o => Shape.fp o 2 31
  | .fsub o => Shape.fp o 2 31
  | .fmul o => Shape.fp o 2 31
  | .ffma o => Shape.alu3 o
  | .fmin o => Shape.fp o 2 3
  | .fmax o => Shape.fp o 2 3
  | .fsetp o =>
    { srcs := [(o.a, 1), (o.b, 1)], pdsts := [fld o.d 2 0, fld o.m 2 0], ok := fld o.d 7 6 != 3 && zf o.m 7 3 }
  | .fclass o => Shape.fp o 1 3
  | .frnd o => Shape.fp o 1 15
  | .fexp o => Shape.fp o 1 3
  | .fldexp o => Shape.fp o 2 15
  | .frcp o => Shape.fp o 1 0
  | .frsq o => Shape.fp o 1 0
  | .fsqrt o => Shape.fp o 1 0
  | .ex2 o => Shape.fp o 1 0
  | .lg2 o => Shape.fp o 1 0
  | .sin o => Shape.fp o 1 0
  | .cos o => Shape.fp o 1 0
  | .f2i o =>
    { srcs := [(o.a, 1)], dsts := [(o.d, pairIf (o.m.getLsbD 3), .uniIfUniform)],
      ok := zf o.m 7 6 && fld o.m 1 0 != 3 && o.b == 0 }
  | .i2f o =>
    { srcs := [(o.a, pairIf (o.m.getLsbD 3))], dsts := [(o.d, 1, .uniIfUniform)],
      ok := zf o.m 7 6 && fld o.m 1 0 != 3 && o.b == 0 }
  | .f2f o =>
    let dst := fld o.m 3 2
    let src := fld o.m 1 0
    { srcs := [(o.a, 1)], dsts := [(o.d, 1, .uniIfUniform)],
      ok := zf o.m 7 6 && dst != 3 && src != 3 && o.b == 0 && (!(dst == src || dst == 0) || zf o.m 5 4) }
  | .cvtq o =>
    let fmt := fld o.m 2 0
    { srcs := [(o.a, 1), (o.b, 1), (o.d, 1)], dsts := [(o.d, 1, .uniIfUniform)],
      ok := zf o.m 7 5 && decide (fmt ≤ 5) && (decide (4 ≤ fmt) || decide (fld o.m 4 3 ≤ 1)) }
  | .cvtx o =>
    let dst := fld o.m 6 5
    let src := fld o.m 2 0
    let pos := fld o.m 4 3
    { srcs := [(o.a, 1)], dsts := [(o.d, pairIf (dst == 0), .uniIfUniform)],
      ok := o.b == 0 && zf o.m 7 7 && dst != 3 && !(dst == 1 && decide (6 ≤ src)) &&
        (if src == 7 then pos == 0 else if src == 4 || src == 5 then true else decide (pos ≤ 1)) }
  | .prmt o => Shape.alu3 o
  | .hadd2 o => Shape.packed o 1
  | .hmul2 o => Shape.packed o 1
  | .hfma2 o => { Shape.packed o 1 with srcs := [(o.a, 1), (o.b, 1), (o.d, 1)] }
  | .vadd2 o => Shape.packed o 3
  | .vsub2 o => Shape.packed o 3
  | .vmax2 o => Shape.packed o 1
  | .vmin2 o => Shape.packed o 1
  | .acs2 o =>
    { srcs := [(o.a, 1), (o.b, 1)], dsts := [(o.d, 1, .uniIfUniform), (o.m, 2, .uniOnly)] }
  | .sread o => Shape.readReg o (specialWidth (fld o.imm 11 0)) (decide (fld o.imm 11 0 ≤ 4) && fld o.imm 11 0 != 5)
  | .swrite o =>
    { srcs := [(o.a, 1)], ok := o.d == 0 && zf o.imm 15 12 && (fld o.imm 11 0 == 0x038 || fld o.imm 11 0 == 0x039) }
  | .shfl o =>
    let imm := o.m.getLsbD 2
    { srcs := (o.a, 1) :: (if imm then [] else [(o.b, 1)]), dsts := [(o.d, 1, .vecOnly)], pdsts := [fld o.m 6 4],
      ok := zf o.m 7 7 && (!imm || decide (o.b.toNat ≤ 63)) }
  | .vote o =>
    let mode := fld o.m 1 0
    { dsts := if mode ≤ 1 then [] else [(o.d, 1, .uniAny)], preds := [fld o.a 2 0],
      pdsts := if mode ≤ 1 then [fld o.d 2 0] else [],
      ok := zf o.m 7 2 && zf o.a 6 3 && o.b == 0 && (if mode ≤ 1 then zf o.d 7 3 else !isKonst o.d) }
  | .redx o =>
    { srcs := [(o.a, 1)], dsts := [(o.d, 1, .uniAny)], ok := zf o.m 7 4 && decide (fld o.m 3 0 ≤ 10) && o.b == 0 }
  | .umov o =>
    let sel := o.m.getLsbD 0
    { srcs := (o.a, 1) :: (if sel then [(o.b, 1)] else []), dsts := [(o.d, 1, .uniOnly)],
      ok := zf o.m 7 1 && (if sel then !isVec o.b else o.b == 0) }
  | .elect o => { pdsts := [fld o.d 2 0], ok := zf o.d 7 3 && o.a == 0 && o.b == 0 && o.m == 0 }
  | .ovclr o => { dsts := [(o.d, 1, .uniAny)], ok := o.a == 0 && o.b == 0 && o.m == 0 }
  | .bra _ => {}
  | .brp _ => {}
  | .bru _ => {}
  | .brx o => { srcs := [(o.a, 2)], ok := o.d == 0 && o.b == 0 && o.m == 0 && !isKonst o.a }
  | .call _ => { dsts := [(0, 2, .vecOnly)] }
  | .callx o => { srcs := [(o.a, 2)], dsts := [(o.d, 2, .vecOnly)], ok := o.b == 0 && o.m == 0 && !isKonst o.a && isVec o.d }
  | .ret o => { srcs := [(o.a, 2)], ok := o.d == 0 && o.b == 0 && o.m == 0 && !isKonst o.a }
  | .exit o => Shape.none o
  | .yield o => Shape.none o
  | .nop o => Shape.none o
  | .ldI8 o => Shape.load o 1 2 true
  | .ldN8 o => Shape.load o 1 2 true
  | .ldI16 o => Shape.load o 1 2 true
  | .ldN16 o => Shape.load o 1 2 true
  | .ldB32 o => Shape.load o 1 2 true
  | .ldB64 o => Shape.load o 2 2 true
  | .ldB128 o => Shape.load o 4 2 true
  | .stB8 o => Shape.store o 1
  | .stB16 o => Shape.store o 1
  | .stB32 o => Shape.store o 1
  | .stB64 o => Shape.store o 2
  | .stB128 o => Shape.store o 4
  | .ldsI8 o => Shape.loadS o 1
  | .ldsN8 o => Shape.loadS o 1
  | .ldsI16 o => Shape.loadS o 1
  | .ldsN16 o => Shape.loadS o 1
  | .ldsB32 o => Shape.loadS o 1
  | .ldsB64 o => Shape.loadS o 2
  | .ldsB128 o => Shape.loadS o 4
  | .stsB8 o => Shape.storeS o 1
  | .stsB16 o => Shape.storeS o 1
  | .stsB32 o => Shape.storeS o 1
  | .stsB64 o => Shape.storeS o 2
  | .stsB128 o => Shape.storeS o 4
  | .ldwB32 o => Shape.load o 1 2 false
  | .ldwB64 o => Shape.load o 2 2 false
  | .ldwB128 o => Shape.load o 4 2 false
  | .pref o => { srcs := [(o.a, 2)], ok := o.d == 0 && Shape.baseOk o.a }
  | .atomGlobal o => Shape.atom o 2
  | .atomScratchpad o => Shape.atom o 1
  | .atomCasB128 o =>
    { srcs := [(o.a, 2), (o.b, 8)], dsts := [(o.d, 4, .vecOnly)], ok := zf o.m 7 4 }
  | .redGlobal o => Shape.red o 2
  | .redScratchpad o => Shape.red o 1
  | .fence o => { ok := o.d == 0 && o.a == 0 && o.b == 0 && zf o.m 7 4 && fld o.m 1 0 != 3 }
  | .waitm o => { srcs := [(o.a, 2), (o.d, 1)], ok := o.hint != 3 }
  | .bar o => { srcs := [(o.a, 1)], ok := o.d == 0 && o.b == 0 && zf o.m 7 5 }
  | .barbInit o => { srcs := [(o.a, 1), (o.b, 1)], ok := o.d == 0 && o.m == 0 }
  | .barbArrive o => { srcs := [(o.a, 1), (o.b, 1)], ok := o.d == 0 && o.m == 0 }
  | .barbWait o => { srcs := [(o.a, 1), (o.b, 1)], ok := o.d == 0 && o.m == 0 }
  | .qpush o => { srcs := [(o.a, 1), (o.b, 2)], ok := o.d == 0 && o.m == 0 }
  | .qpop o => { srcs := [(o.a, 1)], dsts := [(o.d, 2, .vecOnly)], ok := o.b == 0 && o.m == 0 }
  | .qtry o =>
    { srcs := [(o.a, 1)], dsts := [(o.d, 2, .vecOnly)], pdsts := [fld o.m 2 0], ok := o.b == 0 && zf o.m 7 3 }
  | .ckpt o => Shape.none o
  | .copy x =>
    let o := x.op
    let space := fld o.m 1 0
    { srcs := (o.a, if space ≤ 1 then 2 else 1) :: (o.b, if space == 0 || space == 2 then 2 else 1) ::
        Shape.countSrc x.w0, ok := zf o.d 7 7 && Shape.countOk x.w0 }
  | .tcopy x =>
    { srcs := (x.op.a, 1) :: (x.op.b, 2) :: Shape.markerSrc x.w3, ok := zf x.op.m 1 0 && zf x.w0 63 57 && Shape.markersOk x.w3 && Shape.recordOk x }
  | .tcopyPeer x =>
    { srcs := (x.op.a, 2) :: (x.op.b, 2) :: Shape.markerSrc x.w3
      ok := zf x.op.m 1 0 && zf x.w0 63 57 && Shape.markersOk x.w3 && Shape.recordOk x && (!x.op.d.getLsbD 7 || Shape.baseInScratch x) }
  | .fill x =>
    { srcs := (x.op.a, 2) :: (x.op.b, 2) :: Shape.countSrc x.w0,
      ok := zf x.op.d 7 7 && zf x.op.m 1 0 && Shape.countOk x.w0 }
  | .htest o => { pdsts := [fld o.d 2 0], ok := zf o.d 7 3 && zf o.a 7 4 && o.b == 0 && o.m == 0 }
  | .hcancel o => { ok := o.d == 0 && zf o.a 7 4 && o.b == 0 && o.m == 0 }
  | .hmovH o => { ok := zf o.d 7 4 && zf o.a 7 4 && o.b == 0 && o.m == 0 }
  | .hmovS o => { dsts := [(o.d, 1, .uniAny)], ok := zf o.a 7 4 && o.b == 0 && o.m == 1 }
  | .hmovC o => { dsts := [(o.d, 2, .uniAny)], ok := zf o.a 7 4 && o.b == 0 && o.m == 2 }
  | .hmovA o => { dsts := [(o.d, 2, .uniAny)], ok := zf o.a 7 4 && o.b == 0 && o.m == 3 }
  | .qfence o => { ok := zf o.d 7 5 && o.a == 0 && o.b == 0 && o.m != 0 }
  | .qbind o => { ok := o.d == 0 && o.a == 0 && o.b == 0 && zf o.m 7 4 }
  | .qfree o => Shape.none o
  | .mmaBf16 o => Shape.mma o 4 2 false
  | .mmaF16 o => Shape.mma o 4 2 false
  | .mmaE4m3 o => Shape.mma o 4 2 false
  | .mmaE5m2 o => Shape.mma o 4 2 false
  | .mmaE3m2 o => Shape.mma o 4 2 false
  | .mmaE2m3 o => Shape.mma o 4 2 false
  | .mmaE2m1 o => Shape.mma o 4 2 false
  | .mmaE4m3Qn4 o => Shape.mma o 8 2 false
  | .mmaE2m1Qn4 o => Shape.mma o 4 2 false
  | .mmasBf16 o => Shape.mma o 4 4 true
  | .mmasF16 o => Shape.mma o 4 4 true
  | .mmasE4m3 o => Shape.mma o 4 4 true
  | .mmasE5m2 o => Shape.mma o 4 4 true
  | .mmasE2m1 o => Shape.mma o 4 4 true
  | .accld o => { srcs := [(o.a, 4)], ok := zf o.d 7 5 && isVec o.a && o.b == 0 && zf o.m 7 2 }
  | .accst o =>
    { dsts := [(o.d, 4, .vecOnly)], ok := isVec o.d && zf o.a 7 5 && o.b == 0 && zf o.m 7 2 }
  | .accz o => { ok := zf o.d 7 5 && o.a == 0 && o.b == 0 && o.m == 0 }
  | .scacc o =>
    let row := fld o.d 7 6
    let col := fld o.m 7 5
    { srcs := [(o.a, 1), (o.b, pairIf (col == 3))],
      ok := row != 3 && zf o.d 5 5 && decide (col ≤ 4) && (row != 2 || o.a == 0xF0) && (col != 4 || o.b == 0xF0) }
  | .subscribe x => { srcs := [(x.op.a, 1)], ok := zf x.op.d 7 4 && x.op.b == 0 && x.op.m == 0 }
  | .unsub o => { ok := o.d == 0 && o.a == 0 && o.b == 0 && zf o.m 7 4 }
  | .subsync o => Shape.none o
  | .launch o =>
    { srcs := [(o.a, 2), (o.b, 2)], dsts := [(o.d, 2, .vecOnly)], ok := zf o.m 7 5 && (o.m.getLsbD 4 || zf o.m 3 0) }
  | .tready o => { srcs := [(o.d, 2), (o.a, 2), (o.b, 1), (o.m, 1)] }
  | .sysc o => { ok := o.d == 0 && zf o.imm 23 16 }
  | .sret o => Shape.none o
  | .hcall o => { ok := o.d == 0 && zf o.imm 23 16 }
  | .hret o => Shape.none o
  | .pread o =>
    let n := fld o.imm 11 0
    Shape.readReg o (privWidth n) (decide (0x028 ≤ n) && decide (n ≤ 0x02B))
  | .pwrite o =>
    let n := fld o.imm 11 0
    let b64 := o.imm.getLsbD 12
    { srcs := [(o.a, pairIf b64)],
      ok := o.d == 0 && zf o.imm 15 13 && privWidth n == some (if b64 then 64 else 32) }
  | .tlbi o =>
    let kind := fld o.m 1 0
    { srcs := if kind == 0 then [(o.a, 2)] else if kind == 2 then [(o.b, 1)] else [],
      ok := o.d == 0 && zf o.m 7 2 && (kind == 0 || o.a == 0xF0) && (kind == 2 || o.b == 0xF0) }
  | .gridend o => { srcs := [(o.a, 1)], ok := o.d == 0 && o.b == 0 && o.m == 0 }
  | .ebreak o => Shape.none o
  | .illegal o => Shape.none o
  | _ => {}

/-- The common fields of an instruction word; `none` for a device event. -/
def hdr? : Instr → Option Hdr
  | .mov o => some o.h
  | .movi o => some o.h
  | .movh o => some o.h
  | .iadd o => some o.h
  | .iaddImmediate o => some o.h
  | .iadd3 o => some o.h
  | .isub o => some o.h
  | .imul o => some o.h
  | .imulImmediate o => some o.h
  | .imulh o => some o.h
  | .imad o => some o.h
  | .imadw o => some o.h
  | .idiv o => some o.h
  | .irem o => some o.h
  | .imin o => some o.h
  | .imax o => some o.h
  | .iabs o => some o.h
  | .ineg o => some o.h
  | .and o => some o.h
  | .andImmediate o => some o.h
  | .or o => some o.h
  | .orImmediate o => some o.h
  | .xor o => some o.h
  | .xorImmediate o => some o.h
  | .andn o => some o.h
  | .not o => some o.h
  | .shl o => some o.h
  | .shr o => some o.h
  | .sar o => some o.h
  | .rot o => some o.h
  | .fshl o => some o.h
  | .bfx o => some o.h
  | .bfi o => some o.h
  | .popc o => some o.h
  | .clz o => some o.h
  | .brev o => some o.h
  | .sel o => some o.h
  | .isetp o => some o.h
  | .isetpImmediate o => some o.h
  | .plop o => some o.h
  | .lea o => some o.h
  | .nadd o => some o.h
  | .fadd o => some o.h
  | .fsub o => some o.h
  | .fmul o => some o.h
  | .ffma o => some o.h
  | .fmin o => some o.h
  | .fmax o => some o.h
  | .fsetp o => some o.h
  | .fclass o => some o.h
  | .frnd o => some o.h
  | .fexp o => some o.h
  | .fldexp o => some o.h
  | .frcp o => some o.h
  | .frsq o => some o.h
  | .fsqrt o => some o.h
  | .ex2 o => some o.h
  | .lg2 o => some o.h
  | .sin o => some o.h
  | .cos o => some o.h
  | .f2i o => some o.h
  | .i2f o => some o.h
  | .f2f o => some o.h
  | .cvtq o => some o.h
  | .cvtx o => some o.h
  | .prmt o => some o.h
  | .hadd2 o => some o.h
  | .hmul2 o => some o.h
  | .hfma2 o => some o.h
  | .vadd2 o => some o.h
  | .vsub2 o => some o.h
  | .vmax2 o => some o.h
  | .vmin2 o => some o.h
  | .acs2 o => some o.h
  | .sread o => some o.h
  | .swrite o => some o.h
  | .shfl o => some o.h
  | .vote o => some o.h
  | .redx o => some o.h
  | .umov o => some o.h
  | .elect o => some o.h
  | .ovclr o => some o.h
  | .bra o => some o.h
  | .brp o => some o.h
  | .bru o => some o.h
  | .brx o => some o.h
  | .call o => some o.h
  | .callx o => some o.h
  | .ret o => some o.h
  | .exit o => some o.h
  | .yield o => some o.h
  | .nop o => some o.h
  | .ldI8 o => some o.h
  | .ldN8 o => some o.h
  | .ldI16 o => some o.h
  | .ldN16 o => some o.h
  | .ldB32 o => some o.h
  | .ldB64 o => some o.h
  | .ldB128 o => some o.h
  | .stB8 o => some o.h
  | .stB16 o => some o.h
  | .stB32 o => some o.h
  | .stB64 o => some o.h
  | .stB128 o => some o.h
  | .ldsI8 o => some o.h
  | .ldsN8 o => some o.h
  | .ldsI16 o => some o.h
  | .ldsN16 o => some o.h
  | .ldsB32 o => some o.h
  | .ldsB64 o => some o.h
  | .ldsB128 o => some o.h
  | .stsB8 o => some o.h
  | .stsB16 o => some o.h
  | .stsB32 o => some o.h
  | .stsB64 o => some o.h
  | .stsB128 o => some o.h
  | .ldwB32 o => some o.h
  | .ldwB64 o => some o.h
  | .ldwB128 o => some o.h
  | .pref o => some o.h
  | .atomGlobal o => some o.h
  | .atomScratchpad o => some o.h
  | .atomCasB128 o => some o.h
  | .redGlobal o => some o.h
  | .redScratchpad o => some o.h
  | .fence o => some o.h
  | .waitm o => some o.h
  | .bar o => some o.h
  | .barbInit o => some o.h
  | .barbArrive o => some o.h
  | .barbWait o => some o.h
  | .qpush o => some o.h
  | .qpop o => some o.h
  | .qtry o => some o.h
  | .ckpt o => some o.h
  | .copy x => some x.op.h
  | .tcopy x => some x.op.h
  | .tcopyPeer x => some x.op.h
  | .fill x => some x.op.h
  | .htest o => some o.h
  | .hcancel o => some o.h
  | .hmovH o => some o.h
  | .hmovS o => some o.h
  | .hmovC o => some o.h
  | .hmovA o => some o.h
  | .qfence o => some o.h
  | .qbind o => some o.h
  | .qfree o => some o.h
  | .mmaBf16 o => some o.h
  | .mmaF16 o => some o.h
  | .mmaE4m3 o => some o.h
  | .mmaE5m2 o => some o.h
  | .mmaE3m2 o => some o.h
  | .mmaE2m3 o => some o.h
  | .mmaE2m1 o => some o.h
  | .mmaE4m3Qn4 o => some o.h
  | .mmaE2m1Qn4 o => some o.h
  | .mmasBf16 o => some o.h
  | .mmasF16 o => some o.h
  | .mmasE4m3 o => some o.h
  | .mmasE5m2 o => some o.h
  | .mmasE2m1 o => some o.h
  | .accld o => some o.h
  | .accst o => some o.h
  | .accz o => some o.h
  | .scacc o => some o.h
  | .subscribe x => some x.op.h
  | .unsub o => some o.h
  | .subsync o => some o.h
  | .launch o => some o.h
  | .tready o => some o.h
  | .sysc o => some o.h
  | .sret o => some o.h
  | .hcall o => some o.h
  | .hret o => some o.h
  | .pread o => some o.h
  | .pwrite o => some o.h
  | .tlbi o => some o.h
  | .gridend o => some o.h
  | .ebreak o => some o.h
  | .illegal o => some o.h
  | .unimplementedOpcode o => some { o.h with set := 15 }
  | _ => none

/-- Latency class (R31, R53-R59). -/
def cls : Instr → Cls
  | .mov _ => .a
  | .movi _ => .a
  | .movh _ => .a
  | .iadd _ => .a
  | .iaddImmediate _ => .a
  | .iadd3 _ => .a
  | .isub _ => .a
  | .imin _ => .a
  | .imax _ => .a
  | .iabs _ => .a
  | .ineg _ => .a
  | .and _ => .a
  | .andImmediate _ => .a
  | .or _ => .a
  | .orImmediate _ => .a
  | .xor _ => .a
  | .xorImmediate _ => .a
  | .andn _ => .a
  | .not _ => .a
  | .shl _ => .a
  | .shr _ => .a
  | .sar _ => .a
  | .rot _ => .a
  | .fshl _ => .a
  | .bfx _ => .a
  | .bfi _ => .a
  | .popc _ => .a
  | .clz _ => .a
  | .brev _ => .a
  | .sel _ => .a
  | .isetp _ => .a
  | .isetpImmediate _ => .a
  | .plop _ => .a
  | .lea _ => .a
  | .nadd _ => .a
  | .prmt _ => .a
  | .nop _ => .a
  | .imul _ => .b
  | .imulImmediate _ => .b
  | .imulh _ => .b
  | .imad _ => .b
  | .imadw _ => .b
  | .fadd _ => .b
  | .fsub _ => .b
  | .fmul _ => .b
  | .ffma _ => .b
  | .fmin _ => .b
  | .fmax _ => .b
  | .fsetp _ => .b
  | .fclass _ => .b
  | .frnd _ => .b
  | .fexp _ => .b
  | .fldexp _ => .b
  | .f2i _ => .b
  | .i2f _ => .b
  | .f2f _ => .b
  | .cvtq _ => .b
  | .cvtx _ => .b
  | .hadd2 _ => .b
  | .hmul2 _ => .b
  | .hfma2 _ => .b
  | .vadd2 _ => .b
  | .vsub2 _ => .b
  | .vmax2 _ => .b
  | .vmin2 _ => .b
  | .acs2 _ => .b
  | _ => .v

/-- Inline words of an instruction (R21). -/
def inlineWords : Instr → Nat
  | .copy _ => 1
  | .fill _ => 1
  | .tcopy _ => 4
  | .tcopyPeer _ => 4
  | .subscribe _ => 2
  | _ => 0

end Sys2Proof.Machine
end

