-- ==== Sys2Proof/Decode.lean ====
section
/-! DEFINITION. Decoding and encoding of instruction words (R15-R21, R51-R59). Decoding is total: an unassigned, reserved or
emulation opcode is the instruction `unimplementedOpcode`; a header word at an instruction position (R40), an HMOV modifier
that names no form and missing inline words are rejected by name. -/

namespace Sys2Proof

/-- Why words decode to no instruction; each is illegal encoding, cause 0x05 (R40, R50, R21). -/
inductive DecodeError where
  /-- opcode 0x1FF at an instruction position (R40) -/
  | header
  /-- an HMOV whose modifier names none of its forms -/
  | modifier
  /-- fewer inline words than the opcode fixes (R21) -/
  | truncated
  /-- no word at all -/
  | empty
  deriving DecidableEq, Repr

/-- The opcode field (R15). -/
def opcodeField (w : DWord) : BitVec 9 := w.extractLsb' 55 9

/-- The dependence and guard fields (R15). -/
def hdrField (w : DWord) : Hdr :=
  ⟨w.extractLsb' 52 3, w.extractLsb' 40 12, w.extractLsb' 36 4, w.extractLsb' 32 4⟩

/-- The operand fields of each format (R18, R19, R20). -/
def opAField (w : DWord) : OpA :=
  ⟨hdrField w, w.extractLsb' 24 8, w.extractLsb' 16 8, w.extractLsb' 8 8, w.extractLsb' 0 8⟩
def opBField (w : DWord) : OpB := ⟨hdrField w, w.extractLsb' 24 8, w.extractLsb' 16 8, w.extractLsb' 0 16⟩
def opCField (w : DWord) : OpC := ⟨hdrField w, w.extractLsb' 24 8, w.extractLsb' 0 24⟩
def opJField (w : DWord) : OpJ := ⟨hdrField w, w.extractLsb' 0 32⟩
def opMField (w : DWord) : OpM :=
  ⟨hdrField w, w.extractLsb' 24 8, w.extractLsb' 16 8, w.extractLsb' 4 12, w.extractLsb' 2 2, w.extractLsb' 0 2⟩
def opUField (w : DWord) : OpU := ⟨hdrField w, opcodeField w, w.extractLsb' 0 32⟩

/-! The opcode map (R53-R59), by format. -/

/-- Format A, but for HMOV. -/
def opcodesA0 : List (Nat × (OpA → Instr)) :=
  [(0x000, Instr.mov), (0x003, Instr.iadd), (0x005, Instr.iadd3), (0x006, Instr.isub), (0x007, Instr.imul), (0x009, Instr.imulh), (0x00A, Instr.imad), (0x00B, Instr.imadw), (0x00C, Instr.idiv), (0x00D, Instr.irem), (0x00E, Instr.imin), (0x00F, Instr.imax), (0x010, Instr.iabs), (0x011, Instr.ineg), (0x012, Instr.and), (0x014, Instr.or)]
def opcodesA1 : List (Nat × (OpA → Instr)) :=
  [(0x016, Instr.xor), (0x018, Instr.andn), (0x019, Instr.not), (0x01A, Instr.shl), (0x01B, Instr.shr), (0x01C, Instr.sar), (0x01D, Instr.rot), (0x01E, Instr.fshl), (0x01F, Instr.bfx), (0x020, Instr.bfi), (0x021, Instr.popc), (0x022, Instr.clz), (0x023, Instr.brev), (0x024, Instr.sel), (0x025, Instr.isetp), (0x027, Instr.plop)]
def opcodesA2 : List (Nat × (OpA → Instr)) :=
  [(0x028, Instr.lea), (0x029, Instr.nadd), (0x040, Instr.fadd), (0x041, Instr.fsub), (0x042, Instr.fmul), (0x043, Instr.ffma), (0x044, Instr.fmin), (0x045, Instr.fmax), (0x046, Instr.fsetp), (0x047, Instr.fclass), (0x048, Instr.frnd), (0x049, Instr.fexp), (0x04A, Instr.fldexp), (0x04B, Instr.frcp), (0x04C, Instr.frsq), (0x04D, Instr.fsqrt)]
def opcodesA3 : List (Nat × (OpA → Instr)) :=
  [(0x04E, Instr.ex2), (0x04F, Instr.lg2), (0x050, Instr.sin), (0x051, Instr.cos), (0x052, Instr.f2i), (0x053, Instr.i2f), (0x054, Instr.f2f), (0x058, Instr.cvtq), (0x059, Instr.cvtx), (0x05A, Instr.prmt), (0x080, Instr.hadd2), (0x081, Instr.hmul2), (0x082, Instr.hfma2), (0x083, Instr.vadd2), (0x084, Instr.vsub2), (0x085, Instr.vmax2)]
def opcodesA4 : List (Nat × (OpA → Instr)) :=
  [(0x086, Instr.vmin2), (0x087, Instr.acs2), (0x0A2, Instr.shfl), (0x0A3, Instr.vote), (0x0A4, Instr.redx), (0x0A5, Instr.umov), (0x0A6, Instr.elect), (0x0A7, Instr.ovclr), (0x0C3, Instr.brx), (0x0C5, Instr.callx), (0x0C6, Instr.ret), (0x0C7, Instr.exit), (0x0C8, Instr.yield), (0x0C9, Instr.nop), (0x128, Instr.atomGlobal), (0x129, Instr.atomScratchpad)]
def opcodesA5 : List (Nat × (OpA → Instr)) :=
  [(0x12A, Instr.atomCasB128), (0x12C, Instr.redGlobal), (0x12D, Instr.redScratchpad), (0x130, Instr.fence), (0x140, Instr.bar), (0x141, Instr.barbInit), (0x142, Instr.barbArrive), (0x143, Instr.barbWait), (0x144, Instr.qpush), (0x145, Instr.qpop), (0x146, Instr.qtry), (0x147, Instr.ckpt), (0x164, Instr.htest), (0x165, Instr.hcancel), (0x167, Instr.qfence), (0x180, Instr.qbind)]
def opcodesA6 : List (Nat × (OpA → Instr)) :=
  [(0x181, Instr.qfree), (0x182, Instr.mmaBf16), (0x183, Instr.mmaF16), (0x184, Instr.mmaE4m3), (0x185, Instr.mmaE5m2), (0x186, Instr.mmaE3m2), (0x187, Instr.mmaE2m3), (0x188, Instr.mmaE2m1), (0x189, Instr.mmaE4m3Qn4), (0x18A, Instr.mmaE2m1Qn4), (0x190, Instr.mmasBf16), (0x191, Instr.mmasF16), (0x192, Instr.mmasE4m3), (0x193, Instr.mmasE5m2), (0x194, Instr.mmasE2m1), (0x198, Instr.accld)]
def opcodesA7 : List (Nat × (OpA → Instr)) :=
  [(0x199, Instr.accst), (0x19A, Instr.accz), (0x19B, Instr.scacc), (0x1A1, Instr.unsub), (0x1A2, Instr.subsync), (0x1A3, Instr.launch), (0x1A4, Instr.tready), (0x1B1, Instr.sret), (0x1B3, Instr.hret), (0x1B6, Instr.tlbi), (0x1B7, Instr.gridend), (0x1B8, Instr.ebreak), (0x1B9, Instr.illegal)]
def opcodesA : List (Nat × (OpA → Instr)) :=
  List.flatten [opcodesA0, opcodesA1, opcodesA2, opcodesA3, opcodesA4, opcodesA5, opcodesA6, opcodesA7]

/-- Format B. -/
def opcodesB : List (Nat × (OpB → Instr)) :=
  [(0x002, Instr.movh), (0x004, Instr.iaddImmediate), (0x008, Instr.imulImmediate), (0x013, Instr.andImmediate), (0x015, Instr.orImmediate), (0x017, Instr.xorImmediate), (0x026, Instr.isetpImmediate), (0x0A0, Instr.sread), (0x0A1, Instr.swrite), (0x1B4, Instr.pread), (0x1B5, Instr.pwrite)]

/-- Format C. -/
def opcodesC : List (Nat × (OpC → Instr)) :=
  [(0x001, Instr.movi), (0x1B0, Instr.sysc), (0x1B2, Instr.hcall)]

/-- Format J. -/
def opcodesJ : List (Nat × (OpJ → Instr)) :=
  [(0x0C0, Instr.bra), (0x0C1, Instr.brp), (0x0C2, Instr.bru), (0x0C4, Instr.call)]

/-- Format M. -/
def opcodesM0 : List (Nat × (OpM → Instr)) :=
  [(0x100, Instr.ldI8), (0x101, Instr.ldN8), (0x102, Instr.ldI16), (0x103, Instr.ldN16), (0x104, Instr.ldB32), (0x105, Instr.ldB64), (0x106, Instr.ldB128), (0x108, Instr.stB8), (0x109, Instr.stB16), (0x10A, Instr.stB32), (0x10B, Instr.stB64), (0x10C, Instr.stB128), (0x110, Instr.ldsI8), (0x111, Instr.ldsN8), (0x112, Instr.ldsI16), (0x113, Instr.ldsN16)]
def opcodesM1 : List (Nat × (OpM → Instr)) :=
  [(0x114, Instr.ldsB32), (0x115, Instr.ldsB64), (0x116, Instr.ldsB128), (0x118, Instr.stsB8), (0x119, Instr.stsB16), (0x11A, Instr.stsB32), (0x11B, Instr.stsB64), (0x11C, Instr.stsB128), (0x120, Instr.ldwB32), (0x121, Instr.ldwB64), (0x122, Instr.ldwB128), (0x124, Instr.pref), (0x131, Instr.waitm)]
def opcodesM : List (Nat × (OpM → Instr)) :=
  List.flatten [opcodesM0, opcodesM1]

/-- HMOV (0x166): its modifier names the form. -/
def hmovForm (o : OpA) : Option Instr :=
  if o.m = 0 then some (.hmovH o)
  else if o.m = 1 then some (.hmovS o)
  else if o.m = 2 then some (.hmovC o)
  else if o.m = 3 then some (.hmovA o)
  else none

/-- Inline words that follow an opcode (R21). -/
def inlineCount (op : Nat) : Nat :=
  if op = 0x160 ∨ op = 0x163 then 1 else if op = 0x161 ∨ op = 0x162 then 4 else if op = 0x1A0 then 2 else 0

/-- The format X instructions (R57, R58): the first word and the words after it. -/
def decodeX (op : Nat) (w : DWord) (ws : List DWord) : Except DecodeError (Instr × List DWord) :=
  if op = 0x160 then
    match ws with
    | w0 :: r => .ok (.copy ⟨opAField w, w0⟩, r)
    | _ => .error .truncated
  else if op = 0x163 then
    match ws with
    | w0 :: r => .ok (.fill ⟨opAField w, w0⟩, r)
    | _ => .error .truncated
  else if op = 0x161 then
    match ws with
    | w0 :: w1 :: w2 :: w3 :: r => .ok (.tcopy ⟨opAField w, w0, w1, w2, w3⟩, r)
    | _ => .error .truncated
  else if op = 0x162 then
    match ws with
    | w0 :: w1 :: w2 :: w3 :: r => .ok (.tcopyPeer ⟨opAField w, w0, w1, w2, w3⟩, r)
    | _ => .error .truncated
  else
    match ws with
    | w0 :: w1 :: r => .ok (.subscribe ⟨opAField w, w0, w1⟩, r)
    | _ => .error .truncated

/-- Decode the words at an instruction position: the instruction and the words after it. -/
def decode : List DWord → Except DecodeError (Instr × List DWord)
  | [] => .error .empty
  | w :: ws =>
    let op := (opcodeField w).toNat
    if op = 0x1FF then .error .header
    else if op = 0x166 then
      match hmovForm (opAField w) with
      | some i => .ok (i, ws)
      | none => .error .modifier
    else if inlineCount op ≠ 0 then decodeX op w ws
    else
      match opcodesA.lookup op with
      | some f => .ok (f (opAField w), ws)
      | none =>
        match opcodesM.lookup op with
        | some f => .ok (f (opMField w), ws)
        | none =>
          match opcodesB.lookup op with
          | some f => .ok (f (opBField w), ws)
          | none =>
            match opcodesJ.lookup op with
            | some f => .ok (f (opJField w), ws)
            | none =>
              match opcodesC.lookup op with
              | some f => .ok (f (opCField w), ws)
              | none => .ok (.unimplementedOpcode (opUField w), ws)

/-- Is the opcode one that R53-R59 assign? -/
def assigned (op : Nat) : Bool :=
  (opcodesA.lookup op).isSome || (opcodesB.lookup op).isSome || (opcodesC.lookup op).isSome ||
    (opcodesJ.lookup op).isSome || (opcodesM.lookup op).isSome || op == 0x166 || inlineCount op != 0

/-! Encoding, from the same tables. -/

/-- R15. -/
def packWord (op : BitVec 9) (h : Hdr) (low : BitVec 32) : DWord :=
  op ++ h.gap ++ h.wait ++ h.set ++ h.guard ++ low

def packA (op : Nat) (o : OpA) : DWord := packWord (BitVec.ofNat 9 op) o.h (o.d ++ o.a ++ o.b ++ o.m)
def packB (op : Nat) (o : OpB) : DWord := packWord (BitVec.ofNat 9 op) o.h (o.d ++ o.a ++ o.imm)
def packC (op : Nat) (o : OpC) : DWord := packWord (BitVec.ofNat 9 op) o.h (o.d ++ o.imm)
def packJ (op : Nat) (o : OpJ) : DWord := packWord (BitVec.ofNat 9 op) o.h o.off
def packM (op : Nat) (o : OpM) : DWord :=
  packWord (BitVec.ofNat 9 op) o.h (o.d ++ o.a ++ o.off ++ o.scope ++ o.hint)

/-- The words of an instruction; none for a device event, which no code holds. -/
def encode : Instr → List DWord
  | .mov o => [packA 0x000 o]
  | .movi o => [packC 0x001 o]
  | .movh o => [packB 0x002 o]
  | .iadd o => [packA 0x003 o]
  | .iaddImmediate o => [packB 0x004 o]
  | .iadd3 o => [packA 0x005 o]
  | .isub o => [packA 0x006 o]
  | .imul o => [packA 0x007 o]
  | .imulImmediate o => [packB 0x008 o]
  | .imulh o => [packA 0x009 o]
  | .imad o => [packA 0x00A o]
  | .imadw o => [packA 0x00B o]
  | .idiv o => [packA 0x00C o]
  | .irem o => [packA 0x00D o]
  | .imin o => [packA 0x00E o]
  | .imax o => [packA 0x00F o]
  | .iabs o => [packA 0x010 o]
  | .ineg o => [packA 0x011 o]
  | .and o => [packA 0x012 o]
  | .andImmediate o => [packB 0x013 o]
  | .or o => [packA 0x014 o]
  | .orImmediate o => [packB 0x015 o]
  | .xor o => [packA 0x016 o]
  | .xorImmediate o => [packB 0x017 o]
  | .andn o => [packA 0x018 o]
  | .not o => [packA 0x019 o]
  | .shl o => [packA 0x01A o]
  | .shr o => [packA 0x01B o]
  | .sar o => [packA 0x01C o]
  | .rot o => [packA 0x01D o]
  | .fshl o => [packA 0x01E o]
  | .bfx o => [packA 0x01F o]
  | .bfi o => [packA 0x020 o]
  | .popc o => [packA 0x021 o]
  | .clz o => [packA 0x022 o]
  | .brev o => [packA 0x023 o]
  | .sel o => [packA 0x024 o]
  | .isetp o => [packA 0x025 o]
  | .isetpImmediate o => [packB 0x026 o]
  | .plop o => [packA 0x027 o]
  | .lea o => [packA 0x028 o]
  | .nadd o => [packA 0x029 o]
  | .fadd o => [packA 0x040 o]
  | .fsub o => [packA 0x041 o]
  | .fmul o => [packA 0x042 o]
  | .ffma o => [packA 0x043 o]
  | .fmin o => [packA 0x044 o]
  | .fmax o => [packA 0x045 o]
  | .fsetp o => [packA 0x046 o]
  | .fclass o => [packA 0x047 o]
  | .frnd o => [packA 0x048 o]
  | .fexp o => [packA 0x049 o]
  | .fldexp o => [packA 0x04A o]
  | .frcp o => [packA 0x04B o]
  | .frsq o => [packA 0x04C o]
  | .fsqrt o => [packA 0x04D o]
  | .ex2 o => [packA 0x04E o]
  | .lg2 o => [packA 0x04F o]
  | .sin o => [packA 0x050 o]
  | .cos o => [packA 0x051 o]
  | .f2i o => [packA 0x052 o]
  | .i2f o => [packA 0x053 o]
  | .f2f o => [packA 0x054 o]
  | .cvtq o => [packA 0x058 o]
  | .cvtx o => [packA 0x059 o]
  | .prmt o => [packA 0x05A o]
  | .hadd2 o => [packA 0x080 o]
  | .hmul2 o => [packA 0x081 o]
  | .hfma2 o => [packA 0x082 o]
  | .vadd2 o => [packA 0x083 o]
  | .vsub2 o => [packA 0x084 o]
  | .vmax2 o => [packA 0x085 o]
  | .vmin2 o => [packA 0x086 o]
  | .acs2 o => [packA 0x087 o]
  | .sread o => [packB 0x0A0 o]
  | .swrite o => [packB 0x0A1 o]
  | .shfl o => [packA 0x0A2 o]
  | .vote o => [packA 0x0A3 o]
  | .redx o => [packA 0x0A4 o]
  | .umov o => [packA 0x0A5 o]
  | .elect o => [packA 0x0A6 o]
  | .ovclr o => [packA 0x0A7 o]
  | .bra o => [packJ 0x0C0 o]
  | .brp o => [packJ 0x0C1 o]
  | .bru o => [packJ 0x0C2 o]
  | .brx o => [packA 0x0C3 o]
  | .call o => [packJ 0x0C4 o]
  | .callx o => [packA 0x0C5 o]
  | .ret o => [packA 0x0C6 o]
  | .exit o => [packA 0x0C7 o]
  | .yield o => [packA 0x0C8 o]
  | .nop o => [packA 0x0C9 o]
  | .ldI8 o => [packM 0x100 o]
  | .ldN8 o => [packM 0x101 o]
  | .ldI16 o => [packM 0x102 o]
  | .ldN16 o => [packM 0x103 o]
  | .ldB32 o => [packM 0x104 o]
  | .ldB64 o => [packM 0x105 o]
  | .ldB128 o => [packM 0x106 o]
  | .stB8 o => [packM 0x108 o]
  | .stB16 o => [packM 0x109 o]
  | .stB32 o => [packM 0x10A o]
  | .stB64 o => [packM 0x10B o]
  | .stB128 o => [packM 0x10C o]
  | .ldsI8 o => [packM 0x110 o]
  | .ldsN8 o => [packM 0x111 o]
  | .ldsI16 o => [packM 0x112 o]
  | .ldsN16 o => [packM 0x113 o]
  | .ldsB32 o => [packM 0x114 o]
  | .ldsB64 o => [packM 0x115 o]
  | .ldsB128 o => [packM 0x116 o]
  | .stsB8 o => [packM 0x118 o]
  | .stsB16 o => [packM 0x119 o]
  | .stsB32 o => [packM 0x11A o]
  | .stsB64 o => [packM 0x11B o]
  | .stsB128 o => [packM 0x11C o]
  | .ldwB32 o => [packM 0x120 o]
  | .ldwB64 o => [packM 0x121 o]
  | .ldwB128 o => [packM 0x122 o]
  | .pref o => [packM 0x124 o]
  | .atomGlobal o => [packA 0x128 o]
  | .atomScratchpad o => [packA 0x129 o]
  | .atomCasB128 o => [packA 0x12A o]
  | .redGlobal o => [packA 0x12C o]
  | .redScratchpad o => [packA 0x12D o]
  | .fence o => [packA 0x130 o]
  | .waitm o => [packM 0x131 o]
  | .bar o => [packA 0x140 o]
  | .barbInit o => [packA 0x141 o]
  | .barbArrive o => [packA 0x142 o]
  | .barbWait o => [packA 0x143 o]
  | .qpush o => [packA 0x144 o]
  | .qpop o => [packA 0x145 o]
  | .qtry o => [packA 0x146 o]
  | .ckpt o => [packA 0x147 o]
  | .copy x => [packA 0x160 x.op, x.w0]
  | .tcopy x => [packA 0x161 x.op, x.w0, x.w1, x.w2, x.w3]
  | .tcopyPeer x => [packA 0x162 x.op, x.w0, x.w1, x.w2, x.w3]
  | .fill x => [packA 0x163 x.op, x.w0]
  | .htest o => [packA 0x164 o]
  | .hcancel o => [packA 0x165 o]
  | .hmovH o => [packA 0x166 o]
  | .hmovS o => [packA 0x166 o]
  | .hmovC o => [packA 0x166 o]
  | .hmovA o => [packA 0x166 o]
  | .qfence o => [packA 0x167 o]
  | .qbind o => [packA 0x180 o]
  | .qfree o => [packA 0x181 o]
  | .mmaBf16 o => [packA 0x182 o]
  | .mmaF16 o => [packA 0x183 o]
  | .mmaE4m3 o => [packA 0x184 o]
  | .mmaE5m2 o => [packA 0x185 o]
  | .mmaE3m2 o => [packA 0x186 o]
  | .mmaE2m3 o => [packA 0x187 o]
  | .mmaE2m1 o => [packA 0x188 o]
  | .mmaE4m3Qn4 o => [packA 0x189 o]
  | .mmaE2m1Qn4 o => [packA 0x18A o]
  | .mmasBf16 o => [packA 0x190 o]
  | .mmasF16 o => [packA 0x191 o]
  | .mmasE4m3 o => [packA 0x192 o]
  | .mmasE5m2 o => [packA 0x193 o]
  | .mmasE2m1 o => [packA 0x194 o]
  | .accld o => [packA 0x198 o]
  | .accst o => [packA 0x199 o]
  | .accz o => [packA 0x19A o]
  | .scacc o => [packA 0x19B o]
  | .subscribe x => [packA 0x1A0 x.op, x.w0, x.w1]
  | .unsub o => [packA 0x1A1 o]
  | .subsync o => [packA 0x1A2 o]
  | .launch o => [packA 0x1A3 o]
  | .tready o => [packA 0x1A4 o]
  | .sysc o => [packC 0x1B0 o]
  | .sret o => [packA 0x1B1 o]
  | .hcall o => [packC 0x1B2 o]
  | .hret o => [packA 0x1B3 o]
  | .pread o => [packB 0x1B4 o]
  | .pwrite o => [packB 0x1B5 o]
  | .tlbi o => [packA 0x1B6 o]
  | .gridend o => [packA 0x1B7 o]
  | .ebreak o => [packA 0x1B8 o]
  | .illegal o => [packA 0x1B9 o]
  | .unimplementedOpcode o => [packWord o.op o.h o.low]
  | _ => []

/-- Word `k` of an instruction whose bits are `w`, the first word lowest. -/
def wordAt (w k : Nat) : DWord := BitVec.ofNat 64 (w >>> (64 * k))

/-- The instruction that `decode` reads from bits numbered from the first word up; bits above `nbits` are zero. -/
def decodeTableWord (nbits w : Nat) : Option Instr :=
  let v := w % 2 ^ nbits
  match decode [wordAt v 0, wordAt v 1, wordAt v 2, wordAt v 3, wordAt v 4] with
  | .ok (i, _) => some i
  | .error _ => none

end Sys2Proof
end

