-- ==== Sys2Proof/Config.lean ====
section
/-! DEFINITION. Free values: what the spec leaves open, as constants without a body. Each is applied to a plain counter of the
state or to the operands it depends on, so nothing can be proved of what it gives. -/

namespace Sys2Proof.Config

/-- Which of several events that may come next does (log 1). -/
opaque choose : Nat → Nat

/-- A byte read from another module (log 8). -/
opaque remoteByte : Nat → Byte

/-- Is a sector read from another module poisoned (R417; log 8)? -/
opaque remotePoisoned : Nat → Bool

/-- Does a link or the other module refuse or fail an access of a window (log 8)? -/
opaque remoteRefuses : Nat → Bool

/-- Byte i of the SHA3-512 digest of firmware slot k (log 7). -/
opaque firmwareDigest : Nat → Nat → Byte

/-- Byte i of the SHA3-512 digest of defect map copy k (log 7). -/
opaque mapDigest : Nat → Nat → Byte

/-- Byte i of the ML-DSA-87 signature over a report, drawn at n (log 7). -/
opaque signature : Nat → Nat → Byte

/-- Byte i of the ML-DSA-87 public key of the device identity (log 7). -/
opaque identityKey : Nat → Byte

/-- Imward's certificate of that key, whose length is its own (R423; log 7). -/
opaque certificate : List Byte

/-- Virtual addresses that the registrar gives to save images and spawn areas (log 11). -/
opaque registrarAddress : Nat → DWord

/-- Bytes of a poisoned completion, which carry no meaning (R409). -/
opaque poisonByte : Nat → Byte

end Sys2Proof.Config
end

