-- ==== Sys2Proof/Machine/State.lean ====
section
/-! DEFINITION. The state of the module as plain data: everything the spec gives the machine, and State.reset. A field that is
the model's own and not the spec's says so. -/

namespace Sys2Proof.Machine

/-- R370. -/
inductive Mode where
  | user
  | supervisor
  | hypervisor
  deriving DecidableEq, Repr

/-- A trap frame (R349, R357): the frame registers of the map of R356. -/
structure Frame where
  pc : DWord := 0
  cause : Word := 0
  inst0 : DWord := 0
  inst1 : DWord := 0
  len : Word := 0
  addr : DWord := 0
  lanes : Mask := 0
  prev : Word := 0
  reconv : DWord := 0
  join : Mask := 0
  gpa : DWord := 0
  hdr : DWord := 0
  /-- the mode that the entry entered (R350) -/
  entered : Mode := .supervisor
  deriving DecidableEq, Repr

/-- Why a split is held (R179, R193). -/
inductive HoldKind where
  /-- BAR or CKPT (barrier 16) until phase number `phase` of the barrier is over (R207) -/
  | bar (id phase : Nat)
  /-- an arrival that waits for one of the core's 32 barrier records (R430): barrier, count operand, .SUB -/
  | barRecord (id count : Nat) (sub : Bool)
  /-- BARB.WAIT: lane, object offset, phase bit of the lanes still waiting (R211) -/
  | barb (left : List (Nat × Nat × Bool))
  /-- QPUSH or QPOP: lane, header offset, value of the lanes not completed (R213) -/
  | queue (left : List (Nat × Nat × DWord))
  /-- WAITM: lane, virtual address, physical address, comparand of the lanes still waiting (R206) -/
  | waitm (cond : Nat) (left : List (Nat × DWord × Nat × Word))
  /-- a read of an unresolved handle (R222) -/
  | handle (n : Nat)
  /-- SUBSYNC until every packet of these cores numbered below the bound is acknowledged (R337) -/
  | subsync (cores : List Nat) (bound : Nat)
  /-- the broadcast latch, until the team instruction begins (R314) -/
  | latch
  /-- a matrix instruction of another split until the cohort's latch entry empties (R314) -/
  | latchFull
  /-- TLBI until its flag falls (R360) -/
  | tlbi
  /-- PWRITE until the write has taken effect everywhere (R354) -/
  | pwrite
  /-- an access whose fetch is suspended until these walks have ended (R373, R235) -/
  | walk (left : List WalkReq)
  /-- the same, until these lines of code have been fetched (R375) -/
  | code (left : List Nat)
  deriving DecidableEq, Repr

/-- A hold: its kind, the instruction's number, its executing lanes and the cycle it began. -/
structure Hold where
  kind : HoldKind
  uid : Nat
  lanes : Mask
  since : Nat
  deriving DecidableEq, Repr

/-- An entry of the split table (R182). -/
structure Split where
  id : Nat
  pc : DWord := 0
  lanes : Mask := 0
  mode : Mode := .user
  reconv : DWord := 0
  header : DWord := 0
  join : Mask := 0
  /-- the cycle in which it parked (R186) -/
  parked : Option Nat := none
  frames : List Frame := []
  /-- the supervisor and hypervisor banks of k0-k7 (R355): bank * 8 + i -/
  kbank : Sparse Word := []
  /-- accumulated issue distance (R28) -/
  dist : Nat := 0
  /-- cycle of the latest issue -/
  last : Nat := 0
  /-- address after the block's last word, from its header (R40) -/
  blkEnd : DWord := 0
  /-- the block's reconvergence header, from its header (R41, R184) -/
  blkReconv : DWord := 0
  /-- PC holds a header that the split has still to enter (R39) -/
  entering : Bool := false
  /-- it has merged at that header (R185), or, `false`, been formed at it (R191): its reconv comes from the header -/
  joined : Option Bool := none
  hold : Option Hold := none
  /-- chosen to spawn (R187, R188): it issues nothing more, and its records save all registers, or those below the live mark -/
  spawn : Option Bool := none
  /-- YIELD (R99): not chosen before this cycle, or before these cohorts have had an issue slot -/
  yieldUntil : Option Nat := none
  yieldFor : List Nat := []
  /-- choices of the cohort since the split last issued while ready (R180) -/
  passed : Nat := 0
  starved : Bool := false
  /-- its next instruction forced the checkpoint that has just been published, and may now take effect (R398) -/
  forced : Bool := false
  deriving DecidableEq, Repr

/-- A handle (R215, R222). -/
inductive Handle where
  | empty
  | pending (op : Nat)
  | resolved (code : Nat) (cancelled : Bool) (count : Nat) (addr : DWord)
  deriving DecidableEq, Repr

/-- A register result not yet visible to every reader (R32-R36). -/
structure Pend where
  /-- number of the producing instruction; a greater one is later -/
  uid : Nat
  reg : Reg
  /-- the lanes in whose program order the result stands -/
  lanes : Mask
  /-- by lane, or under key 0 for a uniform register -/
  vals : Sparse Word
  /-- the bits of a uniform register that the result writes: all but for the decisions of ACS2 (R126) -/
  bits : Word
  /-- class A and B: the issue distance from which it is visible; none for class V -/
  due : Option Nat
  /-- class V: the flag to wait for -/
  flag : Nat
  /-- written: a uniform result that another split may read (R36) -/
  landed : Bool
  /-- of a uniform result: the lanes of the split that produced it, of which `lanes` keeps those that do not see it yet -/
  origin : Mask := 0
  /-- of a uniform result: the order in which it was written; a greater one is later -/
  wrote : Nat := 0
  /-- class V: lanes of the splits that have waited on its flag since it issued (R35) -/
  waited : Mask := 0
  deriving DecidableEq, Repr

/-- Accesses that later accesses of these lanes wait for (R205, R201). -/
structure Order where
  lanes : Mask
  /-- before later stores, atomics and copy issues -/
  rel : List Nat
  /-- before every later access -/
  acq : List Nat
  deriving DecidableEq, Repr

/-- The broadcast-latch entry of a member (R314). -/
structure Latch where
  op : Nat
  z : Bool
  tile : Nat
  /-- A fragment and B quarter registers: register index * 64 + lane -/
  a : Sparse Word
  b : Sparse Word
  /-- the 16 metadata rows of an MMAS -/
  rows : List Nat
  exec : Mask
  split : Nat
  uid : Nat
  n : Nat
  deriving DecidableEq, Repr

/-- A cohort (R161, R182, R392). -/
structure Cohort where
  id : Nat
  core : Nat := 0
  slot : Nat := 0
  quad : Nat := 0
  age : Nat := 0
  /-- lanes that hold a thread -/
  threads : Mask := 0
  tids : Sparse Nat := []
  /-- register * 64 + lane -/
  vregs : Sparse Word := []
  sregs : Sparse Word := []
  /-- predicate registers p0-p6 as masks -/
  preds : Sparse Mask := []
  flags : Sparse Nat := []
  ovf : Word := 0
  handles : Sparse Handle := []
  splits : List Split := []
  /-- (bank * 4 + i) * 64 + lane -/
  xregs : Sparse Word := []
  /-- tile * 512 + 32 * row + column -/
  tiles : Sparse Word := []
  team : Option Nat := none
  latch : Option Latch := none
  /-- a QFREE that waits for the cohort's begun instructions to retire (R285) -/
  freeing : Option Nat := none
  reformed : Bool := false
  /-- the block's reserve cohort (R164) -/
  reserve : Bool := false
  pend : List Pend := []
  orders : List Order := []
  /-- cycle from which it has been ready without being chosen (R180) -/
  readySince : Option Nat := none
  promoted : Bool := false
  deriving DecidableEq, Repr

/-- A block barrier (R207). `phase` counts completed phases; the architectural phase bit is its parity. -/
structure Barrier where
  phase : Nat := 0
  fixed : Option Nat := none
  arrived : Nat := 0
  /-- .SUB: packets numbered below this must be acknowledged (R337) -/
  subBound : Option Nat := none
  deriving DecidableEq, Repr

/-- A quad team of a block (R284-R286, R318). -/
structure Team where
  /-- quadrant to cohort id -/
  members : Sparse Nat := []
  core : Nat := 0
  count : Nat := 0
  /-- cycle in which the waiting instruction was assembled (R317) -/
  assembled : Option Nat := none
  /-- QBIND instructions whose flag waits for completeness -/
  binding : List Nat := []
  deriving DecidableEq, Repr

/-- A subscriber record (R332). -/
structure SubRec where
  pub : Nat := 0
  localoff : Nat := 0
  expect : Nat := 0
  /-- 0 none, 1 pending, 2 standing -/
  state : Nat := 0
  length : Nat := 0
  /-- UNSUB instructions that wait for a pending record to resolve (R301) -/
  unsubs : List Nat := []
  /-- MODEL: number of the SUBSCRIBE that set it up -/
  id : Nat := 0
  deriving DecidableEq, Repr

/-- An entry of a subscription table (R331) with its open chunk (R335). -/
structure SubEntry where
  id : Nat
  pub : BRef
  puboff : Nat
  length : Nat
  sub : BRef
  localoff : Nat
  image : DWord := 0
  /-- packets go to the image: MODEL, where `image` stands in the record -/
  toImage : Bool := false
  seq : Nat := 0
  outstanding : Nat := 0
  n : Nat := 0
  /-- 0 free, 1 snapshot in progress, 2 standing, 3 retargeting -/
  state : Nat := 1
  /-- chunk number, bytes by offset in the chunk, cycle it opened -/
  chunk : Option (Nat × Sparse Byte × Nat) := none
  /-- removed by UNSUB (R301): no write is forwarded any more; the UNSUB instructions that wait for it -/
  ended : Bool := false
  waiters : List Nat := []
  deriving DecidableEq, Repr

/-- A receive-log entry (R400). -/
structure LogEntry where
  off : Nat
  mask : Nat
  bar : Nat
  counted : Nat
  bytes : List Byte
  deriving DecidableEq, Repr

/-- A spawn record (R188). -/
structure SpawnRec where
  tid : Nat
  target : DWord
  /-- a target that is no header to enter (R394): header and reconv of the spawned split -/
  midBlock : Option (DWord × DWord)
  preds : List Bool
  /-- register to value, of the first `saved` registers -/
  regs : Sparse Word
  saved : Nat := 0
  /-- cycle of arrival at the former -/
  arrival : Nat
  /-- the core whose former keeps it, and its offset in the context's spawn area where it lies there and not in the core's buffer (R189) -/
  core : Nat := 0
  place : Option Nat := none
  deriving DecidableEq, Repr

/-- How an issued instruction ends. -/
inductive Finish where
  /-- class A and B, and an instruction no lane executes: at this cycle (R29, R16) -/
  | latency (due : Nat)
  /-- a narrowing conversion: at this cycle, with its saturations to count (R127) -/
  | narrow (due : Nat) (ovf : Nat)
  /-- class V: at completion -/
  | complete
  /-- a load or atomic: destination code, registers, extension, when every reply has come -/
  | reply (dst : BitVec 8) (n : Nat) (size : Nat) (signed : Bool) (word : DWord) (pc : DWord)
  /-- a store or reduction, when every access is performed -/
  | performed (word : DWord) (pc : DWord) (red : Bool)
  /-- a store of a scope wider than block that stands in draft lines: at the checkpoint that publishes them (R105, R263) -/
  | drafted
  /-- the same, sealed to a checkpoint whose publication is under way -/
  | sealed
  /-- a fence, when these accesses are performed -/
  | fence (accs : List Nat)
  /-- a TLBI, when these accesses are performed, these copies have left the pages that begin at these virtual addresses, and these walks
  have ended (R360) -/
  | shootdown (accs : List Nat) (copies : List (Nat × Nat)) (walks : List Nat)
  /-- a PWRITE of a register that a grid, a partition or a core holds, when it takes effect: number, value, and whether a hypervisor
  split writes (R354) -/
  | priv (n : Nat) (v : DWord) (hyper : Bool)
  /-- at an event of its own -/
  | event
  deriving DecidableEq, Repr

/-- An instruction that has issued and not finished (R29). -/
structure Issued where
  uid : Nat
  c : CRef
  split : Nat
  lanes : Mask
  flag : Option Nat
  fin : Finish
  deriving DecidableEq, Repr

/-- Where a block stands. -/
inductive BlockState where
  | resident
  /-- a save has been requested; the block issues nothing (R388, R390) -/
  | saving
  | saved
  | restoring
  /-- stops for a checkpoint (R398); `forcing` names the split whose instruction forces it -/
  | checkpointing
  deriving DecidableEq, Repr

/-- A packet on its way (R252-R254): its plane, wafer time [23:0] at its injection and the tick itself, the injecting router, its place
among the packets injected, and the routers from where it stands to where it goes. -/
structure Trip where
  plane : Nat := 0
  ts : Nat
  tick : Nat
  src : Nat × Nat
  seq : Nat
  way : List (Nat × Nat)
  deriving DecidableEq, Repr

/-- A miss-status entry (R246), carried by the loads that share it: its number, the cycle of its first request, whether a later load may
join it, and its service point: 0 for L1, or one more than the domain of the L2 bank. -/
structure Miss where
  id : Nat
  since : Nat
  opened : Bool := true
  point : Nat
  deriving DecidableEq, Repr

/-- What an access does when it is performed (R263). -/
inductive AccOp where
  | load
  | store
  /-- an aggregated group of an atomic (R200): operation code, 16-byte CAS, RED, .SR, and each lane's operand -/
  | atomic (op : Nat) (wide red sr : Bool) (lanes : List (Nat × Nat))
  /-- a flag of the tile-ready array that begins at this physical address, or none where its header does not translate (R306): a
  store that the registrar watches -/
  | tready (array : Option Nat)
  /-- a write of a control port, which belongs to no block (R259, R273) -/
  | host (p : Port)
  /-- a publishing write of the block's sealed drafts (R398 step 4): it completes whatever becomes of the block -/
  | publish (b : BRef)
  /-- the write of a copy or FILL to a line: the home bank keeps the line for it until the copy has written it (R240) -/
  | claim (copy : Nat)
  /-- the read of source bytes of a copy, from the number in `lane` on, which lie in one line (R249) -/
  | fetch (copy : Nat)
  /-- the fetch of a line of code (R375) -/
  | code
  /-- the read of a table line by a walk (R235) -/
  | walk (id : Nat)
  /-- a write of the registrar: a save image, a checkpoint, a spawn record or a team's frame, with the block it is for (R390, R398, R189) -/
  | reg (owner : Option BRef)
  /-- a directory entry that makes room for another: its visitor copies are invalidated, and it writes nothing (R242) -/
  | evict
  /-- a write of another module, by edge link (R417) -/
  | edge (link : Nat)
  /-- a write of Afnar (R422) -/
  | afnar
  /-- a grid's status word (R170) -/
  | status (grid : Nat)
  /-- the first read of a lane's word by a WAITM that holds its split (R206) -/
  | watch
  /-- a reading of the tile-ready array for a grid, at the flags of its next block (R177) -/
  | tiles (grid : Nat)
  /-- the request of a PREF, for L1 or for L2, with the lease length and the partition of its grid (R107) -/
  | pref (l1 : Bool) (llen part : Nat)
  deriving DecidableEq, Repr

/-- What the bank of a domain resolves for a write: the home bank its leases (R240), a visitor bank those of its copy, which it then drops
and acknowledges (R242). -/
structure BankWait where
  domain : Nat
  /-- the write, or the invalidation, has reached the bank -/
  arrived : Bool := false
  /-- the latest expiry of its leases on the line, and whether it revokes them -/
  till : Nat := 0
  revoking : Bool := false
  /-- cores whose revoke is under way, and cores whose acknowledgement is, with their packets (R241) -/
  revokes : List (Nat × Trip) := []
  acks : List (Nat × Trip) := []
  /-- of a visitor bank: the packet of the invalidation, and after that of its acknowledgement -/
  trip : Option Trip := none
  /-- the copy is dropped, and the acknowledgement under way -/
  dropped : Bool := false
  deriving DecidableEq, Repr

/-- How far an access has come. -/
inductive Stage where
  | issued
  /-- at the home bank since this tick, with what the home bank and, after it, the visitor banks still resolve (R240, R242) -/
  | waiting (since : Nat) (home : BankWait) (visitors : List BankWait)
  /-- a load whose value is fixed; poison marks (R374) -/
  | fixed (bytes : List Byte) (poison : Bool)
  deriving DecidableEq, Repr

/-- An access in flight. -/
structure Access where
  id : Nat
  /-- the instruction it belongs to -/
  uid : Nat
  c : CRef
  core : Nat
  lane : Nat
  op : AccOp
  scratch : Bool
  va : DWord
  /-- physical address, or scratchpad offset -/
  pa : Nat
  size : Nat
  scope : Nat
  bytes : List Byte := []
  after : List Nat := []
  draft : Bool := false
  /-- of a store: the instruction's lanes overwrite the whole 64-byte sector (R250); of a load: an LDW (R106) -/
  covers : Bool := false
  /-- allocation hint (R19) -/
  hint : Nat := 0
  /-- the PTB and HPTB tags under which its address was translated (R360) -/
  tags : Nat × Nat := (0, 0)
  /-- its request, and once its value is fixed the reply -/
  trip : Option Trip := none
  miss : Option Miss := none
  /-- a load that found every miss-status entry of its core in use (R246) -/
  queued : Bool := false
  stage : Stage := .issued
  deriving DecidableEq, Repr

/-- A block (R161, R183, R391). -/
structure Block where
  ref : BRef
  core : Nat := 0
  /-- the right core of a pair block (R163) -/
  core2 : Option Nat := none
  st : BlockState := .resident
  cohorts : List Cohort := []
  /-- by offset; a pair block's right half from 524288 -/
  scratch : Sparse Byte := []
  wptr : Sparse Nat := []
  barriers : Sparse Barrier := []
  teams : Sparse Team := []
  recs : Sparse SubRec := []
  /-- the publisher entries that a saved block's image holds (R344) -/
  entries : List SubEntry := []
  /-- records in the former, the spawn buffer or the spawn area (R189) -/
  former : List SpawnRec := []
  exited : Nat := 0
  reserveQuad : Option (Nat × Nat) := none
  ckSlot : Nat := 0
  seq : Nat := 0
  lastCk : Nat := 0
  log : List LogEntry := []
  /-- draft bytes and draft update counts by physical address and sector (R397) -/
  drafts : Sparse (Option Byte) := []
  draftCounts : Sparse (Option Nat) := []
  /-- the checkpoint's cause: the split that forces it, or none for CKPT and save -/
  forcer : Option SRef := none
  /-- a forcing instruction has issued and the second commit is due -/
  exposed : Bool := false
  /-- the checkpoint is committed, and its sealed drafts are being written at their home banks (R398 step 4) -/
  publishing : Bool := false
  /-- tick of the latest entry into the waiting state (R194); of a saved block, since when it is pending (R173) -/
  waitSince : Option Nat := none
  /-- virtual address of the save image -/
  image : DWord := 0
  /-- roll back on restore (R402); the kind of the state that was damaged (R428) -/
  rollback : Bool := false
  damaged : Nat := 0
  /-- the save has captured its image, whose writes are under way (R390 step 6) -/
  captured : Bool := false
  saveOrder : Nat := 0
  /-- saved by the deadlock rescue (R194, R195) -/
  rescued : Bool := false
  /-- the checkpoint before the save (R390 step 2), or after the last exit (R396), is committed -/
  settledCk : Bool := false
  /-- the save has sent its notices (R390 step 4) -/
  saveBegun : Bool := false
  /-- of a committed checkpoint: the instructions under way in holds, and the number from which later work counts -/
  held : List Issued := []
  mark : Nat := 0
  /-- of a committed checkpoint: draft writes of these instructions that had found no draft way (R396) -/
  wayless : List Access := []
  nextCohort : Nat := 0
  deriving DecidableEq, Repr

/-- The registers held per grid (R356, R168). -/
structure GridRegs where
  xvec : DWord := 0
  xdeleg : Word := 0
  ptb : DWord := 0
  llen : DWord := 1024
  ckint : Word := 0
  ckptr : DWord := 0
  sparea : DWord := 0
  seed : Word := 0
  deriving DecidableEq, Repr

/-- Who posted a launch (R167). -/
inductive Poster where
  | port (p : Port)
  | grid (g : Nat)
  deriving DecidableEq, Repr

/-- Where a grid stands (R166, R170). -/
inductive GridState where
  /-- accepted, not yet in dispatch -/
  | queued
  /-- in dispatch, its producer grid not yet retired (R176), or the banks not ready for the look-up of its weights (R169) -/
  | awaiting
  | running
  /-- no block will start or issue again; status decided -/
  | ended
  /-- its status word is on its way to a home bank that does not take it at once (R170, R240) -/
  | closing
  | retired
  deriving DecidableEq, Repr

/-- An ending of a grid that a block raises (R429): tick, block, slot and lane; the status; and of a fault of a member's MMA or
MMAS, the team's number and the member's quadrant (R320). -/
structure Ending where
  key : Nat × Nat × Nat × Nat
  status : Nat
  team : Option (Nat × Nat) := none
  deriving DecidableEq, Repr

/-- A core marked for a pending block (R173), the left core of a pair; `kept` by a rescue: nothing else is placed there (R194). -/
structure Mark where
  core : Nat
  block : Nat
  kept : Bool := false
  deriving DecidableEq, Repr

/-- A grid (R161, R165-R170). -/
structure Grid where
  id : Nat
  poster : Poster := .port .a
  /-- the eight words of the launch record -/
  record : List DWord := []
  st : GridState := .queued
  status : Nat := 0
  /-- wafer time, block, slot and lane that decided the status (R429) -/
  endedBy : Option (Nat × Nat × Nat × Nat) := none
  /-- endings raised in this cycle: the blocks stop at their next issue slots, so other splits that issue in it may raise more (R361) -/
  endings : List Ending := []
  age : Nat := 0
  depth : Nat := 1
  parent : Option Nat := none
  part : Nat := 0
  regs : GridRegs := {}
  /-- the kernel descriptor word and the entry header (R43, R38), as they were read at the launch's checks (R166) -/
  desc : DWord := 0
  header : DWord := 0
  next : Nat := 0
  retiredBlocks : Nat := 0
  /-- domain of the task queue that placed a child (R178), or of the named address -/
  target : Option Nat := none
  /-- handle that follows the launch (R305): the operation number -/
  handleOp : Option Nat := none
  /-- the failure found at acceptance, before dispatch (R166 step 2) -/
  early : Option Nat := none
  /-- number of the task queue of the target domain that a child was posted to (R178) -/
  queue : Nat := 0
  /-- what the checks have read, once (log 91): the ranges of the weight manifest (R169), and the producer that a tile-ready array names
  (R177) -/
  ranges : List (Nat × Nat) := []
  producer : Option Nat := none
  /-- the flags of the next block were all nonzero when the registrar last read them (R177) -/
  tiles : Bool := false
  /-- the cycle in which XDELEG or XVEC last changed, and their values before that cycle: traps of the same cycle go by them (R358, R382) -/
  vecWas : Option (Nat × Word × DWord) := none
  /-- since when the grid's undispatched blocks are pending (R173) -/
  waitFrom : Option Nat := none
  mark : Option Mark := none
  stuckSince : Option Nat := none
  deriving DecidableEq, Repr

/-- The registers held per partition (R356). -/
structure Part where
  hptb : DWord := 0
  hvec : DWord := 0
  /-- the cycle in which HVEC last changed, and its value before that cycle (R382) -/
  hvecWas : Option (Nat × DWord) := none
  l2mode : Bool := false
  l2req : Option Bool := none
  scap : Nat := 8
  /-- by number from 0x090 on: ISMnLO at 2n - 2, ISMnHI at 2n - 1 -/
  ism : Sparse DWord := []
  deriving DecidableEq, Repr

/-- A TLB entry (R235): a complete translation of one leaf page. -/
structure TlbEntry where
  tag : Nat
  htag : Nat
  vbase : Nat
  size : Nat
  /-- size of the first stage's leaf page, which TLBI.VA names (R359) -/
  leaf : Nat
  pa : Nat
  iset : Nat
  ws : Bool
  perms : Nat
  /-- the domains of the interleave set as they were when the page was walked (R237) -/
  ds : List Nat := []
  /-- with the second stage on, the guest physical address of `vbase` (R386) -/
  gbase : Nat := 0
  deriving DecidableEq, Repr

/-- A line of an L1 (R231, R239): the 64-byte sectors it holds, each with its lease's expiry, or none for an LDW, and the allocation
hint of R19. An L1 lists its lines from the least recently brought to the latest. -/
structure L1Line where
  line : Nat
  sectors : List (Nat × Option Nat)
  hint : Nat := 0
  deriving DecidableEq, Repr

/-- A line of an L2 bank (R231, R244): a home line, which may be dirty, or a visitor copy. Values lie in State.mem alone, since a copy
never differs from what its home bank has performed. A bank lists its lines from the least recently used to the latest. -/
structure L2Line where
  line : Nat
  dirty : Bool := false
  hint : Nat := 0
  deriving DecidableEq, Repr

/-- The arbiter of a core's arrays (R286, R317). -/
structure Arbiter where
  holder : Option (BRef × Nat) := none
  tenure : Nat := 0
  lastBegin : Nat := 0
  lastCost : Nat := 0
  lastRetire : Nat := 0
  /-- the team has just received the pass, and something began before that on the core -/
  handed : Bool := false
  deriving DecidableEq, Repr

/-- Power state of a gated unit (R258, R425, R426). -/
inductive Power where
  | on
  | gating (due : Nat)
  | gated
  | waking
  deriving DecidableEq, Repr

/-- A core; one not listed in State.cores is in the default state. -/
structure Core where
  tlb : List TlbEntry := []
  l1 : List L1Line := []
  /-- the lines of code that the instruction cache holds, from the least recently brought to the latest (R6, R404) -/
  code : List Nat := []
  subs : List SubEntry := []
  routes : Sparse DWord := []
  power : Power := .on
  /-- cycle of the latest power-up (%clock, R85) -/
  up : Nat := 0
  idleSince : Option Nat := none
  /-- by quadrant: the cycle from which the vector unit is free, and the latest cycle in which a cohort was chosen -/
  busy : Sparse Nat := []
  chose : Sparse Nat := []
  /-- retired columns and raised grades by quadrant (R321, R322) -/
  columns : Sparse Nat := []
  arb : Arbiter := {}
  deriving DecidableEq, Repr

/-- A run of a copy's bytes, in destination order: first destination byte, first source byte or none for zeros, length. Addresses
are virtual addresses on a global side and scratchpad offsets on the other. -/
structure Run where
  dst : Nat
  src : Option Nat
  n : Nat
  deriving DecidableEq, Repr

/-- A receiver of a peer copy (R219): mask bit, core name, block, bytes delivered, and how it failed. -/
structure Dest where
  bit : Nat
  name : Nat
  block : Option BRef
  done : Nat := 0
  code : Option Nat := none
  /-- the packet under way to it -/
  trip : Option Trip := none
  deriving DecidableEq, Repr

/-- What a copy-queue operation moves (R215-R223). -/
inductive Moves where
  | runs (toGlob fromGlob fill s9 : Bool) (rs : List Run)
  | peer (fromGlob s9 : Bool) (rs : List Run) (bar : Nat) (dests : List Dest)
  | fence (mask : Nat)
  deriving DecidableEq, Repr

/-- An operation of a copy queue. -/
structure CopyOp where
  id : Nat
  b : BRef
  c : Nat
  core : Nat
  queue : Nat
  scope : Nat
  route : Nat
  moves : Moves
  /-- of a peer copy: the box's size in bytes, with the elements outside the extents (R219) -/
  box : Nat := 0
  /-- bytes delivered, a prefix in destination order; of a peer copy, to every receiver that has not failed -/
  done : Nat := 0
  mode : Mode := .user
  /-- where source and destination lie on one side: destination bytes written, by address, as they stood before (R221) -/
  olds : Sparse (Option Byte) := []
  /-- source bytes that it has read and not delivered, by their number in destination order, of a peer copy for all receivers; lines that
  met no recess are read before those that did (R249, R262, R263) -/
  ahead : Sparse (Option Byte) := []
  /-- source bytes whose read has failed, with the code (R221) -/
  bad : Sparse Nat := []
  /-- the source page and the destination page that it has begun: their translations serve until it leaves them (R360) -/
  pages : Option TlbEntry × Option TlbEntry := (none, none)
  deriving DecidableEq, Repr

/-- An update packet (R336). -/
structure Packet where
  id : Nat
  core : Nat
  entry : Nat
  sub : BRef
  n : Nat
  seq : Nat
  chunk : Nat
  bytes : Sparse Byte
  /-- at its subscriber's core while the block is being loaded there, and held (R343) -/
  arrived : Bool := false
  /-- applied, its acknowledgement under way -/
  applied : Bool := false
  deriving DecidableEq, Repr

/-- A SUBSCRIBE under way, or a snapshot (R299, R300). -/
structure SubReq where
  id : Nat
  sub : BRef
  c : Nat
  uid : Nat
  name : Nat
  puboff : Nat
  localoff : Nat
  length : Nat
  n : Nat
  /-- the entry and the snapshot bytes, once taken -/
  entry : Option (Nat × Nat) := none
  bytes : Sparse Byte := []
  deriving DecidableEq, Repr

/-- Notices between blocks (R340). -/
inductive NoticeKind where
  | absent
  | present
  /-- to the publisher: the subscriber retires (R339) -/
  | removal
  /-- to the subscriber: the publisher retires (R339) -/
  | removed
  /-- to the publisher: UNSUB instruction (R301) -/
  | unsub (uid : Nat)
  deriving DecidableEq, Repr

structure Notice where
  id : Nat
  kind : NoticeKind
  sub : BRef
  pub : BRef
  n : Nat
  image : DWord := 0
  /-- MODEL: the SUBSCRIBE whose subscription it concerns -/
  rid : Nat := 0
  /-- PRESENT: packets from this number on are held (R343) -/
  mark : Option Nat := none
  /-- acted on; the acknowledgement is under way -/
  acted : Bool := false
  deriving DecidableEq, Repr

/-- A walk in progress (R235). -/
structure Walk where
  id : Nat
  req : WalkReq
  /-- taken up by the walker; one of at most 64 of its domain -/
  started : Bool := false
  /-- ended without a translation: the access it was for raises the fault when it looks -/
  failed : Bool := false
  /-- a TLBI removes its result (R360) -/
  drop : Bool := false
  /-- the first-stage base in force when it began (R358) -/
  ptb : DWord := 0
  /-- table entries that it has read -/
  done : Nat := 0
  /-- a miss to the leaf page of another walk, which it shares (R235) -/
  lead : Option Nat := none
  deriving DecidableEq, Repr

/-- A begun team instruction (R315). -/
structure Begun where
  core : Nat
  b : BRef
  team : Nat
  due : Nat
  members : List (Nat × Nat × Latch)
  deriving DecidableEq, Repr

/-- A recorder entry (R428). -/
structure RecEntry where
  time : Nat
  type : Nat
  fatal : Bool
  domain : Nat
  core : Nat
  payload : Nat
  deriving DecidableEq, Repr

/-- What a domain holds of its own (R426, R427). -/
structure Domain where
  ring : List RecEntry := []
  events : Nat := 0
  banks : Power := .on
  banksIdle : Option Nat := none
  /-- ticks at which held inrush tokens are released, with the unit that wakes -/
  tokens : List (Nat × PowerUnit) := []
  wakes : List PowerUnit := []
  deriving DecidableEq, Repr

/-- A control port's registers (R411). -/
structure PortRegs where
  badtarget : Bool := false
  partialPost : Bool := false
  notowner : Bool := false
  refused : Bool := false
  drop : Bool := false
  pptb : DWord := 0
  phptb : DWord := 0
  pwin : DWord := 0
  lastid : Nat := 0
  pgrid : DWord := 0
  linkUp : Bool := true
  /-- the data of the port's latest read completion, and whether it is marked poisoned: MODEL, what leaves by the port -/
  reply : List Byte := []
  poisoned : Bool := false
  deriving DecidableEq, Repr

/-- The writes of MSEM and of the management settings in one tick, as they came: port, offset and value; and what stood before them: MSEM,
PGIDLE, the windows, and PSTAT.notowner of the two ports (R413). -/
structure Managed where
  tick : Nat
  msem : Nat
  pgidle : Nat
  ewin : Sparse DWord
  ein : Sparse DWord
  notowner : Bool × Bool
  writes : List (Port × Nat × DWord) := []
  deriving DecidableEq, Repr

/-- A rectangle of the seating chart (R256, R257). -/
structure Rect where
  col : Nat
  row : Nat
  rows : Nat
  cols : Nat
  deriving DecidableEq, Repr

/-- A detour entry (R257): router column and row, direction 0-3 or 4 the router itself, planes, side, hops, partner. -/
structure Detour where
  col : Nat
  row : Nat
  dir : Nat
  planes : Nat
  side : Nat
  hops : Nat
  partner : Nat
  deriving DecidableEq, Repr

/-- The signed defect map (R256, R8). -/
structure DefectMap where
  /-- disabled core sites, as 96 * row + column -/
  cores : List Nat := []
  /-- dead lanes: core site, quadrant, count of live passes (the issue grade) -/
  grades : List (Nat × Nat × Nat) := []
  detours : List Detour := []
  /-- disabled L2 banks, as 16 * domain + bank -/
  banks : List Nat := []
  grade : Nat := 1
  deriving DecidableEq, Repr

/-- What survives reset (R418, R421, R424): firmware slots and defect map copies with whether their signatures hold. -/
structure NonVolatile where
  slots : List Bool := [true, true]
  maps : List (Bool × DefectMap) := [(true, {}), (true, {})]
  boots : Nat := 0
  /-- the supply was lost entirely (R421) -/
  supplyLost : Bool := false
  /-- far-tier capacities of the 16 CXL ports, in GiB -/
  far : List Nat := []
  deriving DecidableEq, Repr

/-- The seating chart and the report card (R4, R257). -/
structure Chart where
  rects : List Rect := []
  grades : List (Nat × Nat × Nat) := []
  detours : List Detour := []
  banks : List Nat := []
  gcores : Nat := 0
  gbisect : Nat := 0
  gsram : Nat := 0
  gdetour : Nat := 0
  grade : Nat := 0
  deriving DecidableEq, Repr

/-- A lease record of a bank (R239, R240): serving domain, line, latest expiry. -/
structure LeaseRec where
  domain : Nat
  line : Nat
  expiry : Nat
  deriving DecidableEq, Repr

/-- A grant kept in a signature (R241): bank's domain, core, sector's signature bit, epoch. -/
structure SigRec where
  domain : Nat
  bank : Nat
  core : Nat
  bit : Nat
  epoch : Nat
  deriving DecidableEq, Repr

/-- The Afnar mailbox (R422). -/
structure Mailbox where
  domain : Nat := 0
  cmd : Nat := 0
  status : Nat := 0
  buffer : Nat := 0
  nonce : List Byte := []
  /-- Afnar has sent the writes of its result, and waits until they are performed (R422) -/
  writing : Bool := false
  /-- of the command taken last: its buffer address, and its port and tick (R422) -/
  target : Nat := 0
  taken : Option (Port × Nat) := none
  deriving DecidableEq, Repr

/-- The module. -/
structure State where
  /-- core cycles since the module's first power-up; wafer time is ten ticks in every 21 cycles (R10) on top of `wbase` -/
  cycle : Nat := 0
  wbase : Nat := 0
  /-- MODEL: numbers given out, and free values drawn -/
  fresh : Nat := 1
  draw : Nat := 0
  /-- MODEL: what the outside world and other agents do next, first first -/
  agenda : List Instr := []
  /-- the splits that the issue stage has chosen and that have still to issue (R180) -/
  selected : List SRef := []
  grids : List Grid := []
  blocks : List Block := []
  parts : Sparse Part := []
  cores : Sparse Core := []
  domains : Sparse Domain := []
  /-- near DRAM, weight store and far tier by physical address (R236) -/
  mem : List Host.Cell := []
  /-- poisoned 64-byte sectors and filled 128-byte weight-store lines, by number, rising -/
  poison : List Nat := []
  filled : List Nat := []
  /-- update counts of 64-byte sectors (R204) -/
  counts : Sparse Nat := []
  flight : List Access := []
  issued : List Issued := []
  copies : List CopyOp := []
  requests : List SubReq := []
  packets : List Packet := []
  notices : List Notice := []
  walks : List Walk := []
  begun : List Begun := []
  /-- the lines that L2 banks hold, by 16 * domain + bank (R231, R244) -/
  l2 : Sparse (List L2Line) := []
  /-- second-level TLBs by domain -/
  tlb2 : Sparse (List TlbEntry) := []
  leases : List LeaseRec := []
  sigs : List SigRec := []
  /-- home directory: line to the domains that may hold a visitor copy (R242) -/
  directory : Sparse (List Nat) := []
  /-- committed checkpoints (R398) -/
  checkpoints : List Block := []
  /-- launch identifiers handed out -/
  lastLaunch : Nat := 0
  portA : PortRegs := {}
  portB : PortRegs := {}
  msem : Nat := 0
  /-- writes of MSEM and of the settings that it guards in one tick, of which port A's come first (R413) -/
  managed : Option Managed := none
  /-- BSTAT (R419): state, firmware slot, defect map copy -/
  bstate : Nat := 1
  fwslot : Nat := 0
  mapcopy : Nat := 0
  pgidle : Nat := 100000
  /-- MODEL: the tick of the latest reset, from which cores count as idle -/
  bootTick : Nat := 0
  ewin : Sparse DWord := []
  ein : Sparse DWord := []
  linksDown : List Nat := []
  /-- the weight-store bank in recess (R249) -/
  recess : Option Nat := none
  cxlDown : List Nat := []
  mailbox : Mailbox := {}
  frozen : Bool := false
  stopped : Bool := false
  chart : Chart := {}
  nv : NonVolatile := {}
  /-- MODEL: what leaves by the edge links: link, and the bytes or none for a refusal -/
  edgeReply : List (Nat × Option (List (Option Byte))) := []
  /-- remote bytes written by copies: window address, byte (R416) -/
  remoteOut : List (Nat × Byte) := []
  deriving DecidableEq, Repr

/-- The module right after reset, at its first power-up (R419, R421): the boot ROM is about to run (BSTAT.state 0x01). -/
def State.reset : State := {}

/-- Why the machine stops with a fault. No instruction of the spec and no event leaves the machine without a next state, so
nothing raises this; safe. -/
inductive Fault where
  /-- raised by nothing: the spec gives every instruction and event an effect; safe -/
  | unreachable
  deriving DecidableEq, Repr

/-- Why the machine refuses an instruction. -/
inductive Refusal where
  /-- an arm of `exec` that has no meaning yet; safe -/
  | notModelled (mnemonic : String)
  deriving DecidableEq, Repr

end Sys2Proof.Machine
end

