-- ==== Sys2Proof/Machine/Base.lean ====
section
/-! DEFINITION. The operations under the named operations of Ops: tables in canonical form, lanes, finding and changing parts of
the state, memory bytes, translation, code words, the recorder, registers and completion flags. -/

namespace Sys2Proof.Machine

/-! ### Tables in canonical form -/

/-- The value of key `k`; an absent key reads as `d`. -/
def tget {β : Type} (d : β) : Sparse β → Nat → β
  | [], _ => d
  | (k', v) :: r, k => if k = k' then v else tget d r k

/-- Set key `k`, keeping keys rising and no entry equal to `d`. -/
def tput {β : Type} [DecidableEq β] (d : β) (k : Nat) (v : β) : Sparse β → Sparse β
  | [] => if v = d then [] else [(k, v)]
  | (k', v') :: r =>
    if k < k' then (if v = d then (k', v') :: r else (k, v) :: (k', v') :: r)
    else if k = k' then (if v = d then r else (k, v) :: r)
    else (k', v') :: tput d k v r

/-- Set several keys, in order. -/
def tputs {β : Type} [DecidableEq β] (d : β) (l : List (Nat × β)) (t : Sparse β) : Sparse β :=
  l.foldl (fun t p => tput d p.1 p.2 t) t

/-- Change every value listed; one that becomes the default is no longer listed. -/
def tmap {β : Type} [DecidableEq β] (d : β) (f : β → β) (t : Sparse β) : Sparse β :=
  t.filterMap fun p => if f p.2 = d then none else some (p.1, f p.2)

/-- Keys strictly rising and no entry equal to the default. -/
def tableOk {β : Type} [DecidableEq β] (d : β) : Sparse β → Bool
  | [] => true
  | [(_, v)] => !decide (v = d)
  | (k, v) :: (k', v') :: r => !decide (v = d) && decide (k < k') && tableOk d ((k', v') :: r)

/-- The keys of a set held as a rising list. -/
def setAdd (k : Nat) : List Nat → List Nat
  | [] => [k]
  | x :: r => if k < x then k :: x :: r else if k = x then x :: r else x :: setAdd k r

/-- A list as a rising one, without repeats. -/
def rising (l : List Nat) : List Nat := l.foldl (fun t k => setAdd k t) []

/-- A list in the order of a key; equals keep their order. -/
def sortOn {α : Type} (f : α → Nat) (l : List α) : List α :=
  l.foldl (fun t a => (t.takeWhile fun b => decide (f b ≤ f a)) ++ [a] ++ (t.dropWhile fun b => decide (f b ≤ f a))) []

/-! ### Lanes -/

def bitMask (l : Nat) : Mask := 1#64 <<< l
def maskOf (ls : List Nat) : Mask := ls.foldl (fun m l => m ||| bitMask l) 0#64
/-- The lanes of a mask, lowest first. -/
def lanesOf (m : Mask) : List Nat := (List.range 64).filter fun l => m.getLsbD l
def lowest (m : Mask) : Nat := (lanesOf m).headD 64
def population (m : Mask) : Nat := (lanesOf m).length

/-! ### Time -/

/-- Wafer time in ticks (R10, R421). -/
def State.ticks (s : State) : Nat := s.wbase + s.cycle * 10 / 21

/-! ### Finding and changing the parts of the state -/

def State.grid? (s : State) (g : Nat) : Option Grid := s.grids.find? fun x => x.id == g
def State.block? (s : State) (b : BRef) : Option Block := s.blocks.find? fun x => x.ref == b
def Block.cohort? (b : Block) (c : Nat) : Option Cohort := b.cohorts.find? fun x => x.id == c
def Cohort.split? (c : Cohort) (p : Nat) : Option Split := c.splits.find? fun x => x.id == p
def State.cohort? (s : State) (c : CRef) : Option Cohort := (s.block? c.b).bind fun b => b.cohort? c.cohort
def State.split? (s : State) (r : SRef) : Option Split := (s.cohort? r.c).bind fun c => c.split? r.split
def State.core (s : State) (n : Nat) : Core := tget {} s.cores n
def State.part (s : State) (p : Nat) : Part := tget {} s.parts p
def State.dom (s : State) (d : Nat) : Domain := tget {} s.domains d

def State.modGrid (s : State) (g : Nat) (f : Grid → Grid) : State :=
  { s with grids := s.grids.map fun x => if x.id == g then f x else x }
def State.modBlock (s : State) (b : BRef) (f : Block → Block) : State :=
  { s with blocks := s.blocks.map fun x => if x.ref == b then f x else x }
def Block.modCohort (b : Block) (c : Nat) (f : Cohort → Cohort) : Block :=
  { b with cohorts := b.cohorts.map fun x => if x.id == c then f x else x }
def Cohort.modSplit (c : Cohort) (p : Nat) (f : Split → Split) : Cohort :=
  { c with splits := c.splits.map fun x => if x.id == p then f x else x }
def State.modCohort (s : State) (c : CRef) (f : Cohort → Cohort) : State :=
  s.modBlock c.b fun b => b.modCohort c.cohort f
def State.modSplit (s : State) (r : SRef) (f : Split → Split) : State :=
  s.modCohort r.c fun c => c.modSplit r.split f
def State.modCore (s : State) (n : Nat) (f : Core → Core) : State :=
  { s with cores := tput {} n (f (s.core n)) s.cores }
def State.modPart (s : State) (p : Nat) (f : Part → Part) : State :=
  { s with parts := tput {} p (f (s.part p)) s.parts }
def State.modDom (s : State) (d : Nat) (f : Domain → Domain) : State :=
  { s with domains := tput {} d (f (s.dom d)) s.domains }
def State.portRegs (s : State) : Port → PortRegs
  | .a => s.portA
  | .b => s.portB
def State.modPort (s : State) (p : Port) (f : PortRegs → PortRegs) : State :=
  match p with
  | .a => { s with portA := f s.portA }
  | .b => { s with portB := f s.portB }

/-- The next number to give out. -/
def State.bump (s : State) : State := { s with fresh := s.fresh + 1 }

/-- XDELEG and XVEC as a trap raised in a cycle sees them (R358, R382). -/
def Grid.delegAt (g : Grid) (cycle : Nat) : Word :=
  match g.vecWas with
  | some (t, w, _) => if t == cycle then w else g.regs.xdeleg
  | none => g.regs.xdeleg
def Grid.xvecAt (g : Grid) (cycle : Nat) : DWord :=
  match g.vecWas with
  | some (t, _, v) => if t == cycle then v else g.regs.xvec
  | none => g.regs.xvec

/-- HVEC as a trap raised in a cycle sees it (R382). -/
def Part.hvecAt (p : Part) (cycle : Nat) : DWord :=
  match p.hvecWas with
  | some (t, v) => if t == cycle then v else p.hvec
  | none => p.hvec

/-! ### The kernel descriptor (R43) -/

def Grid.vregs (g : Grid) : Nat := 8 * fld g.desc 7 0
def Grid.sregs (g : Grid) : Nat := fld g.desc 13 8
def Grid.scratchBytes (g : Grid) : Nat := 1024 * fld g.desc 23 14
def Grid.width (g : Grid) : Nat := if g.desc.getLsbD 24 then 64 else 32
def Grid.shuffleWidth (g : Grid) : Nat :=
  match fld g.desc 26 25 with
  | 1 => 16
  | 2 => 32
  | _ => g.width
def Grid.ftz (g : Grid) : Bool := g.desc.getLsbD 27
def Grid.legacyRound (g : Grid) : Bool := g.desc.getLsbD 28
def Grid.check (g : Grid) : Bool := g.desc.getLsbD 29
def Grid.pair (g : Grid) : Bool := g.desc.getLsbD 30
def Grid.ckpt (g : Grid) : Bool := g.desc.getLsbD 31
def Grid.acc (g : Grid) : Nat := fld g.desc 37 32

/-- Word `k` of the launch record (R165). -/
def Grid.word (g : Grid) (k : Nat) : DWord := g.record.getD k 0
def Grid.stream (g : Grid) : Nat := fld (g.word 0) 63 58
def Grid.depkind (g : Grid) : Nat := fld (g.word 0) 57 56
def Grid.hrmode (g : Grid) : Nat := fld (g.word 0) 55 54
def Grid.prio (g : Grid) : Nat := fld (g.word 0) 53 51
def Grid.entry (g : Grid) : DWord := BitVec.ofNat 64 (fld (g.word 0) 50 0)
def Grid.gdim (g : Grid) : Nat × Nat × Nat := (fld (g.word 1) 31 0, fld (g.word 1) 47 32, fld (g.word 1) 63 48)
def Grid.bdim (g : Grid) : Nat × Nat × Nat := (fld (g.word 2) 15 0, fld (g.word 2) 31 16, fld (g.word 2) 47 32)
def Grid.blockCount (g : Grid) : Nat := g.gdim.1 * g.gdim.2.1 * g.gdim.2.2
/-- %ntid (R161). -/
def Grid.ntid (g : Grid) : Nat := g.bdim.1 * g.bdim.2.1 * g.bdim.2.2

/-! ### The seating chart (R256, R257) and places on the wafer (R236, R252) -/

/-- Core column and row of a core name. -/
def Chart.site? (h : Chart) (name : Nat) : Option (Nat × Nat) :=
  match h.rects[name / 65536]? with
  | some r =>
    let row := name / 256 % 256
    let col := name % 256
    if name < 0xFFFFFF ∧ row < r.rows ∧ col < r.cols then some (r.col + col, r.row + row) else none
  | none => none

/-- The name of an enabled core site. -/
def Chart.nameAt (h : Chart) (col row : Nat) : Option Nat :=
  ((List.range h.rects.length).findSome? fun i =>
    match h.rects[i]? with
    | some r =>
      if r.col ≤ col ∧ col < r.col + r.cols ∧ r.row ≤ row ∧ row < r.row + r.rows then
        some (i * 65536 + (row - r.row) * 256 + (col - r.col))
      else none
    | none => none)

/-- The domain of a core site: 8 by 8 core sites each, 12 domains in a row (R236, R252). -/
def siteDomain (col row : Nat) : Nat := 12 * (row / 8) + col / 8

/-- %domain of a core. -/
def State.coreDomain (s : State) (name : Nat) : Nat :=
  match s.chart.site? name with
  | some (c, r) => siteDomain c r
  | none => 0

/-- Issue-rate grade of a quadrant (R181, R322). -/
def State.grade (s : State) (name q : Nat) : Nat :=
  match s.chart.site? name with
  | some (c, r) =>
    match s.chart.grades.find? fun g => g.1 == 96 * r + c && g.2.1 == q with
    | some g => g.2.2
    | none => 1
  | none => 1

/-- Region of a physical address (R236). -/
def paRegion (pa : Nat) : Nat := pa / 2 ^ 44
/-- Home domain of an address in region 0 or 1. -/
def paDomain (pa : Nat) : Nat := pa / 2 ^ 36 % 256
def paOffset (pa : Nat) : Nat := pa % 2 ^ 36
/-- L2 bank of an address of region 0 or 1. -/
def paBank (pa : Nat) : Nat := (pa / 128 % 16) ^^^ (pa / 2048 % 16)
/-- Weight-store bank of an address of region 1. -/
def weightBank (pa : Nat) : Nat := pa / 4096 % 16

/-- The best of a list, the first of equals. -/
def pickBy {α : Type} (better : α → α → Bool) (l : List α) : Option α :=
  l.foldl (fun best p => match best with
    | none => some p
    | some q => if better p q then some p else some q) none

/-- Router of an L2 bank numbered 16 * domain + bank (R236). -/
def bankRouter (n : Nat) : Nat × Nat := (4 * (n / 16 % 12) + n % 16 % 4, 4 * (n / 16 / 12) + n % 16 / 4)

/-- The partner of a disabled bank (R255), or 0xFF where its domain has no enabled bank. -/
def partnerOf (dead : List Nat) (n : Nat) : Nat :=
  let d := n / 16
  let twin := 16 * d + ((n % 16) ^^^ 1)
  let diff (a b : Nat) : Nat := max a b - min a b
  let far (m : Nat) : Nat :=
    diff (bankRouter m).1 (bankRouter n).1 + diff (bankRouter m).2 (bankRouter n).2
  if !dead.contains twin then twin % 16
  else
    match pickBy (fun a b => decide (far a < far b)) (((List.range 16).map (16 * d + ·)).filter fun m => !dead.contains m) with
    | some m => m % 16
    | none => 0xFF

/-- The L2 bank that serves an address in domain `d`: the partner of a disabled bank serves its lines too (R255). -/
def State.bankIn (s : State) (d pa : Nat) : Nat :=
  if s.chart.banks.contains (16 * d + paBank pa) then partnerOf s.chart.banks (16 * d + paBank pa) else paBank pa

/-- Installed far-tier bytes (R414). -/
def State.farCapacity (s : State) : Nat := min (s.nv.far.foldl (· + ·) 0 * 2 ^ 30) (2 ^ 44)

/-- Does R236 admit every byte of [pa, pa + n)? -/
def State.admits (s : State) (pa n : Nat) : Bool :=
  let last := pa + n - 1
  let off := paOffset pa + n
  match paRegion pa with
  | 0 => paRegion last == 0 && paDomain last == paDomain pa && decide (paDomain pa < 84) && decide (off ≤ 24 * 2 ^ 30)
  | 1 =>
    paRegion last == 1 && paDomain last == paDomain pa && decide (paDomain pa < 84) && decide (off ≤ 384 * 2 ^ 20) &&
      (List.range (min 16 (last / 4096 - pa / 4096 + 1))).all fun i =>
        !s.chart.banks.contains (16 * paDomain pa + weightBank (pa + 4096 * i))
  | 2 => paRegion last == 2 && decide (pa % 2 ^ 44 + n ≤ s.farCapacity)
  | 3 => paRegion last == 3
  | 4 => paRegion last == 4
  | _ => false

/-! ### Memory bytes (R11, R236, R250) -/

/-- What an unlisted address reads as (log 3). -/
def memDefault : Byte := 0

def State.readMem (s : State) (pa : Nat) : Byte := tget memDefault s.mem pa
def State.writeMem (s : State) (pa : Nat) (v : Byte) : State := { s with mem := tput memDefault pa v s.mem }

/-- Write consecutive bytes. -/
def State.writeRun (s : State) (pa : Nat) (vs : List Byte) : State :=
  { s with mem := tputs memDefault (vs.mapIdx fun i v => (pa + i, v)) s.mem }

/-- Little-endian value of bytes, lowest first. -/
def leNat : List Byte → Nat
  | [] => 0
  | b :: r => b.toNat + 256 * leNat r
/-- `n` bytes of a value, lowest first. -/
def leBytes (n v : Nat) : List Byte := (List.range n).map fun i => BitVec.ofNat 8 (v / 256 ^ i)

def State.poisoned (s : State) (pa : Nat) : Bool := s.poison.contains (pa / 64)
/-- Is the weight-store line of an address filled (R247)? Other regions have no flag. -/
def State.lineFilled (s : State) (pa : Nat) : Bool := paRegion pa != 1 || s.filled.contains (pa / 128)

def State.read8 (s : State) (pa : Nat) : Nat := leNat ((List.range 8).map fun i => s.readMem (pa + i))

/-! ### Translation (R232-R237, R386) -/

/-- What an access needs of a page. -/
inductive Need where
  | rd
  | wr
  | rw
  | ex
  deriving DecidableEq, Repr

/-- A failed translation: its cause and the guest physical address that failed (R386). `leaf` holds the rights of the first-stage leaf where
it is that leaf's own address that the second stage does not translate, and not a table's. -/
structure XFault where
  cause : Nat
  gpa : Nat := 0
  leaf : Option Nat := none
  deriving DecidableEq, Repr

/-- Bits of a leaf that give rights: rd 1, w 2, x 4, up 8, sp 16. -/
def rightsOf (e : Nat) : Nat := e / 8 % 32
def Need.bits : Need → Nat
  | .rd => 1
  | .wr => 2
  | .rw => 3
  | .ex => 4

/-- A leaf that a walk found. -/
structure Leaf where
  pa : Nat
  size : Nat
  iset : Nat
  ws : Bool
  rights : Nat
  deriving DecidableEq, Repr

/-- Domains of interleave set `n`, 1 to 7, rising (R237). -/
def Part.domains (p : Part) (n : Nat) : List Nat :=
  (List.range 84).filter fun d =>
    if d < 64 then (tget 0 p.ism (2 * n - 2)).getLsbD d else (tget 0 p.ism (2 * n - 1)).getLsbD (d - 64)

/-- R237: the address that page offset `o` of an interleaved leaf has. -/
def interleave (ds : List Nat) (leaf : Leaf) (o : Nat) : Nat :=
  let g := o / 2048
  let k := ds.length
  paRegion leaf.pa * 2 ^ 44 + ds.getD (g % k) 0 * 2 ^ 36 + (paOffset leaf.pa + 2048 * (g / k) + o % 2048)

/-- R233: the checks of a leaf entry. `second` is the second stage, whose sp, up, iset and ws must be zero (R234). -/
def State.leafOk (s : State) (p : Part) (second : Bool) (e size : Nat) : Bool :=
  let pa := e / 2 ^ 15 % 2 ^ 33 * 2 ^ 15
  let iset := e / 2 ^ 53 % 8
  let ws := e / 2 ^ 52 % 2 == 1
  if second then iset == 0 && !ws && e / 64 % 4 == 0 && pa % size == 0 && s.admits pa size
  else if iset != 0 then
    let ds := p.domains iset
    let span := 2048 * ((size / 2048 + ds.length - 1) / ds.length)
    pa % size == 0 && paDomain pa == 0 && decide (paRegion pa ≤ 1) && !ds.isEmpty && (ws == (paRegion pa == 1)) &&
      ds.all fun d => s.admits (paRegion pa * 2 ^ 44 + d * 2 ^ 36 + paOffset pa) span
  else pa % size == 0 && (ws == (paRegion pa == 1)) && s.admits pa size

/-- Reserved fields of any entry: [63:56], [51:48], [14:8], [2]. -/
def reservedOk (e : Nat) : Bool := e / 2 ^ 56 == 0 && e / 2 ^ 48 % 16 == 0 && e / 2 ^ 8 % 128 == 0 && e / 4 % 2 == 0

/-- One stage of a walk from the table at `base`: `rd` reads a table entry. `lvl` counts down from 3. -/
def State.walkStage (s : State) (p : Part) (second : Bool) (rd : Nat → Except XFault Nat) (va : Nat) :
    Nat → Nat → Except XFault Leaf
  | 0, _ => .error { cause := 2 }
  | lvl + 1, base => do
    if decide (1 < paRegion base) then .error { cause := 2 }
    let shift := 15 + 12 * lvl
    let e ← rd (base + 8 * (va / 2 ^ shift % 4096))
    if e % 2 == 0 then .error { cause := 1 }
    if !reservedOk e then .error { cause := 2 }
    if e / 2 % 2 == 1 then
      if s.leafOk p second e (2 ^ shift) then
        .ok ⟨e / 2 ^ 15 % 2 ^ 33 * 2 ^ 15, 2 ^ shift, e / 2 ^ 53 % 8, e / 2 ^ 52 % 2 == 1, rightsOf e⟩
      else .error { cause := 2 }
    else if e / 2 ^ 52 != 0 || lvl == 0 then .error { cause := 2 }
    else s.walkStage p second rd va lvl (e / 2 ^ 15 % 2 ^ 33 * 2 ^ 15)

/-- A table entry at its home bank (R235), or 0x07 where its sector is poisoned. -/
def State.readEntry (s : State) (pa : Nat) : Except XFault Nat :=
  if s.poisoned pa then .error { cause := 7 } else .ok (s.read8 pa)

/-- The second-stage leaf of a guest physical address. -/
def State.walkSecond (s : State) (p : Part) (gpa : Nat) : Except XFault Leaf :=
  s.walkStage p true s.readEntry gpa 3 (fld p.hptb 47 15 * 2 ^ 15)

/-- Second-stage translation of one address; every failure is 0x13 (R234), but for poison (R233). -/
def State.second (s : State) (p : Part) (gpa need : Nat) : Except XFault (Nat × Leaf) :=
  match s.walkSecond p gpa with
  | .error f => .error (if f.cause == 7 then f else ⟨0x13, gpa, none⟩)
  | .ok l => if l.rights &&& need == need then .ok (l.pa + gpa % l.size, l) else .error ⟨0x13, gpa, none⟩

def Part.secondOn (p : Part) : Bool := p.hptb.getLsbD 0

/-- A table entry of a first-stage walk, its address translated by the second stage when that is on; where that fails, the address of
its table line has failed (R386). -/
def State.readFirst (s : State) (p : Part) (a : Nat) : Except XFault Nat :=
  if p.secondOn then
    match s.second p a 1 with
    | .ok q => s.readEntry q.1
    | .error f => .error { f with gpa := f.gpa / 128 * 128 }
  else s.readEntry a

/-- The complete translation of the page that holds `va`, as a TLB entry (R235), with second-stage rights in bits 5-7. -/
def State.walkFull (s : State) (p : Part) (ptb : DWord) (va : Nat) : Except XFault TlbEntry := do
  let l ← s.walkStage p false (s.readFirst p) va 3 (fld ptb 47 15 * 2 ^ 15)
  let o := va % l.size
  let tag := fld ptb 63 48
  let htag := fld p.hptb 63 48
  if p.secondOn then
    let gpa := if l.iset == 0 then l.pa + o else interleave (p.domains l.iset) l o
    match s.walkSecond p gpa with
    | .error f => .error (if f.cause == 7 then f else ⟨0x13, gpa, some l.rights⟩)
    | .ok l2 =>
      let sz := min (if l.iset == 0 then l.size else 2048) l2.size
      .ok ⟨tag, htag, va / sz * sz, sz, l.size, l2.pa + gpa % l2.size / sz * sz, 0, l.ws, l.rights + 32 * (l2.rights % 8), [],
        gpa / sz * sz⟩
  else .ok ⟨tag, htag, va / l.size * l.size, l.size, l.size, l.pa, l.iset, l.ws, l.rights + 32 * 7, p.domains l.iset, 0⟩

/-- The TLB entry in use for an address: the core's, then the domain's (R235). -/
def State.tlbFind (s : State) (core : Nat) (tag htag va : Nat) : Option TlbEntry :=
  let hit (e : TlbEntry) := e.tag == tag && e.htag == htag && decide (e.vbase ≤ va) && decide (va < e.vbase + e.size)
  match (s.core core).tlb.find? hit with
  | some e => some e
  | none => (tget [] s.tlb2 (s.coreDomain core)).find? hit

/-- The entry that translates `va` for a grid on a core. -/
def State.translation (s : State) (core : Nat) (g : Grid) (va : Nat) : Except XFault TlbEntry :=
  let p := s.part g.part
  match s.tlbFind core (fld g.regs.ptb 63 48) (fld p.hptb 63 48) va with
  | some e => .ok e
  | none => s.walkFull p g.regs.ptb va

/-- A translated address: physical address, whether the page is a weight-store page, and the output of the first stage. -/
structure Phys where
  pa : Nat
  ws : Bool
  gpa : Nat := pa
  deriving DecidableEq, Repr

/-- Where an entry places an address of its page. -/
def TlbEntry.place (e : TlbEntry) (va : Nat) : Nat :=
  if e.iset == 0 then e.pa + (va - e.vbase) else interleave e.ds ⟨e.pa, e.size, e.iset, e.ws, 0⟩ (va - e.vbase)

/-- What the first stage makes of the address: the same, or with the second stage on the guest physical address. -/
def TlbEntry.guest (e : TlbEntry) (second : Bool) (va : Nat) : Nat := if second then e.gbase + (va - e.vbase) else e.place va

/-- The rights of an entry for an access: first-stage rights `n`, and for the second stage `m` (R233, R234, R101 steps 3 and 6). -/
def TlbEntry.access (e : TlbEntry) (second : Bool) (n m va : Nat) : Except XFault Phys :=
  if e.perms &&& n != n then .error { cause := 2 }
  else if e.perms / 32 &&& m != m then .error ⟨0x13, e.guest second va, some e.perms⟩
  else .ok ⟨e.place va, e.ws, e.guest second va⟩

/-- A translation that failed, for an access that needs the first-stage rights `n`: a leaf that does not grant them raises 0x02 before the
second stage is asked (R101 steps 3 and 6). -/
def XFault.ranked (f : XFault) (n : Nat) : XFault :=
  match f.leaf with
  | some r => if r &&& n != n then ⟨2, 0, none⟩ else f
  | none => f

/-- Translation of one address for a mode (R233, R234, R371, R386). -/
def State.xlate (s : State) (core : Nat) (g : Grid) (m : Mode) (need : Need) (va : DWord) : Except XFault Phys :=
  let p := s.part g.part
  let a := va.toNat
  match m with
  | .hypervisor =>
    if p.secondOn then
      match s.walkSecond p a with
      | .error f => .error f
      | .ok l =>
        if l.rights &&& need.bits == need.bits then
          let pa := l.pa + a % l.size
          .ok ⟨pa, paRegion pa == 1, pa⟩
        else .error { cause := 2 }
    else if a < 2 ^ 48 && s.admits a 1 then .ok ⟨a, paRegion a == 1, a⟩
    else .error { cause := 2 }
  | _ =>
    let n := need.bits + (if m == .user then 8 else 16)
    match s.translation core g a with
    | .error f => .error (f.ranked n)
    | .ok e => e.access p.secondOn n need.bits a

/-- Put a translation into the core's and the domain's TLBs (R235: 256 and 16,384 entries). -/
def State.tlbPut (s : State) (core : Nat) (e : TlbEntry) : State :=
  let d := s.coreDomain core
  let s := s.modCore core fun c => { c with tlb := (e :: c.tlb).take 256 }
  let l := tget [] s.tlb2 d
  if l.contains e then s else { s with tlb2 := tput [] d ((e :: l).take 16384) s.tlb2 }

/-- Keep the translation of `va` in the core's and the domain's TLBs. -/
def State.tlbFill (s : State) (core : Nat) (g : Grid) (va : DWord) : State :=
  let p := s.part g.part
  match (s.core core).tlb.find? fun e => e.tag == fld g.regs.ptb 63 48 && e.htag == fld p.hptb 63 48 &&
      decide (e.vbase ≤ va.toNat) && decide (va.toNat < e.vbase + e.size) with
  | some _ => s
  | none =>
    match s.translation core g va.toNat with
    | .error _ => s
    | .ok e => s.tlbPut core e

/-! ### Walks (R235) -/

/-- The table entries that a stage reads for an address, from the table at `base` on: `tr` gives what the address of an entry takes to
translate, and where it lies. -/
def State.stageReads (s : State) (tr : Nat → List Nat × Option Nat) (va : Nat) : Nat → Nat → List Nat
  | 0, _ => []
  | lvl + 1, base =>
    if decide (1 < paRegion base) then []
    else
      match tr (base + 8 * (va / 2 ^ (15 + 12 * lvl) % 4096)) with
      | (rs, none) => rs
      | (rs, some pa) =>
        let e := s.read8 pa
        rs ++ [pa] ++ (if e % 4 == 1 && lvl != 0 then s.stageReads tr va lvl (e / 2 ^ 15 % 2 ^ 33 * 2 ^ 15) else [])

/-- Every table entry that a walk of an address reads. -/
def State.walkReads (s : State) (p : Part) (ptb : DWord) (va : Nat) : List Nat :=
  let second (a : Nat) : List Nat := s.stageReads (fun q => ([], some q)) a 3 (fld p.hptb 47 15 * 2 ^ 15)
  if !p.secondOn then s.stageReads (fun a => ([], some a)) va 3 (fld ptb 47 15 * 2 ^ 15)
  else
    let tr (a : Nat) : List Nat × Option Nat := (second a, match s.second p a 1 with | .ok q => some q.1 | .error _ => none)
    s.stageReads tr va 3 (fld ptb 47 15 * 2 ^ 15) ++
      (match s.walkFull p ptb va with
       | .ok e => second (e.guest true va)
       | .error f => if f.leaf.isSome then second f.gpa else [])

/-- Do both TLBs miss a page, and has no walk for it ended without a translation (R235)? -/
def State.tlbMiss (s : State) (core : Nat) (g : Grid) (va : Nat) : Bool :=
  (s.tlbFind core (fld g.regs.ptb 63 48) (fld (s.part g.part).hptb 63 48) va).isNone &&
    !s.walks.any fun w => w.req.core == core && w.req.grid == g.id && w.req.va == va / 32768 && w.failed

/-- What a walk in progress ends with: it uses the first-stage base in force when it began (R358). -/
def State.walkEnd (s : State) (w : Walk) : Except XFault TlbEntry :=
  match s.grid? w.req.grid with
  | some g => s.walkFull (s.part g.part) (if w.started then w.ptb else g.regs.ptb) (32768 * w.req.va)
  | none => .error { cause := 2 }

/-- The walk that a new miss shares: one of its domain to the same leaf page (R235). -/
def State.sharedWalk (s : State) (q : WalkReq) : Option Nat :=
  match s.walkEnd { id := 0, req := q } with
  | .error _ => none
  | .ok e => (s.walks.find? fun w => !w.failed && w.lead.isNone && s.coreDomain w.req.core == s.coreDomain q.core &&
      (match s.walkEnd w with | .ok d => d == e | .error _ => false)).map (·.id)

/-- Ask for a walk, unless the same is under way. -/
def State.askWalk (s : State) (q : WalkReq) : State :=
  if s.walks.any fun w => w.req == q then s
  else { s.bump with walks := s.walks ++ [{ id := s.fresh, req := q, lead := s.sharedWalk q }] }

/-- A walk that ended without a translation is forgotten, once what asked for it has met the fault. -/
def State.forgetWalk (s : State) (core : Nat) (g : Grid) (va : Nat) : State :=
  { s with walks := s.walks.filter fun w => !(w.failed && w.req == ⟨core, g.id, va / 32768⟩) }

/-- Put an access in flight. -/
def State.launchAccess (s : State) (a : Access) : State :=
  { s.bump with flight := s.flight ++ [{ a with id := s.fresh }] }

/-! ### Code words -/

/-- A core asks for a line of code, unless it does already (R375). -/
def State.askCode (s : State) (core line : Nat) : State :=
  if s.flight.any fun a => a.op == .code && a.core == core && a.pa == 128 * line then s
  else s.launchAccess { id := 0, uid := 0, c := ⟨⟨0, 0⟩, 0⟩, core := core, lane := 0, op := .code, scratch := false, va := 0
                        pa := 128 * line, size := 128, scope := 2 }

/-- The word at a code address, under execute permission (R375, R41). -/
def State.codeWord (s : State) (core : Nat) (g : Grid) (m : Mode) (a : DWord) : Except XFault DWord :=
  if fld a 63 51 != 0 then .error { cause := 2 }
  else
    match s.xlate core g m .ex a with
    | .error f => .error f
    | .ok p => .ok (BitVec.ofNat 64 (s.read8 p.pa))

/-- Does the page of a code address miss both TLBs (R235, R375)? A hypervisor split goes past the TLBs. -/
def State.codeMiss (s : State) (core : Nat) (g : Grid) (m : Mode) (a : DWord) : Bool :=
  m != .hypervisor && fld a 63 51 == 0 && s.tlbMiss core g a.toNat

/-- The line at a code address that the core's instruction cache does not hold (R375, R404); regions beyond the weight store have no
lines. -/
def State.codeLine (s : State) (core : Nat) (g : Grid) (m : Mode) (a : DWord) : Option Nat :=
  if fld a 63 51 != 0 then none
  else match s.xlate core g m .ex a with
    | .error _ => none
    | .ok p => if decide (1 < paRegion p.pa) || (s.core core).code.contains (p.pa / 128) then none else some (p.pa / 128)

/-- Can a code word be shown in XINST1: does it translate for execute, and is its sector not poisoned (R372)? -/
def State.wordShown (s : State) (core : Nat) (g : Grid) (m : Mode) (a : DWord) : Bool :=
  fld a 63 51 == 0 && (match s.xlate core g m .ex a with | .ok p => !s.poisoned p.pa | .error _ => false)

/-- A code word as XINST1 shows it, or 0 where it cannot be read (R372). -/
def State.wordOr0 (s : State) (core : Nat) (g : Grid) (m : Mode) (a : DWord) : DWord :=
  if s.wordShown core g m a then (match s.codeWord core g m a with | .ok w => w | .error _ => 0) else 0

def isHeader (w : DWord) : Bool := fld w 63 55 == 0x1FF
/-- R38. Length, reconvergence offset in words, live mark, entry and spawn bits. -/
def hdrLength (w : DWord) : Nat := fld w 54 47
def hdrReconv (w : DWord) : Int := (w.extractLsb' 31 16).toInt
def hdrLive (w : DWord) : Nat := fld w 30 23
def hdrEntry (w : DWord) : Bool := w.getLsbD 18
def hdrSpawn (w : DWord) : Bool := w.getLsbD 17
/-- R38, R39: an illegal header, or a live mark above the allocation. -/
def headerBad (g : Grid) (w : DWord) : Bool :=
  hdrLength w == 0 || fld w 15 0 != 0 || decide (g.vregs < hdrLive w)
/-- The reconvergence header a block's header names, or 0 for thread exit. -/
def reconvOf (a w : DWord) : DWord :=
  if hdrReconv w == 0 then 0 else a + BitVec.ofInt 64 (8 * hdrReconv w)

/-- Where a target stands for a branch: translation and header checks (R20, R42, R96); none when it may be entered. -/
def State.targetFault (s : State) (core : Nat) (g : Grid) (m : Mode) (a : DWord) : Option XFault :=
  if fld a 2 0 != 0 || fld a 63 51 != 0 then some { cause := 4 }
  else
    match s.codeWord core g m a with
    | .error f => some f
    | .ok w => if isHeader w && !hdrEntry w then none else some { cause := 4 }

/-! ### The recorder (R427, R428) -/

def State.record (s : State) (domain type core payload : Nat) : State :=
  if s.frozen then s
  else s.modDom domain fun d =>
    { d with ring := (d.ring ++ [RecEntry.mk s.ticks type (type == 9) domain core payload]).drop (d.ring.length + 1 - 4096),
             events := d.events + 1 }

/-! ### Registers (R22-R27, R32-R36) -/

def Cohort.vreg (c : Cohort) (r l : Nat) : Word := tget 0 c.vregs (64 * r + l)
/-- A predicate in a lane; p7 is constant true. -/
def Cohort.pred (c : Cohort) (p l : Nat) : Bool := p == 7 || (tget 0#64 c.preds p).getLsbD l

/-- `v` in the bits of `m`, and `old` in the others. -/
def blend (old v m : Word) : Word := (old &&& ~~~m) ||| (v &&& m)

/-- Put a result among others by the order in which they were written. -/
def insertWrote (p : Pend) : List Pend → List Pend
  | [] => [p]
  | q :: l => if p.wrote < q.wrote then p :: q :: l else q :: insertWrote p l

/-- The written results to a uniform register, in the order in which they were written. -/
def Cohort.written (c : Cohort) (r : Nat) : List Pend :=
  (c.pend.filter fun p => p.reg == .uni r && p.landed).foldl (fun l p => insertWrote p l) []

/-- A value with results written on top of it. -/
def overlay (v : Word) (ps : List Pend) : Word := ps.foldl (fun v p => blend v (tget 0 p.vals 0) p.bits) v

/-- The value that a split whose lanes are `own` reads in a uniform register: that of every written result but those which its lanes
do not see yet (R32, R33, R36). -/
def Cohort.sreg (c : Cohort) (own : Mask) (r : Nat) : Word :=
  overlay (tget 0 c.sregs r) ((c.written r).filter fun p => p.lanes &&& own == 0#64)

/-- Source operand of 32 bits in a lane (R22, R23). -/
def Cohort.src32 (c : Cohort) (w : Nat) (own : Mask) (code : BitVec 8) (l : Nat) : Word :=
  match opnd code with
  | some (.vec r) => c.vreg r l
  | some (.uni r) => c.sreg own r
  | some (.konst k) => konstWord w l k
  | none => 0

/-- Source operand of `n` registers in a lane; a constant is extended (R25). -/
def Cohort.srcN (c : Cohort) (w : Nat) (own : Mask) (n : Nat) (code : BitVec 8) (l : Nat) : Nat :=
  match opnd code with
  | some (.vec r) => (List.range n).foldr (fun i acc => (c.vreg (r + i) l).toNat + 2 ^ 32 * acc) 0
  | some (.uni r) => (List.range n).foldr (fun i acc => (c.sreg own (r + i)).toNat + 2 ^ 32 * acc) 0
  | some (.konst k) => if k == 0xF3 then 2 ^ (32 * n) - 1 else (konstWord w l k).toNat
  | none => 0

/-- Write one register in one lane (a uniform register once). A write to p7 is discarded. -/
def Cohort.put (c : Cohort) (r : Reg) (l : Nat) (v : Word) : Cohort :=
  match r with
  | .vec n => { c with vregs := tput 0 (64 * n + l) v c.vregs }
  | .uni n => { c with sregs := tput 0 n v c.sregs }
  | .prd n =>
    if n == 7 then c
    else
      let m := tget 0#64 c.preds n
      { c with preds := tput 0#64 n (if v == 0 then m &&& ~~~(bitMask l) else m ||| bitMask l) c.preds }

/-- Does a result name the register in one of these lanes? -/
def Pend.covers (p : Pend) (r : Reg) (ls : Mask) : Bool := p.reg == r && p.lanes &&& ls != 0#64

/-- Make a result of a vector or predicate register visible in the lanes `ls`: write it, and drop what an earlier producer still
owes there (R34). -/
def Cohort.commitLanes (c : Cohort) (p : Pend) (ls : Mask) : Cohort :=
  let on := p.lanes &&& ls
  let c := (lanesOf on).foldl (fun c l => c.put p.reg l (tget 0 p.vals l)) c
  { c with pend := c.pend.filterMap fun q =>
      if q.reg == p.reg && decide (q.uid ≤ p.uid) then
        (if q.lanes &&& ~~~on == 0#64 then none else some { q with lanes := q.lanes &&& ~~~on })
      else some q }

/-- The uniform results that `sel` selects are written, after every one written before. A result that an earlier producer in the
same program order has not written yet will not be written over them (R34). -/
def Cohort.land (c : Cohort) (sel : Pend → Bool) : Cohort :=
  let now (p : Pend) : Bool := sel p && !p.landed
  let k := c.pend.foldl (fun m p => max m p.wrote) 0
  let later (q : Pend) : Word := (c.pend.filter fun p =>
    now p && p.reg == q.reg && p.origin &&& q.origin != 0#64 && decide (q.uid < p.uid)).foldl (fun m p => m ||| p.bits) 0
  { c with pend := c.pend.filterMap fun q =>
      if now q then some { q with landed := true, wrote := k + 1 + q.uid }
      else match q.reg with
        | .uni _ =>
          if q.landed || later q == 0 then some q
          else if q.bits &&& ~~~later q == 0 then none else some { q with bits := q.bits &&& ~~~later q }
        | _ => some q }

/-- Results to one uniform register that every lane sees, and that no result still unseen precedes, are the register's value. -/
def Cohort.foldUni (c : Cohort) (r : Nat) : Cohort :=
  let seen := (c.written r).takeWhile fun p => p.lanes == 0#64
  { c with sregs := tput 0 r (overlay (tget 0 c.sregs r) seen) c.sregs
           pend := c.pend.filter fun p => !seen.contains p }

/-- The same for every uniform register with a result under way. -/
def Cohort.foldAll (c : Cohort) : Cohort :=
  c.pend.foldl (fun d p => match p.reg with | .uni r => d.foldUni r | _ => d) c

/-- Make a uniform result visible to the lanes `ls`, with what an earlier producer in their program order wrote there (R34). -/
def Cohort.commitUni (c : Cohort) (p : Pend) (r : Nat) (ls : Mask) : Cohort :=
  let c := c.land fun q => q.uid == p.uid && q.reg == p.reg
  Cohort.foldUni { c with pend := c.pend.map fun q =>
    if q.reg == p.reg && (q.uid == p.uid || (decide (q.uid < p.uid) && q.bits &&& ~~~p.bits == 0)) then
      { q with lanes := q.lanes &&& ~~~ls }
    else q } r

/-- Make a result visible in the lanes `ls` (R32-R36). -/
def Cohort.commit (c : Cohort) (p : Pend) (ls : Mask) : Cohort :=
  match p.reg with
  | .uni r => c.commitUni p r ls
  | _ => c.commitLanes p ls

/-- Make visible, for a split's lanes, every pending result that `vis` selects, in the order of their producers. -/
def Cohort.commitWhere (c : Cohort) (ls : Mask) (vis : Pend → Bool) : Cohort :=
  (c.pend.filter fun p => vis p && p.lanes &&& ls != 0#64).foldl (fun c p => c.commit p ls) c

/-- R35: every class A and class B result of these lanes becomes visible. -/
def Cohort.settleAB (c : Cohort) (ls : Mask) : Cohort := c.commitWhere ls fun p => p.due.isSome

/-- R35, R36: at a merge of several splits with the lanes `ls`, class A and class B results become visible, and so do the results of
class V on whose flag one of them has waited since the producer issued. DESIGN CHOICE (log 92): so do the uniform results written, as R36
promises after a merge, though R33 asks for a wait. -/
def Cohort.settleMerge (c : Cohort) (ls : Mask) (several : Bool) : Cohort :=
  c.commitWhere ls fun p => p.due.isSome || (p.landed && p.waited &&& ls != 0#64) ||
    (several && p.landed && (match p.reg with | .uni _ => true | _ => false))

/-- The splits with the lanes `ls` wait on the flags that `wait` names: results of those flags that they do not see are marked (R35). -/
def Cohort.noteWaited (c : Cohort) (ls : Mask) (wait : BitVec 12) : Cohort :=
  { c with pend := c.pend.map fun p =>
      if p.due.isNone && decide (p.flag ≤ 11) && wait.getLsbD p.flag then { p with waited := p.waited ||| ls } else p }

/-- These lanes leave the cohort (R98, R188): results still owed to them are discarded, and a uniform result stays for the lanes that
remain, and is written when its time comes. -/
def Cohort.dropOwed (c : Cohort) (ls : Mask) : Cohort :=
  Cohort.foldAll { c with pend := c.pend.filterMap fun p =>
      match p.reg with
      | .uni _ => some { p with lanes := p.lanes &&& ~~~ls }
      | _ => if p.lanes &&& ~~~ls == 0#64 then none else some { p with lanes := p.lanes &&& ~~~ls } }

/-! ### Completion flags (R29) -/

def Cohort.flagCount (c : Cohort) (f : Nat) : Nat := tget 0 c.flags f
def Cohort.flagUp (c : Cohort) (f : Nat) : Cohort := { c with flags := tput 0 f (c.flagCount f + 1) c.flags }
def Cohort.flagDown (c : Cohort) (f : Nat) : Cohort := { c with flags := tput 0 f (c.flagCount f - 1) c.flags }

/-- The instruction numbered `uid` finishes: its flag falls and its uniform results are written (R29, R36). -/
def State.finishIssue (s : State) (uid : Nat) : State :=
  match s.issued.find? fun i => i.uid == uid with
  | none => s
  | some i =>
    let s := { s with issued := s.issued.filter fun j => j.uid != uid }
    s.modCohort i.c fun c =>
      let c := (c.land fun p => p.uid == uid).foldAll
      match i.flag with
      | some f => c.flagDown f
      | none => c

end Sys2Proof.Machine
end

