-- ==== Sys2Proof/Machine/Ops.lean ====
section
/-! DEFINITION. The named operations over splits: ending a grid, spawning, taking a trap and returning from one, entering a
block, parking, merging and dividing. -/

namespace Sys2Proof.Machine

/-! ### Ending a grid (R361, R377, R429) -/

/-- Does ending `a` come before ending `b`: tick, block, cohort slot, order of entry (R429)? -/
def endsBefore (a b : Nat × Nat × Nat × Nat) : Bool :=
  decide (a.1 < b.1) || (a.1 == b.1 && (decide (a.2.1 < b.2.1) ||
    (a.2.1 == b.2.1 && (decide (a.2.2.1 < b.2.2.1) || (a.2.2.1 == b.2.2.1 && decide (a.2.2.2 < b.2.2.2))))))

/-- Every block of the grid stops, its copies and unposted work stop, drafts are discarded, subscriptions end (R361, R339). -/
def State.stopGrid (s : State) (g : Nat) : State :=
  let mine (b : BRef) := b.grid == g
  { s with
    blocks := s.blocks.map fun b =>
      if mine b.ref then
        { b with drafts := [], draftCounts := [], recs := [],
                 cohorts := b.cohorts.map fun c => { c with latch := none } }
      else b
    copies := s.copies.filter fun o => !mine o.b
    flight := s.flight.filter fun a => match a.op with
      | .claim c => !s.copies.any fun o => o.id == c && mine o.b
      | .fetch c => !s.copies.any fun o => o.id == c && mine o.b
      | _ => true
    packets := s.packets.filter fun p => !mine p.sub
    requests := s.requests.filter fun q => !mine q.sub
    notices := s.notices.filter fun n => !mine n.sub
    cores := tmap {} (fun k => { k with subs := k.subs.filter fun e => !mine e.pub }) s.cores
    selected := s.selected.filter fun r => !mine r.c.b }

/-- An ending of a grid is raised (R361, R377, R429): it joins those of this cycle; where the grid has ended already, it takes the
place of a later ending. Endings of one cohort stand in the order of their cycles, and then of their lanes (R382). -/
def State.endGrid (s : State) (g : Nat) (key : Nat × Nat × Nat) (status : Nat) (team : Option (Nat × Nat) := none) : State :=
  let k := (s.ticks, key.1, key.2.1, 65 * s.cycle + key.2.2)
  s.modGrid g fun x =>
    if x.st == .retired || x.st == .closing then x
    else
      match x.endedBy with
      | some k' => if endsBefore k k' then { x with status := status, endedBy := some k } else x
      | none => { x with endings := x.endings ++ [⟨k, status, team⟩] }

/-- Does a fault of a member of the same team on a lower quadrant set this ending aside (R320)? -/
def Ending.yields (es : List Ending) (e : Ending) : Bool :=
  match e.team with
  | none => false
  | some (t, q) => es.any fun d => d.key.2.1 == e.key.2.1 && (match d.team with | some (u, p) => u == t && decide (p < q) | none => false)

/-- The ending that stands among those of one cycle (R429, R320). -/
def Ending.first (es : List Ending) : Option Ending :=
  (es.filter fun e => !e.yields es).foldl (fun best e => match best with
    | none => some e
    | some d => if endsBefore e.key d.key then some e else some d) none

/-- The blocks of every grid with an ending of the cycle that passes stop, and its status stands. -/
def State.closeGrids (s : State) : State :=
  s.grids.foldl (fun s g =>
    match Ending.first g.endings with
    | none => s
    | some e => (s.stopGrid g.id).modGrid g.id fun x =>
        { x with st := .ended, status := e.status, endedBy := some e.key, endings := [] }) s

/-- The key of an ending raised in a cohort: block, slot, lowest lane. -/
def endKey (c : Cohort) (b : BRef) (lane : Nat) : Nat × Nat × Nat := (b.block, c.slot, lane)

/-! ### The split table (R182) and spawning (R187, R188) -/

def Split.isSpawning (p : Split) : Bool := p.spawn.isSome

/-- An instruction that has been chosen and has not issued: it waits for a walk, or for the latch. -/
def Split.unissued (p : Split) : Bool :=
  match p.hold with
  | some h => match h.kind with | .walk _ => true | .code _ => true | .latchFull => true | _ => false
  | none => false

/-- Has everything come that the split's suspended instruction waited for (R373)? It goes on from there. -/
def Split.walked (p : Split) : Bool :=
  match p.hold with
  | some h => match h.kind with | .walk left => left.isEmpty | .code left => left.isEmpty | _ => false
  | none => false

/-- R187: can the split be spawned? Only a user split, and none that a read of a handle holds. -/
def Split.spawnable (p : Split) : Bool :=
  p.mode == .user && !p.isSpawning &&
    (match p.hold with | some h => (match h.kind with | .handle _ => false | _ => true) | none => true)

/-- The smallest spawnable split: fewest lanes, then the highest lowest lane (R187). -/
def Cohort.smallest (c : Cohort) : Option Split :=
  (c.splits.filter Split.spawnable).foldl (fun (best : Option Split) p =>
    match best with
    | none => some p
    | some q =>
      if population p.lanes < population q.lanes ||
          (population p.lanes == population q.lanes && decide (lowest q.lanes < lowest p.lanes)) then some p else some q) none

def Cohort.liveSplits (c : Cohort) : Nat := (c.splits.filter fun p => !p.isSpawning).length

/-- After a split was added: one beyond the cap makes the smallest split spawn (R187, R358); `none` when none can. -/
def Cohort.cap (c : Cohort) (cap : Nat) : Option Cohort :=
  if c.liveSplits ≤ cap then some c
  else
    match c.smallest with
    | none => none
    | some p => some (c.modSplit p.id fun q => { q with spawn := some true, hold := if q.unissued then none else q.hold })

/-- R376. -/
inductive Route where
  | ends
  | to (m : Mode)
  deriving DecidableEq, Repr

def route (xdeleg : Word) (cause : Nat) (m : Mode) (teamFault : Bool) : Route :=
  if cause == 0x08 then .ends
  else if teamFault then .ends
  else if cause == 0x10 || cause == 0x11 then .to .supervisor
  else if cause == 0x12 then .to .hypervisor
  else if m == .hypervisor then .to .hypervisor
  else if cause == 0x13 then .to (if xdeleg.getLsbD 19 then .supervisor else .hypervisor)
  else if xdeleg.getLsbD cause then .to .supervisor
  else .ends

def modeNum : Mode → Nat
  | .user => 0
  | .supervisor => 1
  | .hypervisor => 2

/-- What a trap records besides what its split gives (R372). -/
structure Trap where
  cause : Nat
  pc : DWord
  addr : DWord := 0
  inst0 : DWord := 0
  inst1 : DWord := 0
  len : Nat := 0
  gpa : Nat := 0
  team : Bool := false
  deriving DecidableEq, Repr

/-- The vector slot of a cause (R348, R357). -/
def vectorSlot (xvec : DWord) (cause : Nat) : DWord :=
  BitVec.ofNat 64 (fld xvec 50 10 * 1024 + 16 * cause)

/-- The header word of a usable vector slot, or none: a vector failure (R348). -/
def State.slotHeader (s : State) (core : Nat) (g : Grid) (m : Mode) (xvec : DWord) (cause : Nat) : Option DWord :=
  if !xvec.getLsbD 0 then none
  else
    match s.codeWord core g m (vectorSlot xvec cause) with
    | .error _ => none
    | .ok w => if isHeader w && !headerBad g w && !hdrEntry w then some w else none

/-- Routing ends the grid: recorder event and status (R377). -/
def State.endByTrap (s : State) (g : Grid) (b : Block) (c : Cohort) (lane cause : Nat) (team : Bool := false) : State :=
  (s.record (s.coreDomain c.core) 3 c.core (g.id + 2 ^ 64 * cause)).endGrid g.id (endKey c b.ref lane) cause
    (if team then c.team.map fun t => (t, c.quad) else none)

/-- Taking a trap (R378, R348): the lanes `ts` of split `r` leave it with a new frame and start at the vector slot, or the grid
ends. The one operation every fault and trap goes through. After an entry of the cohort that has ended the grid, the later ones of the
cycle do not take place (R382). -/
def State.trapEntry (s : State) (r : SRef) (ts : Mask) (t : Trap) : State :=
  match s.block? r.c.b, s.cohort? r.c, s.split? r, s.grid? r.c.b.grid with
  | some b, some c, some sp, some g =>
    if ts == 0#64 || g.endings.any (fun e => e.key.2.1 == b.ref.block && e.key.2.2.1 == c.slot) then s
    else
      let cause := if sp.frames.length ≥ 3 then 0x08 else t.cause
      match route (g.delegAt s.cycle) cause sp.mode t.team with
      | .ends => s.endByTrap g b c (lowest ts) cause t.team
      | .to m =>
        let xvec := if m == .hypervisor then (s.part g.part).hvecAt s.cycle else g.xvecAt s.cycle
        match s.slotHeader c.core g m xvec cause with
        | none => s.endByTrap g b c (lowest ts) cause
        | some w =>
          let slot := vectorSlot xvec cause
          let f : Frame :=
            { pc := t.pc, cause := BitVec.ofNat 32 cause, inst0 := t.inst0, inst1 := t.inst1, len := BitVec.ofNat 32 t.len,
              addr := t.addr, lanes := ts, prev := BitVec.ofNat 32 (modeNum sp.mode), reconv := sp.reconv, join := sp.join,
              gpa := BitVec.ofNat 64 t.gpa, hdr := sp.header, entered := m }
          let n : Split :=
            { sp with lanes := ts, mode := m, reconv := 0, join := ts, frames := f :: sp.frames, parked := none,
                      pc := slot + 8, header := slot, blkEnd := slot + BitVec.ofNat 64 (8 * (1 + hdrLength w)),
                      blkReconv := reconvOf slot w, entering := false, hold := none, yieldUntil := none, yieldFor := [],
                      passed := 0, starved := false, forced := false, spawn := none, joined := none }
          let c1 := c.settleAB ts
          if ts == sp.lanes then
            s.modCohort r.c fun _ => { c1 with splits := c1.splits.map fun (q : Split) => if q.id == sp.id then n else q }
          else
            let c2 := { c1 with splits := (c1.splits.map fun (q : Split) =>
              if q.id == sp.id then { q with lanes := q.lanes &&& ~~~ts } else q) ++ [{ n with id := s.fresh }] }
            match c2.cap (s.part g.part).scap with
            | none => s.endByTrap g b c (lowest ts) 0x08
            | some c3 => s.bump.modCohort r.c fun _ => c3
  | _, _, _, _ => s

/-! ### Entering blocks, parking and merging (R39-R42, R185, R186) -/

/-- A split enters the block whose header word `w` lies at `a`; the split's reconv is set only on a merge, or where it was formed there, and
for one that was formed there the spawn bit does not act. -/
def State.enterAt (s : State) (r : SRef) (a w : DWord) (merged : Bool) : State :=
  s.modSplit r fun p =>
    let formed := p.joined == some false
    let p := { p with header := a, blkEnd := a + BitVec.ofNat 64 (8 * (1 + hdrLength w)), blkReconv := reconvOf a w,
                      parked := none, joined := none }
    let p := if merged then { p with reconv := reconvOf a w, join := p.lanes } else p
    if hdrSpawn w && p.mode == .user && !formed then
      { p with pc := a, entering := true, spawn := some false }
    else { p with pc := a + 8, entering := false }

/-- The header word at which a split stands, or none where it has still to be fetched: its page misses both TLBs or does not translate, or
its line is not in the instruction cache (R375, R235). -/
def State.headerAt (s : State) (c : Cohort) (g : Grid) (sp : Split) : Option DWord :=
  if s.codeMiss c.core g sp.mode sp.pc || (s.codeLine c.core g sp.mode sp.pc).isSome then none
  else match s.codeWord c.core g sp.mode sp.pc with
    | .ok w => some w
    | .error _ => none

/-- What a header that fails its check raises (R39, R42, R372): `w` is the word at the split's PC. -/
def State.headerTrap (s : State) (c : Cohort) (g : Grid) (sp : Split) (w : DWord) : Option Trap :=
  let t : Trap := { cause := 0x04, pc := sp.pc, addr := sp.pc, inst0 := w, inst1 := s.wordOr0 c.core g sp.mode (sp.pc + 8) }
  if !isHeader w || hdrEntry w then some t
  else if headerBad g w then some { t with cause := 0x05 }
  else none

/-- The checks of a header entry, raising what R39, R40 and R42 raise; where the header is not there yet, the split waits to
fetch it (R375). -/
def State.enterHeader (s : State) (r : SRef) (merged : Bool) : State :=
  match s.cohort? r.c, s.split? r, s.grid? r.c.b.grid with
  | some c, some sp, some g =>
    match s.headerAt c g sp with
    | none => s.modSplit r fun p =>
        { p with entering := true, parked := none, joined := p.joined.or (if merged then some true else none) }
    | some w =>
      match s.headerTrap c g sp w with
      | some t => s.trapEntry r sp.lanes t
      | none => s.enterAt r sp.pc w merged
  | _, _, _ => s

/-- Lanes that count as arrived at a reconvergence header besides the parked ones: exited or spawned. -/
def Cohort.gone (c : Cohort) : Mask :=
  c.splits.foldl (fun m p => if p.isSpawning then m ||| p.lanes else m) (~~~c.threads)

/-- The group of a parked split: splits parked at its header with equal mode and frames. -/
def Cohort.group (c : Cohort) (p : Split) : List Split :=
  c.splits.filter fun q => q.parked.isSome && !q.isSpawning && q.pc == p.pc && q.mode == p.mode && q.frames == p.frames

def groupLanes (g : List Split) : Mask := g.foldl (fun m p => m ||| p.lanes) 0#64
def groupJoin (g : List Split) : Mask := g.foldl (fun m p => m ||| p.join) 0#64

/-- R185. -/
def Cohort.canMerge (c : Cohort) (g : List Split) : Bool := groupJoin g &&& ~~~(groupLanes g ||| c.gone) == 0#64

/-- Make one split of a group, in the entry that held the lowest lane, and let it enter the header (R185, R35, R355). -/
def State.mergeGroup (s : State) (cr : CRef) (g : List Split) : State :=
  match (g.foldl (fun (best : Option Split) p =>
      match best with
      | none => some p
      | some q => if lowest p.lanes < lowest q.lanes then some p else some q) none) with
  | none => s
  | some lead =>
    let ls := groupLanes g
    let ids := g.map (·.id)
    let s := s.modCohort cr fun c =>
      let c := c.settleMerge ls (decide (1 < g.length))
      { c with splits := (c.splits.filter fun p => p.id == lead.id || !ids.contains p.id).map fun p =>
          if p.id == lead.id then
            { p with lanes := ls, parked := none, dist := g.foldl (fun m q => max m q.dist) 0,
                     last := g.foldl (fun m q => max m q.last) 0, hold := none }
          else p }
    s.enterHeader ⟨cr, lead.id⟩ true

/-- The group that R185 lets merge, or, when every split is parked, the one that parked earliest (R186). -/
def Cohort.mergeable (c : Cohort) : Option (List Split) :=
  let parked := c.splits.filter fun p => p.parked.isSome && !p.isSpawning
  match parked.find? fun p => c.canMerge (c.group p) with
  | some p => some (c.group p)
  | none =>
    if parked.isEmpty || c.splits.any (fun p => !p.isSpawning && p.parked.isNone) then none
    else
      let key (p : Split) : Nat × Nat :=
        ((c.group p).foldl (fun m q => min m (q.parked.getD 0)) (p.parked.getD 0), lowest (groupLanes (c.group p)))
      (parked.foldl (fun (best : Option Split) p =>
        match best with
        | none => some p
        | some q =>
          if (key p).1 < (key q).1 || ((key p).1 == (key q).1 && decide ((key p).2 < (key q).2)) then some p else some q)
        none).map c.group

/-- Merge what can merge. A cohort has at most eight splits, so nine rounds settle it. -/
def State.mergeAll (cr : CRef) : Nat → State → State
  | 0, s => s
  | n + 1, s =>
    match (s.cohort? cr).bind Cohort.mergeable with
    | none => s
    | some g => State.mergeAll cr n (s.mergeGroup cr g)

def State.remerge (s : State) (cr : CRef) : State := s.mergeAll cr 9

/-- A split arrives at the header that PC holds: it parks when that is its reconv, and otherwise enters (R39, R185). One that R187 has
chosen to spawn takes the header as its target (R188). -/
def State.enterBlock (s : State) (r : SRef) : State :=
  match s.cohort? r.c, s.split? r, s.grid? r.c.b.grid with
  | some c, some sp, some g =>
    if sp.isSpawning then s.modSplit r fun p => { p with entering := true }
    else if sp.joined.isSome then s.enterHeader r true
    else if sp.reconv != 0 && sp.pc == sp.reconv then
      match s.headerAt c g sp with
      | none => s.modSplit r fun p => { p with entering := true }
      | some w =>
        match s.headerTrap c g sp w with
        | some t => s.trapEntry r sp.lanes t
        | none => (s.modSplit r fun p => { p with parked := some s.cycle, entering := false }).remerge r.c
    else s.enterHeader r false
  | _, _, _ => s

/-- After an instruction: a split that has run past the last word of its block falls through into the next (R40). -/
def State.settle (s : State) (r : SRef) : State :=
  match s.split? r, s.grid? r.c.b.grid with
  | some sp, some g =>
    if g.st == .running && g.endings.isEmpty && sp.hold.isNone && sp.parked.isNone && !sp.entering && sp.pc == sp.blkEnd then
      s.enterBlock r
    else s
  | _, _ => s

/-! ### Division (R184, R95) -/

/-- The lanes `ls` leave split `r` as a part of their own at `pc`, under R184; both parts take reconv and join from the
division. Answers the state and the part, which is `r` itself when `ls` is all of it. -/
def State.part? (s : State) (r : SRef) (ls all : Mask) (pc : DWord) : State × SRef :=
  match s.split? r with
  | none => (s, r)
  | some sp =>
    if ls == sp.lanes then (s.modSplit r fun p => { p with pc := pc }, r)
    else
      let n : Split := { sp with id := s.fresh, lanes := ls, pc := pc, reconv := sp.blkReconv, join := all, hold := none,
                                 passed := 0, starved := false, forced := false, spawn := none }
      (s.bump.modCohort r.c fun c =>
        { c with splits := (c.splits.map fun p =>
            if p.id == r.split then { p with lanes := p.lanes &&& ~~~ls, reconv := p.blkReconv, join := all } else p) ++ [n] },
       { r with split := s.fresh })

/-- The cap of the split table after up to `n` parts have been added: each of them that stands beyond the cap makes one split spawn, and
splits that stood beyond it before stay (R358). -/
def Cohort.capTo (cap : Nat) : Nat → Cohort → Option Cohort
  | 0, c => some c
  | n + 1, c => if c.liveSplits ≤ cap then some c else (c.cap cap).bind (Cohort.capTo cap n)

/-- After a division that added `n` parts: the cap of the split table (R187, R358); lanes that need a ninth split raise 0x08. -/
def State.capSplits (s : State) (r : SRef) (need : Mask) (n : Nat) : State :=
  match s.block? r.c.b, s.cohort? r.c, s.grid? r.c.b.grid with
  | some b, some c, some g =>
    match Cohort.capTo (s.part g.part).scap n c with
    | none => s.endByTrap g b c (lowest need) 0x08
    | some c' => s.modCohort r.c fun _ => c'
  | _, _, _ => s

/-- Does the divergence's recorded reconvergence header stand the check of R41? -/
def State.reconvFault (s : State) (core : Nat) (g : Grid) (sp : Split) : Option XFault :=
  if sp.blkReconv == 0 then none
  else
    match s.codeWord core g sp.mode sp.blkReconv with
    | .error f => some f
    | .ok w => if isHeader w then none else some { cause := 4 }

/-! ### Returning from a trap (R350) -/

/-- The lanes `rs` of a handler split return: a split of their own in the frame's mode at the frame's pc, with the frames
without the innermost, and R35 applies. -/
def State.trapReturn (s : State) (r : SRef) (rs : Mask) (w : DWord) : State :=
  match s.cohort? r.c, s.split? r, s.grid? r.c.b.grid with
  | some c, some sp, some g =>
    match sp.frames with
    | [] => s
    | f :: fs =>
      let m : Mode := if f.prev == 0 then .user else if f.prev == 1 then .supervisor else .hypervisor
      let hdr := if isHeader w then f.pc else f.hdr
      let hw := match s.codeWord c.core g m hdr with | .ok x => if isHeader x then some x else none | .error _ => none
      let n : Split :=
        { sp with lanes := rs, mode := m, pc := f.pc, reconv := f.reconv, join := f.join, frames := fs, header := hdr,
                  blkEnd := match hw with | some x => hdr + BitVec.ofNat 64 (8 * (1 + hdrLength x)) | none => 0,
                  blkReconv := match hw with | some x => reconvOf hdr x | none => 0,
                  parked := none, hold := none, entering := isHeader w, passed := 0, starved := false, forced := false, spawn := none }
      let whole := rs == sp.lanes
      let s := s.modCohort r.c fun c =>
        let c := c.settleAB rs
        if whole then { c with splits := c.splits.map fun p => if p.id == sp.id then n else p }
        else { c with splits := (c.splits.map fun p =>
          if p.id == sp.id then { p with lanes := p.lanes &&& ~~~rs } else p) ++ [{ n with id := s.fresh }] }
      let nr : SRef := if whole then r else { r with split := s.fresh }
      let s := if whole then s else s.bump
      let s := if whole then s else s.capSplits nr rs 1
      if isHeader w then s.enterBlock nr else s.settle nr
  | _, _, _ => s

end Sys2Proof.Machine
end

