-- ==== Sys2Proof/Machine/Flags.lean ====
section
/-! DEFINITION. Issue: what every instruction does before its own effect (R15, R16, R28-R37, R50), its results and completion
flags (R29), the faults it raises, and the checkpoint that a forcing instruction takes first (R225, R398). -/

namespace Sys2Proof.Machine

/-- An instruction that is issuing: its split as it stands after the waits and gaps of this issue, its executing lanes and its
number. `sp.pc` is the address of the instruction. -/
structure Ctx where
  r : SRef
  i : Instr
  h : Hdr
  g : Grid
  b : Block
  c : Cohort
  sp : Split
  ex : Mask
  uid : Nat

def Ctx.w (x : Ctx) : Nat := x.g.width
/-- A 32-bit source in a lane. -/
def Ctx.rd (x : Ctx) (code : BitVec 8) (l : Nat) : Word := x.c.src32 x.w x.sp.lanes code l
/-- A source of `n` registers in a lane. -/
def Ctx.rdN (x : Ctx) (n : Nat) (code : BitVec 8) (l : Nat) : Nat := x.c.srcN x.w x.sp.lanes n code l
/-- A 64-bit source in a lane. -/
def Ctx.rdD (x : Ctx) (code : BitVec 8) (l : Nat) : DWord := BitVec.ofNat 64 (x.rdN 2 code l)
def Ctx.pred (x : Ctx) (p l : Nat) : Bool := x.c.pred p l
/-- The lowest executing lane. -/
def Ctx.low (x : Ctx) : Nat := lowest x.ex
def Ctx.lanes (x : Ctx) : List Nat := lanesOf x.ex
/-- The instruction's length in bytes. -/
def Ctx.bytes (x : Ctx) : Nat := 8 * (1 + inlineWords x.i)
def Ctx.core (x : Ctx) : Nat := x.c.core
def Ctx.domain (x : Ctx) (s : State) : Nat := s.coreDomain x.c.core

/-- The lanes the guard selects (R16). -/
def guardMask (c : Cohort) (lanes : Mask) (guard : BitVec 4) : Mask :=
  let p := fld guard 2 0
  let m := if p == 7 then lanes else lanes &&& tget 0#64 c.preds p
  if guard.getLsbD 3 then lanes &&& ~~~m else m

/-- Is every flag that the wait field names clear (R30)? -/
def waitsClear (c : Cohort) (wait : BitVec 12) : Bool :=
  (List.range 12).all fun f => !wait.getLsbD f || c.flagCount f == 0

/-- The flag an instruction sets, if any (R15). -/
def setFlag (h : Hdr) : Option Nat := if h.set.toNat ≤ 11 then some h.set.toNat else none

def gapOf (h : Hdr) : Nat := max h.gap.toNat 1

/-- R28-R30, R179: may the split issue an instruction with these fields now? One whose fetch was suspended has met its waits when it was
chosen, and goes on even while its block stops (R373, R388). -/
def canIssue (s : State) (g : Grid) (b : Block) (c : Cohort) (sp : Split) (h : Hdr) : Bool :=
  g.st == .running && sp.spawn.isNone && sp.parked.isNone && !sp.entering &&
    (match setFlag h with | some f => decide (c.flagCount f < 63) | none => true) &&
    (if sp.walked then b.st == .resident || b.st == .checkpointing || b.st == .saving
     else (b.st == .resident || (b.st == .checkpointing && sp.forced)) && sp.hold.isNone && waitsClear c h.wait &&
      decide (sp.last + gapOf h ≤ s.cycle))

/-- What becomes visible to an instruction of the split that issues at distance `dist` with this wait field (R32, R33). -/
def visibleAt (dist : Nat) (wait : BitVec 12) (p : Pend) : Bool :=
  match p.due with
  | some d => decide (d ≤ dist)
  | none => decide (p.flag ≤ 11) && wait.getLsbD p.flag && p.landed

inductive Begin where
  | stop (s : State)
  | go (x : Ctx) (s : State)

/-- Take the chosen split and issue `i` from it: distance, waits, guard, and PC past the instruction's words. A split that may
not issue yet keeps its state. -/
def State.beginIssue (s : State) (i : Instr) : Begin :=
  match s.selected with
  | [] => .stop s
  | r :: rest =>
    let s := { s with selected := rest }
    match s.grid? r.c.b.grid, s.block? r.c.b, s.cohort? r.c, s.split? r, hdr? i with
    | some g, some b, some c, some sp, some h =>
      if canIssue s g b c sp h then
        let dist := sp.dist + gapOf h
        let c1 := (c.noteWaited sp.lanes h.wait).commitWhere sp.lanes (visibleAt dist h.wait)
        let sp1 := { sp with dist := dist, last := s.cycle, passed := 0, starved := false, yieldUntil := none,
                             yieldFor := [], hold := none }
        let len := BitVec.ofNat 64 (8 * (1 + inlineWords i))
        let c2 := c1.modSplit sp.id fun _ => { sp1 with pc := sp.pc + len }
        .go ⟨r, i, h, g, b, c2, sp1, guardMask c1 sp.lanes h.guard, s.fresh⟩ (s.bump.modCohort r.c fun _ => c2)
      else .stop s
    | _, _, _, _, _ => .stop s

/-- R26: every register named lies inside the allocations. -/
def allocOk (g : Grid) (sh : Shape) : Bool :=
  let ok (r : Reg) : Bool := match r with
    | .vec n => decide (n < g.vregs)
    | .uni n => decide (n < g.sregs)
    | .prd _ => true
  (sh.srcs.all fun p => (regsOf p.1 p.2).all ok) && (sh.dsts.all fun p => (regsOf p.1 p.2.1).all ok)

/-- R50 step 2, as far as it is one rule for all instructions: field rules, set field, allocations, R33. -/
def Ctx.legal (x : Ctx) : Bool :=
  let sh := shape x.i
  sh.legal && (decide (x.h.set.toNat ≤ 11) || x.h.set == 15#4) && allocOk x.g sh &&
    !(cls x.i == .v && x.h.set == 15#4 && sh.writes)

/-- The lanes that take part as readers of the instruction's first sources, in the order of its shape: fragments lie in lanes 0-31
(R289), ACCLD moves lanes 0-31 (R294), and SCACC takes row scales from lanes 0-15 and column scales from lanes 0-31 (R296). Any other
source is read by every lane. -/
def srcLanes (i : Instr) : List Mask :=
  let low32 := 0xFFFFFFFF#64
  match i with
  | .accld _ => [low32]
  | .scacc _ => [0xFFFF#64, low32]
  | .mmaBf16 _ | .mmaF16 _ | .mmaE4m3 _ | .mmaE5m2 _ | .mmaE3m2 _ | .mmaE2m3 _ | .mmaE2m1 _ | .mmaE4m3Qn4 _ | .mmaE2m1Qn4 _
  | .mmasBf16 _ | .mmasF16 _ | .mmasE4m3 _ | .mmasE5m2 _ | .mmasE2m1 _ => [low32, low32]
  | _ => []

/-- R37: would the instruction read another value than its latest producer's? -/
def Ctx.underGap (x : Ctx) : Bool :=
  let sh := shape x.i
  let owed (r : Reg) (ls : Mask) : Bool := x.c.pend.any fun p => p.covers r (match r with | .uni _ => x.sp.lanes | _ => ls)
  x.g.check && ((sh.srcs.zip (srcLanes x.i)).any (fun q => (regsOf q.1.1 q.1.2).any fun r => owed r (x.ex &&& q.2)) ||
    ((sh.srcs.drop (srcLanes x.i).length).flatMap fun p => regsOf p.1 p.2).any (fun r => owed r x.ex) ||
    sh.preds.any (fun p => owed (.prd p) x.ex) || x.c.pend.any fun p => p.covers (.prd (fld x.h.guard 2 0)) x.sp.lanes)

/-! ### Faults (R50, R102, R372, R379) -/

structure LaneFault where
  lane : Nat
  cause : Nat
  addr : DWord := 0
  gpa : Nat := 0
  deriving DecidableEq, Repr

/-- An MMA or MMAS of a member of a quad team: its faults end the grid (R320). -/
def Ctx.teamMma (x : Ctx) : Bool :=
  x.c.team.isSome && (match encode x.i with
    | w :: _ => decide (0x182 ≤ (opcodeField w).toNat) && decide ((opcodeField w).toNat ≤ 0x194)
    | [] => false)

/-- The trap record of this instruction (R372). -/
def Ctx.trap (x : Ctx) (s : State) (f : LaneFault) : Trap :=
  { cause := f.cause, pc := x.sp.pc, addr := f.addr, inst0 := (encode x.i).headD 0,
    inst1 := match encode x.i with
      | _ :: w :: _ => if s.wordShown x.c.core x.g x.sp.mode (x.sp.pc + 8) then w else 0
      | _ => s.wordOr0 x.c.core x.g x.sp.mode (x.sp.pc + 8)
    len := inlineWords x.i, gpa := f.gpa, team := x.teamMma }

/-- The faulting lanes leave together, with the cause and address of the lowest (R102, R379). The list is in lane order. -/
def Ctx.raise (x : Ctx) (s : State) (fs : List LaneFault) : State :=
  match fs with
  | [] => s
  | f :: _ => s.trapEntry x.r (maskOf (fs.map (·.lane))) (x.trap s f)

/-- Every executing lane raises one cause. -/
def Ctx.raiseAll (x : Ctx) (s : State) (cause : Nat) (addr : DWord := 0) (gpa : Nat := 0) : State :=
  x.raise s (x.lanes.map fun l => ⟨l, cause, addr, gpa⟩)

/-- The executing lanes that do not fault. -/
def Ctx.minus (x : Ctx) (fs : List LaneFault) : Ctx := { x with ex := x.ex &&& ~~~(maskOf (fs.map (·.lane))) }

/-! ### Results and flags -/

/-- The registers that a destination code names, with the words of a value (lowest first). -/
def outs (code : BitVec 8) (n : Nat) (f : Nat → Nat) : List (Reg × (Nat → Word)) :=
  (regsOf code n).mapIdx fun k r => (r, fun l => BitVec.ofNat 32 (f l / 2 ^ (32 * k)))

def out32 (code : BitVec 8) (f : Nat → Word) : List (Reg × (Nat → Word)) := (regsOf code 1).map fun r => (r, f)

/-- A predicate result; p7 takes none. -/
def outP (p : Nat) (f : Nat → Bool) : List (Reg × (Nat → Word)) :=
  if p == 7 then [] else [(.prd p, fun l => if f l then 1 else 0)]

def latency : Cls → Nat
  | .a => 3
  | .b => 5
  | .v => 0

/-- One result owed in the given lanes. A uniform result is computed once and stands in the program order of every lane of the split
(R69). DESIGN CHOICE (log 89): where a source differs by lane, as the lane index 0xF1 does, it is computed with that of the lowest
executing lane. -/
def Ctx.pendOf (x : Ctx) (k : Cls) (ls : Mask) (o : Reg × (Nat → Word)) : Pend :=
  { uid := x.uid, reg := o.1,
    lanes := match o.1 with | .uni _ => x.sp.lanes | _ => ls
    vals := match o.1 with
      | .uni _ => tput 0 0 (o.2 (lowest ls)) []
      | _ => (lanesOf ls).filterMap fun l => if o.2 l = 0 then none else some (l, o.2 l)
    bits := 0xFFFFFFFF
    due := match k with | .v => none | _ => some (x.sp.dist + latency k)
    flag := x.h.set.toNat, landed := false
    origin := match o.1 with | .uni _ => x.sp.lanes | _ => 0 }

/-- Of several results to one register, the last in the order of the instruction's description stands (log 13). -/
def lastOnly : List (Reg × (Nat → Word)) → List (Reg × (Nat → Word))
  | [] => []
  | o :: r => if r.any fun p => p.1 == o.1 then lastOnly r else o :: lastOnly r

/-- Register results of the instruction in the lanes `ls`. -/
def Ctx.owe (x : Ctx) (s : State) (k : Cls) (ls : Mask) (os : List (Reg × (Nat → Word))) : State :=
  if ls == 0#64 then s
  else s.modCohort x.r.c fun c => { c with pend := c.pend ++ (lastOnly os).map (x.pendOf k ls) }

/-- The instruction is under way: it adds one to its flag, and ends as `fin` says (R29). -/
def Ctx.note (x : Ctx) (s : State) (ls : Mask) (fin : Finish) : State :=
  let s := { s with issued := s.issued ++ [⟨x.uid, x.r.c, x.r.split, ls, setFlag x.h, fin⟩] }
  match setFlag x.h with
  | some f => s.modCohort x.r.c fun c => c.flagUp f
  | none => s

/-- A word that is no instruction counts its flag as one does (R16, R29), under the next number. -/
def State.countFlag (s : State) (uid : Nat) (r : SRef) (ls : Mask) (f : Option Nat) (fin : Finish) : State :=
  let t := { s.bump with issued := s.issued ++ [⟨uid, r.c, r.split, ls, f, fin⟩] }
  match f with
  | some k => t.modCohort r.c fun c => c.flagUp k
  | none => t

/-- A class A or class B instruction computes its results. -/
def Ctx.compute (x : Ctx) (s : State) (k : Cls) (os : List (Reg × (Nat → Word))) : State :=
  x.note (x.owe s k x.ex os) x.ex (.latency (s.cycle + latency k))

/-- A narrowing conversion computes its results; `ovf` lanes saturated (R127). -/
def Ctx.narrowing (x : Ctx) (s : State) (os : List (Reg × (Nat → Word))) (ovf : Nat) : State :=
  x.note (x.owe s .b x.ex os) x.ex (.narrow (s.cycle + latency .b) ovf)

/-- A class V instruction whose results are known at issue and written at completion. -/
def Ctx.complete (x : Ctx) (s : State) (os : List (Reg × (Nat → Word))) : State :=
  x.note (x.owe s .v x.ex os) x.ex .complete

/-- The lanes that do not fault complete with these results, and the others trap (R102, R73). -/
def Ctx.completeSome (x : Ctx) (s : State) (fs : List LaneFault) (os : List (Reg × (Nat → Word))) : State :=
  let y := x.minus fs
  x.raise (if y.ex == 0#64 then s else y.complete s os) fs

/-! ### The common path -/

/-- R16: an instruction that no lane executes only counts its flag for one cycle. -/
def Ctx.pulse (x : Ctx) (s : State) : State := x.note s 0#64 (.latency (s.cycle + 1))

/-- Issue `i` from the chosen split (R50): its field rules, under-gap, then its own effect `k`. -/
def issue (i : Instr) (s : State) (k : Ctx → State → State) : Host.Outcome State Fault Refusal :=
  match s.beginIssue i with
  | .stop s => .next s
  | .go x s =>
    .next ((if x.ex == 0#64 then x.pulse s
      else if !x.legal then x.raiseAll s 0x05
      else if x.underGap then x.raiseAll s 0x09
      else k x s).settle x.r)

/-- As `issue`, for an instruction that may be illegal or wait by a rule of its own that needs the machine's state: `ok` is the
rest of R50 step 2, `ready` holds the split back unissued. -/
def issueIf (i : Instr) (s : State) (ready : Ctx → State → Bool) (ok : Ctx → State → Bool) (k : Ctx → State → State) :
    Host.Outcome State Fault Refusal :=
  match s.beginIssue i with
  | .stop s => .next s
  | .go x s' =>
    if x.ex != 0#64 && x.legal && ok x s' && !x.underGap && !ready x s' then .next { s with selected := s.selected.drop 1 }
    else
      .next ((if x.ex == 0#64 then x.pulse s'
        else if !(x.legal && ok x s') then x.raiseAll s' 0x05
        else if x.underGap then x.raiseAll s' 0x09
        else k x s').settle x.r)

/-- R225, R307, R347, R398: with checkpointing on, the instruction first makes its block take a checkpoint; once that is
published it takes effect, and a second commit follows. -/
def forced (i : Instr) (s : State) (force : Ctx → State → Bool)
    (go : State → Host.Outcome State Fault Refusal) : Host.Outcome State Fault Refusal :=
  match s.beginIssue i with
  | .stop _ => go s
  | .go x s' =>
    if x.sp.forced then
      match go s with
      | .next t =>
        if t.fresh == s.fresh then .next t
        else
          .next ((t.modBlock x.r.c.b fun b => { b with st := .checkpointing, exposed := true, forcer := none }).modSplit x.r
            fun p => { p with forced := false })
      | o => o
    else if x.g.ckpt && x.ex != 0#64 && x.legal && !x.underGap && force x s' then
      -- one whose fetch was suspended stays at its own boundary where its block is stopping (R388)
      if x.b.st != .resident then
        .next ({ s with selected := s.selected.drop 1 }.modSplit x.r fun p => { p with hold := none })
      else
        .next ({ s with selected := s.selected.drop 1 }.modBlock x.r.c.b fun b =>
          { b with st := .checkpointing, forcer := some x.r, exposed := false })
    else go s

/-! ### Translation misses (R235) -/

/-- An instruction whose addresses, translated for a mode, miss both TLBs waits, with its fetch suspended, until their walks have ended
(R373, R235). The walk's page is kept by its number of 32 KiB. -/
def withWalksFor (mode : Ctx → Mode) (i : Instr) (addrs : Ctx → List DWord) (s : State) (go : State → Host.Outcome State Fault Refusal) :
    Host.Outcome State Fault Refusal :=
  match s.beginIssue i with
  | .stop _ => go s
  | .go x s' =>
    let misses := (addrs x).filter fun a => s'.codeMiss x.c.core x.g (mode x) a
    if x.ex != 0#64 && x.legal && !x.underGap && !misses.isEmpty then
      let qs := (misses.map fun a => WalkReq.mk x.c.core x.g.id (a.toNat / 32768)).dedup
      .next ((qs.foldl State.askWalk { s with selected := s.selected.drop 1 }).modSplit x.r fun p =>
        { p with hold := some ⟨.walk qs, 0, x.ex, s.cycle⟩ })
    else
      match go s with
      | .next t => .next { t with walks := t.walks.filter fun w =>
          !(w.failed && w.req.core == x.c.core && w.req.grid == x.g.id &&
            (addrs x).any fun a => a.toNat / 32768 == w.req.va) }
      | o => o

/-- The same for the split's own mode. -/
def withWalks (i : Instr) (addrs : Ctx → List DWord) (s : State) (go : State → Host.Outcome State Fault Refusal) :
    Host.Outcome State Fault Refusal := withWalksFor (fun x => x.sp.mode) i addrs s go

/-- An instruction that checks words of code waits in the same way until the instruction cache holds their lines (R375). -/
def withCode (mode : Ctx → Mode) (i : Instr) (addrs : Ctx → List DWord) (s : State) (go : State → Host.Outcome State Fault Refusal) :
    Host.Outcome State Fault Refusal :=
  match s.beginIssue i with
  | .stop _ => go s
  | .go x s' =>
    let lines := ((addrs x).filterMap (s'.codeLine x.c.core x.g (mode x))).dedup
    if x.ex != 0#64 && x.legal && !x.underGap && !lines.isEmpty then
      .next ((lines.foldl (fun (t : State) l => t.askCode x.c.core l) { s with selected := s.selected.drop 1 }).modSplit x.r fun p =>
        { p with hold := some ⟨.code lines, 0, x.ex, s.cycle⟩ })
    else go s

/-- An instruction that checks words of code at these addresses for a mode: their pages are translated first, and then their lines
fetched. -/
def withTargetsFor (mode : Ctx → Mode) (i : Instr) (addrs : Ctx → List DWord) (s : State) (go : State → Host.Outcome State Fault Refusal) :
    Host.Outcome State Fault Refusal :=
  withWalksFor mode i addrs s fun s => withCode mode i addrs s go

/-- The same for the split's own mode. -/
def withTargets (i : Instr) (addrs : Ctx → List DWord) (s : State) (go : State → Host.Outcome State Fault Refusal) :
    Host.Outcome State Fault Refusal := withTargetsFor (fun x => x.sp.mode) i addrs s go

/-- The modes that may issue an instruction (R346, R371): others raise the given cause. -/
def Ctx.inMode (x : Ctx) (s : State) (ms : List Mode) (cause : Nat) (k : State) : State :=
  if ms.contains x.sp.mode then k else x.raiseAll s cause

/-- The split that is chosen, when it is held by an instruction of its own that can go on. -/
def State.resuming (s : State) : Option (SRef × Hold) :=
  match s.selected with
  | [] => none
  | r :: _ => (s.split? r).bind fun p => p.hold.map fun h => (r, h)

/-- Hold the split at the instruction (PC stays) or after it. -/
def Ctx.hold (x : Ctx) (s : State) (kind : HoldKind) (stay : Bool) : State :=
  s.modSplit x.r fun p =>
    { p with hold := some ⟨kind, x.uid, x.ex, s.cycle⟩, pc := if stay then x.sp.pc else p.pc }

/-- Lanes of an instruction that is held at its own address fault when it looks again (R212, R206): they leave as from the
instruction, and the others keep their wait. -/
def State.heldTrap (s : State) (r : SRef) (fs : List LaneFault) : State :=
  match fs, s.cohort? r.c, s.split? r, s.grid? r.c.b.grid with
  | f :: _, some c, some sp, some g =>
    let ls := maskOf (fs.map (·.lane))
    let s := s.modSplit r fun p => { p with hold := p.hold.map fun h => { h with lanes := h.lanes &&& ~~~ls } }
    s.trapEntry r ls { cause := f.cause, pc := sp.pc, addr := f.addr, gpa := f.gpa,
                       inst0 := s.wordOr0 c.core g sp.mode sp.pc, inst1 := s.wordOr0 c.core g sp.mode (sp.pc + 8) }
  | _, _, _, _ => s

/-- Release a held split; `past` moves PC by this many bytes. -/
def State.release (s : State) (r : SRef) (past : Nat) : State :=
  (s.modSplit r fun p => { p with hold := none, pc := p.pc + BitVec.ofNat 64 past }).settle r

/-- An instruction that held its split of the lanes `all` at its own address has ended, and the lanes `bad` have left by a trap: what is
left of the split goes on after it, the lanes that its guard left out among it (R373). -/
def State.releaseRest (s : State) (r : SRef) (all bad : Mask) : State := if all &&& ~~~bad == 0#64 then s else s.release r 8

/-- The address of a split's next instruction that has not issued (R374): past the one that holds it at its own address. -/
def Split.nextPc (p : Split) : DWord :=
  match p.hold with
  | some h => match h.kind with
    | .queue _ => p.pc + 8
    | .waitm _ _ => p.pc + 8
    | .handle _ => p.pc + 8
    | .latch => p.pc + 8
    | _ => p.pc
  | none => p.pc

/-- Lanes that leave a split are no longer waited for by the instruction that holds it (R374; log 96). -/
def Split.forget (p : Split) (ls : Mask) : Split :=
  { p with hold := p.hold.map fun h => match h.kind with
      | .queue left => { h with lanes := h.lanes &&& ~~~ls, kind := .queue (left.filter fun q => !ls.getLsbD q.1) }
      | .waitm cond left => { h with lanes := h.lanes &&& ~~~ls, kind := .waitm cond (left.filter fun q => !ls.getLsbD q.1) }
      | .barb left => { h with lanes := h.lanes &&& ~~~ls, kind := .barb (left.filter fun q => !ls.getLsbD q.1) }
      | _ => h }

/-- Does the split wait for no lane of its instruction any more? -/
def Split.waitOver (p : Split) : Bool :=
  match p.hold with
  | some h => match h.kind with
    | .queue left => left.isEmpty
    | .waitm _ left => left.isEmpty
    | .barb left => left.isEmpty
    | _ => false
  | none => false

end Sys2Proof.Machine
end

