-- ==== Sys2Proof/Machine/Integer.lean ====
section
/-! DEFINITION. Integer, logic, move, predicate and address instructions (R69-R82). -/

namespace Sys2Proof.Machine

/-! ### Values -/

/-- An n-bit pattern as a signed or unsigned number. -/
def asInt (n : Nat) (signed : Bool) (v : Nat) : Int :=
  if signed && decide (2 ^ (n - 1) ≤ v) then (v : Int) - (2 : Int) ^ n else v

/-- R72: wrap, or saturate and wrap, an exact value to n bits. -/
def wrapSat (n : Nat) (sat signed : Bool) (v : Int) : Nat :=
  let lo : Int := if signed then -((2 : Int) ^ (n - 1)) else 0
  let hi : Int := if signed then (2 : Int) ^ (n - 1) - 1 else (2 : Int) ^ n - 1
  let v := if sat then min (max v lo) hi else v
  (v % (2 : Int) ^ n).toNat

/-- n of a modifier byte with w64 in bit 0 (R70). -/
def widthOf (m : BitVec 8) : Nat := if m.getLsbD 0 then 64 else 32

/-- Number of one bits. -/
def popcount (n v : Nat) : Nat := ((List.range n).filter fun i => v.testBit i).length
/-- Leading zeros of an n-bit value. -/
def leadingZeros (n v : Nat) : Nat := if v == 0 then n else n - 1 - Nat.log2 v
def bitReverse (n v : Nat) : Nat :=
  (List.range n).foldl (fun acc i => if v.testBit i then acc + 2 ^ (n - 1 - i) else acc) 0

/-- R75. -/
inductive ShiftKind where
  | left
  | right
  | arith
  | rot
  deriving DecidableEq, Repr

def shiftVal (n : Nat) (kind : ShiftKind) (v k : Nat) : Nat :=
  match kind with
  | .left => if n ≤ k then 0 else v * 2 ^ k % 2 ^ n
  | .right => if n ≤ k then 0 else v / 2 ^ k
  | .arith => wrapSat n false true (asInt n true v / (2 : Int) ^ (min k n))
  | .rot => let j := k % n; (v * 2 ^ j) % 2 ^ n + v / 2 ^ (n - j)

/-- R77. -/
def bfxVal (signed : Bool) (v f : Nat) : Nat :=
  let p := f % 256
  let m := min (f / 256 % 256) 32
  let x := v / 2 ^ p % 2 ^ m
  if m == 0 then 0 else wrapSat 32 false true (asInt m signed x)

def bfiVal (v f base : Nat) : Nat :=
  let p := f % 256
  let m := f / 256 % 256
  let mask := (2 ^ m - 1) * 2 ^ p % 2 ^ 32
  (base &&& (2 ^ 32 - 1 - mask)) ||| (v * 2 ^ p % 2 ^ 32 &&& mask)

/-- R78. -/
def compareVal (code : Nat) (a b : Int) : Bool :=
  match code with
  | 0 => decide (a < b)
  | 1 => decide (a ≤ b)
  | 2 => decide (b < a)
  | 3 => decide (b ≤ a)
  | 4 => a == b
  | _ => a != b

/-- R82: the name a delta away, or none. -/
def naddVal (h : Chart) (name delta : Nat) : Option Nat :=
  match h.rects[name / 65536 % 256]? with
  | none => none
  | some r =>
    let row := name / 256 % 256
    let col := name % 256
    let row2 : Int := row + asInt 8 true (delta / 256 % 256)
    let col2 : Int := col + asInt 8 true (delta % 256)
    if name / 2 ^ 24 == 0 && decide (row < r.rows) && decide (col < r.cols) && decide (0 ≤ row2) &&
        decide (row2 < r.rows) && decide (0 ≤ col2) && decide (col2 < r.cols) then
      some (name / 65536 % 256 * 65536 + row2.toNat * 256 + col2.toNat)
    else none

/-! ### Shared shapes of instruction -/

/-- Two sources, exact value `f` under R70-R72. -/
def arith2 (i : Instr) (o : OpA) (k : Cls) (f : Nat → Int → Int → Int) (s : State) : Host.Outcome State Fault Refusal :=
  issue i s fun x s =>
    let n := widthOf o.m
    let sg := o.m.getLsbD 2
    x.compute s k (outs o.d (n / 32) fun l =>
      wrapSat n (o.m.getLsbD 1) sg (f n (asInt n sg (x.rdN (n / 32) o.a l)) (asInt n sg (x.rdN (n / 32) o.b l))))

/-- One source read as signed (IABS, INEG). -/
def arith1 (i : Instr) (o : OpA) (f : Int → Int) (s : State) : Host.Outcome State Fault Refusal :=
  issue i s fun x s =>
    let n := widthOf o.m
    x.compute s .a (outs o.d (n / 32) fun l => wrapSat n (o.m.getLsbD 1) true (f (asInt n true (x.rdN (n / 32) o.a l))))

/-- Two sources, a bit pattern of n bits (R74). -/
def logic2 (i : Instr) (o : OpA) (f : Nat → Nat → Nat → Nat) (s : State) : Host.Outcome State Fault Refusal :=
  issue i s fun x s =>
    let n := widthOf o.m
    x.compute s .a (outs o.d (n / 32) fun l => f n (x.rdN (n / 32) o.a l) (x.rdN (n / 32) o.b l))

/-- One source, a result of n bits or of 32 (R74). -/
def logic1 (i : Instr) (o : OpA) (dn : Nat) (f : Nat → Nat → Nat) (s : State) : Host.Outcome State Fault Refusal :=
  issue i s fun x s =>
    let n := widthOf o.m
    x.compute s .a (outs o.d (if dn == 0 then n / 32 else dn) fun l => f n (x.rdN (n / 32) o.a l))

/-- Three 32-bit sources. -/
def logic3 (i : Instr) (o : OpA) (k : Cls) (f : Nat → Nat → Nat → Nat) (s : State) : Host.Outcome State Fault Refusal :=
  issue i s fun x s =>
    x.compute s k (out32 o.d fun l => BitVec.ofNat 32 (f (x.rd o.a l).toNat (x.rd o.b l).toNat (x.rd o.m l).toNat))

/-- Format B: one source and imm16. -/
def immediate (i : Instr) (o : OpB) (k : Cls) (f : Word → BitVec 16 → Word) (s : State) :
    Host.Outcome State Fault Refusal :=
  issue i s fun x s => x.compute s k (out32 o.d fun l => f (x.rd o.a l) o.imm)

/-- R75. -/
def shiftBy (i : Instr) (o : OpA) (kind : ShiftKind) (s : State) : Host.Outcome State Fault Refusal :=
  issue i s fun x s =>
    let n := widthOf o.m
    let amount (l : Nat) : Nat := if o.m.getLsbD 1 then fld o.m 7 2 else (x.rd o.b l).toNat % 256
    x.compute s .a (outs o.d (n / 32) fun l => shiftVal n kind (x.rdN (n / 32) o.a l) (amount l))

/-- A comparison to pd and its inverse to pn (R78). -/
def comparison (x : Ctx) (s : State) (k : Cls) (pd pn : Nat) (f : Nat → Bool) : State :=
  x.compute s k (outP pd f ++ outP pn fun l => !f l)

/-- R73: a lane whose divisor is zero raises 0x0B. -/
def divide (i : Instr) (o : OpA) (f : Int → Int → Int) (s : State) : Host.Outcome State Fault Refusal :=
  issue i s fun x s =>
    let n := widthOf o.m
    let sg := o.m.getLsbD 2
    let fs := (x.lanes.filter fun l => x.rdN (n / 32) o.b l == 0).map fun l => (⟨l, 0x0B, 0, 0⟩ : LaneFault)
    x.completeSome s fs (outs o.d (n / 32) fun l =>
      wrapSat n false sg (f (asInt n sg (x.rdN (n / 32) o.a l)) (asInt n sg (x.rdN (n / 32) o.b l))))

/-! ### The instructions -/

/-- MOV (R71). -/
def execMov (o : OpA) (s : State) : Host.Outcome State Fault Refusal := logic1 (.mov o) o 0 (fun _ a => a) s
/-- MOVI (R71): sign-extended imm24. -/
def execMovi (o : OpC) (s : State) : Host.Outcome State Fault Refusal :=
  issue (.movi o) s fun x s => x.compute s .a (out32 o.d fun _ => o.imm.signExtend 32)
/-- MOVH (R71). -/
def execMovh (o : OpB) (s : State) : Host.Outcome State Fault Refusal :=
  immediate (.movh o) o .a (fun a i => i ++ a.extractLsb' 0 16) s
/-- IADD (R71, R72). -/
def execIadd (o : OpA) (s : State) : Host.Outcome State Fault Refusal := arith2 (.iadd o) o .a (fun _ a b => a + b) s
/-- IADD, immediate (R71). -/
def execIaddImmediate (o : OpB) (s : State) : Host.Outcome State Fault Refusal :=
  immediate (.iaddImmediate o) o .a (fun a i => a + i.signExtend 32) s
/-- IADD3 (R71). -/
def execIadd3 (o : OpA) (s : State) : Host.Outcome State Fault Refusal :=
  logic3 (.iadd3 o) o .a (fun a b c => a + b + c) s
/-- ISUB (R71, R72). -/
def execIsub (o : OpA) (s : State) : Host.Outcome State Fault Refusal := arith2 (.isub o) o .a (fun _ a b => a - b) s
/-- IMUL (R71). -/
def execImul (o : OpA) (s : State) : Host.Outcome State Fault Refusal := arith2 (.imul o) o .b (fun _ a b => a * b) s
/-- IMUL, immediate (R71). -/
def execImulImmediate (o : OpB) (s : State) : Host.Outcome State Fault Refusal :=
  immediate (.imulImmediate o) o .b (fun a i => a * i.signExtend 32) s
/-- IMULH (R71): the high half of the exact product. -/
def execImulh (o : OpA) (s : State) : Host.Outcome State Fault Refusal :=
  arith2 (.imulh o) o .b (fun n a b => a * b / (2 : Int) ^ n) s
/-- IMAD (R71). -/
def execImad (o : OpA) (s : State) : Host.Outcome State Fault Refusal :=
  logic3 (.imad o) o .b (fun a b c => a * b + c) s
/-- IMADW (R71). -/
def execImadw (o : OpA) (s : State) : Host.Outcome State Fault Refusal :=
  issue (.imadw o) s fun x s =>
    x.compute s .b (outs o.d 2 fun l => ((x.rd o.a l).toNat * (x.rd o.b l).toNat + x.rdN 2 o.m l) % 2 ^ 64)
/-- IDIV (R73). -/
def execIdiv (o : OpA) (s : State) : Host.Outcome State Fault Refusal := divide (.idiv o) o Int.tdiv s
/-- IREM (R73). -/
def execIrem (o : OpA) (s : State) : Host.Outcome State Fault Refusal := divide (.irem o) o Int.tmod s
/-- IMIN (R71). -/
def execImin (o : OpA) (s : State) : Host.Outcome State Fault Refusal := arith2 (.imin o) o .a (fun _ a b => min a b) s
/-- IMAX (R71). -/
def execImax (o : OpA) (s : State) : Host.Outcome State Fault Refusal := arith2 (.imax o) o .a (fun _ a b => max a b) s
/-- IABS (R71, R72). -/
def execIabs (o : OpA) (s : State) : Host.Outcome State Fault Refusal := arith1 (.iabs o) o (fun a => (a.natAbs : Int)) s
/-- INEG (R71, R72). -/
def execIneg (o : OpA) (s : State) : Host.Outcome State Fault Refusal := arith1 (.ineg o) o (fun a => -a) s
/-- AND (R74). -/
def execAnd (o : OpA) (s : State) : Host.Outcome State Fault Refusal := logic2 (.and o) o (fun _ a b => a &&& b) s
/-- AND, immediate (R74). -/
def execAndImmediate (o : OpB) (s : State) : Host.Outcome State Fault Refusal :=
  immediate (.andImmediate o) o .a (fun a i => a &&& i.zeroExtend 32) s
/-- OR (R74). -/
def execOr (o : OpA) (s : State) : Host.Outcome State Fault Refusal := logic2 (.or o) o (fun _ a b => a ||| b) s
/-- OR, immediate (R74). -/
def execOrImmediate (o : OpB) (s : State) : Host.Outcome State Fault Refusal :=
  immediate (.orImmediate o) o .a (fun a i => a ||| i.zeroExtend 32) s
/-- XOR (R74). -/
def execXor (o : OpA) (s : State) : Host.Outcome State Fault Refusal := logic2 (.xor o) o (fun _ a b => a ^^^ b) s
/-- XOR, immediate (R74). -/
def execXorImmediate (o : OpB) (s : State) : Host.Outcome State Fault Refusal :=
  immediate (.xorImmediate o) o .a (fun a i => a ^^^ i.zeroExtend 32) s
/-- ANDN (R74). -/
def execAndn (o : OpA) (s : State) : Host.Outcome State Fault Refusal :=
  logic2 (.andn o) o (fun n a b => a &&& (2 ^ n - 1 - b)) s
/-- NOT (R74). -/
def execNot (o : OpA) (s : State) : Host.Outcome State Fault Refusal := logic1 (.not o) o 0 (fun n a => 2 ^ n - 1 - a) s
/-- SHL (R75). -/
def execShl (o : OpA) (s : State) : Host.Outcome State Fault Refusal := shiftBy (.shl o) o .left s
/-- SHR (R75). -/
def execShr (o : OpA) (s : State) : Host.Outcome State Fault Refusal := shiftBy (.shr o) o .right s
/-- SAR (R75). -/
def execSar (o : OpA) (s : State) : Host.Outcome State Fault Refusal := shiftBy (.sar o) o .arith s
/-- ROT (R75). -/
def execRot (o : OpA) (s : State) : Host.Outcome State Fault Refusal := shiftBy (.rot o) o .rot s
/-- FSHL (R76). -/
def execFshl (o : OpA) (s : State) : Host.Outcome State Fault Refusal :=
  logic3 (.fshl o) o .a (fun a b c => (a * 2 ^ 32 + b) * 2 ^ (c % 32) % 2 ^ 64 / 2 ^ 32) s
/-- BFX (R77). -/
def execBfx (o : OpA) (s : State) : Host.Outcome State Fault Refusal :=
  issue (.bfx o) s fun x s =>
    x.compute s .a (outs o.d 1 fun l => bfxVal (o.m.getLsbD 2) (x.rd o.a l).toNat (x.rd o.b l).toNat)
/-- BFI (R77). -/
def execBfi (o : OpA) (s : State) : Host.Outcome State Fault Refusal := logic3 (.bfi o) o .a bfiVal s
/-- POPC (R74). -/
def execPopc (o : OpA) (s : State) : Host.Outcome State Fault Refusal := logic1 (.popc o) o 1 popcount s
/-- CLZ (R74). -/
def execClz (o : OpA) (s : State) : Host.Outcome State Fault Refusal := logic1 (.clz o) o 1 leadingZeros s
/-- BREV (R74). -/
def execBrev (o : OpA) (s : State) : Host.Outcome State Fault Refusal := logic1 (.brev o) o 0 bitReverse s
/-- SEL (R80). -/
def execSel (o : OpA) (s : State) : Host.Outcome State Fault Refusal :=
  issue (.sel o) s fun x s =>
    let n := if o.m.getLsbD 4 then 2 else 1
    x.compute s .a (outs o.d n fun l =>
      if x.pred (fld o.m 2 0) l != o.m.getLsbD 3 then x.rdN n o.a l else x.rdN n o.b l)
/-- ISETP (R78). -/
def execIsetp (o : OpA) (s : State) : Host.Outcome State Fault Refusal :=
  issue (.isetp o) s fun x s =>
    let n := if o.d.getLsbD 3 then 64 else 32
    let sg := o.d.getLsbD 4
    comparison x s .a (fld o.d 2 0) (fld o.m 6 4) fun l =>
      compareVal (fld o.d 7 5) (asInt n sg (x.rdN (n / 32) o.a l)) (asInt n sg (x.rdN (n / 32) o.b l))
/-- ISETP, immediate (R78). -/
def execIsetpImmediate (o : OpB) (s : State) : Host.Outcome State Fault Refusal :=
  issue (.isetpImmediate o) s fun x s =>
    let n := if o.d.getLsbD 3 then 64 else 32
    let sg := o.d.getLsbD 4
    x.compute s .a (outP (fld o.d 2 0) fun l =>
      compareVal (fld o.d 7 5) (asInt n sg (x.rdN (n / 32) o.a l)) (asInt 16 sg o.imm.toNat))
/-- PLOP (R79). -/
def execPlop (o : OpA) (s : State) : Host.Outcome State Fault Refusal :=
  issue (.plop o) s fun x s =>
    let bit (p l : Nat) : Nat := if x.pred p l then 1 else 0
    comparison x s .a (fld o.d 2 0) (fld o.d 6 4) fun l =>
      o.m.getLsbD (bit (fld o.a 2 0) l + 2 * bit (fld o.a 6 4) l + 4 * bit (fld o.b 2 0) l)
/-- LEA (R81). -/
def execLea (o : OpA) (s : State) : Host.Outcome State Fault Refusal :=
  issue (.lea o) s fun x s =>
    x.compute s .a (outs o.d 2 fun l =>
      wrapSat 64 false false ((x.rdN 2 o.a l : Int) +
        asInt 32 (o.m.getLsbD 3) (x.rd o.b l).toNat * (2 : Int) ^ (fld o.m 2 0)))
/-- NADD (R82). -/
def execNadd (o : OpA) (s : State) : Host.Outcome State Fault Refusal :=
  issue (.nadd o) s fun x s =>
    let v (l : Nat) := naddVal s.chart (x.rd o.a l).toNat (x.rd o.b l).toNat
    x.compute s .a (out32 o.d (fun l => BitVec.ofNat 32 ((v l).getD 0x00FFFFFF)) ++ outP (fld o.m 2 0) fun l => (v l).isSome)

end Sys2Proof.Machine
end

