-- ==== Sys2Proof/Machine/FloatOps.lean ====
section
/-! DEFINITION. Floating-point, packed and conversion instructions (R108-R135). -/

namespace Sys2Proof.Machine

/-- Low 16 bits for a 16-bit format, all 32 for FP32 (R108). -/
def scalarBits (f : Fmt) (w : Word) : Nat := w.toNat % 2 ^ (f.body + 1)

/-- R116: two sources under type, rounding and saturation fields. -/
def float2 (i : Instr) (o : OpA) (op : Bool → Fmt → Rnd → FV → FV → Nat) (s : State) : Host.Outcome State Fault Refusal :=
  issue i s fun x s =>
    let f := fmtOf (fld o.m 1 0)
    let z := x.g.ftz
    let val (l : Nat) : Nat :=
      let v := op z f (rndOf (fld o.m 3 2)) (readF z f (scalarBits f (x.rd o.a l))) (readF z f (scalarBits f (x.rd o.b l)))
      if o.m.getLsbD 4 then satUnit f v else v
    x.compute s .b (outs o.d 1 val)

/-- One source under type and rounding fields. -/
def float1 (i : Instr) (o : OpA) (op : Bool → Fmt → Rnd → Nat → Nat) (s : State) : Host.Outcome State Fault Refusal :=
  issue i s fun x s =>
    let f := fmtOf (fld o.m 1 0)
    x.compute s .b (outs o.d 1 fun l => op x.g.ftz f (rndOf (fld o.m 3 2)) (scalarBits f (x.rd o.a l)))

/-- R121: a correctly rounded function of one FP32 operand, class V. -/
def special1 (i : Instr) (o : OpA) (f : Bool → FV → Nat) (s : State) : Host.Outcome State Fault Refusal :=
  issue i s fun x s =>
    x.complete s (outs o.d 1 fun l => f x.g.ftz (readF x.g.ftz .f32 (x.rd o.a l).toNat))

/-- R124: both halves. -/
def packedF (i : Instr) (o : OpA) (op : Bool → Fmt → FV → FV → FV → Nat) (s : State) : Host.Outcome State Fault Refusal :=
  issue i s fun x s =>
    let f := if o.m.getLsbD 0 then Fmt.bf16 else Fmt.f16
    let half (h l : Nat) : Nat :=
      let g (c : BitVec 8) : FV := readF x.g.ftz f ((x.rd c l).toNat / 2 ^ (16 * h) % 65536)
      op x.g.ftz f (g o.a) (g o.b) (g o.d)
    x.compute s .b (outs o.d 1 fun l => half 0 l + 65536 * half 1 l)

/-- R125: both halves as integers. -/
def packedI (i : Instr) (o : OpA) (op : Int → Int → Int) (s : State) : Host.Outcome State Fault Refusal :=
  issue i s fun x s =>
    let sg := o.m.getLsbD 0
    let half (h l : Nat) : Nat :=
      let g (c : BitVec 8) : Int := asInt 16 sg ((x.rd c l).toNat / 2 ^ (16 * h) % 65536)
      wrapSat 16 (o.m.getLsbD 1) sg (op (g o.a) (g o.b))
    x.compute s .b (outs o.d 1 fun l => half 0 l + 65536 * half 1 l)

/-- R127: the rounding of a narrowing conversion. -/
def narrowRnd (legacy : Bool) (r : Rnd) : Rnd := if legacy && r == .rn then .rz else r

/-- A narrowing conversion: values and saturation by lane; a uniform result counts once (R109, R127). -/
def narrow (x : Ctx) (s : State) (d : BitVec 8) (val : Nat → Nat × Bool) : State :=
  let ls := if isUni d then [x.low] else x.lanes
  x.narrowing s (outs d 1 fun l => (val l).1) (ls.filter fun l => (val l).2).length

/-! ### The instructions -/

/-- FADD (R116). -/
def execFadd (o : OpA) (s : State) : Host.Outcome State Fault Refusal := float2 (.fadd o) o addF s
/-- FSUB (R116). -/
def execFsub (o : OpA) (s : State) : Host.Outcome State Fault Refusal :=
  float2 (.fsub o) o (fun z f r a b => addF z f r a b.neg) s
/-- FMUL (R116). -/
def execFmul (o : OpA) (s : State) : Host.Outcome State Fault Refusal := float2 (.fmul o) o mulF s
/-- FFMA (R116): FP32, to nearest, one rounding. -/
def execFfma (o : OpA) (s : State) : Host.Outcome State Fault Refusal :=
  issue (.ffma o) s fun x s =>
    let g (c : BitVec 8) (l : Nat) : FV := readF x.g.ftz .f32 (x.rd c l).toNat
    x.compute s .b (outs o.d 1 fun l => fmaF x.g.ftz .f32 .rn (g o.a l) (g o.b l) (g o.m l))
/-- FMIN (R117). -/
def execFmin (o : OpA) (s : State) : Host.Outcome State Fault Refusal :=
  issue (.fmin o) s fun x s =>
    let f := fmtOf (fld o.m 1 0)
    x.compute s .b (outs o.d 1 fun l => minF f x.g.ftz (scalarBits f (x.rd o.a l)) (scalarBits f (x.rd o.b l)) false)
/-- FMAX (R117). -/
def execFmax (o : OpA) (s : State) : Host.Outcome State Fault Refusal :=
  issue (.fmax o) s fun x s =>
    let f := fmtOf (fld o.m 1 0)
    x.compute s .b (outs o.d 1 fun l => minF f x.g.ftz (scalarBits f (x.rd o.a l)) (scalarBits f (x.rd o.b l)) true)
/-- The test of FSETP (R118). -/
def fsetpVal (code : Nat) (a b : FV) : Bool :=
  let nan := a.isNan || b.isNan
  match code with
  | 0 => !nan && !a.lt b && !b.lt a
  | 1 => nan || a.lt b || b.lt a
  | 2 => a.lt b
  | 3 => !nan && !b.lt a
  | 4 => b.lt a
  | 5 => !nan && !a.lt b
  | 6 => !nan
  | _ => nan
/-- FSETP (R118). -/
def execFsetp (o : OpA) (s : State) : Host.Outcome State Fault Refusal :=
  issue (.fsetp o) s fun x s =>
    let f := fmtOf (fld o.d 7 6)
    let g (c : BitVec 8) (l : Nat) : FV := readF x.g.ftz f (scalarBits f (x.rd c l))
    comparison x s .b (fld o.d 2 0) (fld o.m 2 0) fun l => fsetpVal (fld o.d 5 3) (g o.a l) (g o.b l)
/-- FCLASS (R119). -/
def execFclass (o : OpA) (s : State) : Host.Outcome State Fault Refusal :=
  float1 (.fclass o) o (fun _ f _ v => fclassF f v) s
/-- FRND (R120). -/
def execFrnd (o : OpA) (s : State) : Host.Outcome State Fault Refusal := float1 (.frnd o) o frndF s
/-- FEXP (R120). -/
def execFexp (o : OpA) (s : State) : Host.Outcome State Fault Refusal :=
  float1 (.fexp o) o (fun z f _ v => (fexpF z f v).toNat) s
/-- FLDEXP (R120). -/
def execFldexp (o : OpA) (s : State) : Host.Outcome State Fault Refusal :=
  issue (.fldexp o) s fun x s =>
    let f := fmtOf (fld o.m 1 0)
    x.compute s .b (outs o.d 1 fun l =>
      fldexpF x.g.ftz f (rndOf (fld o.m 3 2)) (scalarBits f (x.rd o.a l)) (x.rd o.b l).toInt)
/-- FRCP (R121-R123). -/
def execFrcp (o : OpA) (s : State) : Host.Outcome State Fault Refusal := special1 (.frcp o) o frcpF s
/-- FRSQ (R121-R123). -/
def execFrsq (o : OpA) (s : State) : Host.Outcome State Fault Refusal := special1 (.frsq o) o frsqF s
/-- FSQRT (R121-R123). -/
def execFsqrt (o : OpA) (s : State) : Host.Outcome State Fault Refusal := special1 (.fsqrt o) o fsqrtF s
/-- EX2 (R121-R123). -/
def execEx2 (o : OpA) (s : State) : Host.Outcome State Fault Refusal := special1 (.ex2 o) o ex2F s
/-- LG2 (R121-R123). -/
def execLg2 (o : OpA) (s : State) : Host.Outcome State Fault Refusal := special1 (.lg2 o) o lg2F s
/-- SIN (R121-R123). -/
def execSin (o : OpA) (s : State) : Host.Outcome State Fault Refusal := special1 (.sin o) o (fun z v => trigF z 0 v) s
/-- COS (R121-R123). -/
def execCos (o : OpA) (s : State) : Host.Outcome State Fault Refusal := special1 (.cos o) o (fun z v => trigF z 1 v) s

/-- R129: the integer that a value rounds and clamps to, as an n-bit pattern. -/
def f2iVal (n : Nat) (signed : Bool) (r : Rnd) (v : FV) : Nat :=
  match v with
  | .nan => 0
  | .inf neg => wrapSat n true signed (if neg then -(2 : Int) ^ 64 else (2 : Int) ^ 64)
  | .fin neg m e =>
    let k : Int := (integral r neg m e : Nat)
    wrapSat n true signed (if neg then -k else k)
/-- F2I (R129). -/
def execF2i (o : OpA) (s : State) : Host.Outcome State Fault Refusal :=
  issue (.f2i o) s fun x s =>
    let f := fmtOf (fld o.m 1 0)
    let n := if o.m.getLsbD 3 then 64 else 32
    x.compute s .b (outs o.d (n / 32) fun l =>
      f2iVal n (!o.m.getLsbD 2) (rndOf (fld o.m 5 4)) (readF x.g.ftz f (scalarBits f (x.rd o.a l))))

/-- R130: the code of an integer, and saturation. -/
def i2fVal (ftz : Bool) (f : Fmt) (r : Rnd) (v : Int) : Nat × Bool :=
  if v == 0 then (0, false)
  else
    let q := roundF f r (decide (v < 0)) v.natAbs 0
    let c := satCode f (decide (v < 0)) q.1 q.2
    (flushCode ftz f c.1, c.2)
/-- I2F (R130). -/
def execI2f (o : OpA) (s : State) : Host.Outcome State Fault Refusal :=
  issue (.i2f o) s fun x s =>
    let f := fmtOf (fld o.m 1 0)
    let n := if o.m.getLsbD 3 then 64 else 32
    narrow x s o.d fun l =>
      i2fVal x.g.ftz f (narrowRnd x.g.legacyRound (rndOf (fld o.m 5 4))) (asInt n (!o.m.getLsbD 2) (x.rdN (n / 32) o.a l))

/-- Is the pair of types narrowing (R128)? -/
def f2fNarrows (dst src : Nat) : Bool := dst != 0 && dst != src
/-- R128: the converted code, and saturation. -/
def f2fVal (ftz : Bool) (dst src : Fmt) (r : Rnd) (v : Nat) : Nat × Bool :=
  match readF ftz src v with
  | .nan => (dst.nan, false)
  | .inf neg => (infBits dst neg, false)
  | .fin neg m e =>
    if m == 0 then (signBits dst neg, false)
    else
      let q := roundF dst r neg m e
      let c := satCode dst neg q.1 q.2
      (flushCode ftz dst c.1, c.2)
/-- Does ftz act on the pair (R115, R151)? DEDUCED (log 70): on none that widens to FP32, which R128 calls exact. -/
def f2fFtz (ftz : Bool) (dst src : Nat) : Bool := ftz && !(dst == 0 && src != 0)
/-- F2F (R128). -/
def execF2f (o : OpA) (s : State) : Host.Outcome State Fault Refusal :=
  issue (.f2f o) s fun x s =>
    let dst := fld o.m 3 2
    let src := fld o.m 1 0
    let val (r : Rnd) (l : Nat) := f2fVal (f2fFtz x.g.ftz dst src) (fmtOf dst) (fmtOf src) r (scalarBits (fmtOf src) (x.rd o.a l))
    if f2fNarrows dst src then narrow x s o.d (val (narrowRnd x.g.legacyRound (rndOf (fld o.m 5 4))))
    else x.compute s .b (outs o.d 1 fun l => (val .rn l).1)

/-- Replace `w` bits of `old` at bit `p`. -/
def insertBits (old p w v : Nat) : Nat := old - (old / 2 ^ p % 2 ^ w) * 2 ^ p + (v % 2 ^ w) * 2 ^ p
/-- Bits of an element position of CVTQ and CVTX: 4 for the nibble formats, 8 for the others (R131). -/
def elemBits (fmt : Nat) : Nat := if fmt == 4 || fmt == 5 then 4 else 8
/-- CVTQ (R131-R133). -/
def execCvtq (o : OpA) (s : State) : Host.Outcome State Fault Refusal :=
  issue (.cvtq o) s fun x s =>
    let fmt := fld o.m 2 0
    let w := elemBits fmt
    let p := 2 * w * fld o.m 4 3
    narrow x s o.d fun l =>
      let e0 := cvtqElem x.g.ftz x.g.legacyRound fmt (x.rd o.a l).toNat
      let e1 := cvtqElem x.g.ftz x.g.legacyRound fmt (x.rd o.b l).toNat
      (insertBits (insertBits (x.rd o.d l).toNat p w e0.1) (p + w) w e1.1, e0.2 || e1.2)

/-- The value of one element code of CVTX (R134): 0-4 narrow floats, 5 QN4, 6 E8M0, 7 S9. -/
def cvtxRead (src code : Nat) : FV :=
  if src == 5 then qn4FV code else if src == 6 then e8FV code else if src == 7 then s9FV code
  else decodeF (narrowFmt src) (code % 2 ^ ((narrowFmt src).body + 1))
/-- CVTX (R134). -/
def execCvtx (o : OpA) (s : State) : Host.Outcome State Fault Refusal :=
  issue (.cvtx o) s fun x s =>
    let src := fld o.m 2 0
    let dst := fmtOf (fld o.m 6 5)
    let w := if src == 7 then 16 else elemBits src
    let p := 2 * w * fld o.m 4 3
    let elem (k l : Nat) : Nat := roundFV false dst .rn (cvtxRead src ((x.rd o.a l).toNat / 2 ^ (p + w * k) % 2 ^ w))
    if fld o.m 6 5 == 0 then x.compute s .b (outs o.d 2 fun l => elem 0 l + 2 ^ 32 * elem 1 l)
    else x.compute s .b (outs o.d 1 fun l => elem 0 l + 65536 * elem 1 l)

/-- R135. -/
def prmtVal (a b sel : Nat) : Nat :=
  let bytes := a + 2 ^ 32 * b
  ((List.range 4).map fun i =>
    let v := bytes / 256 ^ (sel / 8 ^ i % 8) % 256
    let v := if sel.testBit (12 + i) then (if 128 ≤ v then 255 else 0) else v
    (if sel.testBit (16 + i) then 0 else v) * 256 ^ i).sum
/-- PRMT (R135). -/
def execPrmt (o : OpA) (s : State) : Host.Outcome State Fault Refusal := logic3 (.prmt o) o .a prmtVal s

/-- HADD2 (R124). -/
def execHadd2 (o : OpA) (s : State) : Host.Outcome State Fault Refusal :=
  packedF (.hadd2 o) o (fun z f a b _ => addF z f .rn a b) s
/-- HMUL2 (R124). -/
def execHmul2 (o : OpA) (s : State) : Host.Outcome State Fault Refusal :=
  packedF (.hmul2 o) o (fun z f a b _ => mulF z f .rn a b) s
/-- HFMA2 (R124): the destination is the third source. -/
def execHfma2 (o : OpA) (s : State) : Host.Outcome State Fault Refusal :=
  packedF (.hfma2 o) o (fun z f a b c => fmaF z f .rn a b c) s
/-- VADD2 (R125). -/
def execVadd2 (o : OpA) (s : State) : Host.Outcome State Fault Refusal := packedI (.vadd2 o) o (fun a b => a + b) s
/-- VSUB2 (R125). -/
def execVsub2 (o : OpA) (s : State) : Host.Outcome State Fault Refusal := packedI (.vsub2 o) o (fun a b => a - b) s
/-- VMAX2 (R125). -/
def execVmax2 (o : OpA) (s : State) : Host.Outcome State Fault Refusal := packedI (.vmax2 o) o (fun a b => max a b) s
/-- VMIN2 (R125). -/
def execVmin2 (o : OpA) (s : State) : Host.Outcome State Fault Refusal := packedI (.vmin2 o) o (fun a b => min a b) s

/-- R126: the survivor halves of a lane, and its two decision bits. -/
def acs2Val (a b : Nat) : Nat × Nat :=
  let pick (h : Nat) : Nat × Nat :=
    let p := a / 2 ^ (16 * h) % 65536
    let q := b / 2 ^ (16 * h) % 65536
    if asInt 16 true p < asInt 16 true q then (q, 1) else (p, 0)
  ((pick 0).1 + 65536 * (pick 1).1, (pick 0).2 + 2 * (pick 1).2)
/-- ACS2 (R126). -/
def execAcs2 (o : OpA) (s : State) : Host.Outcome State Fault Refusal :=
  let words (g : Grid) : Nat := if g.width == 64 then 4 else 2
  issueIf (.acs2 o) s (fun _ _ => true)
    (fun x _ => dstOk o.m (words x.g) .uniOnly && allocOk x.g { dsts := [(o.m, words x.g, .uniOnly)] })
    fun x s =>
      let v (l : Nat) := acs2Val (x.rd o.a l).toNat (x.rd o.b l).toNat
      let bitsOf (f : Nat → Nat) : Nat := (x.lanes.map fun l => f l * 4 ^ l).sum
      let s1 := x.compute s .b (outs o.d 1 fun l => (v l).1)
      s1.modCohort x.r.c fun c =>
        { c with pend := c.pend ++ (outs o.m (words x.g) fun _ => bitsOf fun l => (v l).2).mapIdx fun k r =>
            { x.pendOf .b x.ex r with bits := BitVec.ofNat 32 (bitsOf (fun _ => 3) / 2 ^ (32 * k)) } }

end Sys2Proof.Machine
end

