-- ==== Sys2Proof/Machine/Mmio.lean ====
section
/-! DEFINITION. Region 3: the control registers and the seating chart as bytes (R410, R411, R257), and reading a byte of any
region. -/

namespace Sys2Proof.Machine

/-- BSTAT (R419). -/
def State.bstat (s : State) : Nat := s.bstate + s.chart.grade * 2 ^ 10 + s.fwslot * 2 ^ 12 + s.mapcopy * 2 ^ 13

def boolBit (b : Bool) (k : Nat) : Nat := if b then 2 ^ k else 0

/-- PSTAT (R411). -/
def PortRegs.pstat (p : PortRegs) : Nat :=
  boolBit p.drop 0 + boolBit p.refused 1 + boolBit p.notowner 2 + boolBit p.partialPost 3 + boolBit p.badtarget 4

/-- Offset of a port's register block (R410). -/
def portBase : Port → Nat
  | .a => 0x10000
  | .b => 0x20000

/-- The writes of a port that are not performed yet (R273). -/
def State.hostWrites (s : State) (p : Port) : List Access := s.flight.filter fun a => a.op == .host p

/-- Does a read of region 3 include the fence register of a port that has writes to perform (R273)? -/
def State.fenceHolds (s : State) (off n : Nat) : Bool :=
  [Port.a, Port.b].any fun p => decide (off < portBase p + 0x48) && decide (portBase p + 0x40 < off + n) && !(s.hostWrites p).isEmpty

/-- Register of a port block at an 8-byte offset (R411); POST reads zero, and so does PFENCE where a read of it is answered. -/
def PortRegs.reg (p : PortRegs) (off : Nat) : Nat :=
  match off with
  | 0x48 => p.pstat
  | 0x50 => p.pptb.toNat
  | 0x58 => p.phptb.toNat
  | 0x60 => p.pwin.toNat
  | 0x68 => p.lastid
  | 0x70 => p.pgrid.toNat
  | _ => 0

/-- Rows and columns of a rectangle's grade array, with the domains that hold its cores. -/
def rectDomains (r : Rect) : Nat :=
  ((List.range 84).filter fun d =>
    decide (r.col < (d % 12) * 8 + 8) && decide ((d % 12) * 8 < r.col + r.cols) &&
      decide (r.row < (d / 12) * 8 + 8) && decide ((d / 12) * 8 < r.row + r.rows)).foldl (fun m d => m + 2 ^ d) 0

/-- Offsets of the grade arrays, one rectangle after another. -/
def gradeOffsets : Nat → List Rect → List Nat
  | _, [] => []
  | o, r :: rs => o :: gradeOffsets (o + 4 * r.rows * r.cols) rs

/-- The seating chart as bytes (R257); before a roll call there is none. -/
def chartBytes (h : Chart) : List Byte :=
  if h.rects.isEmpty then [] else
  let n := h.rects.length
  let offs := gradeOffsets (0x40 + 32 * n) h.rects
  let total := h.rects.foldl (fun t r => t + 4 * r.rows * r.cols) (0x40 + 32 * n)
  let head := leBytes 4 1 ++ leBytes 2 n ++ leBytes 2 h.detours.length ++ leBytes 4 h.gcores ++ leBytes 4 0x40 ++
    leBytes 4 total ++ leBytes 44 0
  let recs := (h.rects.zip offs).flatMap fun p =>
    leBytes 2 p.1.col ++ leBytes 2 p.1.row ++ leBytes 1 p.1.rows ++ leBytes 1 p.1.cols ++ leBytes 2 0 ++
      leBytes 16 (rectDomains p.1) ++ leBytes 4 p.2 ++ leBytes 4 0
  let grade (col row q : Nat) : Nat :=
    match h.grades.find? fun g => g.1 == 96 * row + col && g.2.1 == q with
    | some g => g.2.2
    | none => 1
  let grades := h.rects.flatMap fun r =>
    (List.range r.rows).flatMap fun i => (List.range r.cols).flatMap fun j =>
      (List.range 4).map fun q => BitVec.ofNat 8 (grade (r.col + j) (r.row + i) q)
  let dets := h.detours.flatMap fun d =>
    [d.col, d.row, d.dir, d.planes, d.side, d.hops, d.partner, 0].map fun v => BitVec.ofNat 8 v
  head ++ recs ++ grades ++ dets

/-- Offset in the chart of a quadrant's grade byte. -/
def gradeByteAt (h : Chart) (name q : Nat) : Option Nat :=
  match h.rects[name / 65536]?, (gradeOffsets (0x40 + 32 * h.rects.length) h.rects)[name / 65536]? with
  | some r, some o => some (o + 4 * (name / 256 % 256 * r.cols + name % 256) + q)
  | _, _ => none

/-- The 8 bytes of region 3 at an aligned offset below the chart (R410, R422). -/
def State.mmio8 (s : State) (off : Nat) : Nat :=
  if off == 0 then s.msem
  else if off == 0x08 then s.bstat
  else if off == 0x10 then s.pgidle
  else if 0x100 ≤ off && off < 0x180 then (tget 0 s.ewin ((off - 0x100) / 8)).toNat
  else if 0x200 ≤ off && off < 0x300 then (tget 0 s.ein ((off - 0x200) / 8)).toNat
  else if 0x10000 ≤ off && off < 0x10078 then s.portA.reg (off - 0x10000)
  else if 0x20000 ≤ off && off < 0x20078 then s.portB.reg (off - 0x20000)
  else if off == 0x30000 then s.mailbox.domain * 256 + s.mailbox.cmd
  else if off == 0x30008 then s.mailbox.status
  else if off == 0x30010 then s.mailbox.buffer
  else if 0x30040 ≤ off && off < 0x30080 then leNat (s.mailbox.nonce.drop (off - 0x30040) |>.take 8)
  else 0

/-- A byte of region 3. -/
def State.mmioByte (s : State) (off : Nat) : Byte :=
  if 0x100000 ≤ off then (chartBytes s.chart).getD (off - 0x100000) 0
  else BitVec.ofNat 8 (s.mmio8 (off / 8 * 8) / 256 ^ (off % 8))

/-- A byte of the physical address space as an agent of this module reads it. -/
def State.readPhys (s : State) (pa : Nat) : Byte :=
  if paRegion pa == 3 then s.mmioByte (pa % 2 ^ 44) else s.readMem pa

end Sys2Proof.Machine
end

