-- ==== Sys2Proof/Machine/Scratch.lean ====
section
/-! DEFINITION. The scratchpad of a block: bounds, bytes, forwarding of writes to subscription entries (R334-R336), the
completion of byte-count barrier objects (R210, R211), and what those changes release. -/

namespace Sys2Proof.Machine

/-- R101 step 2 for a scratchpad range. -/
def inScratch (g : Grid) (off n : Nat) : Bool :=
  decide (off + n ≤ g.scratchBytes) || (g.pair && (decide (524288 ≤ off) || g.scratchBytes == 524288) &&
    decide (off + n ≤ 524288 + g.scratchBytes))

def Block.sbyte (b : Block) (off : Nat) : Byte := tget 0 b.scratch off
def Block.sread (b : Block) (off n : Nat) : List Byte := (List.range n).map fun i => b.sbyte (off + i)
def Block.sval (b : Block) (off n : Nat) : Nat := leNat (b.sread off n)

/-- The core whose scratchpad half holds an offset (R163, R333). -/
def Block.coreOf (b : Block) (off : Nat) : Nat := if off < 524288 then b.core else b.core2.getD b.core

/-! ### Packets (R335, R336) -/

def Access.hasLane (a : Access) (l : Nat) : Bool :=
  match a.op with
  | .atomic _ _ _ _ ls => ls.any fun p => p.1 == l
  | _ => a.lane == l


/-- Close the open chunk of an entry into a packet, unless 64 are outstanding. -/
def State.closeChunk (s : State) (core id : Nat) : State :=
  match (s.core core).subs.find? fun e => e.id == id with
  | some e =>
    match (if e.outstanding < 64 then e.chunk else none) with
    | some (k, bytes, _) =>
      let p : Packet := { id := s.fresh, core := core, entry := id, sub := e.sub, n := e.n, seq := e.seq, chunk := k, bytes := bytes }
      let s := { s.bump with packets := s.packets ++ [p] }
      s.modCore core fun c => { c with subs := c.subs.map fun f =>
        if f.id == id then { f with chunk := none, seq := (f.seq + 1) % 65536, outstanding := f.outstanding + 1 } else f }
    | none => s
  | none => s

/-- The part of a write that falls into an entry's range, as offsets in the range. -/
def SubEntry.inRange (e : SubEntry) (ws : List (Nat × Byte)) : List (Nat × Byte) :=
  ws.filterMap fun w => if e.puboff ≤ w.1 ∧ w.1 < e.puboff + e.length then some (w.1 - e.puboff, w.2) else none

/-- Forward one byte to an entry: it joins the open chunk, or closes it and opens another (R335). -/
def State.forwardByte (core id : Nat) (s : State) (w : Nat × Byte) : State :=
  let k := w.1 / 64
  let s :=
    match ((s.core core).subs.find? fun e => e.id == id).bind (·.chunk) with
    | some (k', _, _) => if k' == k then s else s.closeChunk core id
    | none => s
  s.modCore core fun c => { c with subs := c.subs.map fun f =>
    if f.id == id then
      match f.chunk with
      | some (k', bs, t) => { f with chunk := some (k', (bs.filter fun p => p.1 != w.1 % 64) ++ [(w.1 % 64, w.2)], t) }
      | none => { f with chunk := some (k, [(w.1 % 64, w.2)], s.cycle) }
    else f }

/-- R334, R300: the entries of the block that a write touches, from the moment at which they stand. -/
def State.entriesFor (s : State) (b : Block) (ws : List (Nat × Byte)) : List (Nat × SubEntry) :=
  ((b.core :: b.core2.toList).flatMap fun k => (s.core k).subs.map fun e => (k, e)).filter fun p =>
    p.2.pub == b.ref && p.2.state != 0 && !p.2.ended && !(p.2.inRange ws).isEmpty

/-- Forward a write to every standing entry that covers some of it, in ascending address order. -/
def State.forward (s : State) (br : BRef) (ws : List (Nat × Byte)) : State :=
  match s.block? br with
  | none => s
  | some b =>
    (s.entriesFor b ws).foldl (fun s p => (p.2.inRange ws).foldl (State.forwardByte p.1 p.2.id) s) s

/-- Forward what stands at these offsets, in ascending address order: the bytes that one instruction has written (R335). -/
def State.forwardAll (s : State) (br : BRef) (offs : List Nat) : State :=
  match s.block? br with
  | none => s
  | some b => s.forward br ((rising offs).map fun k => (k, b.sbyte k))

def Access.isFixed (a : Access) : Bool := match a.stage with | .fixed _ _ => true | _ => false

/-- Writes of a block's scratchpad that have issued and are not performed. -/
def State.scratchWrites (s : State) (br : BRef) : List Access :=
  s.flight.filter fun a => a.scratch && a.c.b == br && a.op != .load && !a.isFixed

def Access.offsets (a : Access) : List Nat := (List.range a.size).map fun k => a.pa + k

/-- Chunks that bytes written in this order close in an entry (R335). -/
def SubEntry.closings (e : SubEntry) (offs : List Nat) : Nat :=
  (((e.inRange (offs.map fun k => (k, 0))).map fun w => w.1 / 64).foldl (fun (q : Option Nat × Nat) k =>
    if q.1 == some k then q else (some k, if q.1.isSome then q.2 + 1 else q.2)) (e.chunk.map (·.1), 0)).2

/-- Would a write that is performed now close a 65th packet (R336)? -/
def State.overflows (s : State) (br : BRef) (offs : List Nat) : Bool :=
  match s.block? br with
  | none => false
  | some b => (s.entriesFor b (offs.map fun k => (k, 0))).any fun p => decide (64 < p.2.outstanding + p.2.closings offs)

/-- Would the write of an instruction that issues now close a 65th packet, after the writes that have issued before it (R336)? -/
def State.wouldOverflow (s : State) (br : BRef) (ws : List (Nat × Byte)) : Bool :=
  match s.block? br with
  | none => false
  | some b =>
    let before := (s.scratchWrites br).flatMap Access.offsets
    (s.entriesFor b ws).any fun p => decide (64 < p.2.outstanding + p.2.closings (before ++ rising (ws.map (·.1))))

/-- Do earlier writes of these lanes of the cohort, or of the instruction `uid`, still have to be performed in a range that covers one of
the offsets? A subscription's updates follow the publisher's store order (R271). -/
def State.storesBefore (s : State) (c : CRef) (ls : List Nat) (uid id : Nat) (offs : List Nat) : Bool :=
  match s.block? c.b with
  | none => false
  | some b =>
    let es := s.entriesFor b (offs.map fun k => (k, 0))
    (s.scratchWrites c.b).any fun q => decide (q.id < id) && (q.uid == uid || (q.c == c && ls.any q.hasLane)) &&
      es.any fun e => !(e.2.inRange (q.offsets.map fun k => (k, 0))).isEmpty

/-- Does any standing entry of the block cover some byte of the write (R225)? -/
def State.publishes (s : State) (br : BRef) (offs : List Nat) : Bool :=
  match s.block? br with
  | none => false
  | some b => !(s.entriesFor b (offs.map fun o => (o, 0))).isEmpty

/-! ### Writing the scratchpad -/

/-- The phase bit of a byte-count barrier object (R210). -/
def Block.barbPhase (b : Block) (off : Nat) : Bool := (b.sval off 8).testBit 63

/-- BARB.WAITs of the block whose object's phase has moved: their lanes are done, and a split with none left goes on (R211). -/
def State.wakeBarb (s : State) (br : BRef) : State :=
  match s.block? br with
  | none => s
  | some b =>
    b.cohorts.foldl (fun s c => c.splits.foldl (fun s p =>
      match p.hold with
      | some h =>
        match h.kind with
        | .barb left =>
          let left' := left.filter fun q => b.barbPhase q.2.1 == q.2.2
          let r : SRef := ⟨⟨br, c.id⟩, p.id⟩
          if left'.isEmpty then (s.finishIssue h.uid).release r 0
          else s.modSplit r fun p => { p with hold := some { h with kind := .barb left' } }
        | _ => s
      | none => s) s) s

/-- Write bytes of a block's scratchpad. `fwd`: a write that R334 forwards. -/
def State.scratchWrite (s : State) (br : BRef) (ws : List (Nat × Byte)) (fwd : Bool) : State :=
  let s := s.modBlock br fun b => { b with scratch := tputs 0 ws b.scratch }
  let s := if fwd then s.forward br ws else s
  s.wakeBarb br

/-- Bytes of a value at an offset. -/
def bytesAt (off n v : Nat) : List (Nat × Byte) := (leBytes n v).mapIdx fun i x => (off + i, x)

/-- Change a byte-count barrier object by `delta` bytes still due and complete it when armed and due nothing (R211). -/
def barbStep (v : Nat) (arm : Bool) (delta : Int) : Nat :=
  let phase := v.testBit 63
  let armed := v.testBit 62 || arm
  let mid := v / 2 ^ 32 % 2 ^ 30
  let due := (((v % 2 ^ 32 : Nat) : Int) + delta) % (2 : Int) ^ 32 |>.toNat
  let fin := armed && due == 0
  due + mid * 2 ^ 32 + boolBit (armed && !fin) 62 + boolBit (phase != fin) 63

/-- Change a byte-count barrier object of a block; the change is not forwarded by this operation. -/
def State.barbAdd (s : State) (br : BRef) (off : Nat) (arm : Bool) (delta : Int) : State :=
  match s.block? br with
  | none => s
  | some b => s.scratchWrite br (bytesAt off 8 (barbStep (b.sval off 8) arm delta)) false

end Sys2Proof.Machine
end

