-- ==== Sys2Proof/Machine/Banks.lean ====
section
/-! DEFINITION. The caches and the fabric under the memory instructions: packets on the mesh (R252-R255), the L1s with their leases and
miss-status entries (R239, R246), the L2 banks with home lines and visitor copies (R231, R244), the home directory (R242), signatures
(R241), and the banks' recesses and power (R249, R258). Values lie in State.mem alone; what is here decides when an access may be served. -/

namespace Sys2Proof.Machine

/-! ### The way of a packet (R252, R254, R255) -/

/-- A router: column and row. -/
abbrev Router := Nat × Nat

def State.coreRouter (s : State) (core : Nat) : Router :=
  match s.chart.site? core with
  | some (c, r) => (c / 2, r / 2)
  | none => (0, 0)

/-- The bend side of a dead router, or none where it lives. -/
def Chart.deadRouter (h : Chart) (p : Router) : Option Nat :=
  (h.detours.find? fun d => d.dir == 4 && d.col == p.1 && d.row == p.2).map (·.side)

/-- The direction from a router to a neighbour: 0 east, 1 west, 2 south, 3 north (R257). -/
def direction (p q : Router) : Nat :=
  if p.1 < q.1 then 0 else if q.1 < p.1 then 1 else if p.2 < q.2 then 2 else 3

/-- The bend side of a dead link of a plane, which the table may list at either end. -/
def Chart.deadLink (h : Chart) (plane : Nat) (p q : Router) : Option Nat :=
  (h.detours.find? fun d => d.planes.testBit plane &&
    ((d.dir == direction p q && d.col == p.1 && d.row == p.2) || (d.dir == direction q p && d.col == q.1 && d.row == q.2))).map (·.side)

/-- A router moved along a row (`x`) or a column, by one toward `t`. -/
def Router.toward (x : Bool) (t : Nat) (p : Router) : Router :=
  let f (v : Nat) : Nat := if v < t then v + 1 else if t < v then v - 1 else v
  if x then (f p.1, p.2) else (p.1, f p.2)

/-- A router moved by one to a side of its course along a row (`x`) or a column: 0 toward the lower index, 1 toward the higher. -/
def Router.aside (x : Bool) (side : Nat) (p : Router) : Router :=
  let f (v : Nat) : Nat := if side == 0 then v - 1 else v + 1
  if x then (p.1, f p.2) else (f p.1, p.2)

/-- The routers beside a straight run from `p` on, to the one beside the first live router, and that live router (R255). -/
def Chart.beside (h : Chart) (x : Bool) (t side : Nat) : Nat → Router → List Router
  | 0, p => [p]
  | n + 1, p =>
    if (h.deadRouter p).isNone || p.toward x t == p then [p.aside x side, p]
    else p.aside x side :: h.beside x t side n (p.toward x t)

/-- The straight run of a leg along a row (`x`) or a column to the index `t` (R254). Before a dead link it steps aside, and back after it;
before a dead router it steps aside until it has passed it, with every dead router that stands next in its course (R255). -/
def Chart.run (h : Chart) (plane : Nat) (x : Bool) (t : Nat) : Nat → Router → List Router
  | 0, _ => []
  | n + 1, p =>
    let q := p.toward x t
    if q == p then []
    else
      match (if q.toward x t == q then none else h.deadRouter q), h.deadLink plane p q with
      | some side, _ =>
        let l := p.aside x side :: h.beside x t side 80 q
        l ++ h.run plane x t n (l.getLast?.getD q)
      | none, some side => [p.aside x side, q.aside x side, q] ++ h.run plane x t n q
      | none, none => q :: h.run plane x t n q

/-- Does `b` lie beyond `c` on the way from `a`? -/
def beyond (a c b : Nat) : Bool := decide (a < c) && decide (c < b) || decide (c < a) && decide (b < c)

/-- One leg: along the row and then the column where `x` is set, or the other way round. At a dead router it turns one router early or late,
on the side that the table names (R255): late, it passes the dead router on the row or column next to it, toward its end. -/
def Chart.leg (h : Chart) (plane : Nat) (x : Bool) (p q : Router) : List Router :=
  let corner : Router := if x then (q.1, p.2) else (p.1, q.2)
  let go (ways : List (Bool × Nat)) : List Router :=
    (ways.foldl (fun (acc : List Router × Router) w =>
      let l := h.run plane w.1 w.2 80 acc.2
      (acc.1 ++ l, l.getLast?.getD acc.2)) ([], p)).1
  let turn (r : Router) (x : Bool) : Nat := if x then r.1 else r.2
  match (if corner == p || corner == q then none else h.deadRouter corner) with
  | some side =>
    let past := turn (corner.aside (!x) side) x
    let back := turn (corner.toward x (turn p x)) x
    let row := turn (corner.toward (!x) (turn q (!x))) (!x)
    if beyond (turn p x) (turn corner x) past then go [(x, back), (!x, row), (x, past), (!x, turn q (!x)), (x, turn q x)]
    else go [(x, past), (!x, turn q (!x)), (x, turn q x)]
  | none => go [(x, turn q x), (!x, turn q (!x))]

/-- The vias of a route register, or none where it acts as route 0 (R254). -/
def Chart.vias (h : Chart) (route : DWord) : List Router :=
  let field (i : Nat) : Nat := fld route (12 * i + 11) (12 * i)
  let place (f : Nat) : Router := (f % 64, f / 64 % 32)
  let vs := (([0, 1, 2, 3].map field).takeWhile fun f => f.testBit 11).map place
  if vs.all fun p => decide (p.1 < 48) && decide (p.2 < 28) && (h.deadRouter p).isNone then vs else []

/-- The routers from `p` to `q` (R254): route 0 is one leg along the row first; a route with vias runs such a leg to each, and a last one
along the column first. -/
def Chart.way (h : Chart) (plane : Nat) (route : DWord) (p q : Router) : List Router :=
  let vs := h.vias route
  if vs.isEmpty then p :: h.leg plane true p q
  else
    let t := vs.foldl (fun (acc : List Router × Router) v => (acc.1 ++ h.leg plane true acc.2 v, v)) ([p], p)
    t.1 ++ h.leg plane false t.2 q

/-! ### Age (R253) -/

def Trip.age (t : Trip) (ticks : Nat) : Nat := (ticks % 2 ^ 24 + 2 ^ 24 - t.ts) % 2 ^ 24

/-- Is `a` served before `b`: greater age, then the lower injecting router, then the one injected earlier? -/
def Trip.before (a b : Trip) (ticks : Nat) : Bool :=
  let key (t : Trip) : Nat := 48 * t.src.2 + t.src.1
  decide (b.age ticks < a.age ticks) || (a.age ticks == b.age ticks &&
    (decide (key a < key b) || (key a == key b && decide (a.seq < b.seq))))

/-- Does a packet stand at its destination? -/
def Trip.there (t : Trip) : Bool := t.way.length ≤ 1

/-- Everything that the banks resolve for an access. -/
def Access.waits (a : Access) : List BankWait := match a.stage with | .waiting _ h vs => h :: vs | _ => []

def BankWait.trips (w : BankWait) : List Trip := w.trip.toList ++ w.revokes.map (·.2) ++ w.acks.map (·.2)

def CopyOp.trips (o : CopyOp) : List Trip := match o.moves with | .peer _ _ _ _ ds => ds.filterMap (·.trip) | _ => []

/-- Every packet on its way. -/
def State.trips (s : State) : List Trip :=
  (s.flight.flatMap fun a => a.trip.toList ++ a.waits.flatMap BankWait.trips) ++ s.copies.flatMap CopyOp.trips

/-- May a packet go on to the next router now: does no packet of its plane at the same port come before it (R252, R253)? -/
def State.portServes (s : State) (t : Trip) : Bool :=
  !t.there && s.trips.all fun u => u.plane != t.plane || u.way.take 2 != t.way.take 2 || !(u.before t s.ticks)

/-- Where the packet stands after its next router. -/
def Trip.on (t : Trip) : Trip := { t with way := t.way.drop 1 }

/-- A packet that is injected now. -/
def State.inject (s : State) (plane : Nat) (route : DWord) (src dst : Router) : Trip :=
  { plane := plane, ts := s.ticks % 2 ^ 24, tick := s.ticks, src := src, seq := s.fresh, way := s.chart.way plane route src dst }

/-- Has the packet been on its way for as long as it may be (R253)? -/
def Trip.late (t : Trip) (ticks : Nat) : Bool := decide (t.tick + 2 ^ 20 ≤ ticks)

/-! ### The L1 (R231, R239) -/

/-- Is a sector's copy absent: within 8 ticks of its lease's expiry, or after it (R239)? -/
def leaseOver (ticks : Nat) (e : Option Nat) : Bool :=
  match e with
  | some x => decide (x ≤ ticks + 8)
  | none => false

/-- The line to replace in a full set: one with the hint .LAST, then the oldest without the hint .KEEP, then the oldest (log 84). -/
def victim {α : Type} (hint : α → Nat) (set : List α) : Option α :=
  (set.find? fun e => hint e == 3).or ((set.find? fun e => hint e != 2).or set.head?)

/-- A sector comes into an L1 of 128 sets of 8 ways (R231, log 84). One that an LDW brought keeps no lease (R239). -/
def Core.bring (c : Core) (pa : Nat) (expiry : Option Nat) (hint : Nat) : Core :=
  let ln := pa / 128
  let sec := pa / 64 % 2
  let expiry := if c.l1.any fun e => e.line == ln && e.sectors.contains (sec, none) then none else expiry
  let old := ((c.l1.find? fun e => e.line == ln).map fun e => e.sectors.filter fun q => q.1 != sec).getD []
  let others := c.l1.filter fun e => e.line != ln
  let set := others.filter fun e => e.line % 128 == ln % 128
  let out := if set.length < 8 then none else (victim L1Line.hint set).map (·.line)
  { c with l1 := (others.filter fun e => some e.line != out) ++ [⟨ln, old ++ [(sec, expiry)], hint⟩] }

/-- A core drops its copy of a line. -/
def Core.dropLine (c : Core) (ln : Nat) : Core := { c with l1 := c.l1.filter fun e => e.line != ln }

/-- Does the L1 of a core hold the sector: under a lease with more than 8 ticks to run, or from an LDW (R239, R106)? -/
def State.l1Holds (s : State) (core pa : Nat) : Bool :=
  (s.core core).l1.any fun e => e.line == pa / 128 && e.sectors.any fun q => q.1 == pa / 64 % 2 && !leaseOver s.ticks q.2

/-- A core issues a store or an atomic to some lines: its L1 drops them (R240), and no later load joins a fill of them (R246). -/
def State.storeIssued (s : State) (core : Nat) (lines : List Nat) : State :=
  { s.modCore core fun c => { c with l1 := c.l1.filter fun e => !lines.contains e.line } with
    flight := s.flight.map fun a => match a.miss with
      | some m => if a.core == core && lines.contains (a.pa / 128) then { a with miss := some { m with opened := false } } else a
      | none => a }

/-! ### The L2 banks (R231, R244) -/

/-- Number of the bank of domain `d` that serves an address. -/
def State.bankNumber (s : State) (d pa : Nat) : Nat := 16 * d + s.bankIn d pa

/-- The set of an address in its bank: 1,024 sets of 16 ways (log 15). -/
def l2Set (pa : Nat) : Nat := pa / 2048 % 1024

/-- Does the bank of domain `d` hold the line of an address? -/
def State.l2Has (s : State) (d pa : Nat) : Bool := (tget [] s.l2 (s.bankNumber d pa)).any fun e => e.line == pa / 128

def State.l2Drop (s : State) (d ln : Nat) : State :=
  let n := s.bankNumber d (128 * ln)
  { s with l2 := tput [] n ((tget [] s.l2 n).filter fun e => e.line != ln) s.l2 }

/-- The publishing writes of a block that are still to be performed (R398). -/
def State.unpublished (s : State) (b : BRef) : List Access := s.flight.filter fun a => a.op == .publish b

/-- Lines of a block's drafts, sealed or not (R397). -/
def State.draftLines (s : State) (b : Block) : List Nat :=
  ((b.drafts.map fun (p : Nat × Option Byte) => p.1 / 128) ++ (s.unpublished b.ref).map fun (a : Access) => a.pa / 128).dedup

/-- Draft lines of one block that take ways of a set of a bank (R397): a line's way lies in the bank of the writing core's domain. -/
def State.draftsIn (s : State) (b : Block) (d pa : Nat) : List Nat :=
  if s.coreDomain b.core == d then
    (s.draftLines b).filter fun l => s.bankIn d (128 * l) == s.bankIn d pa && l2Set (128 * l) == l2Set pa
  else []

/-- Draft lines that take ways of a set of a bank (R397). -/
def State.draftWays (s : State) (d pa : Nat) : Nat := (s.blocks.flatMap fun b => s.draftsIn b d pa).length

/-- Lines of one set are dropped, the victim of each choice in its turn, until `room` of them are left. -/
def l2Trim (room set : Nat) : Nat → List L2Line → List L2Line
  | 0, l => l
  | n + 1, l =>
    let here := l.filter fun e => l2Set (128 * e.line) == set
    if here.length ≤ room then l
    else match victim L2Line.hint here with
      | some v => l2Trim room set n (l.filter fun e => e.line != v.line)
      | none => l

/-- Draft lines take ways of a set of the bank of domain `d` from the lines that it holds there (R244, R397). -/
def State.l2Yield (s : State) (d pa : Nat) : State :=
  let n := s.bankNumber d pa
  { s with l2 := tput [] n (l2Trim (16 - s.draftWays d pa) (l2Set pa) 16 (tget [] s.l2 n)) s.l2 }

/-- A line comes into the bank of domain `d`, or is used there (R244). Of the 16 ways of a set, visitor copies take at most 2 in home mode
and 16 in local mode; a line that must make room is dropped, and written back to DRAM where it is dirty. -/
def State.l2Place (s : State) (d pa part : Nat) (dirty : Bool) (hint : Nat) : State :=
  let n := s.bankNumber d pa
  let ln := pa / 128
  let all := tget [] s.l2 n
  let visits (l : Nat) : Bool := paDomain (128 * l) != d
  let was := ((all.find? fun e => e.line == ln).map (·.dirty)).getD false
  let others := all.filter fun e => e.line != ln
  let set := others.filter fun e => l2Set (128 * e.line) == l2Set pa
  let guests := set.filter fun e => visits e.line
  let ways := if (s.part part).l2mode then 16 else 2
  let out := if visits ln && decide (ways ≤ guests.length) then (victim L2Line.hint guests).map (·.line) else none
  let left := l2Trim (15 - s.draftWays d pa) (l2Set pa) 16 (others.filter fun e => some e.line != out)
  { s with l2 := tput [] n (left ++ [⟨ln, was || dirty, hint⟩]) s.l2 }

/-- What a bank does with a line that it serves: it holds it as `l2Place` says. Lines of the weight store come in so as visitor copies
only; a home line of it comes to L2 by a PREF (R107). -/
def State.l2Bring (s : State) (d pa part : Nat) (dirty : Bool) (hint : Nat) : State :=
  if paRegion pa == 1 && paDomain pa == d then s else s.l2Place d pa part dirty hint

/-! ### Power, recess, and lines that wait (R240, R249, R258) -/

/-- Are the banks of a domain powered? -/
def State.domainUp (s : State) (d : Nat) : Bool := (s.dom d).banks == .on

/-- Are the banks of an address powered (R258)? -/
def State.banksUp (s : State) (pa : Nat) : Bool := decide (1 < paRegion pa) || s.domainUp (paDomain pa)

/-- A request reaches the banks of a domain, or those of an address (R425). -/
def State.touchDomain (s : State) (d : Nat) : State := s.modDom d fun x => { x with banksIdle := some s.ticks }
def State.touchBanks (s : State) (pa : Nat) : State := if paRegion pa ≤ 1 then s.touchDomain (paDomain pa) else s

/-- R249: does an access of the weight store meet its bank in recess? -/
def State.inRecess (s : State) (pa : Nat) : Bool := paRegion pa == 1 && s.recess == some (weightBank pa)

/-- Does the bank of domain `d` hold back the reads of a line, and grant no lease on it: behind a write that waits at the home bank, or an
invalidation that waits at a visitor bank (R240, R242)? -/
def State.held (s : State) (d pa : Nat) : Bool :=
  s.flight.any fun a => !a.scratch && a.pa / 128 == pa / 128 && (match a.stage with
    | .waiting _ h vs => (h :: vs).any fun w => w.domain == d && w.arrived && !w.dropped
    | .fixed _ _ => (match a.op with | .claim _ => paDomain pa == d | _ => false)
    | .issued => false)

/-- The latest expiry of the leases that the bank of domain `d` has granted on a line (R240). -/
def State.latestExpiry (s : State) (d ln : Nat) : Nat :=
  (s.leases.filter fun r => r.domain == d && r.line == ln).foldl (fun m r => max m r.expiry) 0

/-- Is a line held at its home bank, or are its banks not powered (R240, R258)? -/
def State.lineWaits (s : State) (pa : Nat) : Bool := !s.banksUp pa || s.held (paDomain pa) pa

/-- May a write be performed the moment it reaches its home bank: no lease runs, no visitor copy may stand, and nothing waits (R240, R242)? -/
def State.lineFree (s : State) (pa : Nat) : Bool :=
  decide (1 < paRegion pa) || (!s.lineWaits pa && decide (s.latestExpiry (paDomain pa) (pa / 128) ≤ s.ticks) &&
    tget [] s.directory (pa / 128) == [])

/-! ### Leases, signatures and the directory (R239, R241, R242) -/

/-- The signature bit of an address (R241). -/
def sigBit (pa : Nat) : Nat := (pa / 2 ^ 6 % 1024) ^^^ (pa / 2 ^ 16 % 1024) ^^^ (pa / 2 ^ 26 % 1024)

/-- Cores of domain `d` that a revoke for a write of `n` bytes goes to: those whose signatures of the current and the previous epoch hold a
sector of the write (R241). One that is gated is answered at once by its power controller (R258). -/
def State.revokeCores (s : State) (d pa n : Nat) : List Nat :=
  let bits := [sigBit pa, sigBit (pa + n - 1)]
  (((s.sigs.filter fun r => r.domain == d && r.bank == s.bankIn d pa && bits.contains r.bit &&
    decide (s.ticks / 16384 < r.epoch + 2)).map (·.core)).dedup).filter fun k =>
      (s.core k).power != .gated && (s.core k).power != .waking

/-- The router of the bank of domain `d` that serves an address. -/
def State.bankPlace (s : State) (d pa : Nat) : Router := bankRouter (s.bankNumber d pa)

/-- What the bank of domain `d` has to resolve for a write of `n` bytes that reaches it now, with the revokes that set out (R240, R241). -/
def State.bankWait (s : State) (d pa n : Nat) : BankWait :=
  let e := s.latestExpiry d (pa / 128)
  let long := decide (s.ticks + 256 < e)
  { domain := d, arrived := true, till := e, revoking := long
    revokes := if long then (s.revokeCores d pa n).map fun k => (k, s.inject 1 0 (s.bankPlace d pa) (s.coreRouter k)) else [] }

/-- Are the bank's leases resolved: at the latest expiry, or when every revoke is acknowledged? -/
def BankWait.resolved (w : BankWait) (ticks : Nat) : Bool :=
  w.arrived && (decide (w.till ≤ ticks) || (w.revoking && w.revokes.isEmpty && w.acks.isEmpty))

/-- Directory entries of the home bank of an address. -/
def State.entriesAt (s : State) (pa : Nat) : List Nat :=
  (s.directory.filter fun e => paDomain (128 * e.1) == paDomain pa &&
    s.bankNumber (paDomain pa) (128 * e.1) == s.bankNumber (paDomain pa) pa).map (·.1)

/-- Has the home bank's directory of 8,192 entries an entry for the line, or room for one (R242)? -/
def State.dirRoom (s : State) (pa : Nat) : Bool :=
  tget [] s.directory (pa / 128) != [] || decide ((s.entriesAt pa).length < 8192)

/-- A domain may hold a visitor copy of a line from now on. -/
def State.dirAdd (s : State) (d pa : Nat) : State :=
  { s with directory := tput [] (pa / 128) (setAdd d (tget [] s.directory (pa / 128))) s.directory }

/-- A bank of domain `d` grants a core a lease on a sector, which the core's L1 then holds (R239, R241). -/
def State.grantLease (s : State) (d core pa llen hint : Nat) : State :=
  let e := s.ticks + llen
  let running : List LeaseRec := s.leases.filter fun r => decide (s.ticks < r.expiry)
  let t : State :=
    { s with leases := running ++ [LeaseRec.mk d (pa / 128) e]
             sigs := s.sigs ++ [SigRec.mk d (s.bankIn d pa) core (sigBit pa) (s.ticks / 16384)] }
  t.modCore core fun c => c.bring pa (some e) hint

/-! ### Where a load is served (R103, R239, R243) -/

/-- The domain whose bank serves a load or a PREF of a core (R239, R243): a block-scope LD and an LDW ask their own domain's, one of domain
or wafer scope the visitor copy there, when it is present, and every other the home bank. -/
def State.servingDomain (s : State) (core pa scope : Nat) (own : Bool) : Nat :=
  let d := s.coreDomain core
  let h := paDomain pa
  if own || scope == 0 || (decide (scope ≤ 2) && s.l2Has d pa) then d else h

/-- May the bank of domain `d` serve a line now: is the line not held there, its banks powered, and, where it has no copy yet, the home bank
free to give one (R240, R242, R258), out of recess (R249)? -/
def State.bankServes (s : State) (d pa : Nat) : Bool :=
  let h := paDomain pa
  if d == h then !s.lineWaits pa && (!s.inRecess pa || s.l2Has d pa)
  else s.domainUp d && !s.held d pa && (s.l2Has d pa || (!s.lineWaits pa && !s.inRecess pa && s.dirRoom pa))

/-- The bank of domain `d` has served a line: it holds it now, as a home line or a visitor copy that the home directory names. -/
def State.bankServed (s : State) (d pa part hint : Nat) : State :=
  if paRegion pa ≤ 1 then
    let t := (s.touchDomain d).l2Bring d pa part false hint
    if d == paDomain pa then t else t.dirAdd d pa
  else s

end Sys2Proof.Machine
end

