-- ==== Sys2Proof/Machine/CohortOps.lean ====
section
/-! DEFINITION. Cohort and special-register instructions (R83-R93). -/

namespace Sys2Proof.Machine

/-- Thread coordinates of a linear thread index (R161). -/
def threadCoord (g : Grid) (tid k : Nat) : Nat :=
  if k == 0 then tid % g.bdim.1
  else if k == 1 then tid / g.bdim.1 % g.bdim.2.1
  else tid / g.bdim.1 / g.bdim.2.1

def blockCoord (g : Grid) (b k : Nat) : Nat :=
  if k == 0 then b % g.gdim.1
  else if k == 1 then b / g.gdim.1 % g.gdim.2.1
  else b / g.gdim.1 / g.gdim.2.1

/-- %recess at wafer time t (R86). -/
def recessVal (t : Nat) : Nat :=
  let u := t % 32768
  u / 2048 * 65536 + (if u % 2048 < 640 then 32768 else 0) + u

/-- The special registers of R85 as a lane of the split reads them. -/
def specialVal (x : Ctx) (s : State) (n l : Nat) : Nat :=
  let tid := tget 0 x.c.tids l
  let name := x.c.core
  let rect := s.chart.rects[name / 65536]?.getD ⟨0, 0, 0, 0⟩
  match n with
  | 0x000 => l
  | 0x001 => tid
  | 0x002 => threadCoord x.g tid 0
  | 0x003 => threadCoord x.g tid 1
  | 0x004 => threadCoord x.g tid 2
  | 0x005 => x.g.ntid
  | 0x006 => x.c.slot
  | 0x007 => x.c.quad
  | 0x008 => x.sp.lanes.toNat
  | 0x010 => x.b.ref.block
  | 0x011 => blockCoord x.g x.b.ref.block 0
  | 0x012 => blockCoord x.g x.b.ref.block 1
  | 0x013 => blockCoord x.g x.b.ref.block 2
  | 0x014 => x.g.gdim.1
  | 0x015 => x.g.gdim.2.1
  | 0x016 => x.g.gdim.2.2
  | 0x017 => x.g.bdim.1
  | 0x018 => x.g.bdim.2.1
  | 0x019 => x.g.bdim.2.2
  | 0x01A => x.g.depth
  | 0x020 => name
  | 0x021 => name / 65536 * 65536 + rect.rows * 256 + rect.cols
  | 0x022 => s.coreDomain name
  | 0x023 => s.grade name x.c.quad
  | 0x030 => (s.cycle - (s.core name).up) % 2 ^ 64
  | 0x031 => s.ticks % 2 ^ 64
  | 0x032 => recessVal s.ticks
  | 0x038 => x.c.ovf.toNat
  | 0x039 => x.g.regs.seed.toNat
  | 0x050 => s.chart.gcores
  | 0x051 => s.chart.gbisect
  | 0x052 => s.chart.gsram
  | 0x053 => s.chart.gdetour
  | 0x054 => s.chart.grade
  | k => if 0x040 ≤ k ∧ k ≤ 0x047 then tget 0 x.b.wptr (k - 0x040) % 2 ^ 64 else 0

/-- R87: is no narrowing conversion of the cohort still short of the end of its latency? -/
def narrowDone (x : Ctx) (s : State) : Bool :=
  s.issued.all fun i => i.c != x.r.c || (match i.fin with | .narrow _ _ => false | _ => true)

/-- SREAD (R83, R85, R87). -/
def execSread (o : OpB) (s : State) : Host.Outcome State Fault Refusal :=
  let n := fld o.imm 11 0
  issueIf (.sread o) s (fun x s => n != 0x038 || narrowDone x s) (fun _ _ => true) fun x s =>
    x.complete s (outs o.d (if o.imm.getLsbD 12 then 2 else 1) fun l => specialVal x s n l)

/-- SWRITE (R84, R85, R87): %ovf, and %seed outside user mode. -/
def execSwrite (o : OpB) (s : State) : Host.Outcome State Fault Refusal :=
  let n := fld o.imm 11 0
  issueIf (.swrite o) s (fun x s => n != 0x038 || narrowDone x s) (fun _ _ => true) fun x s =>
    let v := x.rd o.a x.low
    if n == 0x038 then (x.complete s []).modCohort x.r.c fun c => { c with ovf := v }
    else if x.sp.mode == .user then x.raiseAll s 0x02
    else (x.complete s []).modGrid x.g.id fun g => { g with regs := { g.regs with seed := v } }

/-- R88: the source lane of a lane, as its offset t in the segment. -/
def shflSource (mode j k : Nat) : Int :=
  match mode with
  | 0 => k
  | 1 => (j : Int) - k
  | 2 => j + k
  | _ => (j ^^^ k : Nat)

/-- SHFL (R88). -/
def execShfl (o : OpA) (s : State) : Host.Outcome State Fault Refusal :=
  issue (.shfl o) s fun x s =>
    let w := x.g.shuffleWidth
    let src (l : Nat) : Option Nat :=
      let j := l % w
      let k := if o.m.getLsbD 2 then o.b.toNat else (x.rd o.b l).toNat
      let t := shflSource (fld o.m 1 0) j k
      if 0 ≤ t && t < w && x.ex.getLsbD (l - j + t.toNat) then some (l - j + t.toNat) else none
    let val (l : Nat) : Word :=
      match src l with
      | some p => x.rd o.a p
      | none => if o.m.getLsbD 3 then 0 else x.rd o.a l
    x.complete s (out32 o.d val ++ outP (fld o.m 6 4) fun l => (src l).isSome)

/-- VOTE (R89). -/
def execVote (o : OpA) (s : State) : Host.Outcome State Fault Refusal :=
  let mode := fld o.m 1 0
  let words (g : Grid) : Nat := if mode == 2 && g.width == 64 then 2 else 1
  issueIf (.vote o) s (fun _ _ => true)
    (fun x _ => mode ≤ 1 || (dstOk o.d (words x.g) .uniAny && allocOk x.g { dsts := [(o.d, words x.g, .uniAny)] }))
    fun x s =>
      let on := x.lanes.filter fun l => x.pred (fld o.a 2 0) l != o.a.getLsbD 7
      match mode with
      | 0 => x.complete s (outP (fld o.d 2 0) fun _ => !on.isEmpty)
      | 1 => x.complete s (outP (fld o.d 2 0) fun _ => on.length == x.lanes.length)
      | 2 => x.complete s (outs o.d (words x.g) fun _ => (maskOf on).toNat)
      | _ => x.complete s (outs o.d 1 fun _ => on.length)

/-- One level of the fixed tree of R90. -/
def treeLevel (f : Nat → Nat → Nat) : List (Option Nat) → List (Option Nat)
  | a :: b :: r =>
    (match a, b with
      | some p, some q => some (f p q)
      | some p, none => some p
      | none, q => q) :: treeLevel f r
  | l => l

/-- The tree over 64 lanes: six levels. -/
def treeReduce (f : Nat → Nat → Nat) (vals : List (Option Nat)) : Nat :=
  match (List.range 6).foldl (fun v _ => treeLevel f v) vals with
  | some v :: _ => v
  | _ => 0

/-- The combination of a REDX operation (R90) on 32-bit patterns. -/
def redxOp (ftz : Bool) (op a b : Nat) : Nat :=
  let sg (v : Nat) := asInt 32 true v
  match op with
  | 0 => (a + b) % 2 ^ 32
  | 1 => if sg a ≤ sg b then a else b
  | 2 => if sg a ≤ sg b then b else a
  | 3 => min a b
  | 4 => max a b
  | 5 => a &&& b
  | 6 => a ||| b
  | 7 => a ^^^ b
  | 8 => addF ftz .f32 .rn (readF ftz .f32 a) (readF ftz .f32 b)
  | 9 => minF .f32 ftz a b false
  | _ => minF .f32 ftz a b true

/-- REDX (R90). -/
def execRedx (o : OpA) (s : State) : Host.Outcome State Fault Refusal :=
  issue (.redx o) s fun x s =>
    let v := treeReduce (redxOp x.g.ftz (fld o.m 3 0)) ((List.range 64).map fun l =>
      if x.ex.getLsbD l then some (x.rd o.a l).toNat else none)
    x.complete s (outs o.d 1 fun _ => v)

/-- UMOV (R91). -/
def execUmov (o : OpA) (s : State) : Host.Outcome State Fault Refusal :=
  issue (.umov o) s fun x s =>
    let v : Word :=
      if o.m.getLsbD 0 then
        let l := (x.rd o.b x.low).toNat % 64
        if x.ex.getLsbD l then x.rd o.a l else 0
      else x.rd o.a x.low
    x.complete s (out32 o.d fun _ => v)

/-- ELECT (R92). -/
def execElect (o : OpA) (s : State) : Host.Outcome State Fault Refusal :=
  issue (.elect o) s fun x s => x.complete s (outP (fld o.d 2 0) fun l => l == x.low)

/-- OVCLR (R93, R87). -/
def execOvclr (o : OpA) (s : State) : Host.Outcome State Fault Refusal :=
  issueIf (.ovclr o) s narrowDone (fun _ _ => true) fun x s =>
    (x.complete s (out32 o.d fun _ => x.c.ovf)).modCohort x.r.c fun c => { c with ovf := 0 }

end Sys2Proof.Machine
end

