-- ==== Sys2Proof/Machine/Flow.lean ====
section
/-! DEFINITION. Control-flow instructions (R94-R99). -/

namespace Sys2Proof.Machine

/-- The branch target of format J (R20). -/
def jumpTarget (pc : DWord) (off : BitVec 32) : DWord := pc + (off.signExtend 64 <<< 3)

/-- Groups of lanes of the split go to their targets as parts (R184, R95), under the cap of the split table (R187), and each enters the
block there. -/
def goTo (s : State) (r : SRef) (all : Mask) (groups : List (DWord × Mask)) : State :=
  let q := groups.foldl (fun (q : State × List SRef) g =>
    let p := q.1.part? r g.2 all g.1
    (p.1, q.2 ++ [p.2])) (s, [])
  let moved := groups.foldl (fun m g => m ||| g.2) 0#64
  let added := groups.length - (if moved == ((s.split? r).map (·.lanes)).getD 0#64 then 1 else 0)
  q.2.foldl State.enterBlock (q.1.capSplits r moved added)

/-- Does a branch of the lanes `taken` to `target` divide the split (R94, R184)? -/
def Ctx.divides (x : Ctx) (taken : Mask) (target : DWord) : Bool := target != x.sp.pc + 8 && taken != x.sp.lanes

/-- What the lanes `taken` of a branch raise: the check of their target (R20, R42, R96), and where the split divides, that of the recorded
reconvergence header (R41). -/
def branchFaults (x : Ctx) (s : State) (taken : Mask) (target : DWord) : List LaneFault :=
  match s.targetFault x.c.core x.g x.sp.mode target with
  | some f => (lanesOf taken).map fun l => ⟨l, f.cause, target, f.gpa⟩
  | none =>
    match (if x.divides taken target then s.reconvFault x.c.core x.g x.sp else none) with
    | some f => (lanesOf taken).map fun l => ⟨l, f.cause, x.sp.blkReconv, f.gpa⟩
    | none => []

/-- A branch of the lanes `taken` to `target`, the others falling through (R94). Lanes that pass their checks do `fin` and go; where they
raise, nothing of the branch takes effect in them (R373). -/
def branch (x : Ctx) (s : State) (taken : Mask) (target : DWord) (fin : State → State) : State :=
  if taken == 0#64 then fin s
  else
    match branchFaults x s taken target with
    | [] =>
      let s := fin s
      if target == x.sp.pc + 8 then s
      else goTo s x.r (if taken == x.sp.lanes then taken else x.sp.lanes) [(target, taken)]
    | fs => x.raise s fs

/-- R96: the groups of lanes by target, the group of the lowest lane first. -/
def targetGroups (f : Nat → DWord) : Nat → List Nat → List (DWord × Mask)
  | 0, _ => []
  | _ + 1, [] => []
  | n + 1, l :: r =>
    let t := f l
    (t, maskOf ((l :: r).filter fun k => f k == t)) :: targetGroups f n ((l :: r).filter fun k => f k != t)

/-- The executing lanes whose target fails its check (R96), with the cause and their target. -/
def Ctx.badTargets (x : Ctx) (s : State) (f : Nat → DWord) : List LaneFault :=
  x.lanes.filterMap fun l => (s.targetFault x.c.core x.g x.sp.mode (f l)).map fun e => ⟨l, e.cause, f l, e.gpa⟩

/-- Do lanes of a split that go to these targets divide it (R95, R96)? DESIGN CHOICE (log 68): lanes that all go to the fall-through header
while others fall through do not, as R94 says of BRA. -/
def Ctx.dividesEach (x : Ctx) (groups : List (DWord × Mask)) : Bool :=
  groups.length > 1 || (!groups.isEmpty && x.ex != x.sp.lanes &&
    !(groups.length == 1 && (groups.headD (0, 0)).1 == x.sp.pc + 8))

/-- What the lanes of a BRX, RET or CALLX raise: those whose target fails its check, and, where the others divide and the recorded
reconvergence header fails its check (R41), the others with them. -/
def eachFaults (x : Ctx) (s : State) (f : Nat → DWord) : List LaneFault :=
  let bad := x.badTargets s f
  match (if x.dividesEach (targetGroups f 64 (x.minus bad).lanes) then s.reconvFault x.c.core x.g x.sp else none) with
  | some e => x.lanes.filterMap fun l => (bad.find? fun q => q.lane == l).or (some ⟨l, e.cause, x.sp.blkReconv, e.gpa⟩)
  | none => bad

/-- A branch of the executing lanes to the targets their pairs hold (R96). Lanes that raise leave by a trap, unchanged (R373); the others
do `fin` and go. -/
def branchEach (x : Ctx) (s : State) (f : Nat → DWord) (fin : Ctx → State → State) : State :=
  let fs := eachFaults x s f
  let y := x.minus fs
  let groups := targetGroups f 64 y.lanes
  let s := x.raise (if y.ex == 0#64 then s else fin y s) fs
  if groups.isEmpty || (!x.dividesEach groups && (groups.headD (0, 0)).1 == x.sp.pc + 8) then s
  else goTo s x.r (x.sp.lanes &&& ~~~(maskOf (fs.map (·.lane)))) groups

/-- The code addresses that a branch of some lanes to these targets checks: the targets, and the recorded reconvergence header (R41, R96). -/
def Ctx.branchAddrs (x : Ctx) (targets : List DWord) : List DWord :=
  let ts := targets.filter fun a => fld a 2 0 == 0
  ts ++ (if ts.isEmpty || x.sp.blkReconv == 0 then [] else [x.sp.blkReconv])

/-- BRA (R94). -/
def execBra (o : OpJ) (s : State) : Host.Outcome State Fault Refusal :=
  withTargets (.bra o) (fun x => x.branchAddrs [jumpTarget x.sp.pc o.off]) s fun s =>
  issue (.bra o) s fun x s => branch x s x.ex (jumpTarget x.sp.pc o.off) fun s => x.note s x.ex .complete

/-- BRP and BRU (R94): the guard is only a condition on the whole split; fields are checked for every lane. -/
def branchWhole (i : Instr) (o : OpJ) (cond : Ctx → Bool) (s : State) : Host.Outcome State Fault Refusal :=
  withTargets i (fun x => if cond x then x.branchAddrs [jumpTarget x.sp.pc o.off] else []) s fun s =>
  match s.beginIssue i with
  | .stop s => .next s
  | .go x s =>
    let y := { x with ex := x.sp.lanes }
    let fin (s : State) : State := if x.ex == 0#64 then x.pulse s else x.note s x.ex .complete
    .next ((if !y.legal then y.raiseAll s 0x05
      else if y.underGap then y.raiseAll s 0x09
      else branch y s (if cond x then x.sp.lanes else 0#64) (jumpTarget x.sp.pc o.off) fin).settle x.r)

/-- BRP (R94). -/
def execBrp (o : OpJ) (s : State) : Host.Outcome State Fault Refusal :=
  branchWhole (.brp o) o (fun x => x.ex != 0#64) s
/-- BRU (R94). -/
def execBru (o : OpJ) (s : State) : Host.Outcome State Fault Refusal :=
  branchWhole (.bru o) o (fun x => x.ex == x.sp.lanes) s

/-- BRX, RET and CALLX: their lanes go to the targets of pair `a`, and those that go write `link` (R96, R97). -/
def branchPair (i : Instr) (o : OpA) (link : Ctx → List (Reg × (Nat → Word))) (s : State) : Host.Outcome State Fault Refusal :=
  withTargets i (fun x => x.branchAddrs (x.lanes.map (x.rdD o.a))) s fun s =>
  issue i s fun x s => branchEach x s (x.rdD o.a) fun y s => y.complete s (link x)

/-- The return address, as the results of pair `d` (R97). -/
def Ctx.link (x : Ctx) (d : BitVec 8) : List (Reg × (Nat → Word)) := outs d 2 fun _ => (x.sp.pc + 8).toNat

/-- BRX (R96). -/
def execBrx (o : OpA) (s : State) : Host.Outcome State Fault Refusal := branchPair (.brx o) o (fun _ => []) s
/-- RET (R96). -/
def execRet (o : OpA) (s : State) : Host.Outcome State Fault Refusal := branchPair (.ret o) o (fun _ => []) s
/-- CALL (R97): the link goes to v0:v1. -/
def execCall (o : OpJ) (s : State) : Host.Outcome State Fault Refusal :=
  withTargets (.call o) (fun x => x.branchAddrs [jumpTarget x.sp.pc o.off]) s fun s =>
  issue (.call o) s fun x s => branch x s x.ex (jumpTarget x.sp.pc o.off) fun s => x.complete s (x.link 0)
/-- CALLX (R97): the target is read before the link is written. -/
def execCallx (o : OpA) (s : State) : Host.Outcome State Fault Refusal := branchPair (.callx o) o (fun x => x.link o.d) s

/-! ### EXIT (R98) -/

/-- The barrier phases that an exit may complete are examined again by this operation's caller. The lanes leave their split and
hold no thread any more; results still owed to them are discarded. -/
def exitLanes (s : State) (r : SRef) (ls : Mask) : State :=
  let s := s.modBlock r.c.b fun b => { b with exited := b.exited + population ls }
  let s := s.modCohort r.c fun c =>
    let c := c.dropOwed ls
    { c with threads := c.threads &&& ~~~ls,
             splits := (c.splits.map fun p =>
               if p.id == r.split then { p with lanes := p.lanes &&& ~~~ls } else p).filter fun p => p.lanes != 0#64 }
  s.remerge r.c

/-- A member's seat on quadrant `q` of team `t` is vacated (R285): the team keeps its number and count, and ends with its last member, who
leaves no holder of the pass behind (R317). QBINDs that still waited for the team to be complete end with it (log 77). -/
def vacateSeat (s : State) (br : BRef) (t q : Nat) : State :=
  match s.block? br with
  | none => s
  | some b =>
    let tm := tget {} b.teams t
    let ms := tput 0 q 0 tm.members
    let s := s.modBlock br fun b =>
      { b with teams := tput {} t (if ms.isEmpty then {} else { tm with members := ms, assembled := none }) b.teams }
    if ms.isEmpty then
      tm.binding.foldl State.finishIssue (s.modCore tm.core fun k =>
        if k.arb.holder == some (br, t) then { k with arb := { k.arb with holder := none } } else k)
    else s

/-- A cohort leaves its team (R285). -/
def leaveTeam (s : State) (cr : CRef) : State :=
  match (s.cohort? cr).bind fun c => c.team.map fun t => (t, c.quad) with
  | none => s
  | some (t, q) => (vacateSeat s cr.b t q).modCohort cr fun c => { c with team := none, freeing := none }

/-- Has the cohort a begun team instruction? -/
def State.hasBegun (s : State) (cr : CRef) : Bool :=
  s.begun.any fun b => b.b == cr.b && b.members.any fun m => m.2.1 == cr.cohort

/-- A cohort without threads frees its slot and registers (R188), and leaves its team as QFREE does: at once, or when the instructions
of it that have begun retire (R285). -/
def freeCohort (s : State) (cr : CRef) : State :=
  match s.cohort? cr with
  | some c =>
    if c.threads == 0#64 then
      let s := match c.freeing with | some uid => s.finishIssue uid | none => s
      (if s.hasBegun cr then s else leaveTeam s cr).modBlock cr.b fun b =>
        { b with cohorts := b.cohorts.filter fun d => d.id != cr.cohort }
    else s
  | none => s

/-- YIELD (R99): not chosen again before every other ready cohort of the quadrant has had a slot, or 64 cycles. DESIGN CHOICE (log 93): the
ready cohorts are those that stand ready when the YIELD issues. -/
def execYield (o : OpA) (s : State) : Host.Outcome State Fault Refusal :=
  issue (.yield o) s fun x s =>
    let others := s.blocks.flatMap fun b => (b.cohorts.filter fun c =>
      c.core == x.c.core && c.quad == x.c.quad && (b.ref != x.r.c.b || c.id != x.c.id) && c.readySince.isSome).map (·.slot)
    (x.note s x.ex .complete).modSplit x.r fun p =>
      if others.isEmpty then p else { p with yieldUntil := some (s.cycle + 64), yieldFor := others }
/-- NOP (R99). -/
def execNop (o : OpA) (s : State) : Host.Outcome State Fault Refusal :=
  issue (.nop o) s fun x s => x.compute s .a []

end Sys2Proof.Machine
end

