-- ==== Sys2Proof/Machine/Memory.lean ====
section
/-! DEFINITION. Plain memory access (R100-R107): checks, accesses in flight and their order (R264, R267), the performing of an
access (R240, R263) and the reply of a load (R374). -/

namespace Sys2Proof.Machine

/-- What a global access is, for the checks of R101, R107, R199. -/
inductive MemKind where
  | ld
  | st
  | ldw
  | atom
  | pref
  deriving DecidableEq, Repr

def MemKind.need : MemKind → Need
  | .st => .wr
  | .atom => .rw
  | _ => .rd

/-- Steps 1-6 of R101 for one global address. DESIGN CHOICE (log 83): with the second stage on, steps 4 and 5 look at what the first stage
gives, since step 6 comes after them, and step 4 looks at the final address too. -/
def Ctx.checkGlobal (x : Ctx) (s : State) (k : MemKind) (va : DWord) (size : Nat) : Except XFault Phys :=
  if k != .pref && va.toNat % size != 0 then .error { cause := 3 }
  else if fld va 63 51 != 0 then .error { cause := 2 }
  else
    let barred (pa : Nat) : Bool :=
      paRegion pa == 2 || paRegion pa == 4 || (paRegion pa == 3 && x.sp.mode == .user)
    let wsCause (ws : Bool) : Option Nat :=
      if ws && (k == .st || k == .atom) then some 0x0A else if !ws && k == .ldw then some 0x02 else none
    match s.xlate x.c.core x.g x.sp.mode k.need va with
    | .error f =>
      if f.leaf.isSome then
        if barred f.gpa then .error { cause := 2 }
        else match wsCause (paRegion f.gpa == 1) with
          | some c => .error { cause := c }
          | none => .error f
      else .error f
    | .ok p =>
      if barred p.gpa || barred p.pa then .error { cause := 2 }
      else match wsCause p.ws with
        | some c => .error { cause := c }
        | none => .ok p

/-- Steps 1-2 of R101 for a scratchpad offset. -/
def Ctx.checkScratch (x : Ctx) (off size : Nat) : Except XFault Phys :=
  if off % size != 0 then .error { cause := 3 }
  else if inScratch x.g off size then .ok { pa := off, ws := false }
  else .error { cause := 2 }

/-- The lanes that fault, in lane order, with their addresses. -/
def faultsOf (ls : List Nat) (addr : Nat → DWord) (chk : Nat → Except XFault Phys) : List LaneFault :=
  ls.filterMap fun l => match chk l with
    | .error f => some ⟨l, f.cause, addr l, f.gpa⟩
    | .ok _ => none

def paOf (chk : Nat → Except XFault Phys) (l : Nat) : Nat :=
  match chk l with
  | .ok p => p.pa
  | .error _ => 0

/-- Fill the TLBs with what the lanes' addresses needed (R235). -/
def Ctx.fillTlb (x : Ctx) (s : State) (ls : List Nat) (addr : Nat → DWord) : State :=
  if x.sp.mode == .hypervisor then s else ls.foldl (fun s l => s.tlbFill x.c.core x.g (addr l)) s

/-- A write of whole bytes: a store or the flag of a tile-ready array. -/
def AccOp.isStore : AccOp → Bool
  | .store => true
  | .tready _ => true
  | _ => false

/-- Does an access of this kind write? -/
def AccOp.writes : AccOp → Bool
  | .load => false
  | .pref _ _ _ => false
  | .watch => false
  | .fetch _ => false
  | .code => false
  | .walk _ => false
  | .tiles _ => false
  | _ => true

/-- Does the access end with a reply to its core: a load, or an atomic? -/
def AccOp.replies : AccOp → Bool
  | .load => true
  | .atomic _ _ _ _ _ => true
  | _ => false

/-! ### Order (R264, R267, R201, R205) -/

def Access.overlaps (a : Access) (scratch : Bool) (pa size : Nat) : Bool :=
  a.scratch == scratch && decide (a.pa < pa + size) && decide (pa < a.pa + a.size)

/-- The thread's accesses that are not performed yet. -/
def State.unperformed (s : State) (c : CRef) (l : Nat) : List Access :=
  s.flight.filter fun a => a.c == c && a.hasLane l && !a.isFixed

/-- What an access of a lane comes after: its earlier accesses to overlapping bytes, and what fences and acquires hold. -/
def State.afterOf (s : State) (x : Ctx) (l : Nat) (scratch : Bool) (pa size : Nat) (writes : Bool) : List Nat :=
  ((s.unperformed x.r.c l).filter fun a => a.overlaps scratch pa size).map (·.id) ++
    x.c.orders.flatMap fun o => if o.lanes.getLsbD l then o.acq ++ (if writes then o.rel else []) else []

/-- What a lane's write comes after within its instruction: writes of lower lanes to the same bytes (R104), and for a TREADY the flags
of every lower lane (R306). -/
def State.afterLanes (s : State) (uid : Nat) (op : AccOp) (scratch : Bool) (pa size : Nat) : List Nat :=
  let all := match op with | .tready _ => true | _ => false
  if !op.writes then []
  else (s.flight.filter fun a => a.uid == uid && !a.isFixed && (all || a.overlaps scratch pa size)).map (·.id)

/-- May the access be performed now: is everything it comes after performed? -/
def State.clear (s : State) (a : Access) : Bool :=
  a.after.all fun id => s.flight.all fun b => b.id != id || b.isFixed

/-- The pieces of a plain access: 16 bytes are two halves (R104). -/
def pieces (size : Nat) : List (Nat × Nat) := if size == 16 then [(0, 8), (8, 8)] else [(0, size)]

/-- The PTB and HPTB tags under which the split's addresses are translated now (R235). -/
def Ctx.tags (x : Ctx) (s : State) : Nat × Nat := (fld x.g.regs.ptb 63 48, fld (s.part x.g.part).hptb 63 48)

/-- Is a write to this address a draft (R397)? The writes of region 3 are none: they are discarded (R410). -/
def Ctx.drafts (x : Ctx) (pa : Nat) : Bool := x.g.ckpt && paRegion pa != 3

/-- Put a lane's plain access in flight. -/
def Ctx.plainAccess (x : Ctx) (s : State) (l : Nat) (op : AccOp) (scratch : Bool) (va : DWord) (pa size scope : Nat)
    (bytes : List Byte) (draft covers : Bool) (hint : Nat := 0) : State :=
  (pieces size).foldl (fun s p =>
    s.launchAccess { id := 0, uid := x.uid, c := x.r.c, core := x.c.core, lane := l, op := op, scratch := scratch,
                     va := va + BitVec.ofNat 64 p.1, pa := pa + p.1, size := p.2, scope := scope,
                     bytes := (bytes.drop p.1).take p.2, draft := draft, covers := covers, hint := hint, tags := x.tags s,
                     after := (s.afterOf x l scratch (pa + p.1) p.2 op.writes ++
                       s.afterLanes x.uid op scratch (pa + p.1) p.2).dedup }) s

/-- The addresses of a format M access that are aligned. -/
def memAddrs (o : OpM) (size : Nat) (x : Ctx) : List DWord :=
  (x.lanes.map fun l => x.rdD o.a l + (o.off.signExtend 64 * BitVec.ofNat 64 size)).filter fun a => a.toNat % size == 0

/-! ### Loads -/

def offsetOf (o : OpM) (size : Nat) : DWord := o.off.signExtend 64 * BitVec.ofNat 64 size

/-- LD, LDW (R100-R103, R106). -/
def loadGlobal (i : Instr) (o : OpM) (k : MemKind) (size n : Nat) (signed : Bool) (s : State) :
    Host.Outcome State Fault Refusal :=
  withWalks i (memAddrs o size) s fun s =>
  issue i s fun x s =>
    let addr (l : Nat) : DWord := x.rdD o.a l + offsetOf o size
    let chk (l : Nat) := x.checkGlobal s k (addr l) size
    let fs := faultsOf x.lanes addr chk
    let y := x.minus fs
    let s1 := x.fillTlb s y.lanes addr
    let s2 :=
      if y.ex == 0#64 then s1
      else
        y.lanes.foldl (fun t l => y.plainAccess t l .load false (addr l) (paOf chk l) size o.scope.toNat [] false (k == .ldw) o.hint.toNat)
          (y.note (y.owe s1 .v y.ex (outs o.d n fun _ => 0)) y.ex
            (.reply o.d n size signed ((encode i).headD 0) x.sp.pc))
    x.raise s2 fs

/-- LDS. DESIGN CHOICE (log 94): the sum of base and offset is taken modulo 2^32, and that of LD and ST modulo 2^64. -/
def loadScratch (i : Instr) (o : OpM) (size n : Nat) (signed : Bool) (s : State) : Host.Outcome State Fault Refusal :=
  issue i s fun x s =>
    let off (l : Nat) : Nat := (x.rd o.a l + (offsetOf o size).truncate 32).toNat
    let addr (l : Nat) : DWord := BitVec.ofNat 64 (off l)
    let chk (l : Nat) := x.checkScratch (off l) size
    let fs := faultsOf x.lanes addr chk
    let y := x.minus fs
    let s2 :=
      if y.ex == 0#64 then s
      else
        y.lanes.foldl (fun t l => y.plainAccess t l .load true (addr l) (off l) size 0 [] false false)
          (y.note (y.owe s .v y.ex (outs o.d n fun _ => 0)) y.ex
            (.reply o.d n size signed ((encode i).headD 0) x.sp.pc))
    x.raise s2 fs

/-! ### Stores -/

/-- A byte of a sealed draft that is not written at its home bank yet: the latest of them. -/
def State.sealedByte (s : State) (b : BRef) (pa : Nat) : Option Byte :=
  (s.unpublished b).reverse.findSome? fun a => if decide (a.pa ≤ pa) && decide (pa < a.pa + a.size) then a.bytes[pa - a.pa]? else none

/-- Does a draft write find its draft way: its block's draft of the line, or one of the two ways of its set (R396, R397)? -/
def State.wayFree (s : State) (a : Access) : Bool :=
  match s.block? a.c.b with
  | none => true
  | some b => (s.draftLines b).contains (a.pa / 128) || decide (s.draftWays (s.coreDomain b.core) a.pa < 2)

/-- Is the access a draft write that may be performed but for its draft way? -/
def State.wayless (s : State) (a : Access) : Bool := a.draft && !a.scratch && a.stage == .issued && s.clear a && !s.wayFree a

/-- Make the block take a checkpoint (R396). -/
def State.askCheckpoint (s : State) (b : BRef) (forcer : Option SRef) : State :=
  s.modBlock b fun b => { b with st := .checkpointing, forcer := forcer, exposed := false }

/-- Which sectors does one instruction overwrite whole (R250)? -/
def coversSector (pas : List Nat) (size pa : Nat) : Bool :=
  (List.range 64).all fun i => pas.any fun q => decide (q ≤ pa / 64 * 64 + i) && decide (pa / 64 * 64 + i < q + size)

/-- ST (R100-R104, R397). With checkpointing on, its drafts wait in flight for their draft ways (R396). -/
def storeGlobal (i : Instr) (o : OpM) (size n : Nat) (s : State) : Host.Outcome State Fault Refusal :=
  withWalks i (memAddrs o size) s fun s =>
  issue i s fun x s =>
    let addr (l : Nat) : DWord := x.rdD o.a l + offsetOf o size
    let chk (l : Nat) := x.checkGlobal s .st (addr l) size
    let fs := faultsOf x.lanes addr chk
    let y := x.minus fs
    let s1 := x.fillTlb s y.lanes addr
    let pas := y.lanes.map (paOf chk)
    let s2 :=
      if y.ex == 0#64 then s1
      else
        let s3 := y.note s1 y.ex (.performed ((encode i).headD 0) x.sp.pc false)
        let s4 := s3.storeIssued x.c.core (pas.map (· / 128))
        y.lanes.foldl (fun t l => y.plainAccess t l .store false (addr l) (paOf chk l) size o.scope.toNat
          (leBytes size (x.rdN n o.d l)) (x.drafts (paOf chk l)) (coversSector pas size (paOf chk l))) s4
    x.raise s2 fs

/-- STS (R100, R101, R104, R225, R334-R336): the lanes' bytes go to the scratchpad in ascending address order. -/
def storeScratch (i : Instr) (o : OpM) (size n : Nat) (s : State) : Host.Outcome State Fault Refusal :=
  let off (x : Ctx) (l : Nat) : Nat := (x.rd o.a l + (offsetOf o size).truncate 32).toNat
  let touched (x : Ctx) : List Nat := x.lanes.flatMap fun l => (List.range size).map fun k => off x l + k
  forced i s (fun x s => s.publishes x.r.c.b (touched x)) fun s =>
  issueIf i s (fun x s => !s.wouldOverflow x.r.c.b ((touched x).map fun k => (k, 0))) (fun _ _ => true) fun x s =>
    let addr (l : Nat) : DWord := BitVec.ofNat 64 (off x l)
    let chk (l : Nat) := x.checkScratch (off x l) size
    let fs := faultsOf x.lanes addr chk
    let y := x.minus fs
    let s2 :=
      if y.ex == 0#64 then s
      else
        (sortOn (off x) y.lanes).foldl (fun t l => y.plainAccess t l .store true (addr l) (off x l) size 0
          (leBytes size (x.rdN n o.d l)) false false)
          (y.note s y.ex (.performed ((encode i).headD 0) x.sp.pc false))
    x.raise s2 fs

/-! ### Performing accesses -/

/-- Finish a store or reduction whose last access is performed (R105, R201). One that is a draft and whose scope is wider than block is
performed at its scope when it is published (R263). -/
def State.finishStore (s : State) (uid : Nat) (drafted : Bool := false) : State :=
  if s.flight.any fun a => a.uid == uid then s
  else if drafted then { s with issued := s.issued.map fun i => if i.uid == uid then { i with fin := .drafted } else i }
  else s.finishIssue uid

/-- Split holds in WAITM read again after a write to their sector (R206). -/
def waitMet (cond : Nat) (v c : Word) : Bool :=
  match cond with
  | 0 => v != c
  | 1 => v == c
  | _ => c.ule v

/-- What a block reads at a physical address: its own drafts, sealed or not, and every other byte as its home serves it (R397). The
flag says that a byte is poisoned or lies in an unfilled line (R101 step 7). -/
def State.seen (s : State) (b : Block) (pa n : Nat) : List Byte × Bool :=
  let draft (i : Nat) : Option Byte := (tget none b.drafts (pa + i)).or (s.sealedByte b.ref (pa + i))
  let idx := List.range n
  (idx.map fun i => (draft i).getD (s.readPhys (pa + i)),
    idx.any fun i => (draft i).isNone && (s.poisoned (pa + i) || !s.lineFilled (pa + i)))

/-- A WAITM of split `r` reads its words in the sector again (R206): lanes whose condition holds are done, lanes that read poison
trap, and the split goes on when none is left. -/
def State.lookAgain (s : State) (r : SRef) (sector : Nat) : State :=
  match s.block? r.c.b, s.split? r with
  | some b, some p =>
    match p.hold with
    | some h =>
      match h.kind with
      | .waitm cond left =>
        let here := left.filter fun q => q.2.2.1 / 64 == sector
        let bad := here.filter fun q => (s.seen b q.2.2.1 4).2
        let met := here.filter fun q => waitMet cond (BitVec.ofNat 32 (leNat (s.seen b q.2.2.1 4).1)) q.2.2.2
        let left' := left.filter fun q => !(bad.contains q || met.contains q)
        let s := s.modSplit r fun p => { p with hold := some { h with kind := .waitm cond left' } }
        let s := s.heldTrap r (bad.map fun q => ⟨q.1, 7, q.2.1, 0⟩)
        if left'.isEmpty then (s.finishIssue h.uid).releaseRest r p.lanes (maskOf (bad.map (·.1))) else s
      | _ => s
    | none => s
  | _, _ => s

/-- Every split of the machine. -/
def State.allSplits (s : State) : List SRef :=
  s.blocks.flatMap fun b => b.cohorts.flatMap fun c => c.splits.map fun p => ⟨⟨b.ref, c.id⟩, p.id⟩

/-- Every WAITM on the sector reads again. -/
def State.wakeWaitm (s : State) (sector : Nat) : State := s.allSplits.foldl (fun s r => s.lookAgain r sector) s

/-- Bytes written at the home bank, whose line is dirty from then on: update counts of their sectors go to 0 (R204), and waits on the
sectors look again. -/
def State.homeWrite (s : State) (pa : Nat) (bytes : List Byte) (clears : Bool) : State :=
  let sec := pa / 64
  let s := s.writeRun pa bytes
  let s := if paRegion pa == 0 then s.l2Bring (paDomain pa) pa 0 true 0 else s
  let s := { s with counts := tput 0 sec 0 s.counts,
                    poison := if clears then s.poison.filter fun k => k != sec else s.poison }
  s.wakeWaitm sec

/-- What an access reads: its bytes, and whether any is poisoned or lies in an unfilled line (R101 step 7). The block reads
its own drafts (R397). -/
def State.accessBytes (s : State) (a : Access) : List Byte × Bool :=
  match s.block? a.c.b with
  | none => (List.replicate a.size 0, false)
  | some b =>
    if a.scratch then (b.sread a.pa a.size, false) else s.seen b a.pa a.size

def State.setAccess (s : State) (id : Nat) (f : Access → Access) : State :=
  { s with flight := s.flight.map fun a => if a.id == id then f a else a }
def State.access? (s : State) (id : Nat) : Option Access := s.flight.find? fun a => a.id == id

/-- Fix a load's value (R263). -/
def State.fixLoad (s : State) (a : Access) : State :=
  let v := s.accessBytes a
  s.setAccess a.id fun b => { b with stage := .fixed v.1 v.2 }

/-- Bytes written to the block's draft lines, with the draft count of their sector (R397, R204); a draft line takes its way from the lines
of its set (R244). -/
def State.draftWrite (s : State) (b : BRef) (pa : Nat) (bytes : List Byte) (count : Option Nat) : State :=
  let t := s.modBlock b fun b =>
    { b with drafts := tputs none (bytes.mapIdx fun i v => (pa + i, some v)) b.drafts,
             draftCounts := tput none (pa / 64) count b.draftCounts }
  (match t.block? b with
   | some x => t.l2Yield (t.coreDomain x.core) pa
   | none => t).wakeWaitm (pa / 64)

/-- Perform a store: in the scratchpad, in a draft line, or at the home bank (R263, R397). Writes to region 3 are discarded
(R410). -/
def State.performStore (s : State) (a : Access) : State :=
  let s := { s with flight := s.flight.filter fun b => b.id != a.id }
  let s :=
    if a.scratch then s.scratchWrite a.c.b (a.bytes.mapIdx fun i v => (a.pa + i, v)) true
    else if a.draft then s.draftWrite a.c.b a.pa a.bytes (some 0)
    else if paRegion a.pa == 3 then s
    else
      s.homeWrite a.pa a.bytes
        (a.covers && !s.flight.any fun b => b.uid == a.uid && b.pa / 64 == a.pa / 64)
  s.finishStore a.uid (a.draft && a.scope != 0)

/-! ### Requests on their way (R246, R252, R253) -/

/-- Does the access write? -/
def Access.writes (a : Access) : Bool := a.op.writes

/-- Is the write one that goes to a home bank, rather than to a scratchpad or a draft line? -/
def Access.homeBound (a : Access) : Bool := a.writes && !a.scratch && !a.draft

/-- Does a load of the core hit its L1: a copy under a lease, or a copy of an LDW (R239, R106)? -/
def State.l1Hit (s : State) (a : Access) : Bool := a.op == .load && (a.scope == 0 || a.covers) && s.l1Holds a.core a.pa

/-- Is the access a request of a core, which crosses the mesh from there? Those of the ports, the edge links, Afnar, the walkers and the
registrar are injected at their bank's router, since the spec does not say where they come from (log 85). -/
def AccOp.fromCore : AccOp → Bool
  | .load => true
  | .store => true
  | .atomic _ _ _ _ _ => true
  | .tready _ => true
  | .publish _ => true
  | .claim _ => true
  | .fetch _ => true
  | .watch => true
  | .pref _ _ _ => true
  | .code => true
  | _ => false

/-- Does the access go to a bank as a packet? A directory's own eviction is there already. -/
def State.travels (s : State) (a : Access) : Bool :=
  !a.scratch && !a.draft && paRegion a.pa ≤ 1 && !s.l1Hit a && a.op != .evict

/-- The domain of the bank that an access goes to (R239, R240, R243). A PREF asks its own domain's bank, but for system scope (R107).
DESIGN CHOICE (log 86): R107 does not say which L2 bank. Fetches of code and the reads of copies and walks go to the home bank. -/
def State.bankDomain (s : State) (a : Access) : Nat :=
  match a.op with
  | .load => s.servingDomain a.core a.pa a.scope a.covers
  | .pref _ _ _ => s.servingDomain a.core a.pa a.scope (decide (a.scope ≤ 2))
  | _ => paDomain a.pa

/-- The service point of a load (R246). -/
def State.missPoint (s : State) (a : Access) : Nat := if a.scope == 0 || a.covers then 0 else 1 + s.bankDomain a

/-- The loads of a core that are being filled (R246). -/
def State.filling (s : State) (core : Nat) : List Access :=
  s.flight.filter fun b => b.core == core && b.op == .load && b.stage == .issued && b.miss.isSome

/-- The loads that share the miss-status entry of an access: itself, and those that have joined. -/
def State.sharers (s : State) (a : Access) : List Access :=
  match a.miss with
  | some m => (s.filling a.core).filter fun b => b.miss.map (·.id) == some m.id
  | none => [a]

/-- The packet of an access, or that of the fill that it has joined. -/
def State.tripOf (s : State) (a : Access) : Option Trip := (s.sharers a).findSome? (·.trip)

/-- The miss-status entry that a load joins: of the same line, from the same service point, within 16 cycles of the first request, and not
closed by a store (R246). -/
def State.joins (s : State) (a : Access) : Option Miss :=
  (s.filling a.core).findSome? fun b =>
    if b.pa / 128 == a.pa / 128 && b.trip.isSome then
      b.miss.bind fun m => if m.opened && m.point == s.missPoint a && decide (s.cycle < m.since + 16) then some m else none
    else none

/-- Is a miss-status entry of the core free for the load: fewer than 128 in use, and no older load waiting for one (R246)? -/
def State.missRoom (s : State) (a : Access) : Bool :=
  decide ((((s.filling a.core).filterMap fun b => b.miss.map (·.id)).dedup).length < 128) &&
    !s.flight.any fun b => b.core == a.core && b.queued && b.stage == .issued && b.miss.isNone && decide (b.id < a.id)

/-- The route that an access's packets follow: that which its copy names in the core's registers, or route 0 (R254). -/
def State.routeOf (s : State) (a : Access) : DWord :=
  let of (id : Nat) : DWord := match s.copies.find? fun o => o.id == id with
    | some o => if o.route == 0 then 0 else tget 0 (s.core o.core).routes o.route
    | none => 0
  match a.op with
  | .claim id => of id
  | .fetch id => of id
  | _ => 0

/-- The packet of a request, from its core's router to that of its bank (R236, R254), or at its bank. -/
def State.sendTrip (s : State) (a : Access) : Trip :=
  let bank := s.bankPlace (s.bankDomain a) a.pa
  s.inject 0 (s.routeOf a) (if a.op.fromCore then s.coreRouter a.core else bank) bank

/-- The packet of a reply, from the bank back to the core (R252). -/
def State.replyTrip (s : State) (a : Access) : Trip := s.inject 1 0 (s.bankPlace (s.bankDomain a) a.pa) (s.coreRouter a.core)

/-- The request leaves its core (R246, R253): a load joins a fill under way, or takes an entry of its own, or waits for one. -/
def State.sendRequest (s : State) (a : Access) : State :=
  let set (s : State) (f : Access → Access) : State := { s with flight := s.flight.map fun b => if b.id == a.id then f b else b }
  if a.op != .load then set s.bump fun b => { b with trip := some (s.sendTrip a) }
  else
    match s.joins a with
    | some m => set s fun b => { b with miss := some m, trip := none, queued := false }
    | none =>
      if s.missRoom a then
        set s.bump fun b => { b with trip := some (s.sendTrip a), queued := false
                                     miss := some { id := s.fresh, since := s.cycle, point := s.missPoint a } }
      else set s fun b => { b with queued := true }

/-- Can the request leave now: is everything that it comes after performed, and, for a load that waits for a miss-status entry, is one free? -/
def State.sends (s : State) (a : Access) : Bool :=
  s.travels a && a.stage == .issued && (s.tripOf a).isNone && s.clear a && (!a.queued || (s.joins a).isSome || s.missRoom a)

/-- The packet goes on to its next router. -/
def State.moveOn (s : State) (a : Access) : State :=
  { s with flight := s.flight.map fun b => if b.id == a.id then { b with trip := b.trip.map Trip.on } else b }

/-- Can the access's own packet go on now (R253)? -/
def State.moves (s : State) (a : Access) : Bool :=
  match a.trip with | some t => s.portServes t | none => false

/-- Could the bank take up the request now, if its queue gave it the turn? -/
def State.bankTakes (s : State) (a : Access) : Bool :=
  a.stage == .issued && s.clear a &&
    (if a.writes then !s.lineWaits a.pa && (match a.op with | .claim _ => !s.inRecess a.pa | _ => true) else s.bankServes (s.bankDomain a) a.pa)

/-- Is the request the one that its bank's queue serves: it has arrived, and none that the bank could take up is older (R253)? -/
def State.atBank (s : State) (a : Access) : Bool :=
  match s.tripOf a with
  | none => false
  | some t => t.there && s.flight.all fun b => match b.trip with
    | some u => u.way != t.way || !(u.before t s.ticks) || !s.bankTakes b
    | none => true

/-- Does no packet stand at the home bank of an address that the bank could take up (R253)? -/
def State.bankQuiet (s : State) (pa : Nat) : Bool :=
  s.flight.all fun b => match b.trip with
    | some u => u.way != [s.bankPlace (paDomain pa) pa] || !s.bankTakes b
    | none => true

/-- Does nothing at the home bank of an address hold a read of it back (R240, R249, R258)? -/
def State.bankOpen (s : State) (pa : Nat) : Bool := decide (1 < paRegion pa) || (!s.lineWaits pa && !s.inRecess pa)

/-- May a read that carries no packet of its own be answered by the home bank of an address now: is it open, and no packet there before it
(R253)? -/
def State.bankReads (s : State) (pa : Nat) : Bool := s.bankOpen pa && (decide (1 < paRegion pa) || s.bankQuiet pa)

/-! ### Serving loads (R103, R239, R242, R243, R249) -/

/-- May a load or a PREF be served now: from the scratchpad, an L1 copy, or the bank that it has reached; or one of region 3, of which a
fence register waits for its port's writes (R273)? -/
def State.servable (s : State) (a : Access) : Bool :=
  s.clear a && (a.scratch || s.l1Hit a ||
    (if paRegion a.pa ≤ 1 then s.bankTakes a && s.atBank a
     else !(paRegion a.pa == 3 && s.fenceHolds (a.pa % 2 ^ 44) a.size)))

/-- LLEN and the partition of the access's grid. -/
def State.leaseOf (s : State) (a : Access) : Nat × Nat :=
  match a.op with
  | .pref _ llen part => (llen, part)
  | _ => ((s.grid? a.c.b.grid).map fun g => (g.regs.llen.toNat, g.part)).getD (1024, 0)

/-- What a served load leaves in its core's L1: a sector under a lease for a block-scope LD, one without for an LDW, and nothing under the
hint .NA (R19, R106, R239). -/
def State.allocate (s : State) (d : Nat) (a : Access) : State :=
  if a.hint == 1 then s
  else if a.covers then s.modCore a.core fun c => c.bring a.pa none a.hint
  else if a.scope == 0 then s.grantLease d a.core a.pa (s.leaseOf a).1 a.hint
  else s

/-- Serve a load: its value is fixed, with those of the loads that share its fill. -/
def State.serveLoad (s : State) (a : Access) : State :=
  if a.scratch || s.l1Hit a || decide (1 < paRegion a.pa) then s.fixLoad a
  else
    let d := s.bankDomain a
    let back := s.replyTrip a
    (s.sharers a).foldl (fun t b =>
        if s.clear b then ((t.fixLoad b).setAccess b.id fun x => { x with trip := some back }).allocate d b else t)
      (s.bump.bankServed d a.pa (s.leaseOf a).2 a.hint)

/-- Serve the first read of a WAITM (R206): its split looks at the word. -/
def State.serveWatch (s : State) (a : Access) : State :=
  let t : State := { s with flight := s.flight.filter fun b => b.id != a.id }
  let u := if paRegion a.pa ≤ 1 then t.bankServed (paDomain a.pa) a.pa (s.leaseOf a).2 0 else t
  (s.allSplits.filter fun r => r.c == a.c && ((s.split? r).bind (·.hold)).map (·.uid) == some a.uid).foldl
    (fun u r => u.lookAgain r (a.pa / 64)) u

def AccOp.nearPref : AccOp → Bool
  | .pref l1 _ _ => l1
  | _ => false

/-- Serve a PREF (R107): the line comes to the bank's L2, a home line of the weight store too, and for a block-scope PREF both sectors to L1;
a line with a poisoned sector, or an unfilled one, is not fetched. -/
def State.servePref (s : State) (a : Access) : State :=
  let t : State := { s with flight := s.flight.filter fun b => b.id != a.id }
  if s.poisoned a.pa || s.poisoned (a.pa + 64) || !s.lineFilled a.pa then t
  else
    let d := s.bankDomain a
    let u := t.bankServed d a.pa (s.leaseOf a).2 a.hint
    let u := if a.op.nearPref || paRegion a.pa != 1 then u else u.l2Place d a.pa (s.leaseOf a).2 false a.hint
    match a.op with
    | .pref true llen _ => [a.pa, a.pa + 64].foldl (fun u pa => u.grantLease d a.core pa llen a.hint) u
    | _ => u

/-- Serve a fetch of code: the line sets out for the core's instruction cache. -/
def State.serveCode (s : State) (a : Access) : State :=
  let t := s.setAccess a.id fun b => { b with stage := .fixed [] false, trip := if paRegion a.pa ≤ 1 then some (s.replyTrip a) else none }
  t.bump.bankServed (s.bankDomain a) a.pa 0 0

/-- Splits that wait for a line of code go on when none of theirs is left (R375). -/
def State.wakeCode (s : State) (core line : Nat) : State :=
  s.allSplits.foldl (fun s r =>
    match (s.split? r).bind (·.hold), (s.cohort? r.c).map (·.core) with
    | some h, some k =>
      match h.kind with
      | .code left =>
        if k == core && left.contains line then
          s.modSplit r fun p => { p with hold := some { h with kind := .code (left.filter fun l => l != line), since := s.cycle } }
        else s
      | _ => s
    | _, _ => s) s

/-- A line of code reaches the core: its instruction cache of 64 KiB holds it, in place of the one brought longest ago (R6; log 95). -/
def State.landCode (s : State) (a : Access) : State :=
  let line := a.pa / 128
  let t := { s with flight := s.flight.filter fun b => b.id != a.id }.modCore a.core fun c =>
    { c with code := (c.code.filter fun l => l != line).drop (c.code.length + 1 - 512) ++ [line] }
  t.wakeCode a.core line

/-! ### LOAD_REPLY (R374, R382) -/

/-- The bytes a lane receives, low address first, with poison. -/
def State.replyOf (s : State) (uid l : Nat) : List Byte × Bool × DWord :=
  let as := (s.flight.filter fun a => a.uid == uid && a.hasLane l)
  (as.flatMap fun a => match a.stage with
    | .fixed bs _ =>
      match a.op with
      | .atomic _ _ _ _ ls =>
        let k := (ls.findIdx fun p => p.1 == l)
        (bs.drop (k * (bs.length / max 1 ls.length))).take (bs.length / max 1 ls.length)
      | _ => bs
    | _ => [],
   as.any fun a => match a.stage with | .fixed _ p => p | _ => false,
   match as.find? fun a => (match a.stage with | .fixed _ p => p | _ => false) with
   | some a => a.va
   | none => 0)

/-- R374: lanes that received poison leave whichever splits hold them, and the waits that their splits are in. -/
def State.poisonTrap (s : State) (c : CRef) (ls : List (Nat × DWord)) (word pc : DWord) : State :=
  match s.cohort? c with
  | none => s
  | some co =>
    let holders := ls.filterMap fun l => (co.splits.find? fun p => p.lanes.getLsbD l.1).map (·.id)
    holders.reverse.dedup.reverse.foldl (fun s id =>
      match s.split? ⟨c, id⟩ with
      | none => s
      | some p =>
        let mine := ls.filter fun l => p.lanes.getLsbD l.1
        let bad := maskOf (mine.map (·.1))
        let t := (s.modSplit ⟨c, id⟩ fun q => q.forget bad).trapEntry ⟨c, id⟩ bad
          { cause := 0x07, pc := p.nextPc, addr := (mine.headD (0, 0)).2, inst0 := word, inst1 := pc }
        match p.hold with
        | none => t
        | some h =>
          if !(p.forget bad).waitOver then t
          else
            let t := t.finishIssue h.uid
            if p.lanes &&& ~~~bad == 0#64 then t else t.release ⟨c, id⟩ (p.nextPc - p.pc).toNat) s

/-- The value of a load from its bytes: extended to its registers (R100). -/
def loadValue (bytes : List Byte) (size : Nat) (signed : Bool) : Nat :=
  let v := leNat bytes
  if signed && decide (size < 4) && decide (2 ^ (8 * size - 1) ≤ v) then v + 2 ^ 32 - 2 ^ (8 * size) else v

/-- Has the reply of an access reached the core, where it comes as a packet? -/
def Access.replied (a : Access) : Bool := a.isFixed && (match a.trip with | some t => t.there | none => true)

/-- Every access of an instruction has been served, and the replies are there. -/
def State.replyReady (s : State) (uid : Nat) : Bool := (s.flight.filter fun a => a.uid == uid).all Access.replied

/-- The replies of an instruction reach the core: values go to the registers owed, poisoned lanes trap, the flag falls. -/
def replyTo (s : State) (uid : Nat) : State :=
  match s.issued.find? fun i => i.uid == uid with
  | none => s
  | some i =>
    if !s.replyReady uid then s
    else
      let got (l : Nat) := s.replyOf uid l
      let ls := lanesOf i.lanes
      let bad := (ls.filter fun l => (got l).2.1).map fun l => (l, (got l).2.2)
      let badMask := maskOf (bad.map (·.1))
      let fin := { s with flight := s.flight.filter fun a => a.uid != uid }
      match i.fin with
      | .reply dst n size signed word pc =>
        let t := fin.modCohort i.c fun c =>
          { c with pend := c.pend.filterMap fun p =>
              if p.uid == uid then
                let keep := p.lanes &&& ~~~badMask
                match (outs dst n fun l => loadValue (got l).1 size signed).find? fun o => o.1 == p.reg with
                | some o => if keep == 0#64 then none else some { p with
                    lanes := keep, vals := (lanesOf keep).filterMap fun l => if o.2 l = 0 then none else some (l, o.2 l) }
                | none => some p
              else some p }
        (t.poisonTrap i.c bad word pc).finishIssue uid
      | .performed word pc _ => (fin.poisonTrap i.c bad word pc).finishIssue uid
      | _ => s

/-- LOAD_REPLY (R374): the reply of a load, or of an atomic, reaches the core. -/
def execLoadReply (uid : Nat) (s : State) : Host.Outcome State Fault Refusal := .next (replyTo s uid)

/-! ### The instructions -/

def execLdI8 (o : OpM) (s : State) : Host.Outcome State Fault Refusal := loadGlobal (.ldI8 o) o .ld 1 1 true s
def execLdN8 (o : OpM) (s : State) : Host.Outcome State Fault Refusal := loadGlobal (.ldN8 o) o .ld 1 1 false s
def execLdI16 (o : OpM) (s : State) : Host.Outcome State Fault Refusal := loadGlobal (.ldI16 o) o .ld 2 1 true s
def execLdN16 (o : OpM) (s : State) : Host.Outcome State Fault Refusal := loadGlobal (.ldN16 o) o .ld 2 1 false s
def execLdB32 (o : OpM) (s : State) : Host.Outcome State Fault Refusal := loadGlobal (.ldB32 o) o .ld 4 1 false s
def execLdB64 (o : OpM) (s : State) : Host.Outcome State Fault Refusal := loadGlobal (.ldB64 o) o .ld 8 2 false s
def execLdB128 (o : OpM) (s : State) : Host.Outcome State Fault Refusal := loadGlobal (.ldB128 o) o .ld 16 4 false s
def execStB8 (o : OpM) (s : State) : Host.Outcome State Fault Refusal := storeGlobal (.stB8 o) o 1 1 s
def execStB16 (o : OpM) (s : State) : Host.Outcome State Fault Refusal := storeGlobal (.stB16 o) o 2 1 s
def execStB32 (o : OpM) (s : State) : Host.Outcome State Fault Refusal := storeGlobal (.stB32 o) o 4 1 s
def execStB64 (o : OpM) (s : State) : Host.Outcome State Fault Refusal := storeGlobal (.stB64 o) o 8 2 s
def execStB128 (o : OpM) (s : State) : Host.Outcome State Fault Refusal := storeGlobal (.stB128 o) o 16 4 s
def execLdsI8 (o : OpM) (s : State) : Host.Outcome State Fault Refusal := loadScratch (.ldsI8 o) o 1 1 true s
def execLdsN8 (o : OpM) (s : State) : Host.Outcome State Fault Refusal := loadScratch (.ldsN8 o) o 1 1 false s
def execLdsI16 (o : OpM) (s : State) : Host.Outcome State Fault Refusal := loadScratch (.ldsI16 o) o 2 1 true s
def execLdsN16 (o : OpM) (s : State) : Host.Outcome State Fault Refusal := loadScratch (.ldsN16 o) o 2 1 false s
def execLdsB32 (o : OpM) (s : State) : Host.Outcome State Fault Refusal := loadScratch (.ldsB32 o) o 4 1 false s
def execLdsB64 (o : OpM) (s : State) : Host.Outcome State Fault Refusal := loadScratch (.ldsB64 o) o 8 2 false s
def execLdsB128 (o : OpM) (s : State) : Host.Outcome State Fault Refusal := loadScratch (.ldsB128 o) o 16 4 false s
def execStsB8 (o : OpM) (s : State) : Host.Outcome State Fault Refusal := storeScratch (.stsB8 o) o 1 1 s
def execStsB16 (o : OpM) (s : State) : Host.Outcome State Fault Refusal := storeScratch (.stsB16 o) o 2 1 s
def execStsB32 (o : OpM) (s : State) : Host.Outcome State Fault Refusal := storeScratch (.stsB32 o) o 4 1 s
def execStsB64 (o : OpM) (s : State) : Host.Outcome State Fault Refusal := storeScratch (.stsB64 o) o 8 2 s
def execStsB128 (o : OpM) (s : State) : Host.Outcome State Fault Refusal := storeScratch (.stsB128 o) o 16 4 s
def execLdwB32 (o : OpM) (s : State) : Host.Outcome State Fault Refusal := loadGlobal (.ldwB32 o) o .ldw 4 1 false s
def execLdwB64 (o : OpM) (s : State) : Host.Outcome State Fault Refusal := loadGlobal (.ldwB64 o) o .ldw 8 2 false s
def execLdwB128 (o : OpM) (s : State) : Host.Outcome State Fault Refusal := loadGlobal (.ldwB128 o) o .ldw 16 4 false s

/-- PREF (R107): the request for a line of region 0 or 1 that could be loaded goes to L1 when the scope is block, and else to L2. It never
faults. DESIGN CHOICE (log 86): a line of region 3, which a supervisor or hypervisor split may load, has no home bank, and PREF of it
brings nothing in; the fill takes none of the core's miss-status entries, and no load joins it; and the lease of a block-scope PREF has the
length that LLEN gives at the PREF's issue. -/
def execPref (o : OpM) (s : State) : Host.Outcome State Fault Refusal :=
  withWalks (.pref o) (fun x => x.lanes.map fun l => x.rdD o.a l + offsetOf o 128) s fun s =>
  issue (.pref o) s fun x s =>
    let addr (l : Nat) : DWord := x.rdD o.a l + offsetOf o 128
    let ok := x.lanes.filter fun l =>
      match x.checkGlobal s .pref (addr l) 1 with
      | .ok p =>
        let ln := p.pa / 128 * 128
        paRegion p.pa ≤ 1 && !s.poisoned ln && !s.poisoned (ln + 64) && s.lineFilled ln
      | .error _ => false
    let s1 := x.fillTlb s ok addr
    let place (l : Nat) : Nat := paOf (fun l => x.checkGlobal s .pref (addr l) 1) l / 128
    let lines := (ok.map place).dedup
    let near := o.scope == 0
    let wanted := lines.filter fun ln => !near || !s.l1Holds x.c.core (128 * ln) || !s.l1Holds x.c.core (128 * ln + 64)
    let s2 := wanted.foldl (fun (t : State) ln =>
      t.launchAccess { id := 0, uid := 0, c := ⟨⟨0, 0⟩, 0⟩, core := x.c.core, lane := 0, scratch := false, pa := 128 * ln
                       va := ((ok.find? fun l => place l == ln).map addr).getD 0, tags := x.tags s
                       op := .pref near x.g.regs.llen.toNat x.g.part, size := 128, scope := o.scope.toNat, hint := o.hint.toNat }) s1
    x.complete s2 []

end Sys2Proof.Machine
end

