-- ==== Sys2Proof/Machine/Atomic.lean ====
section
/-! DEFINITION. Atomics and reductions (R196-R204), FENCE (R205) and WAITM (R206). -/

namespace Sys2Proof.Machine

/-! ### Stochastic rounding (R202, R203) -/

/-- R202. `a` is bits [50:0] of the virtual address, `n` the update count, `seed` the 32-bit seed. -/
def mix (a n seed : Nat) : Nat :=
  let m := 2 ^ 64
  let x := (a / 4) ^^^ (n * 2 ^ 48) ^^^ seed
  let x := x ^^^ (x / 2 ^ 31)
  let x := x * 0xA2F1B7D35C4E9867 % m
  let x := x ^^^ (x / 2 ^ 29)
  let x := x * 0x5D3E8A1F27C4B6E3 % m
  let x := x ^^^ (x / 2 ^ 32)
  x % 2 ^ 32

/-- RoundSR of a nonzero magnitude m * 2^e (R203), as an FP32 code. -/
def roundSR (neg : Bool) (m : Nat) (e : Int) (r : Nat) : Nat :=
  let q := quantum .f32 m e
  if q ≤ e then fitCode .f32 .rn neg (scale m (e - q)) q
  else
    let k := (q - e).toNat
    let lo := m / 2 ^ k
    let rem := m % 2 ^ k
    fitCode .f32 .rn neg (if decide (rem != 0 && decide (r * 2 ^ k < rem * 2 ^ 32)) then lo + 1 else lo) q

/-- The exact sum of FP32 codes under R153, rounded once: to nearest, or by R203 with the 32 bits `sr`. -/
def sumCodes (codes : List Nat) (sr : Option Nat) : Nat :=
  let terms := codes.map fun c => readF false .f32 c
  match sr with
  | none => sumF terms
  | some r =>
    if terms.any fun t => match t with | .fin _ _ _ => false | _ => true then sumF terms
    else
      let d := terms.foldl (fun (acc : Dy) t => match t with | .fin s m e => acc.add (.ofFin s m e) | _ => acc) (Dy.mk 0 0)
      if d.m == 0 then sumF terms else roundSR (decide (d.m < 0)) d.m.natAbs d.e r

/-! ### One group (R198, R200) -/

/-- R198: the new value, but for FADD. A CAS operand holds the compare value in its low half. -/
def atomOp (op bits cur b : Nat) : Nat :=
  let sg (v : Nat) := asInt 32 true v
  match op with
  | 0x2 => if sg b < sg cur then b else cur
  | 0x3 => if sg cur < sg b then b else cur
  | 0x4 => min cur b
  | 0x5 => max cur b
  | 0x6 => cur &&& b
  | 0x7 => cur ||| b
  | 0x8 => cur ^^^ b
  | 0x9 => b
  | 0xA => b
  | 0xB => if b % 2 ^ bits == cur then b / 2 ^ bits else cur
  | 0xC => if b % 2 ^ bits == cur then b / 2 ^ bits else cur
  | 0xE => minF .f32 false cur b false
  | 0xF => minF .f32 false cur b true
  | _ => (cur + b) % 2 ^ bits

/-- R200: the lanes' old values, and the value left, from the value `m` at the location. -/
def atomGroup (op bits : Nat) (sr : Option Nat) (m : Nat) (ls : List (Nat × Nat)) : List Nat × Nat :=
  if op == 0xD then
    let bs := ls.map (·.2)
    ((List.range bs.length).map fun i => if i == 0 then m else sumCodes (m :: bs.take i) none, sumCodes (m :: bs) sr)
  else
    ls.foldl (fun (p : List Nat × Nat) l => (p.1 ++ [p.2], atomOp op bits p.2 l.2)) ([], m)

/-- Does the group write? A CAS whose every compare fails writes nothing (R334). -/
def atomWrites (op bits m : Nat) (ls : List (Nat × Nat)) : Bool :=
  (op != 0xB && op != 0xC) || ls.any fun l => (l.2 % 2 ^ bits) == m

/-- Can a group on a scratchpad location write it: would it now, or is another write of the location on its way (R334, R345)? -/
def State.mayWrite (s : State) (br : BRef) (off size op : Nat) (ls : List (Nat × Nat)) : Bool :=
  ((s.block? br).map fun b => atomWrites op (8 * size) (b.sval off size) ls).getD false ||
    (s.scratchWrites br).any fun a => decide (a.pa < off + size) && decide (off < a.pa + a.size)

/-- Perform an atomic at its location, in one moment for all its lanes (R199, R200, R263). A group on a poisoned sector changes
nothing and its reply is poison. -/
def performAtomic (s : State) (a : Access) (op : Nat) (sr : Bool) (ls : List (Nat × Nat)) : State :=
  let bits := 8 * a.size
  let olds (l : List Nat) : List Byte := l.flatMap fun v => leBytes a.size v
  match s.block? a.c.b with
  | none => { s with flight := s.flight.filter fun b => b.id != a.id }
  | some b =>
    if a.scratch then
      let m := b.sval a.pa a.size
      let r := atomGroup op bits none m ls
      let s := s.setAccess a.id fun b => { b with stage := .fixed (olds r.1) false }
      if atomWrites op bits m ls then s.scratchWrite a.c.b (bytesAt a.pa a.size r.2) true else s
    else
      let sec := a.pa / 64
      let homeCount := tget 0 s.counts sec
      let count := if a.draft then (tget none b.draftCounts sec).getD homeCount else homeCount
      let seed := ((s.grid? a.c.b.grid).map fun g => g.regs.seed.toNat).getD 0
      let v := s.seen b a.pa a.size
      let back := if a.draft || decide (1 < paRegion a.pa) then none else some (s.replyTrip a)
      let s := s.bump
      if v.2 then s.setAccess a.id fun b => { b with stage := .fixed [] true, trip := back }
      else
        let r := atomGroup op bits (if sr then some (mix (fld a.va 50 0) count seed) else none) (leNat v.1) ls
        let s := s.setAccess a.id fun b => { b with stage := .fixed (olds r.1) false, trip := back }
        let bytes := leBytes a.size r.2
        if a.draft then s.draftWrite a.c.b a.pa bytes (some ((count + 1) % 65536))
        else if paRegion a.pa == 3 then s
        else
          let t := (s.writeRun a.pa bytes).l2Bring (paDomain a.pa) a.pa 0 true 0
          { t with counts := tput 0 sec ((count + 1) % 65536) t.counts }.wakeWaitm sec

/-! ### Issue -/

/-- The lanes of a list by equal key, in ascending order of their lowest lane. -/
def groupBy (key : Nat → Nat) : Nat → List Nat → List (List Nat)
  | 0, _ => []
  | _ + 1, [] => []
  | n + 1, l :: r => (l :: r.filter fun k => key k == key l) :: groupBy key n (r.filter fun k => key k != key l)

/-- Orders whose accesses are all performed are dropped. -/
def State.pruneOrders (s : State) (os : List Order) : List Order :=
  os.filter fun o => (o.rel ++ o.acq).any fun id => s.flight.any fun a => a.id == id && !a.isFixed

def State.addOrders (s : State) (c : CRef) (os : List Order) : State :=
  s.modCohort c fun c => { c with orders := s.pruneOrders c.orders ++ os }

/-- Put a group of an atomic in flight (R200, R201). `code` is the order field. -/
def Ctx.atomAccess (x : Ctx) (s : State) (a : Access) (ls : List Nat) (code : Nat) : State :=
  let rel := code == 2 || code == 3
  let acq := code == 1 || code == 3
  let after := ls.flatMap fun l =>
    (if rel then (s.unperformed x.r.c l).map (·.id) else []) ++ s.afterOf x l a.scratch a.pa a.size true
  let s' := s.launchAccess { a with after := after.dedup }
  if acq then s'.addOrders x.r.c [⟨maskOf ls, [], [s.fresh]⟩] else s'

/-- What the ATOM and RED forms share (R196-R201, R225, R397). `addr` and `chk` give each lane its address and checks. -/
def atomic (i : Instr) (o : OpA) (wide red scratch : Bool) (s : State) : Host.Outcome State Fault Refusal :=
  let op := if wide then 0xC else fld o.m 7 4
  let size := if wide then 16 else 4 * atomRegs op
  let scope := fld o.m 3 2
  let addr (x : Ctx) (l : Nat) : DWord := if scratch then (x.rd o.a l).setWidth 64 else x.rdD o.a l
  let chk (x : Ctx) (s : State) (l : Nat) : Except XFault Phys :=
    if scratch then x.checkScratch (addr x l).toNat size else x.checkGlobal s .atom (addr x l) size
  let good (x : Ctx) (s : State) : List Nat := x.lanes.filterMap fun l =>
    match chk x s l with | .ok p => some p.pa | .error _ => none
  let touched (x : Ctx) (s : State) : List Nat := (good x s).flatMap fun p => (List.range size).map fun k => p + k
  let writing (x : Ctx) (s : State) : List Nat :=
    ((groupBy (fun l => (addr x l).toNat) 64 (x.lanes.filter fun l => match chk x s l with | .ok _ => true | .error _ => false)).filter
      fun ls => s.mayWrite x.r.c.b (addr x (ls.headD 0)).toNat size op
        (ls.map fun l => (l, x.rdN (if wide then 8 else atomSrcRegs op) o.b l))).flatMap fun ls =>
        (List.range size).map fun k => (addr x (ls.headD 0)).toNat + k
  let force (x : Ctx) (s : State) : Bool := if scratch then s.publishes x.r.c.b (writing x s) else scope != 0
  let room (x : Ctx) (s : State) : Bool :=
    if scratch then !s.wouldOverflow x.r.c.b ((touched x s).map fun k => (k, 0)) else true
  let go (s : State) : Host.Outcome State Fault Refusal :=
    forced i s force fun s =>
    issueIf i s room (fun _ _ => true) fun x s =>
      let fs := faultsOf x.lanes (addr x) (chk x s)
      let y := x.minus fs
      let s1 := if scratch then s else x.fillTlb s y.lanes (addr x)
      let s2 :=
        if y.ex == 0#64 then s1
        else
          let fin : Finish :=
            if red then .performed ((encode i).headD 0) x.sp.pc true
            else .reply o.d (size / 4) size false ((encode i).headD 0) x.sp.pc
          let s3 := y.note (if red then s1 else y.owe s1 .v y.ex (outs o.d (size / 4) fun _ => 0)) y.ex fin
          let groups := groupBy (fun l => (addr x l).toNat) 64 y.lanes
          (if scratch then sortOn (fun ls => (addr x (ls.headD 0)).toNat) groups else groups).foldl (fun t ls =>
            let l0 := ls.headD 0
            let b := if wide then 8 else atomSrcRegs op
            let s4 := if scratch then t else t.storeIssued x.c.core [paOf (chk x s) l0 / 128]
            y.atomAccess s4 { id := 0, uid := x.uid, c := x.r.c, core := x.c.core, lane := l0,
                              op := .atomic op wide red (red && o.d == 1) (ls.map fun l => (l, x.rdN b o.b l)),
                              scratch := scratch, va := addr x l0, pa := paOf (chk x s) l0, size := size, scope := scope,
                              tags := x.tags s, draft := !scratch && scope == 0 && x.drafts (paOf (chk x s) l0) } ls (fld o.m 1 0)) s3
      x.raise s2 fs
  if scratch then go s
  else withWalks i (fun x => (x.lanes.map (addr x)).filter fun a => a.toNat % size == 0) s go

/-- ATOM, global (R196). -/
def execAtomGlobal (o : OpA) (s : State) : Host.Outcome State Fault Refusal := atomic (.atomGlobal o) o false false false s
/-- ATOM, scratchpad. -/
def execAtomScratchpad (o : OpA) (s : State) : Host.Outcome State Fault Refusal :=
  atomic (.atomScratchpad o) o false false true s
/-- ATOM.CAS.b128. -/
def execAtomCasB128 (o : OpA) (s : State) : Host.Outcome State Fault Refusal := atomic (.atomCasB128 o) o true false false s
/-- RED, global. -/
def execRedGlobal (o : OpA) (s : State) : Host.Outcome State Fault Refusal := atomic (.redGlobal o) o false true false s
/-- RED, scratchpad. -/
def execRedScratchpad (o : OpA) (s : State) : Host.Outcome State Fault Refusal :=
  atomic (.redScratchpad o) o false true true s

/-! ### FENCE (R205, R225) -/

/-- FENCE (R205). -/
def execFence (o : OpA) (s : State) : Host.Outcome State Fault Refusal :=
  let kind := fld o.m 1 0
  let rel := kind != 1
  let acq := kind != 2
  forced (.fence o) s (fun _ _ => rel && fld o.m 3 2 != 0) fun s =>
  issue (.fence o) s fun x s =>
    let before (l : Nat) : List Nat := if rel then (s.unperformed x.r.c l).map (·.id) else []
    let reads (l : Nat) : List Nat :=
      if acq then ((s.unperformed x.r.c l).filter fun a => !a.op.isStore).map (·.id) else []
    let orders : List Order := x.lanes.filterMap fun l =>
      if (before l ++ reads l).isEmpty then none else some ⟨bitMask l, before l, reads l⟩
    let accs := (x.lanes.flatMap fun l => before l ++ reads l).dedup
    (x.note s x.ex (.fence accs)).addOrders x.r.c orders

/-! ### WAITM (R206) -/

/-- May a lane's access be performed now: is everything it comes after performed? -/
def Ctx.clearNow (x : Ctx) (s : State) (l : Nat) (scratch : Bool) (pa size : Nat) (writes : Bool) : Bool :=
  (s.afterOf x l scratch pa size writes).all fun id => s.flight.all fun b => b.id != id || b.isFixed

/-- WAITM (R206, R214). A split held here keeps PC at the instruction, and is held until the wait of every lane has ended. The first read
of each lane's word is an access of its own, which its home bank serves. -/
def execWaitm (o : OpM) (s : State) : Host.Outcome State Fault Refusal :=
  let addr (x : Ctx) (l : Nat) : DWord := x.rdD o.a l + offsetOf o 4
  let chk (x : Ctx) (s : State) (l : Nat) := x.checkGlobal s .ld (addr x l) 4
  withWalks (.waitm o) (fun x => if x.sp.mode != .user then [] else memAddrs o 4 x) s fun s =>
  issueIf (.waitm o) s
    (fun x s => x.lanes.all fun l => match chk x s l with
      | .ok p => x.clearNow s l false p.pa 4 false
      | .error _ => true)
    (fun x _ => x.sp.mode == .user) fun x s =>
    let fs := faultsOf x.lanes (addr x) (chk x s)
    let y := x.minus fs
    let s1 := x.fillTlb s y.lanes (addr x)
    let left := y.lanes.map fun l => (l, addr x l, paOf (chk x s) l, x.rd o.d l)
    let s2 :=
      if y.ex == 0#64 then s1
      else
        left.foldl (fun t q => y.plainAccess t q.1 .watch false q.2.1 q.2.2.1 4 3 [] false false)
          (y.hold (y.note s1 y.ex .event) (.waitm o.hint.toNat left) true)
    x.raise s2 fs

end Sys2Proof.Machine
end

