-- ==== Sys2Proof/Machine/Sync.lean ====
section
/-! DEFINITION. Block barriers (R207-R209, R430), byte-count barriers (R210, R211), scratchpad queues (R212-R214) and EXIT (R98). -/

namespace Sys2Proof.Machine

/-- The entries of some cores' tables, and those of pair blocks on them that lie at the partner's core (R302, R333). -/
def State.coreEntries (s : State) (cores : List Nat) : List (Nat × SubEntry) :=
  s.cores.flatMap fun k => (k.2.subs.filter fun e => cores.contains k.1 ||
    s.blocks.any fun b => b.ref == e.pub && b.core2.isSome && (b.core :: b.core2.toList).any cores.contains).map fun e => (k.1, e)

/-- Every earlier access of the executing lanes is performed: what a release or a separating instruction waits for (R267). -/
def Ctx.allPerformed (x : Ctx) (s : State) : Bool := x.lanes.all fun l => (s.unperformed x.r.c l).isEmpty

/-! ### Block barriers -/

/-- A core's barrier records in use (R430): one for each barrier with an arrival, of the blocks resident there. -/
def State.recordsUsed (s : State) (core : Nat) : Nat :=
  ((s.blocks.filter fun b => b.core == core && b.st != .saved).map fun b =>
    (b.barriers.filter fun p => p.2.arrived != 0).length).foldl (· + ·) 0

/-- Are the arrivals of the phase complete (R207)? -/
def Block.phaseFull (b : Block) (ntid : Nat) (r : Barrier) : Bool :=
  r.arrived != 0 &&
    (match r.fixed with
     | some c => decide (min c ntid ≤ r.arrived)
     | none => decide (ntid ≤ b.exited + r.arrived))

/-- Is every packet of these cores' entries numbered below `bound` acknowledged (R337)? -/
def State.ackedBelow (s : State) (cores : List Nat) (bound : Nat) : Bool :=
  s.packets.all fun p => decide (bound ≤ p.id) ||
    !(cores.contains p.core || (s.coreEntries cores).any fun q => q.1 == p.core && q.2.id == p.entry)

def Block.cores (b : Block) : List Nat := b.core :: b.core2.toList

/-- Can the open chunks of these cores close (R336)? -/
def State.chunksCanClose (s : State) (cores : List Nat) : Bool :=
  (s.coreEntries cores).all fun q => q.2.chunk.isNone || decide (q.2.outstanding < 64)

/-- Close every open chunk of the entries of these cores (R335). -/
def State.closeChunks (s : State) (cores : List Nat) : State :=
  (s.coreEntries cores).foldl (fun s q => s.closeChunk q.1 q.2.id) s

/-- Threads arrive at a barrier (R207): the first arrival of a phase fixes its count. -/
def State.arrive (s : State) (br : BRef) (id count n : Nat) (sub : Bool) : State :=
  match s.block? br with
  | none => s
  | some b =>
    let s := if sub then s.closeChunks b.cores else s
    s.modBlock br fun b =>
      let r := tget {} b.barriers id
      let r' : Barrier :=
        { r with fixed := if r.arrived == 0 then (if count == 0 then none else some count) else r.fixed
                 arrived := r.arrived + n
                 subBound := if sub || r.subBound.isSome then some s.fresh else none }
      { b with barriers := tput {} id r' b.barriers }

/-- The phase completes: its splits go on, and its record is free (R207, R430). -/
def State.finishPhase (s : State) (br : BRef) (id : Nat) : State :=
  match s.block? br with
  | none => s
  | some b =>
    let r := tget {} b.barriers id
    let s := s.modBlock br fun b =>
      { b with barriers := tput {} id { phase := r.phase + 1, fixed := none, arrived := 0, subBound := none } b.barriers }
    let held := b.cohorts.flatMap fun c => c.splits.filterMap fun p =>
      match p.hold with
      | some h => if h.kind == .bar id r.phase then some ((⟨⟨br, c.id⟩, p.id⟩ : SRef), h.uid) else none
      | none => none
    held.foldl (fun s q => (s.finishIssue q.2).release q.1 0) s

/-- Is a checkpoint due before the phase of the checkpoint barrier completes (R209)? -/
def State.ckptDue (s : State) (b : Block) : Bool :=
  match s.grid? b.ref.grid with
  | some g => g.ckpt && decide (b.lastCk + g.regs.ckint.toNat ≤ s.ticks)
  | none => false

def State.ntidOf (s : State) (b : Block) : Nat := ((s.grid? b.ref.grid).map Grid.ntid).getD 0

/-- A barrier whose phase can complete now. -/
def State.readyPhase (s : State) : Option (Block × Nat) :=
  s.blocks.findSome? fun b =>
    if b.st != .resident then none
    else (b.barriers.find? fun p =>
      b.phaseFull (s.ntidOf b) p.2 && (match p.2.subBound with | some n => s.ackedBelow b.cores n | none => true)).map
        fun p => (b, p.1)

/-- Arrivals that wait for a barrier record of a core, with the numbers of their instructions (R430): split, barrier, count operand, .SUB
and number. Those of a block that is being restored, or whose image is captured, do not stand on the core. -/
def State.recordWaiters (s : State) (core : Nat) : List (SRef × Nat × Nat × Bool × Nat) :=
  (s.blocks.filter fun b => b.core == core && b.st != .saved && b.st != .restoring && !b.captured).flatMap fun b => b.cohorts.flatMap fun c =>
    c.splits.filterMap fun p =>
      match p.hold with
      | some h =>
        match h.kind with
        | .barRecord id count sub => some (⟨⟨b.ref, c.id⟩, p.id⟩, id, count, sub, h.uid)
        | _ => none
      | none => none

/-- The one of some arrivals that issued first: instructions are numbered as they issue (log 24). -/
def firstArrival (ws : List (SRef × Nat × Nat × Bool × Nat)) : Option (SRef × Nat × Nat × Bool × Nat) :=
  pickBy (fun w v => decide (w.2.2.2.2 < v.2.2.2.2)) ws

/-- Does the barrier of a held arrival still need a record: has its phase no arrival yet? -/
def State.needsRecord (s : State) (w : SRef × Nat × Nat × Bool × Nat) : Bool :=
  (((s.block? w.1.c.b).map fun b => (tget {} b.barriers w.2.1).arrived).getD 0) == 0

/-- A held arrival that can go on (R430): one whose barrier has a record by now, or, where a record is free, the one that has waited
longest for a record, and none after it. One with .SUB waits for its chunks besides (R336). -/
def State.grantable (s : State) : Option (SRef × Nat × Nat × Bool × Nat) :=
  ((s.blocks.map (·.core)).dedup).findSome? fun k =>
    let closes (w : SRef × Nat × Nat × Bool × Nat) : Bool :=
      !w.2.2.2.1 || ((s.block? w.1.c.b).map fun b => s.chunksCanClose b.cores).getD true
    let ws := s.recordWaiters k
    (firstArrival (ws.filter fun w => !s.needsRecord w && closes w)).or
      (if s.recordsUsed k < 32 then (firstArrival (ws.filter s.needsRecord)).filter closes else none)

/-- Complete the phases that can complete, and give freed records to held arrivals. -/
def settleBarriers : Nat → State → State
  | 0, s => s
  | n + 1, s =>
    match s.readyPhase with
    | some (b, id) =>
      if id == 16 && s.ckptDue b then settleBarriers n (s.askCheckpoint b.ref none)
      else settleBarriers n (s.finishPhase b.ref id)
    | none =>
      match s.grantable with
      | some (r, id, count, sub, _) =>
        let phase := ((s.block? r.c.b).map fun b => (tget {} b.barriers id).phase).getD 0
        let m := ((s.split? r).bind fun p => p.hold.map fun h => population h.lanes).getD 0
        settleBarriers n ((s.modSplit r fun p => { p with hold := p.hold.map fun h => { h with kind := .bar id phase } }).arrive
          r.c.b id count m sub)
      | none => s

/-- Rounds enough: each completes a phase, asks for a checkpoint or makes a held split arrive. -/
def State.barrierRounds (s : State) : Nat := s.allSplits.length + 18 * s.blocks.length + 1

def State.settleAll (s : State) : State := settleBarriers s.barrierRounds s

/-- The arrival of the executing lanes at barrier `id`. One that needs a record waits while none is free, or while others have waited
longer for one (R430). -/
def arriveAt (x : Ctx) (s : State) (id count : Nat) (sub : Bool) : State :=
  let s := x.note s x.ex .event
  let r := tget {} x.b.barriers id
  if r.arrived == 0 && (decide (32 ≤ s.recordsUsed x.b.core) || (s.recordWaiters x.b.core).any s.needsRecord) then x.hold s (.barRecord id count sub) false
  else ((x.hold s (.bar id r.phase) false).arrive x.r.c.b id count (population x.ex) sub).settleAll

/-- BAR (R207, R208). One with .SUB waits until the open chunks of its cores can close (R336). -/
def execBar (o : OpA) (s : State) : Host.Outcome State Fault Refusal :=
  issueIf (.bar o) s (fun x s => x.allPerformed s && (!o.m.getLsbD 4 || s.chunksCanClose x.b.cores))
    (fun x _ => x.sp.mode == .user) fun x s =>
    arriveAt x s (fld o.m 3 0) (x.rd o.a x.low).toNat (o.m.getLsbD 4)

/-- CKPT (R209). -/
def execCkpt (o : OpA) (s : State) : Host.Outcome State Fault Refusal :=
  issueIf (.ckpt o) s Ctx.allPerformed (fun x _ => x.sp.mode == .user) fun x s => arriveAt x s 16 0 false

/-! ### Byte-count barriers -/

/-- The faults of a lane's byte-count barrier operation (R211). -/
def barbFault (x : Ctx) (o : OpA) (counted : Bool) (l : Nat) : Option LaneFault :=
  let off := (x.rd o.a l).toNat
  let f (c : Nat) : Option LaneFault := some ⟨l, c, BitVec.ofNat 64 off, 0⟩
  if counted && decide (2 ^ 31 ≤ (x.rd o.b l).toNat) then f 5
  else
    match x.checkScratch off 8 with
    | .error e => f e.cause
    | .ok _ => none

/-- The bytes of the objects that the lanes name. -/
def barbBytes (x : Ctx) (o : OpA) : List Nat := x.lanes.flatMap fun l => (List.range 8).map fun k => (x.rd o.a l).toNat + k

/-- BARB.INIT and BARB.ARRIVE: lanes act in ascending order, and the objects they leave are forwarded (R334, R335). -/
def barbChange (i : Instr) (o : OpA) (init : Bool) (s : State) : Host.Outcome State Fault Refusal :=
  forced i s (fun x s => s.publishes x.r.c.b (barbBytes x o)) fun s =>
  issueIf i s
    (fun x s => (if init then x.lanes.all fun l => x.clearNow s l true (x.rd o.a l).toNat 8 true else x.allPerformed s) &&
      !s.storesBefore x.r.c x.lanes x.uid s.fresh (barbBytes x o) &&
      !s.wouldOverflow x.r.c.b ((barbBytes x o).map fun k => (k, 0)))
    (fun _ _ => true) fun x s =>
    let fs := x.lanes.filterMap (barbFault x o true)
    let y := x.minus fs
    let s2 := y.lanes.foldl (fun t l =>
      let v : Int := ((x.rd o.b l).toNat : Int)
      t.barbAdd x.r.c.b (x.rd o.a l).toNat init (if init then v else -v))
      (if y.ex == 0#64 then s else y.complete s [])
    x.raise (s2.forwardAll x.r.c.b (barbBytes y o)) fs

/-- BARB.INIT (R211). -/
def execBarbInit (o : OpA) (s : State) : Host.Outcome State Fault Refusal := barbChange (.barbInit o) o true s
/-- BARB.ARRIVE (R211). -/
def execBarbArrive (o : OpA) (s : State) : Host.Outcome State Fault Refusal := barbChange (.barbArrive o) o false s

/-- BARB.WAIT (R211, R214). -/
def execBarbWait (o : OpA) (s : State) : Host.Outcome State Fault Refusal :=
  issueIf (.barbWait o) s Ctx.allPerformed (fun x _ => x.sp.mode == .user) fun x s =>
    let fs := x.lanes.filterMap (barbFault x o false)
    let y := x.minus fs
    let left := (y.lanes.map fun l => (l, (x.rd o.a l).toNat, (x.rd o.b l).getLsbD 0)).filter fun q =>
      x.b.barbPhase q.2.1 == q.2.2
    let s2 :=
      if y.ex == 0#64 then s
      else if left.isEmpty then y.complete s []
      else y.hold (y.note s y.ex .event) (.barb left) false
    x.raise s2 fs

/-! ### Scratchpad queues -/

/-- What a lane's queue operation does (R213). -/
inductive QueueOut where
  | done (v : Nat)
  | waits
  | faults (cause : Nat)
  deriving DecidableEq, Repr

/-- The fields of a queue header (R212). -/
structure QueueHdr where
  tail : Nat
  head : Nat
  high : Nat
  allowance : Nat
  slots : Nat

def Block.queue (b : Block) (off : Nat) : QueueHdr :=
  let w0 := b.sval off 8
  let w1 := b.sval (off + 8) 8
  ⟨w0 / 2 ^ 32, w0 % 2 ^ 32, w1 / 2 ^ 32, w1 / 2 ^ 16 % 2 ^ 16, w1 % 2 ^ 16⟩

def QueueHdr.count (q : QueueHdr) : Nat := (q.tail + 2 ^ 32 - q.head) % 2 ^ 32

/-- The cause that a header raises, if any (R212). DESIGN CHOICE (log 97): a header that is illegal and whose slots lie outside the scratchpad
raises 0x05. -/
def queueFault (g : Grid) (b : Block) (off : Nat) : Option Nat :=
  if off % 16 != 0 then some 3
  else if !inScratch g off 16 then some 2
  else
    let q := b.queue off
    if q.slots == 0 || q.allowance == 0 || decide (q.slots < q.allowance) || q.high != 0 then some 5
    else if !inScratch g (off + 16) (8 * q.slots) then some 2
    else none

/-- Can a lane act on its queue, or fault on it, now? -/
def queueActs (g : Grid) (b : Block) (push : Bool) (off : Nat) : Bool :=
  (queueFault g b off).isSome ||
    (let q := b.queue off
     if push then decide (q.count < q.allowance) else q.count != 0)

/-- The bytes that a lane's operation writes: the header's first word and, for a push, its slot; a pop writes its header. -/
def queueBytes (b : Block) (push : Bool) (off : Nat) : List Nat :=
  let q := b.queue off
  (List.range 8).map (fun k => off + k) ++
    (if push then (List.range 8).map fun k => off + 16 + 8 * (q.tail % max 1 q.slots) + k else [])

/-- One lane's operation, as one step (R213). Its bytes are forwarded with those of the other lanes. -/
def queueStep (g : Grid) (br : BRef) (push : Bool) (s : State) (off : Nat) (v : DWord) : State × QueueOut :=
  match s.block? br with
  | none => (s, .waits)
  | some b =>
    match queueFault g b off with
    | some c => (s, .faults c)
    | none =>
      let q := b.queue off
      if !queueActs g b push off then (s, .waits)
      else if push then
        (s.scratchWrite br (bytesAt off 8 ((q.tail + 1) % 2 ^ 32 * 2 ^ 32 + q.head) ++
          bytesAt (off + 16 + 8 * (q.tail % q.slots)) 8 v.toNat) false, .done 0)
      else
        (s.scratchWrite br (bytesAt off 8 (q.tail * 2 ^ 32 + (q.head + 1) % 2 ^ 32)) false,
          .done (b.sval (off + 16 + 8 * (q.head % q.slots)) 8))

/-- The lanes' operations, in ascending lane order. -/
def queueLanes (g : Grid) (br : BRef) (push : Bool) (s : State) (ls : List (Nat × Nat × DWord)) :
    State × List ((Nat × Nat × DWord) × QueueOut) :=
  ls.foldl (fun acc q =>
    let r := queueStep g br push acc.1 q.2.1 q.2.2
    (r.1, acc.2 ++ [(q, r.2)])) (s, [])

/-- The bytes that the lanes' operations write: of the lanes that act, each on the queue as the lanes before it leave it. -/
def queueWrites (g : Grid) (br : BRef) (push : Bool) (s : State) (ls : List (Nat × Nat × DWord)) : List Nat :=
  (ls.foldl (fun (acc : State × List Nat) q =>
    let r := queueStep g br push acc.1 q.2.1 q.2.2
    (r.1, acc.2 ++ (match r.2, acc.1.block? br with
      | .done _, some b => queueBytes b push q.2.1
      | _, _ => []))) (s, [])).2

/-- The lanes, from the lowest on, whose writes close no 65th packet of an entry; the others wait (R336). -/
def queueFits (g : Grid) (br : BRef) (push : Bool) (s : State) (ls : List (Nat × Nat × DWord)) : List (Nat × Nat × DWord) :=
  let fits (n : Nat) : Bool := !s.wouldOverflow br ((queueWrites g br push s (ls.take n)).map fun k => (k, 0))
  ls.take (((List.range (ls.length + 1)).reverse.find? fits).getD 0)

/-- The lanes' operations, with what they write forwarded (R334, R335). -/
def queueRun (g : Grid) (br : BRef) (push : Bool) (s : State) (ls : List (Nat × Nat × DWord)) :
    State × List ((Nat × Nat × DWord) × QueueOut) :=
  let out := queueLanes g br push s ls
  (out.1.forwardAll br (queueWrites g br push s ls), out.2)

def queueFaults (outs : List ((Nat × Nat × DWord) × QueueOut)) : List LaneFault :=
  outs.filterMap fun p => match p.2 with
    | .faults c => some ⟨p.1.1, c, BitVec.ofNat 64 p.1.2.1, 0⟩
    | _ => none

def queueLeft (outs : List ((Nat × Nat × DWord) × QueueOut)) : List (Nat × Nat × DWord) :=
  outs.filterMap fun p => match p.2 with
    | .waits => some p.1
    | _ => none

def queueVal (outs : List ((Nat × Nat × DWord) × QueueOut)) (l : Nat) : Option Nat :=
  outs.findSome? fun p => match p.2 with
    | .done v => if p.1.1 == l then some v else none
    | _ => none

/-- The operands of the executing lanes. -/
def queueArgs (x : Ctx) (a b : BitVec 8) (push : Bool) : List (Nat × Nat × DWord) :=
  x.lanes.map fun l => (l, (x.rd a l).toNat, if push then x.rdD b l else 0)

/-- Does some lane find room for its write (R336)? -/
def Ctx.queueGoes (x : Ctx) (s : State) (ls : List (Nat × Nat × DWord)) (push : Bool) : Bool :=
  ls.isEmpty || !(queueFits x.g x.r.c.b push s ls).isEmpty

/-- The bytes that the instruction would write if it acted now. -/
def queueTouched (x : Ctx) (s : State) (push : Bool) (o : OpA) : List Nat :=
  queueWrites x.g x.r.c.b push s (queueArgs x o.a o.b push)

/-- Popped values go to the results that instruction `uid` owes, and lanes that faulted are owed nothing. -/
def State.fillPops (s : State) (c : CRef) (uid : Nat) (outs : List ((Nat × Nat × DWord) × QueueOut)) : State :=
  let bad := maskOf ((queueFaults outs).map (·.lane))
  s.modCohort c fun c =>
    { c with pend := c.pend.filterMap fun p =>
        if p.uid == uid then
          let part : Nat := match p.reg with | .vec n => n % 2 | _ => 0
          let keep := p.lanes &&& ~~~bad
          if keep == 0#64 then none
          else some { p with lanes := keep, vals := (outs.foldl (fun vs q =>
            match q.2 with
            | .done v => tput 0 q.1.1 (BitVec.ofNat 32 (v / 2 ^ (32 * part))) vs
            | _ => vs) p.vals).filter fun e => keep.getLsbD e.1 }
        else some p }

/-- QPUSH and QPOP when they issue. -/
def queueIssue (i : Instr) (o : OpA) (push : Bool) (s : State) : Host.Outcome State Fault Refusal :=
  forced i s (fun x s => x.sp.mode == .user && s.publishes x.r.c.b (queueTouched x s push o)) fun s =>
  issueIf i s
    (fun x s => x.allPerformed s && x.queueGoes s (queueArgs x o.a o.b push) push)
    (fun x _ => x.sp.mode == .user) fun x s =>
    let args := queueArgs x o.a o.b push
    let now := queueFits x.g x.r.c.b push s args
    let out := queueRun x.g x.r.c.b push s now
    let fs := queueFaults out.2
    let y := x.minus fs
    let left := queueLeft out.2 ++ args.drop now.length
    let s1 := out.1
    let s2 :=
      if y.ex == 0#64 then s1
      else
        let s3 := if push then s1 else y.owe s1 .v y.ex (outs o.d 2 fun l => (queueVal out.2 l).getD 0)
        if left.isEmpty then y.note s3 y.ex .complete
        else y.hold (y.note s3 y.ex .event) (.queue left) true
    x.raise s2 fs

/-- QPUSH and QPOP of a held split, for the lanes that have not completed (R212-R214). -/
def queueResume (r : SRef) (h : Hold) (left : List (Nat × Nat × DWord)) (push : Bool) (s : State) : State :=
  let s := { s with selected := s.selected.drop 1 }
  match s.grid? r.c.b.grid, s.block? r.c.b with
  | some g, some _ =>
    let now := queueFits g r.c.b push s left
    let bytes := queueWrites g r.c.b push s now
    let go (s : State) : State :=
      let out := queueRun g r.c.b push s now
      let fs := queueFaults out.2
      let left' := queueLeft out.2 ++ left.drop now.length
      let s := out.1.fillPops r.c h.uid out.2
      let s := s.modSplit r fun p => { p with hold := some { h with kind := .queue left' } }
      let all := ((s.split? r).map (·.lanes)).getD 0#64
      let s := s.heldTrap r fs
      if left'.isEmpty then (s.finishIssue h.uid).releaseRest r all (maskOf (fs.map (·.lane))) else s
    if now.isEmpty then s
    else if g.ckpt && s.publishes r.c.b bytes then
      if ((s.split? r).map (·.forced)).getD false then
        ((go s).modBlock r.c.b fun b => { b with st := .checkpointing, exposed := true, forcer := none }).modSplit r
          fun p => { p with forced := false }
      else s.askCheckpoint r.c.b (some r)
    else go s
  | _, _ => s

/-- QPUSH (R213). -/
def execQpush (o : OpA) (s : State) : Host.Outcome State Fault Refusal :=
  match s.resuming with
  | some (r, ⟨.queue left, uid, ls, since⟩) => .next (queueResume r ⟨.queue left, uid, ls, since⟩ left true s)
  | _ => queueIssue (.qpush o) o true s

/-- QPOP (R213). -/
def execQpop (o : OpA) (s : State) : Host.Outcome State Fault Refusal :=
  match s.resuming with
  | some (r, ⟨.queue left, uid, ls, since⟩) => .next (queueResume r ⟨.queue left, uid, ls, since⟩ left false s)
  | _ => queueIssue (.qpop o) o false s

/-- QTRY (R213): never waits; a lane that finds no entry keeps d. -/
def execQtry (o : OpA) (s : State) : Host.Outcome State Fault Refusal :=
  forced (.qtry o) s (fun x s => s.publishes x.r.c.b (queueTouched x s false o)) fun s =>
  issueIf (.qtry o) s
    (fun x s => (x.lanes.all fun l => x.clearNow s l true (x.rd o.a l).toNat (16 + 8 * (x.b.queue (x.rd o.a l).toNat).slots)
      true) && !s.storesBefore x.r.c x.lanes x.uid s.fresh (queueTouched x s false o) &&
      !s.wouldOverflow x.r.c.b ((queueTouched x s false o).map fun k => (k, 0)))
    (fun _ _ => true) fun x s =>
    let out := queueRun x.g x.r.c.b false s (queueArgs x o.a o.b false)
    let fs := queueFaults out.2
    let y := x.minus fs
    let took := maskOf (y.lanes.filter fun l => (queueVal out.2 l).isSome)
    let s1 := y.owe out.1 .v took (outs o.d 2 fun l => (queueVal out.2 l).getD 0)
    let s2 := if y.ex == 0#64 then out.1
      else y.complete s1 (outP (fld o.m 2 0) fun l => (queueVal out.2 l).isSome)
    x.raise s2 fs

/-! ### EXIT (R98) -/

/-- EXIT (R98): the executing lanes end their threads. The exit of the block's last thread takes a checkpoint (R396). -/
def execExit (o : OpA) (s : State) : Host.Outcome State Fault Refusal :=
  issueIf (.exit o) s (fun _ _ => true) (fun x _ => x.sp.mode == .user) fun x s =>
    let s := (freeCohort (exitLanes (x.note s x.ex .complete) x.r x.ex) x.r.c).settleAll
    if x.g.ckpt && ((s.block? x.r.c.b).map fun b => b.exited == x.g.ntid).getD false then s.askCheckpoint x.r.c.b none else s

end Sys2Proof.Machine
end

