-- ==== Sys2Proof/Machine/Copy.lean ====
section
/-! DEFINITION. Copy queues and handles (R215-R225): the issue checks of copies, the delivery of their bytes, fills of the
weight store (R220, R247, R248), peer copies (R219, R342, R400), handle instructions and QFENCE. -/

namespace Sys2Proof.Machine

/-! ### Shape records (R45-R49) -/

/-- A shape record with its markers substituted. -/
structure ShapeRec where
  fill : Bool
  format : Nat
  base : Nat
  ext : Nat × Nat × Nat × Nat
  stride1 : Nat
  stride2 : Nat
  box : Nat × Nat × Nat × Nat
  deriving DecidableEq, Repr

def quad (v w : Nat) : Nat × Nat × Nat × Nat := (v % w, v / w % w, v / w / w % w, v / w / w / w % w)

def ShapeRec.ofWords (w0 w1 w2 w3 : DWord) : ShapeRec :=
  { fill := w0.getLsbD 56, format := fld w0 55 51, base := fld w0 50 0, ext := quad w1.toNat 65536,
    stride1 := fld w2 31 0, stride2 := fld w2 63 32, box := quad (fld w3 31 0) 256 }

/-- One marker (R48): the field its code names takes the register's value. -/
def ShapeRec.subst (r : ShapeRec) (code v : Nat) : ShapeRec :=
  match code with
  | 1 => { r with base := r.base / 2 ^ 32 * 2 ^ 32 + v }
  | 2 => { r with base := v % 2 ^ 19 * 2 ^ 32 + r.base % 2 ^ 32 }
  | 3 => { r with ext := (v % 65536, v / 65536, r.ext.2.2.1, r.ext.2.2.2) }
  | 4 => { r with ext := (r.ext.1, r.ext.2.1, v % 65536, v / 65536) }
  | 5 => { r with stride1 := v }
  | 6 => { r with stride2 := v }
  | 7 => { r with box := quad v 256 }
  | _ => r

/-- The marker bytes in use. -/
def markersOf (w3 : DWord) : List Nat := ([0, 1, 2, 3].map fun i => fld w3 (39 + 8 * i) (32 + 8 * i)).filter (· != 0)

/-- The substituted record, or none where a substitution is illegal (R48). -/
def substituted (x : Ctx) (w0 w1 w2 w3 : DWord) : Option ShapeRec :=
  (markersOf w3).foldl (fun r m => r.bind fun r =>
    let v := (x.c.sreg x.sp.lanes (m % 32)).toNat
    if m / 32 == 2 && decide (2 ^ 19 ≤ v) then none else some (r.subst (m / 32) v)) (some (ShapeRec.ofWords w0 w1 w2 w3))

/-- Size of an element in bits (R47). -/
def recordBits (format : Nat) : Nat :=
  match format with
  | 0x01 => 16
  | 0x02 => 32
  | 0x03 => 64
  | 0x04 => 32
  | 0x05 => 16
  | 0x06 => 16
  | 0x0B => 4
  | 0x0C => 4
  | 0x0E => 16
  | _ => 8

def allPos (q : Nat × Nat × Nat × Nat) : Bool := q.1 != 0 && q.2.1 != 0 && q.2.2.1 != 0 && q.2.2.2 != 0

/-- R45-R47, R49: the fields of a substituted record with the box's origin in dimension 0. -/
def ShapeRec.legal (r : ShapeRec) (origin0 : Nat) : Bool :=
  decide (r.format ≤ 0x0E) && allPos r.ext && allPos r.box &&
    (recordBits r.format != 4 || (r.ext.1 % 2 == 0 && r.box.1 % 2 == 0 && origin0 % 2 == 0))

/-- Insert a run by its destination address (R215). -/
def insertRun (r : Run) : List Run → List Run
  | [] => [r]
  | q :: l => if r.dst < q.dst then r :: q :: l else q :: insertRun r l

/-- The runs of a box between the tensor and a scratchpad offset (R46, R218): a load writes elements outside the extents as
zeros or leaves them; a store never writes them, and goes in ascending destination order. -/
def ShapeRec.runs (r : ShapeRec) (o : Nat × Nat × Nat × Nat) (off : Nat) (store : Bool) : List Run :=
  let bits := recordBits r.format
  let bytes (n : Nat) : Nat := n * bits / 8
  let inn0 := min r.box.1 (r.ext.1 - o.1)
  let rows := (List.range r.box.2.2.2).flatMap fun i3 => (List.range r.box.2.2.1).flatMap fun i2 =>
    (List.range r.box.2.1).flatMap fun i1 =>
      let c1 := o.2.1 + i1
      let c2 := o.2.2.1 + i2
      let c3 := o.2.2.2 + i3
      let inn := if c1 < r.ext.2.1 ∧ c2 < r.ext.2.2.1 ∧ c3 < r.ext.2.2.2 then inn0 else 0
      let so := off + bytes (r.box.1 * (i1 + r.box.2.1 * (i2 + r.box.2.2.1 * i3)))
      let ta := r.base + bytes o.1 + r.stride1 * c1 + r.stride2 * c2 + r.stride2 * r.ext.2.2.1 * c3
      if store then (if inn == 0 then [] else [Run.mk ta (some so) (bytes inn)])
      else
        (if inn == 0 then [] else [Run.mk so (some ta) (bytes inn)]) ++
          (if inn == r.box.1 || !r.fill then [] else [Run.mk (so + bytes inn) none (bytes (r.box.1 - inn))])
  if store then rows.foldl (fun l q => insertRun q l) [] else rows

def runsTotal (rs : List Run) : Nat := rs.foldl (fun t r => t + r.n) 0

/-- Byte `k` of the runs: destination, source, and its place in its run. -/
def byteAt : List Run → Nat → Option (Nat × Option Nat × Nat)
  | [], _ => none
  | r :: rs, k => if k < r.n then some (r.dst + k, r.src.map (· + k), k) else byteAt rs (k - r.n)

/-! ### Handles -/

/-- The operation resolves the handles that follow it (R215, R222), in the block and in its checkpoint. -/
def State.resolve (s : State) (b : BRef) (op code : Nat) (cancelled : Bool) (count : Nat) (addr : DWord) : State :=
  let h (v : Nat × Handle) : Nat × Handle := if v.2 == .pending op then (v.1, .resolved code cancelled count addr) else v
  let f (c : Cohort) : Cohort := { c with handles := c.handles.map h }
  let g (x : Block) : Block := if x.ref == b then { x with cohorts := x.cohorts.map f } else x
  { s with blocks := s.blocks.map g, checkpoints := s.checkpoints.map g }

def State.setHandle (s : State) (c : CRef) (h : Nat) (v : Handle) : State :=
  s.modCohort c fun c => { c with handles := tput .empty h v c.handles }

/-! ### The memory side of a copy -/

/-- R221: the checks of a global byte of a copy that stand in place of steps 4 and 5 of R101. -/
def copyRegion (sys fill isDst : Bool) (pa : Nat) (ws : Bool) : Option Nat :=
  let rg := paRegion pa
  if rg == 3 || ((rg == 2 || rg == 4) && !sys) then some 2
  else if isDst && fill then (if ws then none else some 2)
  else if isDst && rg == 1 then some 0x0A
  else none

/-- Does an entry map an address? -/
def TlbEntry.maps (e : TlbEntry) (va : Nat) : Bool := decide (e.vbase ≤ va) && decide (va < e.vbase + e.size)

/-- A global byte of a copy: its physical address or the cause it raises. `page` is the page that the copy has begun on this side, whose
translation serves while the copy stays in it (R360). -/
def State.copyXlate (s : State) (core : Nat) (g : Grid) (m : Mode) (sys fill isDst : Bool) (va : Nat)
    (page : Option TlbEntry := none) : Except XFault Phys :=
  if 2 ^ 51 ≤ va then .error { cause := 2 }
  else
    let need : Need := if isDst then .wr else .rd
    let fresh := s.xlate core g m need (BitVec.ofNat 64 va)
    let got := match page with
      | some e =>
        if e.maps va then e.access (s.part g.part).secondOn (need.bits + (if m == Mode.user then 8 else 16)) need.bits va else fresh
      | none => fresh
    match got with
    | .error f =>
      if f.leaf.isSome then
        match copyRegion sys fill isDst f.gpa (paRegion f.gpa == 1) with
        | some c => .error { cause := c }
        | none => .error f
      else .error f
    | .ok p =>
      match (copyRegion sys fill isDst p.gpa p.ws).or (copyRegion sys fill isDst p.pa p.ws) with
      | some c => .error { cause := c }
      | none => .ok p

/-- The page that a copy has begun on its destination side or its source side. -/
def CopyOp.page (o : CopyOp) (isDst : Bool) : Option TlbEntry := if isDst then o.pages.2 else o.pages.1

/-- Does a copy wait for a walk before it can begin the page of an address (R235)? -/
def State.copyMiss (s : State) (op : CopyOp) (g : Grid) (isDst : Bool) (a : Nat) : Bool :=
  op.mode != .hypervisor && decide (a < 2 ^ 51) && ((op.page isDst).map fun e => e.maps a) != some true && s.tlbMiss op.core g a

/-- A copy reaches an address: where it begins a page, it translates it then, through the TLBs of its core and domain (R235, R360). -/
def State.beginPage (s : State) (op : CopyOp) (g : Grid) (isDst : Bool) (a : Nat) : State :=
  if op.mode == .hypervisor || ((op.page isDst).map fun e => e.maps a) == some true then s
  else
    match s.translation op.core g a with
    | .error _ => s
    | .ok e =>
      { s.tlbFill op.core g (BitVec.ofNat 64 a) with copies := s.copies.map fun o =>
          if o.id == op.id then { o with pages := if isDst then (o.pages.1, some e) else (some e, o.pages.2) } else o }

/-- The CXL port that serves a far-tier offset (R414). -/
def cxlPort : List Nat → Nat → Nat → Nat
  | [], _, i => i
  | c :: r, off, i => if off < c * 2 ^ 30 then i else cxlPort r (off - c * 2 ^ 30) (i + 1)

/-- The remote address behind a window address (R416). -/
def State.remoteAddr (s : State) (pa : Nat) : Nat := fld (tget 0 s.ewin (pa / 2 ^ 40 % 16)) 55 48 * 2 ^ 40 + pa % 2 ^ 40

/-- R416: what a copy meets at a window: 0x02, 0x07 with its links down, or nothing. -/
def State.windowFault (s : State) (pa : Nat) (isDst : Bool) : Option Nat :=
  let w := tget 0 s.ewin (pa / 2 ^ 40 % 16)
  let links := (List.range 32).filter fun l => w.getLsbD l
  let region := paRegion (s.remoteAddr pa)
  if !w.getLsbD 63 || links.isEmpty || decide (1 < region) || (isDst && region == 1) then some 2
  else if links.all fun l => s.linksDown.contains l then some 7
  else if Config.remoteRefuses (s.draw) then some 2
  else none

/-- Every copy of some lines is dropped: in the L1s, in the visitor ways, and of the weight store's in its own domain's L2 too (R248, R107). -/
def State.dropCopies (s : State) (lines : List Nat) : State :=
  { s with
    cores := tmap {} (fun k => { k with l1 := k.l1.filter fun e => !lines.contains e.line }) s.cores
    l2 := s.l2.filterMap fun b =>
      let l := b.2.filter fun e => !(lines.contains e.line && (paDomain (128 * e.line) != b.1 / 16 || paRegion (128 * e.line) == 1))
      if l.isEmpty then none else some (b.1, l)
    directory := lines.foldl (fun d l => tput [] l [] d) s.directory }

/-- Has a copy been given its destination line by the home bank (R240)? -/
def State.claimed (s : State) (id pa : Nat) : Bool :=
  s.flight.any fun a => a.op == .claim id && a.pa / 128 == pa / 128 && a.isFixed

/-- Lines that a copy has claimed are given back, but for the line of an address that it still writes. -/
def State.dropClaims (s : State) (id : Nat) (keep : Option Nat) : State :=
  { s with flight := s.flight.filter fun a => a.op != .claim id || keep.map (· / 128) == some (a.pa / 128) }

/-- A write of `n` bytes reaches its home bank and waits there: for the bank's leases, and for the visitor banks that the directory names, to
which invalidations set out (R240, R242). -/
def State.waitingStage (s : State) (pa n : Nat) : Stage :=
  .waiting s.ticks (s.bankWait (paDomain pa) pa n) ((tget [] s.directory (pa / 128)).map fun d =>
    { domain := d, trip := some (s.inject 1 0 (s.bankPlace (paDomain pa) pa) (s.bankPlace d pa)) })

/-- The write of a copy sets out for the line of an address, unless it has (R240, R252). -/
def State.claim (s : State) (op : CopyOp) (pa : Nat) : State :=
  if decide (1 < paRegion pa) || s.flight.any (fun a => a.op == .claim op.id && a.pa / 128 == pa / 128) then s
  else
    s.launchAccess { id := 0, uid := 0, c := ⟨⟨0, 0⟩, 0⟩, core := op.core, lane := 0, op := .claim op.id, scratch := false
                     va := 0, pa := pa / 128 * 128, size := 128, scope := 3 }

/-! ### Delivering bytes -/

/-- What happens to the next byte. -/
inductive Delivery where
  /-- it is delivered -/
  | next (s : State)
  /-- it cannot be delivered yet -/
  | waits
  /-- a later failure of R221: code and first bad address -/
  | fails (code addr : Nat)

/-- A source byte that the copy itself has overwritten is read as it was before the copy or as it is now; either is allowed (R221). -/
def State.overlapped (s : State) (op : CopyOp) (place : Nat) (v : Byte) : Byte × State :=
  match tget none op.olds place with
  | some w => if w == v then (v, s) else (if Config.choose s.draw % 2 == 0 then v else w, { s with draw := s.draw + 1 })
  | none => (v, s)

/-- Keep a byte as it stood before the copy wrote over it. -/
def CopyOp.remember (o : CopyOp) (place : Nat) (v : Byte) : CopyOp :=
  if (tget none o.olds place).isSome then o else { o with olds := tput none place (some v) o.olds }

/-- Read a source byte of an operation that needs no bank: of the scratchpad, of the far tier or of another module. One of near DRAM or of
the weight store comes by a fetch of its line. -/
def readSource (s : State) (op : CopyOp) (g : Grid) (fromGlob : Bool) (a : Nat) : Except (Option (Nat × Nat)) (Byte × State) :=
  match s.block? op.b with
  | none => .error none
  | some b =>
    if !fromGlob then
      if inScratch g a 1 then .ok (s.overlapped op a (b.sbyte a)) else .error (some (2, a))
    else
      if s.copyMiss op g false a then .error none
      else match s.copyXlate op.core g op.mode (op.scope == 3) false false a (op.page false) with
      | .error f => .error (some (f.cause, a))
      | .ok p =>
        let s := s.beginPage op g false a
        let rg := paRegion p.pa
        if rg == 4 then
          match s.windowFault p.pa false with
          | some c => .error (some (c, if c == 2 then p.pa else a))
          | none =>
            if Config.remotePoisoned s.draw then .error (some (7, a))
            else .ok (Config.remoteByte s.draw, { s with draw := s.draw + 1 })
        else if rg ≤ 1 then .error none
        else if s.cxlDown.contains (cxlPort s.nv.far (p.pa % 2 ^ 44) 0) || s.poisoned p.pa then .error (some (7, a - p.pa % 64))
        else .ok (s.overlapped op p.pa ((s.seen b p.pa 1).1.headD 0))

/-- A delivered byte in a block's scratchpad, or in the image that stands for it (R342): it is not forwarded (R221). -/
def State.deliver (s : State) (b : BRef) (off : Nat) (v : Byte) : State := s.scratchWrite b [(off, v)] false

/-- Write a destination byte. `k` is its place in its run, of which a whole sector clears a poison mark (R250). -/
def writeDest (s : State) (op : CopyOp) (g : Grid) (toGlob fill : Bool) (a k : Nat) (v : Byte) : Delivery :=
  if !toGlob then
    if inScratch g a 1 then .next (s.deliver op.b a v) else .fails 2 a
  else
    if s.copyMiss op g true a then .waits
    else match s.copyXlate op.core g op.mode (op.scope == 3) fill true a (op.page true) with
    | .error f => .fails f.cause a
    | .ok p =>
      let s := s.beginPage op g true a
      let rg := paRegion p.pa
      if rg == 4 then
        match s.windowFault p.pa true with
        | some c => .fails c (if c == 2 then p.pa else a)
        | none => .next { s with remoteOut := s.remoteOut ++ [(p.pa, v)] }
      else if rg == 2 && s.cxlDown.contains (cxlPort s.nv.far (p.pa % 2 ^ 44) 0) then .fails 7 (a - p.pa % 64)
      else if rg ≤ 1 && !s.claimed op.id p.pa then .waits
      else .next (((s.touchBanks p.pa).dropClaims op.id (some p.pa)).homeWrite p.pa [v] (p.pa % 64 == 63 && decide (63 ≤ k)))

def State.modCopy (s : State) (id : Nat) (f : CopyOp → CopyOp) : State :=
  { s with copies := s.copies.map fun o => if o.id == id then f o else o }

def State.countBytes (s : State) (op : CopyOp) (n : Nat) : State :=
  s.modBlock op.b fun b => { b with wptr := tput 0 op.queue (tget 0 b.wptr op.queue + n) b.wptr }

/-- The place of a destination byte on its side, and what the block sees there. -/
def State.standing (s : State) (op : CopyOp) (g : Grid) (toGlob : Bool) (a : Nat) : Option (Nat × Byte) :=
  match s.block? op.b with
  | none => none
  | some b =>
    if !toGlob then some (a, b.sbyte a)
    else
      match s.copyXlate op.core g op.mode (op.scope == 3) false true a (op.page true) with
      | .ok p => some (p.pa, (s.seen b p.pa 1).1.headD 0)
      | .error _ => none

/-- The runs of an operation, and whether they lie in global memory and hold S9 elements. -/
def Moves.source : Moves → List Run × Bool × Bool
  | .runs _ fromGlob _ s9 rs => (rs, fromGlob, s9)
  | .peer fromGlob s9 rs _ _ => (rs, fromGlob, s9)
  | .fence _ => ([], false, false)

/-- Source byte `n` of an operation as it can be read now: zero where its run has none. -/
def readByte (s : State) (op : CopyOp) (g : Grid) (n : Nat) : Except (Option (Nat × Nat)) (Byte × State) :=
  let (rs, fromGlob, _) := op.moves.source
  match byteAt rs n with
  | some (_, some a, _) => readSource s op g fromGlob a
  | some (_, none, _) => .ok (0, s)
  | none => .error none

/-- The address of source byte `n`. -/
def CopyOp.sourceAt (op : CopyOp) (n : Nat) : Nat :=
  match byteAt op.moves.source.1 n with
  | some (_, some a, _) => a
  | _ => 0

/-- Source byte `n` of the copy `id` is there: it has been read, or it is read now; or its read has failed, or it waits. -/
def gather (id n : Nat) (s : State) : Except (Option (Nat × Nat)) State :=
  match s.copies.find? fun o => o.id == id with
  | none => .error none
  | some op =>
    if (tget none op.ahead n).isSome then .ok s
    else if tget 0 op.bad n != 0 then .error (some (tget 0 op.bad n, op.sourceAt n))
    else
      match s.grid? op.b.grid with
      | none => .error none
      | some g =>
        match readByte s op g n with
        | .error e => .error e
        | .ok (v, t) => .ok (t.modCopy id fun o => { o with ahead := tput none n (some v) o.ahead })

/-- The fetch of the source bytes from number `n` on that lie in one line sets out, unless one that brings byte `n` is under way (R249,
R252); or the walk of their page is asked for (R235). -/
def State.askFetch (s : State) (op : CopyOp) (g : Grid) (n : Nat) : State :=
  let (rs, fromGlob, _) := op.moves.source
  match byteAt rs n with
  | some (_, some a, k) =>
    if !fromGlob then s
    else if s.copyMiss op g false a then s.askWalk ⟨op.core, g.id, a / 32768⟩
    else
      match s.copyXlate op.core g op.mode (op.scope == 3) false false a (op.page false) with
      | .error _ => s
      | .ok p =>
        if decide (1 < paRegion p.pa) || s.flight.any (fun f => f.op == .fetch op.id && decide (f.lane ≤ n) && decide (n < f.lane + f.size)) then s
        else
          let left := rs.foldl (fun m r => match r.src with
            | some q => if q ≤ a && a < q + r.n && a - q == k then max m (r.n - k) else m
            | none => m) 1
          (s.beginPage op g false a).launchAccess { id := 0, uid := 0, c := ⟨⟨0, 0⟩, 0⟩, core := op.core, lane := n, op := .fetch op.id
                                                    scratch := false, va := BitVec.ofNat 64 a, pa := p.pa
                                                    size := min (128 - p.pa % 128) left, scope := 3 }
  | _ => s

/-- The bank serves a fetch: its bytes are fixed, up to one that is poisoned or unfilled, and set out for the core. -/
def State.serveFetch (s : State) (a : Access) (copy : Nat) : State :=
  match (s.copies.find? fun o => o.id == copy).bind fun o => s.block? o.b with
  | none => { s with flight := s.flight.filter fun b => b.id != a.id }
  | some b =>
    let good := ((List.range a.size).map fun i => s.seen b (a.pa + i) 1).takeWhile fun v => !v.2
    (s.setAccess a.id fun x => { x with
      stage := .fixed (good.map fun v => v.1.headD 0) (decide (good.length < a.size))
      trip := some (s.replyTrip a) }).bump.bankServed (paDomain a.pa) a.pa (s.leaseOf a).2 0

/-- The bytes of a fetch reach the copy: they have been read, and the one after them has failed where it is poisoned or unfilled (0x07). -/
def State.landFetch (s : State) (a : Access) (copy : Nat) : State :=
  let t : State := { s with flight := s.flight.filter fun b => b.id != a.id }
  match a.stage, s.copies.find? fun o => o.id == copy with
  | .fixed bytes poison, some op =>
    let q := bytes.foldl (fun (q : State × Nat × List (Nat × Option Byte)) v =>
      let r := q.1.overlapped op (a.pa + q.2.1) v
      (r.2, q.2.1 + 1, q.2.2 ++ [(a.lane + q.2.1, some r.1)])) (t, 0, [])
    q.1.modCopy copy fun o =>
      { o with ahead := tputs none (q.2.2.filter fun v => (tget none o.ahead v.1).isNone && decide (o.done ≤ v.1)) o.ahead
               bad := if poison then tput 0 (a.lane + bytes.length) 7 o.bad else o.bad }
  | _, _ => t

/-- Up to `n` source bytes from number `k` on are read before they are delivered, or their fetches set out. One that waits is passed over with
the rest of its line: each line is a request of its own (R249). One that fails is met again at its delivery. -/
def readAhead (id : Nat) : Nat → Nat → State → State
  | 0, _, s => s
  | n + 1, k, s =>
    match s.copies.find? fun o => o.id == id with
    | none => s
    | some op =>
      if decide (k < op.done) then readAhead id n (k + 1) s
      else
        match gather id k s with
        | .ok t => readAhead id n (k + 1) t
        | .error none => readAhead id n (k + 128 - op.sourceAt k % 128)
            (match s.grid? op.b.grid with | some g => s.askFetch op g k | none => s)
        | .error (some _) => s

/-- How many of a copy's bytes from number `n` on lie in one 64-byte block of the far tier on either side, which moves as a whole (R251), and
whether the source side is there: 1 where neither is. -/
def State.blockSpan (s : State) (op : CopyOp) (g : Grid) (n : Nat) : Nat × Bool :=
  let (rs, fromGlob, _) := op.moves.source
  let (toGlob, fill) := match op.moves with | .runs toGlob _ fill _ _ => (toGlob, fill) | _ => (false, false)
  match byteAt rs n with
  | none => (1, false)
  | some (d, src, k) =>
    let far (isDst fill : Bool) (a : Nat) : Nat := match s.copyXlate op.core g op.mode (op.scope == 3) fill isDst a (op.page isDst) with
      | .ok p => if paRegion p.pa == 2 then 64 - p.pa % 64 else 1
      | .error _ => 1
    let a := if toGlob then far true fill d else 1
    let b := match src with | some q => if fromGlob then far false false q else 1 | none => 1
    (min (max a b) (max 1 (min (runsTotal rs - n) (rs.foldl (fun m r => if r.dst ≤ d && d < r.dst + r.n then max m (r.n - k) else m) 1))),
      decide (1 < b))

/-- What the source bytes that move together with byte `n` meet, once those that can be read now are read: all there, a failure, or a wait.
A block of the far tier fails as a whole (R251), and elsewhere only byte `n` itself fails now. With an S9 element's low byte comes its high
byte, whose bits [7:1] must be zero (R47). -/
def sourceFor (id n : Nat) (op : CopyOp) (g : Grid) (s : State) : Except (Option (Nat × Nat)) State :=
  let (rs, _, s9) := op.moves.source
  let (span, far) := s.blockSpan op g n
  let low := s9 && (match byteAt rs n with | some (_, some _, k) => k % 2 == 0 | _ => false)
  let m := if low then max span 2 else span
  match (List.range m).foldl (fun (r : Except (Option (Nat × Nat)) State) i => match r with
      | .error e => .error e
      | .ok t => match gather id (n + i) t with
        | .ok u => .ok u
        | .error none => .error none
        | .error (some e) => if i == 0 || (far && i < span) then .error (some e) else .ok t) (.ok s) with
  | .error e => .error e
  | .ok t =>
    let high := ((t.copies.find? fun o => o.id == id).bind fun o => tget none o.ahead (n + 1)).getD 0
    if low && high.toNat / 2 != 0 then .error (some (5, op.sourceAt n)) else .ok t

/-- The next byte of a COPY, TCOPY or FILL (R215, R221). -/
def deliverByte (s : State) (op : CopyOp) : Delivery :=
  match s.grid? op.b.grid, op.moves with
  | some g, .runs toGlob fromGlob fill _ rs =>
    match byteAt rs op.done with
    | none => .waits
    | some (d, _, k) =>
      match sourceFor op.id op.done op g s with
      | .error none => .waits
      | .error (some (c, a)) => .fails c a
      | .ok s =>
        let op := (s.copies.find? fun o => o.id == op.id).getD op
        match writeDest s op g toGlob fill d k ((tget none op.ahead op.done).getD 0) with
        | .next t =>
          let was := if toGlob == fromGlob && !fill then s.standing op g toGlob d else none
          .next ((t.countBytes op 1).modCopy op.id fun o =>
            let o := { o with done := o.done + 1, ahead := tput none op.done none o.ahead }
            match was with
            | some (place, w) => o.remember place w
            | none => o)
        | e => e
  | _, _ => .waits

/-- What a copy has under way is given up: fetches of its source, and the lines that it has claimed. -/
def State.dropReads (s : State) (id : Nat) : State :=
  { s with flight := s.flight.filter fun a => a.op != .fetch id && a.op != .claim id }

/-- The operation ends: it leaves its queue, gives back what it has claimed, and its handle resolves. -/
def State.endCopy (s : State) (op : CopyOp) (code : Nat) (cancelled : Bool) (count addr : Nat) : State :=
  let t : State := { s with copies := s.copies.filter fun o => o.id != op.id
                            walks := s.walks.filter fun w => !(w.failed && w.req == ⟨op.core, op.b.grid, addr / 32768⟩) }
  (t.dropReads op.id).resolve op.b op.id code cancelled count (BitVec.ofNat 64 addr)

/-- A copy that waits gives back the lines that it has been given, so that no read waits behind it meanwhile. -/
def State.giveBack (s : State) (id : Nat) : State :=
  { s with flight := s.flight.filter fun a => !(a.op == .claim id && a.isFixed) }

/-- What byte `n` of a copy waits for is asked for: the fetches of the source bytes that move with it; or, when these are there, for a copy
that writes global memory the line of its destination; or the walk of their pages (R235, R240, R249). -/
def State.askLine (s : State) (op : CopyOp) (n : Nat) : State :=
  match s.grid? op.b.grid with
  | none => s
  | some g =>
    let s := s.giveBack op.id
    let op := (s.copies.find? fun o => o.id == op.id).getD op
    match sourceFor op.id n op g s, op.moves with
    | .ok _, .runs true _ fill _ rs =>
      match byteAt rs n with
      | none => s
      | some (d, _, _) =>
        if s.copyMiss op g true d then s.askWalk ⟨op.core, g.id, d / 32768⟩
        else match s.copyXlate op.core g op.mode (op.scope == 3) fill true d (op.page true) with
          | .ok p => s.claim op p.pa
          | .error _ => s
    | .ok _, _ => s
    | .error _, _ =>
      (List.range (max (if op.moves.source.2.2 then 2 else 1) (s.blockSpan op g n).1)).foldl (fun t i =>
        if (tget none op.ahead (n + i)).isSome then t else t.askFetch op g (n + i)) s

/-- May the operation be served now: queue order and QFENCE (R215, R223)? -/
def State.begins (s : State) (op : CopyOp) : Bool :=
  let before := (s.copies.takeWhile fun o => o.id != op.id).filter fun o => o.core == op.core
  match op.moves with
  | .fence mask => before.all fun o => !(decide (o.queue < 8) && mask.testBit o.queue)
  | _ => before.all fun o =>
    o.queue != op.queue && (match o.moves with | .fence mask => !mask.testBit op.queue | _ => true)

/-- The next `n` bytes of an operation, and whether all of them were delivered. -/
def landBytes (id : Nat) : Nat → State → State × Bool
  | 0, s => (s, true)
  | n + 1, s =>
    match s.copies.find? fun o => o.id == id with
    | none => (s, false)
    | some op =>
      match deliverByte s op with
      | .next t => landBytes id n t
      | .waits => (s.askLine op op.done, false)
      | .fails c a => (s.endCopy op c false op.done a, false)

/-- Up to `n` more units of a COPY, TCOPY or FILL, and its end: a unit is a byte, or the rest of a block of the far tier (R251). -/
def copyBytes (id : Nat) : Nat → State → State
  | n, s =>
    match s.copies.find? fun o => o.id == id with
    | none => s
    | some op =>
      match op.moves with
      | .runs _ _ _ _ rs =>
        if op.done == runsTotal rs then s.endCopy op 0 false op.done 0
        else
          match n with
          | 0 => s
          | m + 1 =>
            let q := landBytes id (((s.grid? op.b.grid).map fun g => (s.blockSpan op g op.done).1).getD 1) s
            if q.2 then copyBytes id m q.1 else q.1
      | _ => s

/-! ### Peer copies (R219, R221, R224, R400) -/

/-- R219: bytes of the box delivered to every receiver that does not fail. -/
def boxDone (total : Nat) (ds : List Dest) : Nat :=
  let live := ds.filter fun d => d.code.isNone
  if live.isEmpty then
    match ds with
    | [] => total
    | d :: _ => d.done
  else live.foldl (fun m d => min m d.done) total

/-- What a receiver fails with before any byte reaches it. DESIGN CHOICE (log 98): of several causes, the first in this order. -/
def destFault (g : Grid) (off bar : Nat) (d : Dest) : Option Nat :=
  if d.block.isNone || !inScratch g bar 8 then some 2
  else if bar % 8 != 0 || off % 16 != 0 then some 3
  else none

/-- Append a peer delivery to a receiver's log (R400): bytes of one 64-byte chunk share an entry. -/
def logByte (log : List LogEntry) (off bar : Nat) (v : Byte) : List LogEntry :=
  let base := off / 64 * 64
  let entry (e : LogEntry) : LogEntry :=
    { e with mask := e.mask ||| 2 ^ (off % 64), counted := e.counted + 1,
             bytes := e.bytes.set (off % 64) v }
  match log.getLast? with
  | some e =>
    if e.off == base && e.bar == bar && !e.mask.testBit (off % 64) then log.dropLast ++ [entry e]
    else log ++ [entry ⟨base, 0, bar, 0, List.replicate 64 0⟩]
  | none => [entry ⟨base, 0, bar, 0, List.replicate 64 0⟩]

/-- One byte for one receiver: it lands, and the receiver's byte-count barrier counts it (R211, R342). -/
def deliverPeer (s : State) (op : CopyOp) (bit : Nat) : Delivery :=
  match s.grid? op.b.grid, op.moves with
  | some g, .peer fromGlob s9 rs bar ds =>
    match ds.find? fun d => d.bit == bit with
    | none => .waits
    | some d =>
      match d.block, byteAt rs d.done with
      | some rb, some (off, _, _) =>
        match s.block? rb with
        | none => .fails 2 d.name
        | some blk =>
          match sourceFor op.id d.done op g s with
          | .error none => .waits
          | .error (some (c, _)) => .fails c d.name
          | .ok s =>
            let v := ((s.copies.find? fun o => o.id == op.id).bind fun o => tget none o.ahead d.done).getD 0
            if !inScratch g off 1 then .fails 2 d.name
            else if g.ckpt && rb != op.b && decide (512 ≤ (logByte blk.log off bar v).length) && decide (512 ≤ blk.log.length) then
              .waits
            else
              let was := (s.block? rb).map fun b => b.sbyte off
              let s := (s.deliver rb off v).barbAdd rb bar false (-1)
              let s := if g.ckpt && rb != op.b then s.modBlock rb fun b => { b with log := logByte b.log off bar v } else s
              .next (s.modCopy op.id fun o =>
                let o := { o with moves := .peer fromGlob s9 rs bar (ds.map fun e =>
                  if e.bit == bit then { e with done := e.done + 1 } else e) }
                match was with
                | some w => if rb == op.b && !fromGlob then o.remember off w else o
                | none => o)
      | _, _ => .waits
  | _, _ => .waits

/-- %wptr and the end of a peer copy, after a receiver's bytes or failure. Where no receiver failed, both count the whole box, with the
elements that lie outside the extents and are not written (R219, R224). -/
def settlePeer (s : State) (id : Nat) : State :=
  match s.copies.find? fun o => o.id == id with
  | none => s
  | some op =>
    match op.moves with
    | .peer _ _ rs _ ds =>
      let total := runsTotal rs
      let fin := ds.all fun d => d.code.isSome || d.done == total
      let live := ds.any fun d => d.code.isNone
      let n := boxDone total ds
      let s := if live || fin then
        (s.countBytes op (n - op.done)).modCopy id fun o => { o with done := max o.done n } else s
      if fin then
        match ds.find? fun d => d.code.isSome with
        | some d => s.endCopy op (d.code.getD 0) false d.done d.name
        | none => (s.countBytes op (op.box - total)).endCopy op 0 false op.box 0
      else s
    | _ => s

/-- A receiver's log is full: its block takes a checkpoint at once (R400). -/
def State.logFull (s : State) (rb : BRef) : State :=
  match s.block? rb with
  | some b => if decide (512 ≤ b.log.length) && b.st == .resident then s.askCheckpoint rb none else s
  | none => s

/-- Up to `n` bytes to one receiver; a block of the far tier goes as a whole (R251). -/
def peerBytes (id bit : Nat) : Nat → State → State
  | 0, s => s
  | n + 1, s =>
    match s.copies.find? fun o => o.id == id with
    | none => s
    | some op =>
      match op.moves with
      | .peer fromGlob s9 rs bar ds =>
        match ds.find? fun d => d.bit == bit with
        | some d =>
          if d.code.isSome || d.done == runsTotal rs then s
          else
            match deliverPeer s op bit with
            | .next t => peerBytes id bit n t
            | .waits => match d.block with | some rb => (s.askLine op d.done).logFull rb | none => s
            | .fails c _ => s.modCopy id fun o => { o with moves := .peer fromGlob s9 rs bar (ds.map fun e =>
                if e.bit == bit then { e with code := some c } else e) }
        | none => s
      | _ => s

/-- The packet of a peer copy to one receiver. -/
def State.setPeerTrip (s : State) (id bit : Nat) (f : Option Trip → Option Trip) : State :=
  s.modCopy id fun o => match o.moves with
    | .peer fromGlob s9 rs bar ds =>
      { o with moves := .peer fromGlob s9 rs bar (ds.map fun e => if e.bit == bit then { e with trip := f e.trip } else e) }
    | _ => o

/-- How far a peer copy has come at one receiver. -/
def State.peerDone (s : State) (id bit : Nat) : Nat × Option Nat :=
  match (s.copies.find? fun o => o.id == id).map CopyOp.moves with
  | some (.peer _ _ _ _ ds) => ((ds.find? fun d => d.bit == bit).map fun d => (d.done, d.code)).getD (0, none)
  | _ => (0, none)

/-- PEER_DELIVERY (R219, R252): a packet of up to 512 bytes of the box sets out for one receiver on the copy's route, goes on to its next
router, or is delivered there. -/
def peerDelivery (id bit : Nat) (s : State) : State :=
  match s.copies.find? fun o => o.id == id with
  | none => s
  | some op =>
    if !s.begins op then s
    else match op.moves with
      | .peer _ _ rs _ ds =>
        match ds.find? fun d => d.bit == bit with
        | none => s
        | some d =>
          if d.code.isSome || d.done == runsTotal rs then settlePeer s id
          else match d.trip with
            | none =>
              match (s.grid? op.b.grid).map fun g => sourceFor id d.done op g s with
              | some (.error none) => s.askLine op d.done
              | some (.ok t) => t.bump.setPeerTrip id bit fun _ => some (t.inject 0
                  (if op.route == 0 then 0 else tget 0 (t.core op.core).routes op.route) (t.coreRouter op.core) (t.coreRouter d.name))
              | _ => settlePeer (peerBytes id bit 1 s) id
            | some t =>
              if s.portServes t then s.setPeerTrip id bit fun o => o.map Trip.on
              else if !t.there then s
              else
                let u := peerBytes id bit 512 s
                settlePeer (if u.peerDone id bit == (d.done, none) then u else u.setPeerTrip id bit fun _ => none) id
      | _ => s

/-- COPY_RESOLVE (R215, R221, R223): more bytes of an operation are delivered, and it resolves when all are, at a failure, or,
for a QFENCE, when every operation before it on a masked queue is performed. `reads` source bytes are read ahead after `units` are
delivered. -/
def copyResolve (id units reads : Nat) (s : State) : State :=
  match s.copies.find? fun o => o.id == id with
  | some op =>
    if !s.begins op then s
    else match op.moves with
      | .fence _ => s.endCopy op 0 false 0 0
      | .runs _ _ fill _ _ =>
        let t := copyBytes id (if fill then 0 else units) s
        match t.copies.find? fun o => o.id == id with
        | some o => readAhead id reads o.done t
        | none => t
      | .peer _ _ _ _ _ => if reads == 0 then settlePeer s id else readAhead id reads op.done s
  | none => s

/-- FILL_LINE_LANDED (R220, R406): the next 128 bytes of a FILL land, and their line is filled. -/
def fillLineLanded (id : Nat) (s : State) : State :=
  match s.copies.find? fun o => o.id == id with
  | some op =>
    match s.grid? op.b.grid, op.moves with
    | some g, .runs toGlob _ true _ rs =>
      if !(s.begins op && toGlob) then s
      else
        let want := 128 - op.done % 128
        let pa := match byteAt rs op.done with
          | some (d, _, _) => match s.copyXlate op.core g op.mode (op.scope == 3) true true d (op.page true) with
            | .ok p => some p.pa
            | .error _ => none
          | none => none
        let q := landBytes id want s
        let t := match pa with
          | some p => if q.2 then { q.1 with filled := setAdd (p / 128) q.1.filled } else q.1
          | none => q.1
        copyBytes id 0 t
    | _, _ => s
  | none => s

/-! ### Issue -/

/-- The count of COPY and FILL (R217), or none where the register's value is illegal. -/
def copyCount (x : Ctx) (w : DWord) : Option Nat :=
  if fld w 47 40 == 0xF0 then some (fld w 39 0)
  else
    let v := x.rdN 2 (BitVec.ofNat 8 (fld w 47 40)) x.low
    if 2 ^ 40 ≤ v then none else some v

/-- First byte of one side (R221). -/
def sideFault (x : Ctx) (s : State) (glob sys fill isDst : Bool) (a : Nat) : Option XFault :=
  if glob then
    match s.copyXlate x.c.core x.g x.sp.mode sys fill isDst a with
    | .error f => some f
    | .ok _ => none
  else if inScratch x.g a 1 then none else some { cause := 2 }

/-- What a copy would do, once its operands are read: a fault with XADDR and XGPA, or its moves. -/
abbrev Plan := Except (Nat × Nat × Nat) Moves

/-- The first failing side, the source before the destination. -/
def sideFaults (x : Ctx) (s : State) (sys : Bool) (fromGlob toGlob fill : Bool) (src dst : Option Nat)
    (srcAlign dstAlign : Option Nat) : Option (Nat × Nat × Nat) :=
  let side (glob isDst : Bool) (a align : Option Nat) : Option (Nat × Nat × Nat) :=
    match align with
    | some v => some (3, v, 0)
    | none => a.bind fun v => (sideFault x s glob sys fill isDst v).map fun f => (f.cause, v, f.gpa)
  (side fromGlob false src srcAlign).or (side toGlob true dst dstAlign)

/-- What a COPY moves (R217), or none where its count is illegal. -/
def copySides (x : Ctx) (o : OpA) (w : DWord) : Option Moves :=
  let toGlob := decide (fld o.m 1 0 ≤ 1)
  let fromGlob := fld o.m 1 0 % 2 == 0
  (copyCount x w).map fun n => .runs toGlob fromGlob false false
    (if n == 0 then [] else [Run.mk (x.rdN (if toGlob then 2 else 1) o.a x.low) (some (x.rdN (if fromGlob then 2 else 1) o.b x.low)) n])

/-- COPY's plan (R217, R221). -/
def copyPlan (x : Ctx) (s : State) (o : OpA) (w : DWord) : Plan :=
  let toGlob := decide (fld o.m 1 0 ≤ 1)
  let fromGlob := fld o.m 1 0 % 2 == 0
  let dst := x.rdN (if toGlob then 2 else 1) o.a x.low
  let src := x.rdN (if fromGlob then 2 else 1) o.b x.low
  match copySides x o w with
  | none => .error (5, 0, 0)
  | some m =>
    if m.source.1.isEmpty then .ok m
    else match sideFaults x s (fld o.m 3 2 == 3) fromGlob toGlob false (some src) (some dst) none none with
      | some f => .error f
      | none => .ok m

/-- What a FILL moves (R220), or none where its count or an address is illegal. -/
def fillSides (x : Ctx) (o : OpA) (w : DWord) : Option Moves :=
  let dst := x.rdN 2 o.a x.low
  let src := x.rdN 2 o.b x.low
  if dst % 4096 != 0 || src % 4096 != 0 then none
  else (copyCount x w).map fun n => .runs true true true false (if n == 0 then [] else [Run.mk dst (some src) n])

/-- FILL's plan (R220, R221). -/
def fillPlan (x : Ctx) (s : State) (o : OpA) (w : DWord) : Plan :=
  let dst := x.rdN 2 o.a x.low
  let src := x.rdN 2 o.b x.low
  let bad (v : Nat) : Option Nat := if v % 4096 == 0 then none else some v
  match copyCount x w with
  | none => .error (5, 0, 0)
  | some n =>
    let some' (v : Nat) : Option Nat := if n == 0 then none else some v
    match sideFaults x s (fld o.m 3 2 == 3) true true true (some' src) (some' dst) (bad src) (bad dst) with
    | some f => .error f
    | none =>
      if n % 4096 != 0 then .error (3, 0, 0)
      else .ok (.runs true true true false (if n == 0 then [] else [Run.mk dst (some src) n]))

/-- What a TCOPY moves (R218), or none where its record is illegal. -/
def tcopySides (x : Ctx) (o : OpA) (w0 w1 w2 w3 : DWord) : Option Moves :=
  let store := o.d.getLsbD 7
  let org := quad (x.rdN 2 o.b x.low) 65536
  (substituted x w0 w1 w2 w3).bind fun r =>
    if !r.legal org.1 || r.stride1 % 16 != 0 || r.stride2 % 16 != 0 then none
    else some (.runs store (!store) false (r.format == 0x0E) (r.runs org (x.rd o.a x.low).toNat store))

/-- What the peer form reads (R219), or none where its record is illegal. -/
def peerSides (x : Ctx) (o : OpA) (w0 w1 w2 w3 : DWord) : Option Moves :=
  (substituted x w0 w1 w2 w3).bind fun r =>
    if !r.legal 0 || r.stride1 % 16 != 0 || r.stride2 % 16 != 0 then none
    else some (.peer (!o.d.getLsbD 7) (r.format == 0x0E) (r.runs (0, 0, 0, 0) (x.rdN 2 o.a x.low % 2 ^ 32) false) 0 [])

/-- TCOPY's plan (R218, R221). -/
def tcopyPlan (x : Ctx) (s : State) (o : OpA) (w0 w1 w2 w3 : DWord) : Plan :=
  let store := o.d.getLsbD 7
  let off := (x.rd o.a x.low).toNat
  let org := quad (x.rdN 2 o.b x.low) 65536
  match substituted x w0 w1 w2 w3 with
  | none => .error (5, 0, 0)
  | some r =>
    if !r.legal org.1 then .error (5, 0, 0)
    else if r.stride1 % 16 != 0 || r.stride2 % 16 != 0 then .error (3, 0, 0)
    else
      let rs := r.runs org off store
      let bad : Option Nat := if off % 16 == 0 then none else some off
      match sideFaults x s (fld o.m 3 2 == 3) (!store) store false (rs.findSome? (·.src)) (rs.head?.map (·.dst))
          (if store then bad else none) (if store then none else bad) with
      | some f => .error f
      | none => .ok (.runs store (!store) false (r.format == 0x0E) rs)

/-- The lowest-indexed block of the grid that is resident on a core (R219). -/
def State.blockOn (s : State) (grid core : Nat) : Option BRef :=
  (s.blocks.filter fun b => b.ref.grid == grid && b.cores.contains core && b.st != .saved && b.st != .restoring).foldl
    (fun (best : Option BRef) b => match best with
      | none => some b.ref
      | some r => if b.ref.block < r.block then some b.ref else some r) none

/-- The cores that a peer mask names (R219), or none where a bit lies outside the sender's rectangle. -/
def peerNames (s : State) (core mask : Nat) : Option (List (Nat × Nat)) :=
  let r := s.chart.rects[core / 65536]?.getD ⟨0, 0, 0, 0⟩
  let row0 := core / 256 % 256 / 8 * 8
  let col0 := core % 256 / 8 * 8
  let bits := (List.range 64).filter fun j => mask.testBit j
  if bits.all fun j => row0 + j / 8 < r.rows ∧ col0 + j % 8 < r.cols then
    some (bits.map fun j => (j, core / 65536 * 65536 + (row0 + j / 8) * 256 + (col0 + j % 8)))
  else none

/-- The peer form's plan (R219, R221). -/
def peerPlan (x : Ctx) (s : State) (o : OpA) (w0 w1 w2 w3 : DWord) : Plan :=
  let spad := o.d.getLsbD 7
  let pair := x.rdN 2 o.a x.low
  let off := pair % 2 ^ 32
  let bar := pair / 2 ^ 32
  match substituted x w0 w1 w2 w3 with
  | none => .error (5, 0, 0)
  | some r =>
    if !r.legal 0 || (spad && decide (2 ^ 19 ≤ r.base)) then .error (5, 0, 0)
    else if r.stride1 % 16 != 0 || r.stride2 % 16 != 0 then .error (3, 0, 0)
    else
      let rs := r.runs (0, 0, 0, 0) off false
      match sideFaults x s (fld o.m 3 2 == 3) (!spad) false false (rs.findSome? (·.src)) none none none with
      | some f => .error f
      | none =>
        match peerNames s x.c.core (x.rdN 2 o.b x.low) with
        | none => .error (2, 0, 0)
        | some ns =>
          let ds : List Dest := ns.map fun p =>
            let d : Dest := { bit := p.1, name := p.2, block := s.blockOn x.g.id p.2 }
            { d with code := destFault x.g off bar d }
          .ok (.peer (!spad) (r.format == 0x0E) rs bar ds)

/-- Every destination line of a FILL becomes unfilled, and copies of it are dropped (R220, R248). -/
def unfill (x : Ctx) (s : State) (dst n : Nat) : State :=
  let lines := (List.range (n / 128)).filterMap fun i =>
    match s.copyXlate x.c.core x.g x.sp.mode true true true (dst + 128 * i) with
    | .ok p => some (p.pa / 128)
    | .error _ => none
  { s.dropCopies lines with filled := s.filled.filter fun l => !lines.contains l }

/-- The first bytes of a copy's global sides: those of its runs. -/
def Moves.firsts (m : Moves) : List DWord :=
  match m with
  | .runs toGlob fromGlob _ _ rs =>
    ((if fromGlob then (rs.findSome? (·.src)).toList else []) ++ (if toGlob then (rs.head?.map (·.dst)).toList else [])).map (BitVec.ofNat 64 ·)
  | .peer true _ rs _ _ => ((rs.findSome? (·.src)).toList).map (BitVec.ofNat 64 ·)
  | _ => []

/-- Issue of a copy (R215, R221): the checks of its plan, then the operation enters its queue and its handle is pending. `sides` are the
moves that its operands name, as far as they stand. -/
def copyIssue (i : Instr) (o : OpA) (queue : Nat) (force : Ctx → State → Bool) (sides : Ctx → Option Moves) (plan : Ctx → State → Plan)
    (s : State) (box : Ctx → Nat := fun _ => 0) : Host.Outcome State Fault Refusal :=
  let fine (x : Ctx) (s : State) : Bool := match plan x s with | .ok _ => true | .error _ => false
  withWalks i (fun x => ((sides x).map Moves.firsts).getD []) s fun s =>
  forced i s (fun x s => fine x s && force x s) fun s =>
  issueIf i s (fun x s => (s.unperformed x.r.c x.low).isEmpty) (fun _ _ => true) fun x s =>
    match plan x s with
    | .error (c, a, gpa) => x.raiseAll s c (BitVec.ofNat 64 a) gpa
    | .ok m =>
      let id := s.fresh
      let op : CopyOp := { id := id, b := x.r.c.b, c := x.r.c.cohort, core := x.c.core, queue := queue,
                           scope := fld o.m 3 2, route := fld o.m 7 4, moves := m, mode := x.sp.mode, box := box x }
      let s := (x.complete s.bump []).setHandle x.r.c (fld o.d 3 0) (.pending id)
      match m with
      | .runs _ _ fill _ rs =>
        if rs.isEmpty && (match i with | .copy _ => true | .fill _ => true | _ => false) then
          s.resolve x.r.c.b id 0 false 0 0
        else
          let s := if fill then rs.foldl (fun s r => unfill x s r.dst r.n) s else s
          { s with copies := s.copies ++ [op] }
      | _ => { s with copies := s.copies ++ [op] }

def queueOf (o : OpA) : Nat := fld o.d 6 4

/-- Does a plan write scratchpad bytes that lie in another core than the issuing one: the partner's half of a pair block (R225)? -/
def toPartner (x : Ctx) (m : Moves) : Bool :=
  match m with
  | .runs false _ _ _ rs => rs.any fun r => x.b.coreOf r.dst != x.c.core || x.b.coreOf (r.dst + r.n - 1) != x.c.core
  | _ => false

/-- Does a peer copy reach a core other than the issuing one (R225)? -/
def toPeer (x : Ctx) (s : State) (m : Moves) : Bool :=
  match m with
  | .peer _ _ rs _ ds => ds.any fun d => d.name != x.c.core || (match d.block.bind s.block? with
    | some b => rs.any fun r => b.coreOf r.dst != x.c.core || b.coreOf (r.dst + r.n - 1) != x.c.core
    | none => false)
  | _ => false

/-- Bytes of the box of a record (R46, R219). -/
def boxBytes (x : Ctx) (y : OpX4) : Nat :=
  match substituted x y.w0 y.w1 y.w2 y.w3 with
  | some r => r.box.1 * r.box.2.1 * r.box.2.2.1 * r.box.2.2.2 * recordBits r.format / 8
  | none => 0

/-- A test of the plan, when the plan stands. -/
def planIs (p : Plan) (f : Moves → Bool) : Bool := match p with | .ok m => f m | .error _ => false

/-- COPY (R217). -/
def execCopy (y : OpX1) (s : State) : Host.Outcome State Fault Refusal :=
  copyIssue (.copy y) y.op (queueOf y.op)
    (fun x s => decide (fld y.op.m 1 0 ≤ 1) || planIs (copyPlan x s y.op y.w0) (toPartner x)) (fun x => copySides x y.op y.w0)
    (fun x s => copyPlan x s y.op y.w0) s

/-- TCOPY (R218). -/
def execTcopy (y : OpX4) (s : State) : Host.Outcome State Fault Refusal :=
  copyIssue (.tcopy y) y.op (queueOf y.op)
    (fun x s => y.op.d.getLsbD 7 || planIs (tcopyPlan x s y.op y.w0 y.w1 y.w2 y.w3) (toPartner x))
    (fun x => tcopySides x y.op y.w0 y.w1 y.w2 y.w3)
    (fun x s => tcopyPlan x s y.op y.w0 y.w1 y.w2 y.w3) s

/-- TCOPY, peer form (R219). -/
def execTcopyPeer (y : OpX4) (s : State) : Host.Outcome State Fault Refusal :=
  copyIssue (.tcopyPeer y) y.op (queueOf y.op)
    (fun x s => planIs (peerPlan x s y.op y.w0 y.w1 y.w2 y.w3) (toPeer x s)) (fun x => peerSides x y.op y.w0 y.w1 y.w2 y.w3)
    (fun x s => peerPlan x s y.op y.w0 y.w1 y.w2 y.w3) s fun x => boxBytes x y

/-- FILL (R220). -/
def execFill (y : OpX1) (s : State) : Host.Outcome State Fault Refusal :=
  copyIssue (.fill y) y.op (queueOf y.op) (fun _ _ => true) (fun x => fillSides x y.op y.w0) (fun x s => fillPlan x s y.op y.w0) s

/-- QFENCE (R223). -/
def execQfence (o : OpA) (s : State) : Host.Outcome State Fault Refusal :=
  issue (.qfence o) s fun x s =>
    let id := s.fresh
    let op : CopyOp := { id := id, b := x.r.c.b, c := x.r.c.cohort, core := x.c.core, queue := 8, scope := 0, route := 0,
                         moves := .fence o.m.toNat, mode := x.sp.mode }
    let s := x.complete s.bump []
    let s := if o.d.getLsbD 4 then s.setHandle x.r.c (fld o.d 3 0) (.pending id) else s
    { s with copies := s.copies ++ [op] }

/-! ### Handle instructions (R222) -/

def Cohort.handle (c : Cohort) (n : Nat) : Handle := tget .empty c.handles n

def Handle.isPending : Handle → Bool
  | .pending _ => true
  | _ => false

/-- Status word, count and address of a handle that is not pending. -/
def Handle.status : Handle → Nat
  | .resolved c k _ _ => c % 256 + boolBit k 8
  | _ => 0x200
def Handle.count : Handle → Nat
  | .resolved _ _ n _ => n
  | _ => 0
def Handle.address : Handle → Nat
  | .resolved _ _ _ a => a.toNat
  | _ => 0

/-- HTEST (R222). -/
def execHtest (o : OpA) (s : State) : Host.Outcome State Fault Refusal :=
  issue (.htest o) s fun x s =>
    x.complete s (outP (fld o.d 2 0) fun _ => !(x.c.handle (fld o.a 3 0)).isPending)

/-- HCANCEL (R222): a pending copy stops, and its delivered prefix stays. -/
def execHcancel (o : OpA) (s : State) : Host.Outcome State Fault Refusal :=
  issue (.hcancel o) s fun x s =>
    let s := x.complete s []
    match x.c.handle (fld o.a 3 0) with
    | .pending id =>
      match s.copies.find? fun p => p.id == id with
      | some op =>
        match op.moves with
        | .fence _ => s
        | _ => s.endCopy op 0 true op.done 0
      | none => s
    | _ => s

/-- HMOV.H (R222). -/
def execHmovH (o : OpA) (s : State) : Host.Outcome State Fault Refusal :=
  issue (.hmovH o) s fun x s =>
    let n := fld o.a 3 0
    let m := fld o.d 3 0
    let s := x.complete s []
    if m == n then s else (s.setHandle x.r.c m (x.c.handle n)).setHandle x.r.c n .empty

/-- A read of a handle (R222): it blocks until the handle resolves, and holds its split at the instruction. -/
def handleRead (i : Instr) (o : OpA) (n : Nat) (val : Handle → Nat) (s : State) : Host.Outcome State Fault Refusal :=
  let h := fld o.a 3 0
  match s.resuming with
  | some (r, ⟨.handle k, uid, _, _⟩) =>
    let s := { s with selected := s.selected.drop 1 }
    match s.cohort? r.c with
    | some c =>
      if (c.handle k).isPending then .next s
      else
        let os := outs o.d n fun _ => val (c.handle k)
        .next (((s.modCohort r.c fun c => { c with pend := c.pend.map fun p =>
          match (if p.uid == uid then os.find? fun q => q.1 == p.reg else none) with
          | some q =>
            let keys := match p.reg with | .uni _ => [0] | _ => lanesOf p.lanes
            { p with vals := keys.filterMap fun l => if q.2 l = 0 then none else some (l, q.2 l) }
          | none => p }).finishIssue uid).release r 8)
    | none => .next s
  | _ =>
    issue i s fun x s =>
      if (x.c.handle h).isPending then
        x.hold (x.note (x.owe s .v x.ex (outs o.d n fun _ => 0)) x.ex .event) (.handle h) true
      else x.complete s (outs o.d n fun _ => val (x.c.handle h))

/-- HMOV.S (R222). -/
def execHmovS (o : OpA) (s : State) : Host.Outcome State Fault Refusal := handleRead (.hmovS o) o 1 Handle.status s
/-- HMOV.C (R222). -/
def execHmovC (o : OpA) (s : State) : Host.Outcome State Fault Refusal := handleRead (.hmovC o) o 2 Handle.count s
/-- HMOV.A (R222). -/
def execHmovA (o : OpA) (s : State) : Host.Outcome State Fault Refusal := handleRead (.hmovA o) o 2 Handle.address s

end Sys2Proof.Machine
end

