-- ==== Sys2Proof/Machine/Matrix.lean ====
section
/-! DEFINITION. Accumulator tiles, quad teams, the hall pass and the matrix arrays (R282-R296, R312-R323, R153-R157). -/

namespace Sys2Proof.Machine

/-! ### Forms (R288) -/

/-- Element formats of a matrix form. -/
inductive Elem where
  | fmt (f : Fmt)
  | qn4
  deriving DecidableEq, Repr

structure MmaForm where
  a : Elem
  b : Elem
  /-- storage widths in bits -/
  za : Nat
  zb : Nat
  k : Nat
  ra : Nat
  rb : Nat
  cycles : Nat
  sparse : Bool
  deriving DecidableEq, Repr

/-- The forms in opcode order: MMA 0-8, MMAS 9-13. -/
def mmaForm (n : Nat) : MmaForm :=
  match n with
  | 0 => ⟨.fmt .bf16, .fmt .bf16, 16, 16, 16, 4, 2, 16, false⟩
  | 1 => ⟨.fmt .f16, .fmt .f16, 16, 16, 16, 4, 2, 16, false⟩
  | 2 => ⟨.fmt .e4m3, .fmt .e4m3, 8, 8, 32, 4, 2, 16, false⟩
  | 3 => ⟨.fmt .e5m2, .fmt .e5m2, 8, 8, 32, 4, 2, 16, false⟩
  | 4 => ⟨.fmt .e3m2, .fmt .e3m2, 8, 8, 32, 4, 2, 16, false⟩
  | 5 => ⟨.fmt .e2m3, .fmt .e2m3, 8, 8, 32, 4, 2, 16, false⟩
  | 6 => ⟨.fmt .e2m1, .fmt .e2m1, 4, 4, 64, 4, 2, 16, false⟩
  | 7 => ⟨.fmt .e4m3, .qn4, 8, 4, 64, 8, 2, 32, false⟩
  | 8 => ⟨.fmt .e2m1, .qn4, 4, 4, 64, 4, 2, 16, false⟩
  | 9 => ⟨.fmt .bf16, .fmt .bf16, 16, 16, 32, 4, 4, 16, true⟩
  | 10 => ⟨.fmt .f16, .fmt .f16, 16, 16, 32, 4, 4, 16, true⟩
  | 11 => ⟨.fmt .e4m3, .fmt .e4m3, 8, 8, 64, 4, 4, 16, true⟩
  | 12 => ⟨.fmt .e5m2, .fmt .e5m2, 8, 8, 64, 4, 4, 16, true⟩
  | _ => ⟨.fmt .e2m1, .fmt .e2m1, 4, 4, 128, 4, 4, 16, true⟩

/-- The value of an element code (R140, R141, R147). -/
def Elem.value (e : Elem) (code : Nat) : FV :=
  match e with
  | .fmt f => decodeF f (code % 2 ^ (f.body + 1))
  | .qn4 => qn4FV code

/-! ### One team instruction (R289, R290, R292, R153) -/

/-- Element `e` of the run that lane `l` holds in `n` fragment registers. -/
def fragElem (regs : Sparse Word) (n z l e : Nat) : Nat :=
  let v := (List.range n).foldr (fun i acc => (tget 0 regs (64 * i + l)).toNat + 2 ^ 32 * acc) 0
  v / 2 ^ (z * e) % 2 ^ z

/-- The member on quadrant `q`. -/
def memberOn (ms : List (Nat × Nat × Latch)) (q : Nat) : Option Latch := (ms.find? fun m => m.1 == q).map (·.2.2)

/-- Element (k, j) of the team's B, where it is present. -/
def teamB (f : MmaForm) (ms : List (Nat × Nat × Latch)) (k j : Nat) : Option FV :=
  match memberOn ms (j / 8) with
  | none => none
  | some m =>
    let l := j % 8 + 8 * (k / (f.k / 4))
    if m.exec.getLsbD l then some (f.b.value (fragElem m.b f.rb f.zb l (k % (f.k / 4)))) else none

/-- The terms of row `i` of a member's A: stored element with its B row, where it is present. -/
def rowTerms (f : MmaForm) (m : Latch) (i : Nat) : List (FV × Nat) :=
  let ka := if f.sparse then f.k / 2 else f.k
  (List.range ka).filterMap fun e =>
    let l := i + 16 * (e / (ka / 2))
    if m.exec.getLsbD l then
      let row := if f.sparse then 4 * (e / 2) + m.rows.getD i 0 / 2 ^ (2 * e) % 4 else e
      some (f.a.value (fragElem m.a f.ra f.za l (e % (ka / 2))), row)
    else none

/-- The tile that a member's instruction leaves, as FP32 codes by 32 * row + column. -/
def mmaTile (f : MmaForm) (ms : List (Nat × Nat × Latch)) (m : Latch) (c : Nat → Word) : List (Nat × Word) :=
  (List.range 16).flatMap fun i =>
    let ts := rowTerms f m i
    (List.range 32).map fun j =>
      let c0 : FV := if m.z then .fin false 0 0 else readF false .f32 (c (32 * i + j)).toNat
      (32 * i + j, BitVec.ofNat 32 (sumF (c0 :: ts.filterMap fun t => (teamB f ms t.2 j).map fun b => t.1.mul b)))

/-! ### Issue -/

/-- A matrix instruction issues from a user split; while the cohort's latch entry is full it is held (R314). -/
def matrixIssue (i : Instr) (s : State) (ready : Ctx → State → Bool) (ok : Ctx → State → Bool)
    (k : Ctx → State → State) : Host.Outcome State Fault Refusal :=
  let ok' (x : Ctx) (s : State) : Bool := x.sp.mode == .user && ok x s
  match s.beginIssue i with
  | .stop s => .next s
  | .go x s' =>
    if x.ex != 0#64 && x.legal && ok' x s' && !x.underGap && x.c.latch.isSome then
      .next ({ s with selected := s.selected.drop 1 }.modSplit x.r fun p => { p with hold := some ⟨.latchFull, 0, x.ex, s.cycle⟩ })
    else issueIf i s ready ok' k

/-- The latch entry of a cohort empties: instructions held behind it go on (R314). -/
def State.emptyLatch (s : State) (cr : CRef) : State :=
  s.modCohort cr fun c =>
    { c with latch := none,
             splits := c.splits.map fun p => match p.hold with
               | some h => if h.kind == .latchFull then { p with hold := none } else p
               | none => p }

/-- Does a begun team instruction read or write this tile of the cohort (R283)? -/
def State.tileBusy (s : State) (cr : CRef) (tiles : List Nat) : Bool :=
  s.begun.any fun b => b.b == cr.b && b.members.any fun m => m.2.1 == cr.cohort && tiles.contains m.2.2.tile

/-- Does the cohort own the tile (R282)? A reformed cohort has none, so every tile field it names is illegal (log 71). -/
def Cohort.ownsTile (c : Cohort) (g : Grid) (tile : Nat) : Bool := !c.reformed && decide (tile < g.acc)

/-! ### Binding (R284, R285) -/

def Block.team (b : Block) (n : Nat) : Team := tget {} b.teams n

/-- QBIND (R284). -/
def execQbind (o : OpA) (s : State) : Host.Outcome State Fault Refusal :=
  let n := fld o.m 3 0
  matrixIssue (.qbind o) s (fun _ _ => true)
    (fun x _ =>
      let t := x.b.team n
      x.c.team.isNone && tget 0 t.members x.c.quad == 0 && (t.members.isEmpty || t.core == x.c.core)) fun x s =>
    let s := x.note s x.ex .event
    let s := s.modCohort x.r.c fun c => { c with team := some n }
    let t := x.b.team n
    let t' : Team := { t with members := tput 0 x.c.quad x.c.id t.members, core := x.c.core, binding := t.binding ++ [x.uid] }
    if t'.members.length == 4 then
      t'.binding.foldl State.finishIssue (s.modBlock x.r.c.b fun b => { b with teams := tput {} n { t' with binding := [] } b.teams })
    else s.modBlock x.r.c.b fun b => { b with teams := tput {} n t' b.teams }

/-- QFREE (R285). -/
def execQfree (o : OpA) (s : State) : Host.Outcome State Fault Refusal :=
  matrixIssue (.qfree o) s (fun x _ => x.c.freeing.isNone) (fun _ _ => true) fun x s =>
    if x.c.team.isNone then x.complete s []
    else if s.hasBegun x.r.c then (x.note s x.ex .event).modCohort x.r.c fun c => { c with freeing := some x.uid }
    else leaveTeam (x.complete s []) x.r.c

/-! ### MMA and MMAS (R287-R292, R314-R316, R323) -/

/-- The metadata offset that a member reads (R291), and whether its record is legal. -/
def metaRecord (x : Ctx) (code : BitVec 8) : Nat × Bool :=
  let v := x.rdN 2 code x.low
  let off := v % 2 ^ 32
  let hi := v / 2 ^ 32
  (if hi == 1 then off + 256 * x.c.quad else off, decide (hi ≤ 1))

/-- The four members' entries when all are full (R290, R315). -/
def Block.assembledTeam (b : Block) (n : Nat) : Option (List (Nat × Nat × Latch)) :=
  let t := b.team n
  let ms := t.members.filterMap fun m => (b.cohort? m.2).bind fun c => c.latch.map fun e => (m.1, m.2, e)
  if ms.length == 4 then some ms else none

/-- When the last member has issued, the instruction is assembled; members that differ in opcode or .Z all raise 0x05, which
ends the grid (R290, R320). -/
def assemble (s : State) (cr : CRef) (n : Nat) : State :=
  match s.block? cr.b, s.grid? cr.b.grid with
  | some b, some g =>
    match b.assembledTeam n with
    | none => s
    | some ms =>
      let same := match ms with
        | m :: r => r.all fun q => q.2.2.op == m.2.2.op && q.2.2.z == m.2.2.z
        | [] => true
      if same then s.modBlock cr.b fun b => { b with teams := tput {} n { b.team n with assembled := some s.cycle } b.teams }
      else
        match ms with
        | m :: _ =>
          match b.cohort? m.2.1 with
          | some c => s.endByTrap g b c (lowest m.2.2.exec) 5 true
          | none => s
        | [] => s
  | _, _ => s

/-- An MMA or MMAS of a member: it reads its operands, fills its latch entry and holds its split (R290, R314). -/
def mma (i : Instr) (o : OpA) (n : Nat) (s : State) : Host.Outcome State Fault Refusal :=
  let f := mmaForm n
  let tile := fld o.d 4 0
  matrixIssue i s
    (fun x s => x.c.freeing.isNone && (!f.sparse || x.lanes.all fun l => x.clearNow s l true (metaRecord x o.m).1 256 false))
    (fun x _ => x.c.team.isSome && x.c.ownsTile x.g tile && (!f.sparse || (metaRecord x o.m).2)) fun x s =>
    let off := (metaRecord x o.m).1
    let bad : Option Nat :=
      if !f.sparse then none
      else if off % 16 != 0 then some 3
      else if !inScratch x.g off 256 then some 2
      else none
    match bad with
    | some c => x.raiseAll s c (BitVec.ofNat 64 off)
    | none =>
      let frag (code : BitVec 8) (regs : Nat) : Sparse Word :=
        (List.range regs).flatMap fun k => (List.range 32).filterMap fun l =>
          let v := x.c.vreg (code.toNat + k) l
          if x.ex.getLsbD l && v != 0 then some (64 * k + l, v) else none
      let e : Latch :=
        { op := n, z := !f.sparse && o.m.getLsbD 0, tile := tile, a := frag o.a f.ra, b := frag o.b f.rb,
          rows := if f.sparse then (List.range 16).map fun r => x.b.sval (off + 16 * r) 16 else [],
          exec := x.ex, split := x.r.split, uid := x.uid, n := (x.b.team (x.c.team.getD 0)).count + 1 }
      let s := x.hold (x.note s x.ex .event) .latch true
      assemble (s.modCohort x.r.c fun c => { c with latch := some e }) x.r.c (x.c.team.getD 0)

def execMmaBf16 (o : OpA) (s : State) : Host.Outcome State Fault Refusal := mma (.mmaBf16 o) o 0 s
def execMmaF16 (o : OpA) (s : State) : Host.Outcome State Fault Refusal := mma (.mmaF16 o) o 1 s
def execMmaE4m3 (o : OpA) (s : State) : Host.Outcome State Fault Refusal := mma (.mmaE4m3 o) o 2 s
def execMmaE5m2 (o : OpA) (s : State) : Host.Outcome State Fault Refusal := mma (.mmaE5m2 o) o 3 s
def execMmaE3m2 (o : OpA) (s : State) : Host.Outcome State Fault Refusal := mma (.mmaE3m2 o) o 4 s
def execMmaE2m3 (o : OpA) (s : State) : Host.Outcome State Fault Refusal := mma (.mmaE2m3 o) o 5 s
def execMmaE2m1 (o : OpA) (s : State) : Host.Outcome State Fault Refusal := mma (.mmaE2m1 o) o 6 s
def execMmaE4m3Qn4 (o : OpA) (s : State) : Host.Outcome State Fault Refusal := mma (.mmaE4m3Qn4 o) o 7 s
def execMmaE2m1Qn4 (o : OpA) (s : State) : Host.Outcome State Fault Refusal := mma (.mmaE2m1Qn4 o) o 8 s
def execMmasBf16 (o : OpA) (s : State) : Host.Outcome State Fault Refusal := mma (.mmasBf16 o) o 9 s
def execMmasF16 (o : OpA) (s : State) : Host.Outcome State Fault Refusal := mma (.mmasF16 o) o 10 s
def execMmasE4m3 (o : OpA) (s : State) : Host.Outcome State Fault Refusal := mma (.mmasE4m3 o) o 11 s
def execMmasE5m2 (o : OpA) (s : State) : Host.Outcome State Fault Refusal := mma (.mmasE5m2 o) o 12 s
def execMmasE2m1 (o : OpA) (s : State) : Host.Outcome State Fault Refusal := mma (.mmasE2m1 o) o 13 s

/-! ### Moving and scaling accumulators (R293-R296) -/

def Cohort.tileAt (c : Cohort) (tile k : Nat) : Word := tget 0 c.tiles (512 * tile + k)
def Cohort.setTile (c : Cohort) (tile : Nat) (vs : List (Nat × Word)) : Cohort :=
  { c with tiles := tputs 0 (vs.map fun p => (512 * tile + p.1, p.2)) c.tiles }

/-- ACCZ (R293). -/
def execAccz (o : OpA) (s : State) : Host.Outcome State Fault Refusal :=
  let t := fld o.d 4 0
  matrixIssue (.accz o) s (fun x s => !s.tileBusy x.r.c [t]) (fun x _ => x.c.ownsTile x.g t) fun x s =>
    (x.complete s []).modCohort x.r.c fun c => { c with tiles := c.tiles.filter fun e => e.1 / 512 != t }

/-- ACCLD (R294). -/
def execAccld (o : OpA) (s : State) : Host.Outcome State Fault Refusal :=
  let t := fld o.d 4 0
  let p := fld o.m 1 0
  matrixIssue (.accld o) s (fun x s => !s.tileBusy x.r.c [t]) (fun x _ => x.c.ownsTile x.g t) fun x s =>
    let ls := x.lanes.filter (· < 32)
    (x.complete s []).modCohort x.r.c fun c => c.setTile t ((List.range 4).flatMap fun i =>
      ls.map fun l => (32 * (4 * p + i) + l, x.c.vreg (o.a.toNat + i) l))

/-- ACCST (R294). -/
def execAccst (o : OpA) (s : State) : Host.Outcome State Fault Refusal :=
  let t := fld o.a 4 0
  let p := fld o.m 1 0
  matrixIssue (.accst o) s (fun x s => !s.tileBusy x.r.c [t]) (fun x _ => x.c.ownsTile x.g t) fun x s =>
    let os := (List.range 4).map fun i => (Reg.vec (o.d.toNat + i), fun l => x.c.tileAt t (32 * (4 * p + i) + l))
    x.note (x.owe s .v (x.ex &&& 0xFFFFFFFF#64) os) (x.ex &&& 0xFFFFFFFF#64) .complete

/-- The exact scale that a register holds (R296, R156). -/
def scaleOf (x : Ctx) (kind : Nat) (code : BitVec 8) (l : Nat) : FV :=
  match kind with
  | 0 => readF false .f32 (x.rd code l).toNat
  | 1 => e8FV (x.rd code l).toNat
  | 2 => s9FV ((x.rd code l).toNat % 65536)
  | 3 => (readF false .f32 (x.rdN 2 code l % 2 ^ 32)).mul (s9FV (x.rdN 2 code l / 2 ^ 32 % 65536))
  | _ => .fin false 1 0

/-- R157. -/
def scaccElem (partialCode acc : Nat) (r c : FV) : Nat :=
  let t := roundFV false .f32 .rn (((readF false .f32 partialCode).mul r).mul c)
  addF false .f32 .rn (readF false .f32 acc) (readF false .f32 t)

/-- SCACC (R295, R296). -/
def execScacc (o : OpA) (s : State) : Host.Outcome State Fault Refusal :=
  let md := fld o.d 4 0
  let ms := fld o.m 4 0
  let row := fld o.d 7 6
  matrixIssue (.scacc o) s (fun x s => !s.tileBusy x.r.c [md, ms])
    (fun x _ => x.c.ownsTile x.g md && x.c.ownsTile x.g ms) fun x s =>
    let rows := (List.range 16).filter fun i => x.ex.getLsbD i
    let cols := (List.range 32).filter fun j => x.ex.getLsbD j
    (x.complete s []).modCohort x.r.c fun c => c.setTile md (rows.flatMap fun i =>
      let r := scaleOf x (if row == 2 then 4 else row) o.a i
      cols.map fun j =>
        (32 * i + j, BitVec.ofNat 32 (scaccElem (x.c.tileAt ms (32 * i + j)).toNat (x.c.tileAt md (32 * i + j)).toNat r
          (scaleOf x (fld o.m 7 5) o.b j))))

/-! ### The hall pass (R286, R315, R317) -/

/-- Pass factor of a core: 2 when an array has retired three columns or more (R312, R322). -/
def State.passFactor (s : State) (core : Nat) : Nat :=
  if ([0, 1, 2, 3].any fun q => decide (3 ≤ tget 0 (s.core core).columns q)) then 2 else 1

/-- A quadrant grade of 255 marks a failed array (R322). -/
def State.arrayFailed (s : State) (core : Nat) : Bool :=
  [0, 1, 2, 3].any fun q => s.grade core q == 255

/-- May a team of the block begin? -/
def State.mayBegin (s : State) (b : Block) : Bool :=
  b.st == .resident && (match s.grid? b.ref.grid with | some g => g.st == .running | none => false)

/-- The assembled teams of a core, with request age and the slot of the quadrant-0 member; those of a block that takes a checkpoint
among them, though they begin only when it goes on. -/
def State.assembledOn (s : State) (core : Nat) : List (BRef × Nat × Nat × Nat) :=
  s.blocks.flatMap fun b => if !s.mayBegin { b with st := if b.st == .checkpointing then .resident else b.st } then [] else
    b.teams.filterMap fun t =>
      if t.2.core == core then
        t.2.assembled.map fun a => (b.ref, t.1, a, (((b.cohort? (tget 0 t.2.members 0)).map (·.slot)).getD 0))
      else none

/-- The oldest waiting team (R317). -/
def oldestTeam (ts : List (BRef × Nat × Nat × Nat)) : Option (BRef × Nat) :=
  (ts.foldl (fun (best : Option (BRef × Nat × Nat × Nat)) t => match best with
    | none => some t
    | some u =>
      if t.2.2.1 < u.2.2.1 || (t.2.2.1 == u.2.2.1 && decide (t.2.2.2 < u.2.2.2)) then some t else some u) none).map
    fun t => (t.1, t.2.1)

def State.waitingTeams (s : State) (core : Nat) : List (BRef × Nat × Nat × Nat) :=
  (s.assembledOn core).filter fun t => some (t.1, t.2.1) != (s.core core).arb.holder

/-- Is the holder gone: ended, saved, or short of a member (R317, R286)? A block that only takes a checkpoint keeps the pass. -/
def State.holderLost (s : State) (h : BRef × Nat) : Bool :=
  match s.block? h.1, s.grid? h.1.grid with
  | some b, some g => g.st != .running || !(b.st == .resident || b.st == .checkpointing) || (b.team h.2).members.length != 4
  | _, _ => true

/-- Has the holder been without an assembled instruction for 256 cycles since its last retirement? -/
def State.holderIdle (s : State) (core : Nat) (h : BRef × Nat) : Bool :=
  (match s.block? h.1 with | some b => (b.team h.2).assembled.isNone | none => true) &&
    !(s.begun.any fun b => b.core == core) && decide ((s.core core).arb.lastRetire + 256 ≤ s.cycle)

/-- Does the pass move now, other than by idleness? -/
def State.passMoves (s : State) (core : Nat) : Bool :=
  !(s.waitingTeams core).isEmpty &&
    (match (s.core core).arb.holder with
     | none => true
     | some h => decide (256 ≤ (s.core core).arb.tenure) || s.holderLost h)

/-- The pass goes to the oldest waiting team. -/
def State.movePass (s : State) (core : Nat) : State :=
  match oldestTeam (s.waitingTeams core) with
  | none => s
  | some t => s.modCore core fun c => { c with arb := { c.arb with holder := some t, tenure := 0, handed := c.arb.lastCost != 0 } }

/-- The block gives up the pass of its cores: a restored team never holds it, and its next tenure starts at 0 (R318). -/
def State.dropPass (s : State) (b : Block) : State :=
  (b.core :: b.core2.toList).foldl (fun s k => s.modCore k fun c =>
    if c.arb.holder.map (·.1) == some b.ref then { c with arb := { c.arb with holder := none, tenure := 0 } } else c) s

/-- The team whose instruction can begin now on a core, the pass having moved if it must (R315). -/
def State.beginner (s : State) (core : Nat) : Option (BRef × Nat × List (Nat × Nat × Latch)) :=
  let a := (s.core core).arb
  match a.holder with
  | none => none
  | some (br, n) =>
    match s.block? br with
    | none => none
    | some b =>
      if s.mayBegin b && (b.team n).assembled.isSome && !s.arrayFailed core &&
          (a.lastCost == 0 || decide (a.lastBegin + a.lastCost ≤ s.cycle)) &&
          (!a.handed || (decide (a.lastRetire + 4 ≤ s.cycle) && !(s.begun.any fun q => q.core == core))) then
        (b.assembledTeam n).map fun ms => (br, n, ms)
      else none

/-- TEAM_INSTRUCTION_BEGIN (R315, R317): the pass moves if it must, and the holder's assembled instruction begins: the latch
entries empty and the members' splits go on. -/
def execTeamInstructionBegin (core : Nat) (s : State) : Host.Outcome State Fault Refusal :=
  let s := if s.passMoves core then s.movePass core else s
  match s.beginner core with
  | none => .next s
  | some (br, n, ms) =>
    let cost := (mmaForm ((memberOn ms 0).map (·.op) |>.getD 0)).cycles * s.passFactor core
    let s := { s with begun := s.begun ++ [Begun.mk core br n (s.cycle + cost) ms] }
    let s := s.modCore core fun c =>
      { c with arb := { c.arb with tenure := c.arb.tenure + 1, lastBegin := s.cycle, lastCost := cost, handed := false } }
    let s := s.modBlock br fun b =>
      { b with teams := tput {} n { b.team n with assembled := none, count := (b.team n).count + 1 } b.teams }
    .next (ms.foldl (fun s m =>
      let cr : CRef := ⟨br, m.2.1⟩
      (s.emptyLatch cr).release ⟨cr, m.2.2.split⟩ 8) s)

/-- A member of team `t` on quadrant `q` whose QFREE waits, or which has no threads any more, leaves its team when nothing of it is
begun (R285). -/
def State.leaveIfFree (s : State) (cr : CRef) (t q : Nat) : State :=
  if s.hasBegun cr then s
  else
    match s.cohort? cr with
    | some c =>
      match c.freeing with
      | some uid => leaveTeam (s.finishIssue uid) cr
      | none => s
    | none =>
      match s.block? cr.b with
      | some b => if tget 0 (b.team t).members q == cr.cohort then vacateSeat s cr.b t q else s
      | none => s

/-- TEAM_INSTRUCTION_RETIRE (R315): the four tiles are written and the four flags fall. -/
def execTeamInstructionRetire (core : Nat) (s : State) : Host.Outcome State Fault Refusal :=
  match s.begun.find? fun b => b.core == core && decide (b.due ≤ s.cycle) with
  | none => .next s
  | some b =>
    let s := { s with begun := s.begun.filter fun q => q != b }
    let s := s.modCore core fun c => { c with arb := { c.arb with lastRetire := s.cycle } }
    let s := b.members.foldl (fun s m =>
      let f := mmaForm m.2.2.op
      (s.modCohort ⟨b.b, m.2.1⟩ fun c =>
        c.setTile m.2.2.tile (mmaTile f b.members m.2.2 fun k => c.tileAt m.2.2.tile k)).finishIssue m.2.2.uid) s
    .next (b.members.foldl (fun s m => s.leaveIfFree ⟨b.b, m.2.1⟩ b.team m.1) s)

/-- HALL_PASS_IDLE_EXPIRY (R317): the pass leaves a holder that has been idle for 256 cycles, when a team waits. -/
def execHallPassIdleExpiry (core : Nat) (s : State) : Host.Outcome State Fault Refusal :=
  match (s.core core).arb.holder with
  | some h => .next (if s.holderIdle core h then s.movePass core else s)
  | none => .next s

end Sys2Proof.Machine
end

