-- ==== Sys2Proof/Machine/Subs.lean ====
section
/-! DEFINITION. Subscriptions (R297-R302, R331-R345): the three instructions, snapshots, packets and their acknowledgements, and
the notices between blocks. -/

namespace Sys2Proof.Machine

/-! ### Entries -/

def SubEntry.serves (e : SubEntry) (pub sub : BRef) (n : Nat) : Bool := e.pub == pub && e.sub == sub && e.n == n

/-- Every entry of a subscription table, with its core. -/
def State.allEntries (s : State) : List (Nat × SubEntry) := s.cores.flatMap fun kv => kv.2.subs.map fun e => (kv.1, e)

/-- The entry of a subscription: in a core's table, or in the image of a saved publisher. -/
def State.entry? (s : State) (pub sub : BRef) (n : Nat) : Option SubEntry :=
  match s.allEntries.find? fun p => p.2.serves pub sub n with
  | some p => some p.2
  | none => (s.block? pub).bind fun b => b.entries.find? fun e => e.serves pub sub n

/-- Its core, when it lies in a table. -/
def State.entryCore? (s : State) (pub sub : BRef) (n : Nat) : Option Nat :=
  (s.allEntries.find? fun p => p.2.serves pub sub n).map (·.1)

/-- Change, or with `none` free, the entry of a subscription wherever it stands. -/
def State.updEntry (s : State) (pub sub : BRef) (n : Nat) (f : SubEntry → Option SubEntry) : State :=
  let g (l : List SubEntry) : List SubEntry := l.filterMap fun e => if e.serves pub sub n then f e else some e
  match s.entryCore? pub sub n with
  | some k => s.modCore k fun c => { c with subs := g c.subs }
  | none => s.modBlock pub fun b => { b with entries := g b.entries }

def State.modRec (s : State) (b : BRef) (n : Nat) (f : SubRec → SubRec) : State :=
  s.modBlock b fun b => { b with recs := tput {} n (f (tget {} b.recs n)) b.recs }

/-- Free an entry and discard its packets (R339). -/
def State.freeEntry (s : State) (e : SubEntry) : State :=
  { s.updEntry e.pub e.sub e.n (fun _ => none) with packets := s.packets.filter fun p => p.entry != e.id }

/-! ### What acknowledgements release -/

/-- SUBSYNCs whose packets are all acknowledged go on (R337). -/
def State.wakeSubsync (s : State) : State :=
  s.allSplits.foldl (fun s r =>
    match (s.split? r).bind (·.hold) with
    | some h =>
      match h.kind with
      | .subsync cores bound => if s.ackedBelow cores bound then (s.finishIssue h.uid).release r 0 else s
      | _ => s
    | none => s) s

/-- An entry that UNSUB has ended and that owes nothing is freed; the record is free and the flags of UNSUB fall (R301, R339). -/
def State.endEntry (s : State) (e : SubEntry) : State :=
  if e.ended && e.outstanding == 0 && e.chunk.isNone then
    e.waiters.foldl State.finishIssue ((s.freeEntry e).modRec e.sub e.n fun _ => {})
  else s

def State.settleEntries (s : State) : State := s.allEntries.foldl (fun s p => s.endEntry p.2) s

/-! ### SUBSCRIBE (R297-R300) -/

/-- Is a SUBSCRIBE legal: its length, zero bits, core name and number (R298)? -/
def subscribeOk (x : Ctx) (y : OpX2) : Bool :=
  let n := fld y.w1 35 32
  let len := fld y.w1 31 0
  !(len < 64 || decide (524288 < len) || len % 64 != 0 || fld y.w1 63 36 != 0 ||
      decide (2 ^ 24 ≤ (x.rd y.op.a x.low).toNat) || (tget {} x.b.recs n).state != 0)

/-- The execution fault of a SUBSCRIBE: cause and XADDR (R298). -/
def subscribeFault (x : Ctx) (y : OpX2) : Option (Nat × Nat) :=
  let localoff := fld y.w0 63 32
  let puboff := fld y.w0 31 0
  let len := fld y.w1 31 0
  if localoff % 64 != 0 then some (3, localoff)
  else if puboff % 64 != 0 then some (3, puboff)
  else if !inScratch x.g localoff len then some (2, localoff)
  else none

/-- SUBSCRIBE (R297). -/
def execSubscribe (y : OpX2) (s : State) : Host.Outcome State Fault Refusal :=
  issueIf (.subscribe y) s (fun _ _ => true) (fun x _ => x.sp.mode == .user && subscribeOk x y) fun x s =>
    match subscribeFault x y with
    | some f => x.raiseAll s f.1 (BitVec.ofNat 64 f.2)
    | none =>
      let id := s.fresh
      let q : SubReq := { id := id, sub := x.r.c.b, c := x.r.c.cohort, uid := x.uid, name := (x.rd y.op.a x.low).toNat,
                          puboff := fld y.w0 31 0, localoff := fld y.w0 63 32, length := fld y.w1 31 0, n := fld y.w1 35 32 }
      let s := (x.note s.bump x.ex .event).setHandle x.r.c (fld y.op.d 3 0) (.pending id)
      { s with requests := s.requests ++ [q] }.modRec q.sub q.n fun _ =>
        { localoff := q.localoff, length := q.length, state := 1, id := q.id }

/-- A SUBSCRIBE resolves (R299): its handle, its flag, and on failure its record and the UNSUBs that wait for it. -/
def State.resolveSub (s : State) (q : SubReq) (code count addr : Nat) : State :=
  let s := { s with requests := s.requests.filter fun r => r.id != q.id }
  let waits := ((s.block? q.sub).map fun b => (tget {} b.recs q.n).unsubs).getD []
  let s := (s.resolve q.sub q.id code false count (BitVec.ofNat 64 addr)).finishIssue q.uid
  if code == 0 then s else waits.foldl State.finishIssue (s.modRec q.sub q.n fun _ => {})

/-- The core that holds a publisher range, or none where the range leaves its scratchpad half (R333). -/
def rangeCore (g : Grid) (b : Block) (off len : Nat) : Option Nat :=
  if decide (off + len ≤ g.scratchBytes) then some b.core
  else if g.pair && decide (524288 ≤ off) && decide (off + len ≤ 524288 + g.scratchBytes) then b.core2
  else none

/-- Where the packets of a new entry go: into the image of a subscriber that has begun to be saved, whose absent notice follows the
request on its way (R341, log 79). -/
def State.imageOf (s : State) (sub : BRef) : Option DWord :=
  (s.block? sub).bind fun b => if b.st == .saved || (b.st == .saving && b.saveBegun) then some b.image else none

/-- SUBSCRIBE_REQUEST (R299, R300): the request reaches the named core, and the entry comes to stand at this moment T. -/
def subscribeRequest (id : Nat) (s : State) : State :=
  match s.requests.find? fun q => q.id == id with
  | none => s
  | some q =>
    if q.entry.isSome then s
    else
      match (s.chart.site? q.name).bind (fun _ => s.blockOn q.sub.grid q.name), s.grid? q.sub.grid with
      | some pub, some g =>
        match s.block? pub with
        | none => s
        | some b =>
          match rangeCore g b q.puboff q.length with
          | none => s.resolveSub q 2 0 q.puboff
          | some core =>
            if 16 ≤ (s.core core).subs.length then s.resolveSub q 2 16 q.name
            else
              let e : SubEntry := { id := s.fresh, pub := pub, puboff := q.puboff, length := q.length, sub := q.sub,
                                    localoff := q.localoff, n := q.n, state := 1,
                                    image := (s.imageOf q.sub).getD 0, toImage := (s.imageOf q.sub).isSome }
              let bytes := tputs 0 ((b.sread q.puboff q.length).mapIdx fun i v => (i, v)) []
              let s := s.bump.modCore core fun c => { c with subs := c.subs ++ [e] }
              let s := s.modRec q.sub q.n fun r => { r with pub := pub.block }
              { s with requests := s.requests.map fun r =>
                if r.id == id then { r with entry := some (core, e.id), bytes := bytes } else r }
      | _, _ => s.resolveSub q 2 0 q.name

/-- SNAPSHOT_LANDED (R300): the snapshot reaches the subscriber's local range, live or in its image; the subscription stands, and
an UNSUB that waited for it now ends it (R301). The publisher may be saved, with the entry in its image (R344), or have retired, so that
its removal notice follows (R339). -/
def snapshotLanded (id : Nat) (s : State) : State :=
  match s.requests.find? fun q => q.id == id with
  | none => s
  | some q =>
    match q.entry with
    | none => s
    | some _ =>
      let s := s.scratchWrite q.sub ((List.range q.length).map fun i => (q.localoff + i, tget 0 q.bytes i)) false
      let r := ((s.block? q.sub).map fun b => tget {} b.recs q.n).getD {}
      let pub : BRef := ⟨q.sub.grid, r.pub⟩
      let s := s.resolveSub q 0 q.length 0
      let s := s.modRec q.sub q.n fun r => { r with state := 2, unsubs := [] }
      let s := s.updEntry pub q.sub q.n fun e => some { e with state := if e.state == 1 then 2 else e.state }
      r.unsubs.foldl (fun s u =>
        { s.bump with notices := s.notices ++ [{ id := s.fresh, kind := .unsub u, sub := q.sub, pub := pub, n := q.n
                                                 rid := r.id }] }) s

/-! ### UNSUB and SUBSYNC (R301, R302) -/

/-- UNSUB (R301). -/
def execUnsub (o : OpA) (s : State) : Host.Outcome State Fault Refusal :=
  let n := fld o.m 3 0
  issueIf (.unsub o) s (fun _ _ => true) (fun x _ => x.sp.mode == .user) fun x s =>
    let r := tget {} x.b.recs n
    match r.state with
    | 0 => x.complete s []
    | 1 => (x.note s x.ex .event).modRec x.r.c.b n fun r => { r with unsubs := r.unsubs ++ [x.uid] }
    | _ =>
      let s := x.note s x.ex .event
      { s.bump with notices := s.notices ++ [{ id := s.fresh, kind := .unsub x.uid, sub := x.r.c.b,
                                               pub := ⟨x.g.id, r.pub⟩, n := n, rid := r.id }] }

/-- SUBSYNC (R302, R337): it waits first for the scratchpad writes that its core has issued, which for a pair block may lie in the
partner's half, and closes the chunks of the entries that they reach. Where those are none it completes at once. -/
def execSubsync (o : OpA) (s : State) : Host.Outcome State Fault Refusal :=
  let idle (x : Ctx) (s : State) : Bool := (s.coreEntries [x.c.core]).isEmpty
  issueIf (.subsync o) s
    (fun x s => idle x s || (s.chunksCanClose x.b.cores &&
      s.flight.all fun a => !(a.scratch && a.core == x.c.core && a.op != .load && !a.isFixed)))
    (fun x _ => x.sp.mode == .user) fun x s =>
    if idle x s then x.complete s []
    else
      let t := s.closeChunks x.b.cores
      if t.ackedBelow x.b.cores t.fresh then x.complete t []
      else x.hold (x.note t x.ex .event) (.subsync x.b.cores t.fresh) false

/-! ### Packets (R335-R337) -/

/-- May the entry's chunk close: has it been open for 64 cycles, with fewer than 64 packets outstanding (R335, R336)? -/
def SubEntry.closes (e : SubEntry) (cycle : Nat) : Bool :=
  match e.chunk with
  | some (_, _, t) => decide (t + 64 ≤ cycle) && decide (e.outstanding < 64)
  | none => false

/-- Has a block no work of its own in flight? -/
def State.blockBusy (s : State) (br : BRef) : Bool :=
  s.flight.any (fun a => a.c.b == br) || s.copies.any (fun o => o.b == br) || s.issued.any (fun i => i.c.b == br) ||
    s.begun.any (fun b => b.b == br) || s.requests.any (fun q => q.sub == br)

/-- Does the entry's publisher retire, so that its open chunk closes (R335)? -/
def State.retiring (s : State) (e : SubEntry) : Bool :=
  e.chunk.isSome && decide (e.outstanding < 64) && !s.blockBusy e.pub && (match s.block? e.pub with
    | some b => b.st == .resident && decide (s.ntidOf b ≤ b.exited)
    | none => false)

/-- Does the entry's chunk close now (R335)? -/
def State.chunkDue (s : State) (e : SubEntry) : Bool := e.closes s.cycle || s.retiring e

/-- CHUNK_CLOSE (R335): every chunk that opened 64 cycles ago, or whose publisher retires, becomes a packet. -/
def execChunkClose (s : State) : Host.Outcome State Fault Refusal :=
  .next ((s.allEntries.filter fun p => s.chunkDue p.2).foldl (fun s p => s.closeChunk p.1 p.2.id) s)

/-- Is a packet in sequence at a standing record of its subscriber (R336)? -/
def State.inSequence (s : State) (p : Packet) : Bool :=
  match s.block? p.sub with
  | some b => !p.applied && (tget {} b.recs p.n).state == 2 && (tget {} b.recs p.n).expect == p.seq
  | none => false

/-- Is a packet held by a retargeting entry (R343)? -/
def State.packetHeld (s : State) (e : SubEntry) (p : Packet) : Bool :=
  e.state == 3 && (s.notices.any fun m => m.kind == .present && m.sub == e.sub && m.pub == e.pub && m.n == e.n &&
    (match m.mark with | some k => decide (k ≤ p.id) | none => false))

/-- May a packet be applied now: in sequence, to the live scratchpad or the image its entry names, and not held by a retargeting
entry (R336, R341, R343)? -/
def State.packetReady (s : State) (p : Packet) : Bool :=
  match s.allEntries.find? (fun e => e.2.id == p.entry), s.block? p.sub with
  | some (_, e), some b => s.inSequence p && (e.toImage || !(b.st == .saved || b.st == .restoring)) && !s.packetHeld e p
  | _, _ => false

/-- May a packet reach a core that is loading its subscriber, to be held there until the load is complete (R343)? -/
def State.packetArrives (s : State) (p : Packet) : Bool :=
  match s.allEntries.find? (fun e => e.2.id == p.entry), s.block? p.sub with
  | some (_, e), some b => b.st == .restoring && !e.toImage && !p.arrived && !p.applied && !s.packetHeld e p
  | _, _ => false

/-- A packet is applied at its subscriber; the update is not forwarded (R334, R336). -/
def State.applyPacket (s : State) (p : Packet) : State :=
  let off := ((s.block? p.sub).map fun b => (tget {} b.recs p.n).localoff).getD 0 + 64 * p.chunk
  let s := s.scratchWrite p.sub (p.bytes.map fun v => (off + v.1, v.2)) false
  let s := s.modRec p.sub p.n fun r => { r with expect := (r.expect + 1) % 65536 }
  { s with packets := s.packets.map fun q => if q.id == p.id then { q with applied := true } else q }

/-- The packets that a core holds for a block whose load is complete are applied, in sequence (R343). -/
def State.applyHeld (br : BRef) : Nat → State → State
  | 0, s => s
  | n + 1, s =>
    match s.packets.find? fun p => p.sub == br && p.arrived && s.inSequence p with
    | some p => State.applyHeld br n (s.applyPacket p)
    | none => s

/-- UPDATE_PACKET (R336, R343): a packet is applied at its subscriber, or held there while the block is being loaded. -/
def updatePacket (id : Nat) (s : State) : State :=
  match s.packets.find? fun p => p.id == id with
  | none => s
  | some p =>
    if s.packetReady p then s.applyPacket p
    else if s.packetArrives p then
      { s with packets := s.packets.map fun q => if q.id == id then { q with arrived := true } else q }
    else s

/-- UPDATE_ACK (R336, R337): the acknowledgement reaches the publisher. -/
def updateAck (id : Nat) (s : State) : State :=
  match s.packets.find? fun p => p.id == id with
  | none => s
  | some p =>
    if !p.applied then s
    else
      let s := { s with packets := s.packets.filter fun q => q.id != id }
      let s := s.modCore p.core fun c => { c with subs := c.subs.map fun e =>
        if e.id == p.entry then { e with outstanding := e.outstanding - 1 } else e }
      s.settleEntries.wakeSubsync.settleAll

/-! ### Notices (R339-R344) -/

def State.modNotice (s : State) (id : Nat) (f : Notice → Notice) : State :=
  { s with notices := s.notices.map fun m => if m.id == id then f m else m }

/-- Close the open chunk of an entry. -/
def State.closeEntry (s : State) (m : Notice) : State :=
  match s.entryCore? m.pub m.sub m.n, s.entry? m.pub m.sub m.n with
  | some k, some e => s.closeChunk k e.id
  | _, _ => s

/-- ABSENT_NOTICE (R341): the publisher closes the open chunk, and once nothing is outstanding its entry names the image. -/
def absentNotice (id : Nat) (s : State) : State :=
  match s.notices.find? fun m => m.id == id with
  | none => s
  | some m =>
    if m.kind != .absent || m.acted then s
    else
      let s := s.closeEntry m
      match s.entry? m.pub m.sub m.n with
      | none => (s.modNotice id fun m => { m with acted := true })
      | some e =>
        if e.outstanding == 0 && e.chunk.isNone then
          ((s.updEntry m.pub m.sub m.n fun e => some { e with image := m.image, toImage := true }).modNotice id
            fun m => { m with acted := true })
        else s

/-- PRESENT_NOTICE (R343): the publisher holds new packets until those into the image are performed, and then targets the new
core. -/
def presentNotice (id : Nat) (s : State) : State :=
  match s.notices.find? fun m => m.id == id with
  | none => s
  | some m =>
    if m.kind != .present || m.acted then s
    else
      match s.entry? m.pub m.sub m.n with
      | none => (s.modNotice id fun m => { m with acted := true })
      | some e =>
        let mark := m.mark.getD s.fresh
        if s.packets.any fun p => p.entry == e.id && decide (p.id < mark) then
          ((s.updEntry m.pub m.sub m.n fun e => some { e with state := 3 }).modNotice id
            fun m => { m with mark := some mark })
        else
          ((s.updEntry m.pub m.sub m.n fun e =>
            some { e with image := 0, toImage := false, state := if e.state == 3 then 2 else e.state }).modNotice id
              fun m => { m with acted := true })

/-- The record of the subscription that a notice concerns is free from now on; one set up since under its number stays (R339). -/
def State.endRec (s : State) (m : Notice) : State := s.modRec m.sub m.n fun r => if r.id == m.rid then {} else r

/-- A subscription ends at this moment as UNSUB ends one (R345, R301): its first snapshot and the updates generated so far land, and its
entry and its record are free. DESIGN CHOICE (log 99): at a rollback the exchange takes no time. -/
def State.cutSubscription (s : State) (sub : BRef) (n : Nat) : State :=
  let r := ((s.block? sub).map fun b => tget {} b.recs n).getD {}
  let pub : BRef := ⟨sub.grid, r.pub⟩
  let base := r.localoff
  let snap := s.requests.filter fun q => q.sub == sub && q.n == n && q.entry.isSome
  let t := snap.foldl (fun (t : State) q => t.scratchWrite sub ((List.range q.length).map fun i => (base + i, tget 0 q.bytes i)) false)
    { s with requests := s.requests.filter fun q => !(q.sub == sub && q.n == n) }
  match t.entry? pub sub n with
  | none => t.modRec sub n fun _ => {}
  | some e =>
    let late := (t.packets.filter fun p => p.entry == e.id && !p.applied).map fun p => (p.chunk, p.bytes)
    let all := late ++ (e.chunk.map fun c => (c.1, c.2.1)).toList
    ((all.foldl (fun (t : State) c => t.scratchWrite sub (c.2.map fun v => (base + 64 * c.1 + v.1, v.2)) false) t).freeEntry e).modRec sub n
      fun _ => {}

/-- Has the snapshot of a subscription landed, whose publisher's removal notice follows it to the subscriber (R339, log 82)? -/
def State.snapshotDone (s : State) (m : Notice) : Bool := !s.requests.any fun q => q.sub == m.sub && q.n == m.n && q.entry.isSome

/-- REMOVAL_NOTICE (R339, R301): an UNSUB or the retirement of the subscriber reaches the publisher, or the retirement of the
publisher reaches the subscriber. -/
def removalNotice (id : Nat) (s : State) : State :=
  match s.notices.find? fun m => m.id == id with
  | none => s
  | some m =>
    if m.acted then s
    else
      let done (s : State) : State := s.modNotice id fun m => { m with acted := true }
      match m.kind with
      | .removed =>
        let waits := ((s.block? m.sub).map fun b => if (tget {} b.recs m.n).id == m.rid then (tget {} b.recs m.n).unsubs else []).getD []
        waits.foldl State.finishIssue (done (s.endRec m))
      | .removal =>
        match s.entry? m.pub m.sub m.n with
        | some e => (done (s.freeEntry e)).wakeSubsync.settleAll
        | none => (done s)
      | .unsub uid =>
        match s.entry? m.pub m.sub m.n with
        | none => (done ((s.endRec m).finishIssue uid))
        | some _ =>
          let s := s.closeEntry m
          let s := s.updEntry m.pub m.sub m.n fun e => some { e with ended := true, waiters := e.waiters ++ [uid] }
          match s.entry? m.pub m.sub m.n with
          | some e => (done (s.endEntry e))
          | none => (done s)
      | _ => s

/-- NOTICE_ACKNOWLEDGEMENT (R340): the acknowledgement of a notice reaches its sender. -/
def execNoticeAcknowledgement (id : Nat) (s : State) : Host.Outcome State Fault Refusal :=
  match s.notices.find? fun m => m.id == id with
  | some m => .next (if m.acted then { s with notices := s.notices.filter fun q => q.id != id } else s)
  | none => .next s

end Sys2Proof.Machine
end

