-- ==== Sys2Proof/Machine/System.lean ====
section
/-! DEFINITION. System instructions (R346-R361), the privileged registers (R353-R358), fetch faults (R375) and words without an
instruction (R51, R52). -/

namespace Sys2Proof.Machine

/-! ### Privileged registers (R356, R357) -/

/-- R356: may a supervisor split read the register? -/
def privHyperOnly (n : Nat) : Bool := n == 0x00A || n == 0x080

/-- May a supervisor split write it? XINST0, XINST1, XLANES and XJOIN name no writable field (log 25). -/
def privSupWrites (n : Nat) : Bool :=
  n == 0x000 || n == 0x007 || n == 0x00C || n == 0x010 || n == 0x011 || (decide (0x020 ≤ n) && decide (n ≤ 0x02B)) ||
    (decide (0x040 ≤ n) && decide (n ≤ 0x043)) || (decide (0x0C1 ≤ n) && decide (n ≤ 0x0CF))

/-- May a hypervisor split write it? -/
def privHypWrites (n : Nat) : Bool :=
  privSupWrites n || n == 0x012 || (decide (0x080 ≤ n) && decide (n ≤ 0x082)) || (decide (0x090 ≤ n) && decide (n ≤ 0x09D))

/-- Values as a write stores them (R234, R237, R238, R254, R357). -/
def normXvec (v : DWord) : DWord := v &&& 0x0007FFFFFFFFFC01
def normDeleg (v : Word) : Word := v &&& 0x00080EFE
def normPtb (v : DWord) : DWord := v &&& 0xFFFFFFFFFFFF8000
def normHptb (v : DWord) : DWord := v &&& 0xFFFFFFFFFFFF8001
def normLlen (v : DWord) : DWord := BitVec.ofNat 64 (min 16384 (max 64 (fld v 14 0)))
def normCkptr (v : DWord) : DWord := v &&& 0x0007FFFFFFFFF000
def normCap (v : Nat) : Nat := min 8 (max 2 (v % 16))
def normIsm (n : Nat) (v : DWord) : DWord := if n % 2 == 0 then v else v &&& 0x00000000000FFFFF
def normRoute (v : DWord) : DWord := v &&& 0x0000FFFFFFFFFFFF
def code51 (v : DWord) : DWord := v &&& 0x0007FFFFFFFFFFFF

/-- L2MODE as it reads (R245). -/
def Part.l2reg (p : Part) : Nat := boolBit p.l2mode 0 + boolBit p.l2req.isSome 1

def bankOf (m : Mode) : Nat := if m == .hypervisor then 1 else 0

/-- A frame register of the innermost frame (R349). -/
def frameVal (f : Frame) (n : Nat) : Nat :=
  match n with
  | 0x000 => f.pc.toNat
  | 0x001 => f.cause.toNat
  | 0x002 => f.inst0.toNat
  | 0x003 => f.inst1.toNat
  | 0x004 => f.len.toNat
  | 0x005 => f.addr.toNat
  | 0x006 => f.lanes.toNat
  | 0x007 => f.prev.toNat
  | 0x008 => f.reconv.toNat
  | 0x009 => f.join.toNat
  | 0x00A => f.gpa.toNat
  | _ => f.hdr.toNat

/-- What a lane of a split reads in a privileged register. -/
def privRead (x : Ctx) (s : State) (n l : Nat) : Nat :=
  let p := s.part x.g.part
  if n == 0x00B then x.sp.frames.length
  else if n ≤ 0x00C then (match x.sp.frames with | f :: _ => frameVal f n | [] => 0)
  else if n == 0x010 then x.g.regs.xvec.toNat
  else if n == 0x011 then x.g.regs.xdeleg.toNat
  else if n == 0x012 then p.hvec.toNat
  else if n ≤ 0x027 then (tget 0 x.sp.kbank (8 * bankOf x.sp.mode + (n - 0x020))).toNat
  else if n ≤ 0x02B then (tget 0 x.c.xregs ((4 * bankOf x.sp.mode + (n - 0x028)) * 64 + l)).toNat
  else if n == 0x040 then x.g.regs.ptb.toNat
  else if n == 0x041 then x.g.regs.llen.toNat
  else if n == 0x042 then x.g.regs.ckint.toNat
  else if n == 0x043 then x.g.regs.ckptr.toNat
  else if n == 0x044 then x.g.regs.sparea.toNat
  else if n == 0x080 then p.hptb.toNat
  else if n == 0x081 then p.l2reg
  else if n == 0x082 then p.scap
  else if n ≤ 0x09D then (tget 0 p.ism (n - 0x090)).toNat
  else (tget 0 (s.core x.c.core).routes (n - 0x0C0)).toNat

/-- A write to the innermost frame (R349, R357). -/
def frameWrite (f : Frame) (n : Nat) (v : DWord) : Frame :=
  match n with
  | 0x000 => { f with pc := code51 v }
  | 0x007 => { f with prev := BitVec.ofNat 32 (fld v 1 0) }
  | _ => { f with hdr := code51 v }

/-- Is the register held by a frame, a split or a thread (R356)? -/
def privOwn (n : Nat) : Bool := decide (n ≤ 0x00C) || (decide (0x020 ≤ n) && decide (n ≤ 0x02B))

/-- A write of x0-x3 (R354): each lane its own. -/
def laneWrite (x : Ctx) (s : State) (n : Nat) (a : BitVec 8) : State :=
  s.modCohort x.r.c fun c =>
    { c with xregs := tputs 0 (x.lanes.map fun l => ((4 * bankOf x.sp.mode + (n - 0x028)) * 64 + l, x.rd a l)) c.xregs }

/-- R354, R355: the write of a register that the innermost frame, the split or each of its threads holds; `v` is the value of the
lowest executing lane, and `a` the operand. -/
def ownWrite (x : Ctx) (s : State) (n : Nat) (v : DWord) (a : BitVec 8) : State :=
  if n ≤ 0x00C then
    s.modSplit x.r fun p => { p with frames := match p.frames with | f :: fs => frameWrite f n v :: fs | [] => [] }
  else if n ≤ 0x027 then
    s.modSplit x.r fun p => { p with kbank := tput 0 (8 * bankOf x.sp.mode + (n - 0x020)) (v.setWidth 32) p.kbank }
  else laneWrite x s n a

/-- A new XDELEG or XVEC (R357, R358): traps of this cycle still go by the old ones (R382). -/
def Grid.setVec (g : Grid) (cycle : Nat) (f : GridRegs → GridRegs) : Grid :=
  { g with regs := f g.regs, vecWas := some (cycle, g.delegAt cycle, g.xvecAt cycle) }

/-- XDELEG after a write (R357): a supervisor split leaves bit 19 as it is. -/
def delegAfter (hyper : Bool) (was v : Word) : Word :=
  let w := normDeleg v
  if hyper then w else (w &&& ~~~0x00080000) ||| (was &&& 0x00080000)

/-- R354, R358, R356: the write of a register that the grid, its partition or the core of cohort `c` holds takes effect. -/
def State.privWrite (s : State) (c : CRef) (n : Nat) (v : DWord) (hyper : Bool) : State :=
  let grid (f : GridRegs → GridRegs) : State := s.modGrid c.b.grid fun g => { g with regs := f g.regs }
  let part (f : Part → Part) : State := match s.grid? c.b.grid with | some g => s.modPart g.part f | none => s
  if n == 0x010 then s.modGrid c.b.grid fun g => g.setVec s.cycle fun r => { r with xvec := normXvec v }
  else if n == 0x011 then s.modGrid c.b.grid fun g => g.setVec s.cycle fun r =>
    { r with xdeleg := delegAfter hyper r.xdeleg (v.setWidth 32) }
  else if n == 0x012 then part fun p => { p with hvec := normXvec v, hvecWas := some (s.cycle, p.hvecAt s.cycle) }
  else if n == 0x040 then grid fun r => { r with ptb := normPtb v }
  else if n == 0x041 then grid fun r => { r with llen := normLlen v }
  else if n == 0x042 then grid fun r => { r with ckint := v.setWidth 32 }
  else if n == 0x043 then grid fun r => { r with ckptr := normCkptr v }
  else if n == 0x080 then part fun p => { p with hptb := normHptb v }
  else if n == 0x081 then part fun p => { p with l2req := some (v.getLsbD 0) }
  else if n == 0x082 then part fun p => { p with scap := normCap v.toNat }
  else if n ≤ 0x09D then part fun p => { p with ism := tput 0 (n - 0x090) (normIsm (n - 0x090) v) p.ism }
  else
    match s.cohort? c with
    | some co => s.modCore co.core fun k => { k with routes := tput 0 (n - 0x0C0) (normRoute v) k.routes }
    | none => s

/-- PREAD (R353). -/
def execPread (o : OpB) (s : State) : Host.Outcome State Fault Refusal :=
  let n := fld o.imm 11 0
  issue (.pread o) s fun x s =>
    if x.sp.mode == .user || (x.sp.mode == .supervisor && privHyperOnly n) then x.raiseAll s 0x02
    else x.complete s (outs o.d (if o.imm.getLsbD 12 then 2 else 1) fun l => privRead x s n l)

/-- The cause that a PWRITE raises, if any (R353, R357). -/
def pwriteFault (m : Mode) (frames : Nat) (n : Nat) (v : DWord) : Option Nat :=
  let may := if m == .hypervisor then privHypWrites n else privSupWrites n
  if m == .user || (m == .supervisor && privHyperOnly n) then some 0x02
  else if !may then some (if m == .supervisor && privHypWrites n then 0x02 else 0x05)
  else if n == 0x007 && frames != 0 && decide (modeNum m < fld v 1 0) then some 0x02
  else none

/-- PWRITE (R353, R354). The split is held until the write has taken effect: one of its own registers here, any other when the
instruction completes (log 26). -/
def execPwrite (o : OpB) (s : State) : Host.Outcome State Fault Refusal :=
  let n := fld o.imm 11 0
  let value (x : Ctx) : DWord := if o.imm.getLsbD 12 then x.rdD o.a x.low else (x.rd o.a x.low).setWidth 64
  issueIf (.pwrite o) s (fun _ _ => true)
    (fun x _ => pwriteFault x.sp.mode x.sp.frames.length n (value x) != some 0x05) fun x s =>
    let v := value x
    match pwriteFault x.sp.mode x.sp.frames.length n v with
    | some c => x.raiseAll s c
    | none =>
      let t := if privOwn n then ownWrite x (x.complete s []) n v o.a
        else x.note s x.ex (.priv n v (x.sp.mode == .hypervisor))
      x.hold t .pwrite false

/-! ### Entering and leaving a mode (R348, R350-R352) -/

/-- SYSC and HCALL: their executing lanes trap past the instruction (R348). -/
def callMode (i : Instr) (cause : Nat) (s : State) : Host.Outcome State Fault Refusal :=
  forced i s (fun x _ => x.sp.mode != .hypervisor) fun s =>
  issueIf i s (fun _ _ => true) (fun x _ => x.sp.mode != .hypervisor) fun x s =>
    let t := x.trap s ⟨x.low, cause, 0, 0⟩
    s.trapEntry x.r x.ex { t with pc := x.sp.pc + 8 }

/-- SYSC (R348). -/
def execSysc (o : OpC) (s : State) : Host.Outcome State Fault Refusal := callMode (.sysc o) 0x10 s
/-- HCALL (R348). -/
def execHcall (o : OpC) (s : State) : Host.Outcome State Fault Refusal := callMode (.hcall o) 0x12 s

/-- EBREAK (R351). -/
def execEbreak (o : OpA) (s : State) : Host.Outcome State Fault Refusal :=
  issueIf (.ebreak o) s (fun _ _ => true) (fun x _ => x.sp.mode != .hypervisor) fun x s => x.raiseAll s 0x11

/-- ILLEGAL (R352). -/
def execIllegal (o : OpA) (s : State) : Host.Outcome State Fault Refusal :=
  issue (.illegal o) s fun x s => x.raiseAll s 0x05

def modeOf (n : Nat) : Mode := if n == 0 then .user else if n == 1 then .supervisor else .hypervisor

/-- The check of XPC (R350): the word there, or the fault. -/
def returnCheck (x : Ctx) (s : State) (f : Frame) : Except XFault DWord :=
  if fld f.pc 2 0 != 0 || fld f.pc 63 51 != 0 then .error { cause := 4 }
  else s.codeWord x.c.core x.g (modeOf f.prev.toNat) f.pc

/-- The mode that a return enters (R350). -/
def Ctx.returnMode (x : Ctx) : Mode := match x.sp.frames with | f :: _ => modeOf f.prev.toNat | [] => x.sp.mode

/-- SRET and HRET (R350). Fetch is suspended until the word at XPC can be checked (R373). -/
def returnFrom (i : Instr) (m : Mode) (s : State) : Host.Outcome State Fault Refusal :=
  withTargetsFor Ctx.returnMode i (fun x => match x.sp.frames with
    | f :: _ => if x.sp.mode == m && f.entered == m && fld f.pc 2 0 == 0 then [f.pc] else []
    | [] => []) s fun s =>
  issueIf i s (fun _ _ => true)
    (fun x _ => x.sp.mode == m && (match x.sp.frames with | f :: _ => f.entered == m | [] => false)) fun x s =>
    match x.sp.frames with
    | [] => s
    | f :: _ =>
      match returnCheck x s f with
      | .error e => x.raiseAll s e.cause f.pc e.gpa
      | .ok w => (x.note s x.ex .complete).trapReturn x.r x.ex w

/-- SRET (R350). -/
def execSret (o : OpA) (s : State) : Host.Outcome State Fault Refusal := returnFrom (.sret o) .supervisor s
/-- HRET (R350). -/
def execHret (o : OpA) (s : State) : Host.Outcome State Fault Refusal := returnFrom (.hret o) .hypervisor s

/-! ### GRIDEND (R361) -/

/-- A code of R60 other than 0x00. -/
def statusCode (c : Nat) : Bool :=
  (decide (0x01 ≤ c) && decide (c ≤ 0x0B)) || (decide (0x10 ≤ c) && decide (c ≤ 0x13)) || (decide (0x18 ≤ c) && decide (c ≤ 0x1D))

/-- The status that GRIDEND gives. -/
def endStatus (v : Nat) : Nat := if statusCode (v % 256) then v % 256 else 0x18

/-- GRIDEND (R361). -/
def execGridend (o : OpA) (s : State) : Host.Outcome State Fault Refusal :=
  issue (.gridend o) s fun x s =>
    if x.sp.mode == .user then x.raiseAll s 0x02
    else (x.note s x.ex .complete).endGrid x.g.id (endKey x.c x.b.ref x.low) (endStatus (x.rd o.a x.low).toNat)

/-! ### TLBI (R359, R360) -/

/-- Does TLBI remove this entry? `va` is none for an address that removes nothing. -/
def tlbiHits (kind tag htag : Nat) (va : Option Nat) (e : TlbEntry) : Bool :=
  match kind with
  | 0 =>
    match va with
    | some a => e.tag == tag && e.htag == htag && a / max 1 e.leaf == e.vbase / max 1 e.leaf
    | none => false
  | 3 => e.htag == htag
  | _ => e.tag == tag && e.htag == htag

/-- The tags of the grid of a block now. -/
def State.tagsOf (s : State) (g : Nat) : Nat × Nat :=
  match s.grid? g with
  | some gr => (fld gr.regs.ptb 63 48, fld (s.part gr.part).hptb 63 48)
  | none => (0, 0)

/-- Is it an access of an instruction, whose address a TLB has translated? -/
def AccOp.translated : AccOp → Bool
  | .load | .store | .atomic _ _ _ _ _ | .tready _ | .watch | .pref _ _ _ => true
  | .host _ | .publish _ | .claim _ | .fetch _ | .code | .walk _ | .reg _ | .evict | .edge _ | .afnar | .status _
  | .tiles _ => false

/-- Accesses in flight that a matching entry may have translated, by the tags of their issue (R360 step 4). -/
def State.translatedBy (s : State) (kind tag htag : Nat) (gone : List TlbEntry) : List Nat :=
  (s.flight.filter fun a => !a.scratch && !a.isFixed && a.op.translated &&
    (a.tags.2 == htag && (kind == 3 || a.tags.1 == tag) &&
       (kind != 0 || gone.any fun e => decide (e.vbase ≤ a.va.toNat) && decide (a.va.toNat < e.vbase + e.size)))).map (·.id)

/-- Pages that copies have begun under a matching entry: copy and first virtual address (R360 step 4). -/
def State.begunPages (s : State) (hit : TlbEntry → Bool) : List (Nat × Nat) :=
  s.copies.flatMap fun o => ([o.pages.1, o.pages.2].filterMap id).filterMap fun e => if hit e then some (o.id, e.vbase) else none

/-- Is it a walk in progress under the tags that a TLBI names (R360 step 3)? -/
def State.walkOf (s : State) (kind tag htag : Nat) (w : Walk) : Bool :=
  w.started && !w.failed && (s.tagsOf w.req.grid).2 == htag && (kind == 3 || fld w.ptb 63 48 == tag)

/-- Is no draft of the block left that is not performed at wafer scope (R263, R397)? A draft does not tell its thread, so those of the whole
block count (log 100). -/
def Ctx.published (x : Ctx) (s : State) : Bool :=
  ((s.block? x.r.c.b).map fun b => b.drafts.isEmpty).getD true && (s.unpublished x.r.c.b).isEmpty

/-- TLBI (R359, R360): it waits for the earlier stores and atomics of its lanes, removes the entries, and ends when the walks of their
tags have ended, with their results removed, and every access that they translated is performed. -/
def execTlbi (o : OpA) (s : State) : Host.Outcome State Fault Refusal :=
  let kind := fld o.m 1 0
  issueIf (.tlbi o) s
    (fun x s => (x.lanes.all fun l => (s.unperformed x.r.c l).all fun a => !a.op.writes) && x.published s)
    (fun _ _ => true) fun x s =>
    if x.sp.mode == .user || (x.sp.mode == .supervisor && kind == 3) then x.raiseAll s 0x02
    else
      let htag := fld (s.part x.g.part).hptb 63 48
      let tag := if kind == 2 then (x.rd o.b x.low).toNat % 65536 else fld x.g.regs.ptb 63 48
      let a := x.rdN 2 o.a x.low
      let hit := tlbiHits kind tag htag (if a < 2 ^ 51 then some a else none)
      let gone := (s.cores.flatMap fun c => c.2.tlb.filter hit) ++ (s.tlb2.flatMap fun d => d.2.filter hit)
      let accs := s.translatedBy kind tag htag gone
      let t := { s with
        cores := tmap {} (fun c => { c with tlb := c.tlb.filter fun e => !hit e }) s.cores
        tlb2 := s.tlb2.filterMap fun d =>
          let l := d.2.filter fun e => !hit e
          if l.isEmpty then none else some (d.1, l)
        walks := s.walks.map fun w => if s.walkOf kind tag htag w then { w with drop := true } else w }
      let walks := (s.walks.filter (s.walkOf kind tag htag)).map (·.id)
      x.hold (x.note t x.ex (.shootdown accs (s.begunPages hit) walks)) .tlbi false

/-! ### Words without an instruction (R51, R52) and fetch faults (R375, R39-R42) -/

/-- A word whose opcode is unassigned, reserved or an emulation slot (R51). -/
def execUnimplementedOpcode (o : OpU) (s : State) : Host.Outcome State Fault Refusal :=
  match s.beginIssue (.unimplementedOpcode o) with
  | .stop s => .next s
  | .go x s =>
    .next ((if x.ex == 0#64 then s
      else x.raise s (x.lanes.map fun l => ⟨l, 6, 0, 0⟩)).settle x.r)

/-- FETCH_FAULT (R375): the word at PC, or an inline word of its instruction (log 27), does not translate for execute. A header that the split has still to enter is entered when
it does, with the checks of R39 and R42. -/
def execFetchFault (r : SRef) (s : State) : Host.Outcome State Fault Refusal :=
  let s := if s.selected.head? == some r then { s with selected := s.selected.drop 1 } else s
  match s.cohort? r.c, s.split? r, s.grid? r.c.b.grid with
  | some c, some p, some g =>
    if p.hold.isSome || p.parked.isSome || g.st != .running then .next s
    else
      match s.codeWord c.core g p.mode p.pc with
      | .error f =>
        .next ((s.forgetWalk c.core g p.pc.toNat).trapEntry r p.lanes { cause := f.cause, pc := p.pc, addr := p.pc, gpa := f.gpa })
      | .ok w =>
        if p.entering then .next (s.enterBlock r)
        else
          let bad := (List.range (inlineCount (opcodeField w).toNat)).findSome? fun k =>
            let a := p.pc + BitVec.ofNat 64 (8 * (k + 1))
            match s.codeWord c.core g p.mode a with
            | .error f => some (f, a)
            | .ok _ => none
          match bad with
          | some (f, a) =>
            .next ((s.forgetWalk c.core g a.toNat).trapEntry r p.lanes { cause := f.cause, pc := p.pc, addr := a, gpa := f.gpa })
          | none => .next s
  | _, _, _ => .next s

/-- Bytes of the instruction at `w`, with those of its inline words that its block holds (R21): `room` words follow in the block. -/
def wordBytes (w : DWord) (room : Nat) : Nat := 8 * (1 + min room (inlineCount (opcodeField w).toNat))

/-- A word that cannot be decoded at an instruction position (R40, R50): illegal encoding for the lanes its guard selects, after
the waits and the gap that its fields give. The other lanes pass it with its inline words, and where no lane executes it, it counts
its flag for one cycle (R16). -/
def illegalWord (r : SRef) (w : DWord) (s : State) : State :=
  match s.grid? r.c.b.grid, s.block? r.c.b, s.cohort? r.c, s.split? r with
  | some g, some b, some c, some p =>
    let h := hdrField w
    let past := BitVec.ofNat 64 (wordBytes w (if p.blkEnd == 0 then 4 else (p.blkEnd - p.pc).toNat / 8 - 1))
    if !canIssue s g b c p h then { s with selected := s.selected.drop 1 }
    else
      let c := (c.noteWaited p.lanes h.wait).commitWhere p.lanes (visibleAt (p.dist + gapOf h) h.wait)
      let ex := guardMask c p.lanes h.guard
      let s := ({ s with selected := s.selected.drop 1 }.modCohort r.c fun _ => c).modSplit r fun q =>
        { q with dist := q.dist + gapOf h, last := s.cycle, passed := 0, starved := false, pc := q.pc + past }
      (if ex == 0#64 then s.countFlag s.fresh r 0#64 (setFlag h) (.latency (s.cycle + 1))
       else s.trapEntry r ex { cause := 5, pc := p.pc, inst0 := w, inst1 := s.wordOr0 c.core g p.mode (p.pc + 8)
                               len := inlineCount (opcodeField w).toNat }).settle r
  | _, _, _, _ => { s with selected := s.selected.drop 1 }

end Sys2Proof.Machine
end

