-- ==== Sys2Proof/Machine/Launch.lean ====
section
/-! DEFINITION. Launch records (R165-R170): acceptance, the checks at the entry to dispatch, completion and the status word; LAUNCH
(R303-R305) and TREADY (R306). -/

namespace Sys2Proof.Machine

/-! ### The registrar's own reads and writes (R166) -/

/-- Translation of an address in a grid's context without the up and sp bits; `more` are rights needed besides, such as up. -/
def State.regXlate (s : State) (g : Grid) (need : Need) (more va : Nat) : Except XFault Phys :=
  if 2 ^ 51 ≤ va then .error ⟨2, 0, none⟩
  else
    let p := s.part g.part
    match s.walkFull p g.regs.ptb va with
    | .error f => .error (f.ranked (need.bits + more))
    | .ok e => e.access p.secondOn (need.bits + more) need.bits va

def State.readPhys8 (s : State) (pa : Nat) : Nat := leNat ((List.range 8).map fun i => s.readPhys (pa + i))

/-- `n` bytes from `va` on as the registrar reads them, or the cause of the first that fails: its translation's, or 0x07 on poison. -/
def State.regBytes (s : State) (g : Grid) (va : Nat) : Nat → Except Nat (List Byte)
  | 0 => .ok []
  | n + 1 =>
    match s.regXlate g .rd 0 va with
    | .error f => .error f.cause
    | .ok p =>
      if s.poisoned p.pa || !s.lineFilled p.pa then .error 7
      else (s.regBytes g (va + 1) n).map (s.readPhys p.pa :: ·)

/-- An 8-byte word as the registrar reads it. A word that is not aligned may lie on two pages. -/
def State.regRead8 (s : State) (g : Grid) (va : Nat) : Except Nat Nat := (s.regBytes g va 8).map leNat

/-- The table entries that translations of the `n` bytes from `va` on read: pages are of 32 KiB at least. -/
def State.regWalks (s : State) (g : Grid) (va n : Nat) : List Nat :=
  if n == 0 then []
  else (List.range ((va % 32768 + n - 1) / 32768 + 1)).flatMap fun i =>
    let a := va / 32768 * 32768 + 32768 * i
    if 2 ^ 51 ≤ a then [] else s.walkReads (s.part g.part) g.regs.ptb a

/-- The physical addresses that a reading of the registrar of `n` bytes from `va` on asks the banks for: table entries, and the lines of the
bytes. -/
def State.regReads (s : State) (g : Grid) (va n : Nat) : List Nat :=
  s.regWalks g va n ++ ((List.range (if n == 0 then 0 else (va % 128 + n - 1) / 128 + 1)).filterMap fun i =>
    match s.regXlate g .rd 0 (max va (va / 128 * 128 + 128 * i)) with | .ok p => some p.pa | .error _ => none)

/-- May the registrar read now what it asks the banks for (R240, R249, R253, R258)? -/
def State.regReady (s : State) (pas : List Nat) : Bool := pas.all s.bankReads

/-- The banks answer the registrar (R425). -/
def State.touchAll (s : State) (pas : List Nat) : State := pas.foldl State.touchBanks s

/-- Do two accesses come from the same agent outside the cores, whose writes to the same bytes keep their order? -/
def AccOp.sameAgent : AccOp → AccOp → Bool
  | .reg _, .reg _ => true
  | a, b => a == b

/-- A write of an agent outside the cores, of bytes in one sector: performed at once at a home bank that takes it, and else on its way
there, after its agent's earlier writes to its bytes (R240, R242, R204, R250, R253). -/
def State.outsideWrite (op : AccOp) (uid : Nat) (s : State) (pa : Nat) (bytes : List Byte) : State :=
  let whole := pa % 64 == 0 && bytes.length == 64
  let before := s.flight.filter fun a => a.op.sameAgent op && a.overlaps false pa bytes.length
  if s.lineFree pa && s.bankQuiet pa && before.isEmpty then (s.touchBanks pa).homeWrite pa bytes whole
  else s.launchAccess { id := 0, uid := uid, c := ⟨⟨0, 0⟩, 0⟩, core := 0, lane := 0, op := op, scratch := false, va := 0, pa := pa
                        size := bytes.length, scope := 3, bytes := bytes, covers := whole, after := before.map (·.id) }

/-- A write of the registrar, for a block or for none. -/
def State.regWrite (s : State) (owner : Option BRef) (pa : Nat) (bytes : List Byte) : State := State.outsideWrite (.reg owner) 0 s pa bytes

/-- Are writes of the registrar for a block under way? -/
def State.writing (s : State) (b : BRef) : Bool := s.flight.any fun a => a.op == .reg (some b)

/-! ### Acceptance (R166, R168) -/

/-- The registrar accepts a record: the next identifier, and a spawn area of its choice (log 11). -/
def State.acceptLaunch (s : State) (g : Grid) : State :=
  { s with lastLaunch := s.lastLaunch + 1
           draw := s.draw + 1
           grids := s.grids ++ [{ g with id := s.lastLaunch + 1
                                         regs := { g.regs with sparea := code51 (Config.registrarAddress s.draw) } }] }

/-- The eight words of a record from its 64 bytes. -/
def recordWords (bytes : List Byte) : List DWord :=
  (List.range 8).map fun k => BitVec.ofNat 64 (leNat ((bytes.drop (8 * k)).take 8))

/-- A handle that follows a launch resolves (R305). -/
def State.resolveLaunch (s : State) (op : Option Nat) (code : Nat) : State :=
  match op with
  | some o => s.blocks.foldl (fun s b => s.resolve b.ref o code false 0 0) s
  | none => s

/-! ### The checks (R165, R166, R169, R44) -/

/-- R165: the fields of a record, with the pair bit of its kernel. -/
def recordOk (g : Grid) : Bool :=
  let w0 := g.word 0
  let w2 := g.word 2
  let w3 := g.word 3
  let b := g.bdim
  let ext (n : Nat) : Bool := decide (1 ≤ n) && decide (n ≤ 4096)
  fld w0 57 56 != 3 && fld w0 55 54 != 3 &&
    g.gdim.1 != 0 && g.gdim.2.1 != 0 && g.gdim.2.2 != 0 && decide (g.blockCount ≤ 2 ^ 32) &&
    fld w2 63 57 == 0 && (g.depkind == 1 || fld w2 56 48 == 0) &&
    ext b.1 && ext b.2.1 && ext b.2.2 && decide (g.ntid ≤ (if g.pair then 4096 else 2048)) &&
    (match g.hrmode with
     | 0 => w3 == 0
     | 1 => decide (w3.toNat ≤ 83)
     | _ => fld w3 63 51 == 0) &&
    (g.depkind != 0 || g.word 6 == 0)

/-- R43: ranges of the descriptor's fields. -/
def descriptorOk (d : DWord) : Bool :=
  fld d 63 38 == 0 && decide (fld d 37 32 ≤ 32) && fld d 26 25 != 3 && decide (fld d 23 14 ≤ 512) && decide (fld d 13 8 ≤ 48) &&
    decide (1 ≤ fld d 7 0) && decide (fld d 7 0 ≤ 24)

/-- Cohorts of a new block: threads, quadrant, and whether they are on the right core of a pair (R162, R163). -/
def newCohorts (g : Grid) : List (Nat × Nat × Bool) :=
  (List.range ((g.ntid + g.width - 1) / g.width)).map fun c =>
    (min g.width (g.ntid - g.width * c), c % 4, g.pair && decide (2048 ≤ g.width * c))

/-- What a quadrant carries: slots, vector register bytes and tiles. -/
abbrev Load := Nat × Nat × Nat

def vbytes (g : Grid) : Nat := g.vregs * g.width * 4

/-- R164 on one core: threads, scratchpad bytes and quadrant loads in use, with the cohorts to add and, where it goes here, the
reserve's quadrant. -/
def limitsHold (g : Grid) (threads scratch : Nat) (use : Nat → Load) (cs : List (Nat × Nat)) (reserve : Option Nat) : Bool :=
  decide (threads + (cs.map (·.1)).foldl (· + ·) 0 ≤ 2048) && decide (scratch + g.scratchBytes ≤ 524288) &&
    [0, 1, 2, 3].all fun q =>
      let n := (cs.filter fun c => c.2 == q).length + (if reserve == some q then 1 else 0)
      let u := use q
      decide (u.1 + n ≤ 16) && decide (u.2.1 + n * vbytes g ≤ 262144) && decide (u.2.2 + n * g.acc ≤ 32)

/-- Can a block be resident on an empty core, or pair (R44, R164)? -/
def fitsEmpty (g : Grid) : Bool :=
  let cs := newCohorts g
  let left := (cs.filter fun c => !c.2.2).map fun c => (c.1, c.2.1)
  let right := (cs.filter fun c => c.2.2).map fun c => (c.1, c.2.1)
  let ok (l : List (Nat × Nat)) (r : Option Nat) : Bool := limitsHold g 0 0 (fun _ => (0, 0, 0)) l r
  [0, 1, 2, 3].any fun q => (ok left (some q) && ok right none) || (g.pair && ok left none && ok right (some q))

/-- A manifest: the ranges it names, or none where it breaks the layout of R169. -/
abbrev Manifest := Option (List (Nat × Nat))

/-- R169: the manifest, or the cause with which it cannot be read. -/
def State.manifest (s : State) (g : Grid) : Except Nat Manifest :=
  let a := (g.word 7).toNat
  if a == 0 then .ok (some [])
  else
    match s.regRead8 g a with
    | .error c => .error c
    | .ok n =>
      let k := n % 256
      if k == 0 || decide (64 < k) then .ok none
      else
        let ws := (List.range (2 * k)).map fun i => s.regRead8 g (a + 8 + 8 * i)
        match ws.findSome? fun r => match r with | .error c => some c | .ok _ => none with
        | some c => .error c
        | none =>
          let vs := ws.map fun r => match r with | .ok v => v | .error _ => 0
          let rs := (List.range k).map fun i => (vs.getD (2 * i) 0, vs.getD (2 * i + 1) 0)
          if n / 256 != 0 || rs.any (fun r => r.1 % 4096 != 0 || r.2 % 4096 != 0) then .ok none else .ok (some rs)

/-- R169, step 7: does every 128-byte line of the ranges lie in a weight-store page and hold filled data? -/
def State.rangesFilled (s : State) (g : Grid) (rs : List (Nat × Nat)) : Bool :=
  rs.all fun r => r.2 != 0 && (List.range (r.2 / 128)).all fun i =>
    match s.regXlate g .rd 0 (r.1 + 128 * i) with
    | .ok p => p.ws && s.filled.contains (p.pa / 128)
    | .error _ => false

/-- The entry word of a launch: an entry header that is not illegal (R38, R42). -/
def entryHeader (a w : DWord) : Bool := fld a 2 0 == 0 && isHeader w && hdrEntry w && hdrLength w != 0 && fld w 15 0 == 0

/-- The word of an entry address, under R166 step 2. -/
def State.entryWord (s : State) (g : Grid) (a : DWord) : Except Nat DWord :=
  match s.regXlate g .ex 8 a.toNat with
  | .error f => .error f.cause
  | .ok p => .ok (BitVec.ofNat 64 (s.readPhys8 p.pa))

/-- The producer that a tile-ready array names (R177). -/
def State.arrayProducer (s : State) (g : Grid) : Option Nat :=
  if g.depkind != 1 then none else match s.regRead8 g (g.word 6).toNat with | .ok v => some v | .error _ => none

/-- R177: the second word of a tile-ready array must be zero. -/
def State.arrayBad (s : State) (g : Grid) : Bool :=
  g.depkind == 1 && (match s.regRead8 g ((g.word 6).toNat + 8) with | .ok v => v != 0 | .error _ => false)

/-- Steps 2-5 of R166: the status with which the launch completes, or its grid with the descriptor. DESIGN CHOICE (log 90): where the
descriptor's word at entry + 8 does not translate, the launch completes with the translation's cause, after step 3. The header, the
descriptor, the manifest and the producer of a tile-ready array are read here, once (log 91). -/
def State.launchChecks (s : State) (g : Grid) : Except Nat Grid :=
  match s.entryWord g g.entry with
  | .error c => .error c
  | .ok w =>
    match g.early with
    | some c => .error c
    | none =>
      match s.manifest g with
      | .error c => .error c
      | .ok m =>
        if !entryHeader g.entry w then .error 4
        else
          match s.entryWord g (g.entry + 8) with
          | .error c => .error c
          | .ok d =>
            let g := { g with desc := d, header := w, ranges := m.getD [], producer := s.arrayProducer g }
            if !recordOk g || m.isNone || s.arrayBad g then .error 5
            else if !descriptorOk d || !fitsEmpty g then .error 5
            else .ok g

/-- Step 7 of R166. -/
def State.weightsReady (s : State) (g : Grid) : Bool := s.rangesFilled g g.ranges

/-- What the translation of a status pointer asks the banks for. -/
def State.statusReads (s : State) (g : Grid) : List Nat := s.regWalks g ((g.word 5).toNat / 4 * 4) (if (g.word 5).toNat / 4 == 0 then 0 else 4)

/-- What the checks of steps 2-5 ask the banks for. -/
def State.launchReads (s : State) (g : Grid) : List Nat :=
  let a := (g.word 7).toNat
  let n := if a == 0 then 0 else match s.regRead8 g a with | .ok v => 8 + 16 * min 64 (v % 256) | .error _ => 8
  s.regReads g g.entry.toNat 16 ++ s.regReads g a n ++ (if g.depkind == 1 then s.regReads g (g.word 6).toNat 16 else []) ++ s.statusReads g

/-- What step 7 asks the banks for. -/
def State.rangeReads (s : State) (g : Grid) : List Nat := (g.ranges.flatMap fun r => s.regWalks g r.1 r.2) ++ s.statusReads g

/-! ### Completion (R170) -/

/-- Where the status word is written, or none where its pointer fails (R166). -/
def State.statusPlace (s : State) (g : Grid) : Option Nat :=
  match s.regXlate g .wr 0 ((g.word 5).toNat / 4 * 4) with
  | .ok p => if p.ws || paRegion p.pa != 0 then none else some p.pa
  | .error _ => none

/-- The grid has retired: its handle resolves, and its parent counts it (R170, R305). -/
def State.finishRetire (s : State) (g : Grid) (status : Nat) : State :=
  (s.modGrid g.id fun x => { x with st := .retired, status := status }).resolveLaunch g.handleOp status

/-- The grid retires: its status word receives the status at its home bank, at once or, where the bank does not take the write now, when
it is performed (R170, R240). -/
def State.retireGrid (s : State) (g : Grid) (status : Nat) : State :=
  if (g.word 5).toNat / 4 == 0 then s.finishRetire g status
  else
    match s.statusPlace g with
    | none => (s.record 0 2 0xFFFFFF g.id).finishRetire g status
    | some pa =>
      if s.lineFree pa && s.bankQuiet pa then (s.regWrite none pa (leBytes 4 status)).finishRetire g status
      else
        (s.launchAccess { id := 0, uid := 0, c := ⟨⟨0, 0⟩, 0⟩, core := 0, lane := 0, op := .status g.id, scratch := false, va := 0, pa := pa
                          size := 4, scope := 3, bytes := leBytes 4 status }).modGrid g.id fun x =>
          { x with st := .closing, status := status }

/-! ### LAUNCH (R303-R305) -/

/-- The task queue of an address (R178). -/
def taskQueue (pa : Nat) : Nat := (pa / 2 ^ 12 % 16) ^^^ (pa / 2 ^ 16 % 16)

/-- The domain that a LAUNCH names, and the queue there (R178, R304). -/
def launchQueue (x : Ctx) (s : State) (named : Option DWord) : Nat × Nat :=
  let own := (s.coreDomain x.c.core, 0)
  match named with
  | none => own
  | some a =>
    match x.checkGlobal s .ld a 1 with
    | .ok p => if paRegion p.pa ≤ 1 then (paDomain p.pa, taskQueue p.pa) else own
    | .error _ => own

/-- One lane's post (R304). Answers the state and the identifier, or 0 at depth 10. -/
def launchPost (x : Ctx) (s : State) (pa : Nat) (named : Option DWord) (handle : Option Nat) : State × Nat :=
  match s.grid? x.g.id with
  | none => (s, 0)
  | some g =>
    if g.depth == 10 then (s.resolveLaunch handle 0x1B, 0)
    else
      let child : Grid :=
        { id := 0, poster := .grid g.id, record := recordWords (s.seen x.b pa 64).1, depth := g.depth + 1, parent := some g.id,
          part := g.part, regs := g.regs, target := some (launchQueue x s named).1, queue := (launchQueue x s named).2,
          handleOp := handle }
      (s.acceptLaunch child, s.lastLaunch + 1)

/-- LAUNCH (R303). -/
def execLaunch (o : OpA) (s : State) : Host.Outcome State Fault Refusal :=
  let named (x : Ctx) (l : Nat) : Option DWord := if o.b == 0xF0 then none else some (x.rdD o.b l)
  withWalks (.launch o) (fun x => if x.sp.mode != .user then [] else
    ((x.lanes.map (x.rdD o.a)).filter fun a => a.toNat % 64 == 0) ++ x.lanes.filterMap (named x)) s fun s =>
  forced (.launch o) s (fun x _ => x.sp.mode == .user) fun s =>
  issueIf (.launch o) s Ctx.allPerformed (fun x _ => x.sp.mode == .user) fun x s =>
    let chk (l : Nat) : Except XFault Phys :=
      match x.checkGlobal s .ld (x.rdD o.a l) 64 with
      | .ok p => if (s.seen x.b p.pa 64).2 then .error { cause := 7 } else .ok p
      | .error f => .error f
    let fs := x.lanes.filterMap fun l =>
      match chk l with
      | .error f => some ⟨l, f.cause, x.rdD o.a l, f.gpa⟩
      | .ok _ =>
        match (named x l).bind fun a => (match x.checkGlobal s .ld a 1 with | .error f => some (f, a) | .ok _ => none) with
        | some (f, a) => some ⟨l, f.cause, a, f.gpa⟩
        | none => none
    let y := x.minus fs
    if y.ex == 0#64 then x.raise s fs
    else
      let follow := o.m.getLsbD 4
      let op := s.fresh
      let s := if follow then s.bump.setHandle x.r.c (fld o.m 3 0) (.pending op) else s
      let out := y.lanes.foldl (fun (q : State × List (Nat × Nat)) l =>
        let r := launchPost x q.1 (paOf chk l) (named x l) (if follow && l == y.low then some op else none)
        (r.1, q.2 ++ [(l, r.2)])) (s, [])
      let id (l : Nat) : Nat := ((out.2.find? fun p => p.1 == l).map (·.2)).getD 0
      x.raise (y.complete out.1 (outs o.d 2 id)) fs

/-! ### TREADY (R306) -/

/-- The lane's accesses to the tile's range that are not performed yet (R306 step 2). Those of other threads that a barrier orders before it
are performed, since an arrival waits for its threads' accesses. -/
def Ctx.rangeAwaits (x : Ctx) (s : State) (l base len : Nat) : List Nat :=
  ((s.unperformed x.r.c l).filter fun a => a.uid != x.uid && !a.scratch && len != 0 && decide (a.va.toNat < base + len) &&
    decide (base < a.va.toNat + a.size)).map (·.id)

/-- The accesses of a lane of an instruction come after these too. -/
def State.putAfter (s : State) (uid l : Nat) (ids : List Nat) : State :=
  { s with flight := s.flight.map fun a => if a.uid == uid && a.lane == l then { a with after := (a.after ++ ids).dedup } else a }

/-- TREADY (R306, R177): each lane's flag is written once its accesses to its tile's range are performed. -/
def execTready (o : OpA) (s : State) : Host.Outcome State Fault Refusal :=
  let addr (x : Ctx) (l : Nat) : DWord := x.rdD o.a l + 16 + ((x.rd o.b l).setWidth 64 <<< 2)
  withWalks (.tready o) (fun x => if x.sp.mode != .user then [] else (x.lanes.map (addr x)).filter fun a => a.toNat % 4 == 0) s fun s =>
  forced (.tready o) s (fun x _ => x.sp.mode == .user) fun s =>
  issueIf (.tready o) s (fun _ _ => true) (fun x _ => x.sp.mode == .user) fun x s =>
    let chk (l : Nat) := x.checkGlobal s .st (addr x l) 4
    let fs := faultsOf x.lanes (addr x) chk
    let y := x.minus fs
    let array (l : Nat) : Option Nat :=
      match s.regXlate x.g .rd 0 (x.rdD o.a l).toNat with | .ok p => some p.pa | .error _ => none
    let s1 := x.fillTlb s y.lanes (addr x)
    let s2 :=
      if y.ex == 0#64 then s1
      else
        y.lanes.foldl (fun t l =>
          let pa := paOf chk l
          let t := t.storeIssued x.c.core [pa / 128]
          (y.plainAccess t l (.tready (array l)) false (addr x l) pa 4 3 (leBytes 4 1) false false).putAfter y.uid l
            (y.rangeAwaits s l (y.rdD o.d l).toNat (y.rd o.m l).toNat))
          (y.note s1 y.ex (.performed ((encode (.tready o)).headD 0) x.sp.pc false))
    x.raise s2 fs

end Sys2Proof.Machine
end

