-- ==== Sys2Proof/Machine/Issue.lean ====
section
/-! DEFINITION. The issue stage (R179-R181), the ends of instructions (R29), the passing of a cycle, and spawning (R187-R191). -/

namespace Sys2Proof.Machine

/-! ### Fetch (R375, R39-R41) -/

/-- What stands at a split's PC. -/
inductive Fetched where
  /-- nothing yet: the split is no more, or its fetch waits for a walk or for a line of code -/
  | gone
  /-- a word that does not translate, with its address; or a header still to enter -/
  | fault
  /-- a word that is no instruction at its place -/
  | bad (w : DWord)
  | instr (i : Instr) (h : Hdr)

/-- The words from `a` on, up to `n`, as far as they translate. -/
def State.fetchWords (s : State) (core : Nat) (g : Grid) (m : Mode) (a : DWord) : Nat → List DWord
  | 0 => []
  | n + 1 =>
    match s.codeWord core g m a with
    | .ok w => w :: s.fetchWords core g m (a + 8) n
    | .error _ => []

/-- The walk that a split's fetch waits for: of the page of its PC, or of its last inline word, where both TLBs miss it (R235, R375). -/
def State.fetchMiss (s : State) (r : SRef) : Option WalkReq :=
  match s.cohort? r.c, s.split? r, s.grid? r.c.b.grid with
  | some c, some p, some g =>
    let page (a : DWord) : Option WalkReq :=
      if fld a 63 51 == 0 && s.tlbMiss c.core g a.toNat then some ⟨c.core, g.id, a.toNat / 32768⟩ else none
    if p.mode == .hypervisor || p.hold.isSome || p.parked.isSome then none
    else (page p.pc).or (if p.entering then none else match s.codeWord c.core g p.mode p.pc with
      | .ok w =>
        let n := inlineCount (opcodeField w).toNat
        page (p.pc + BitVec.ofNat 64 (8 * (if p.blkEnd == 0 then n else min n ((p.blkEnd - p.pc).toNat / 8 - 1))))
      | .error _ => none)
  | _, _, _ => none

/-- The line of code that a split's fetch waits for: of its PC, or of its last inline word, where the core's instruction cache holds it not
(R375, R404; log 95). -/
def State.fetchLine (s : State) (r : SRef) : Option Nat :=
  match s.cohort? r.c, s.split? r, s.grid? r.c.b.grid with
  | some c, some p, some g =>
    if p.hold.isSome || p.parked.isSome then none
    else (s.codeLine c.core g p.mode p.pc).or (if p.entering then none else match s.codeWord c.core g p.mode p.pc with
      | .ok w =>
        let n := inlineCount (opcodeField w).toNat
        s.codeLine c.core g p.mode (p.pc + BitVec.ofNat 64 (8 * (if p.blkEnd == 0 then n else min n ((p.blkEnd - p.pc).toNat / 8 - 1))))
      | .error _ => none)
  | _, _, _ => none

/-- May the split's fetch go on: does its grid run, and its block issue (R398)? -/
def State.fetches (s : State) (r : SRef) : Bool :=
  match s.block? r.c.b, s.split? r, s.grid? r.c.b.grid with
  | some b, some p, some g => g.st == .running && p.spawn.isNone && (b.st == .resident || (b.st == .checkpointing && p.forced))
  | _, _, _ => false

/-- Fetches that miss the instruction cache ask for their lines. -/
def State.askFetches (s : State) : State :=
  s.allSplits.foldl (fun t r =>
    match s.cohort? r.c, s.fetchLine r with
    | some c, some l => if s.fetches r && (s.fetchMiss r).isNone then t.askCode c.core l else t
    | _, _ => t) s

/-- The instruction at a split's PC. Inline words lie inside the block (R21, R40); one that does not translate is a fetch fault. -/
def State.fetched (s : State) (r : SRef) : Fetched :=
  match s.cohort? r.c, s.split? r, s.grid? r.c.b.grid with
  | some c, some p, some g =>
    if (s.fetchMiss r).isSome || (s.fetchLine r).isSome then .gone
    else if p.entering then .fault
    else
      match s.codeWord c.core g p.mode p.pc with
      | .error _ => .fault
      | .ok w =>
        let n := inlineCount (opcodeField w).toNat
        let room := if p.blkEnd == 0 then n else ((p.blkEnd - p.pc).toNat / 8) - 1
        if room < n then .bad w
        else
          let ws := s.fetchWords c.core g p.mode (p.pc + 8) n
          if ws.length < n then .fault
          else
            match decode (w :: ws) with
            | .ok (i, _) => .instr i ((hdr? i).getD (hdrField w))
            | .error _ => .bad w
  | _, _, _ => .gone

/-! ### Ready splits and cohorts (R179) -/

/-- Is the split kept back by YIELD (R99)? -/
def Split.yields (p : Split) (cycle : Nat) : Bool :=
  match p.yieldUntil with
  | some t => decide (cycle < t) && !p.yieldFor.isEmpty
  | none => false

/-- Does an issued write of the split's lanes wait for an acknowledgement of a packet, since it would close a 65th (R336)? -/
def State.heldByPackets (s : State) (r : SRef) (p : Split) : Bool :=
  (s.scratchWrites r.c.b).any fun a => a.c == r.c && (lanesOf p.lanes).any a.hasLane && s.clear a && s.overflows r.c.b a.offsets

def State.splitReady (s : State) (r : SRef) : Bool :=
  match s.grid? r.c.b.grid, s.block? r.c.b, s.cohort? r.c, s.split? r with
  | some g, some b, some c, some p =>
    !p.yields s.cycle && p.hold.isNone && !s.heldByPackets r p &&
      (match s.fetched r with
       | .gone => false
       | .fault => canIssue s g b c { p with entering := false } ⟨0, 0, 15, 7⟩
       | .bad w => canIssue s g b c p (hdrField w)
       | .instr _ h => canIssue s g b c p h)
  | _, _, _, _ => false

/-- Ready splits of a cohort. -/
def State.readySplits (s : State) (cr : CRef) : List Split :=
  match s.cohort? cr with
  | some c => c.splits.filter fun p => s.splitReady ⟨cr, p.id⟩
  | none => []

/-- Does an instruction belong to the vector-ALU class (R180)? -/
def vectorAlu (i : Instr) : Bool := cls i != .v && (shape i).dsts.all fun d => !isUni d.1

def State.isVectorAlu (s : State) (r : SRef) : Bool :=
  match s.fetched r with
  | .instr i _ => vectorAlu i
  | _ => false

/-- The more populous of two splits; a tie goes to the lower lowest lane. -/
def morePopulous (p q : Split) : Bool :=
  decide (population q.lanes < population p.lanes) ||
    (population p.lanes == population q.lanes && decide (lowest p.lanes < lowest q.lanes))

/-- The lowest lane that will execute a split's next instruction: where it raises, it raises in every executing lane. -/
def State.firstLane (s : State) (r : SRef) : Nat :=
  match s.cohort? r.c, s.split? r, s.fetched r with
  | some c, some p, .instr _ h => lowest (guardMask ((c.noteWaited p.lanes h.wait).commitWhere p.lanes (visibleAt (p.dist + gapOf h) h.wait))
      p.lanes h.guard)
  | _, _, _ => 64

/-- S1 and, where both are vector-ALU class, S2 (R180). Of two, the one with the lower lowest executing lane comes first, so that traps that
both raise are entered in that order (R382). -/
def State.choosePair (s : State) (cr : CRef) : List SRef :=
  let ready := s.readySplits cr
  let starved := ready.filter (·.starved)
  match (if starved.isEmpty then pickBy morePopulous ready
         else pickBy (fun p q => decide (lowest p.lanes < lowest q.lanes)) starved) with
  | none => []
  | some p =>
    match pickBy morePopulous (ready.filter fun q => q.id != p.id) with
    | none => [⟨cr, p.id⟩]
    | some q =>
      if s.isVectorAlu ⟨cr, p.id⟩ && s.isVectorAlu ⟨cr, q.id⟩ then
        (if s.firstLane ⟨cr, q.id⟩ < s.firstLane ⟨cr, p.id⟩ then [⟨cr, q.id⟩, ⟨cr, p.id⟩] else [⟨cr, p.id⟩, ⟨cr, q.id⟩])
      else [⟨cr, p.id⟩]

def State.cohortReady (s : State) (cr : CRef) : Bool := !(s.readySplits cr).isEmpty

/-- A candidate of a quadrant: its cohort, priority, age and slot, and whether it is promoted. -/
structure Candidate where
  cr : CRef
  prio : Nat
  age : Nat
  slot : Nat
  promoted : Bool

/-- The cohorts of a quadrant. -/
def State.cohortsOn (s : State) (core quad : Nat) : List Candidate :=
  s.blocks.flatMap fun b =>
    if b.st == .saved || b.st == .restoring then []
    else
      let prio := ((s.grid? b.ref.grid).map Grid.prio).getD 0
      (b.cohorts.filter fun c => c.core == core && c.quad == quad).map fun c => ⟨⟨b.ref, c.id⟩, prio, c.age, c.slot, c.promoted⟩

/-- R180: highest priority, then promoted, then age, then slot. -/
def Candidate.before (a b : Candidate) : Bool :=
  decide (b.prio < a.prio) || (a.prio == b.prio && ((a.promoted && !b.promoted) || (a.promoted == b.promoted &&
    (decide (a.age < b.age) || (a.age == b.age && decide (a.slot < b.slot))))))

def State.chooseCohort (s : State) (core quad : Nat) : Option CRef :=
  (pickBy Candidate.before ((s.cohortsOn core quad).filter fun k => s.cohortReady k.cr)).map (·.cr)

/-- Is the vector unit free for another choice in this cycle? -/
def State.quadFree (s : State) (core quad : Nat) : Bool :=
  let k := s.core core
  s.selected.isEmpty && decide (tget 0 k.busy quad ≤ s.cycle) && decide (tget 0 k.chose quad ≤ s.cycle) && k.power == .on

/-- Passes of an issue (R181). -/
def State.passes (s : State) (core quad w : Nat) : Nat := w / 32 * max 1 (s.grade core quad)

def Block.withCohorts (b : Block) (cs : List Cohort) : Block := { b with cohorts := cs }
def Cohort.mapSplits (c : Cohort) (f : Split → Split) : Cohort := { c with splits := c.splits.map f }

/-- ISSUE_SELECT (R180, R181): the stage chooses a cohort and one or two of its ready splits. -/
def execIssueSelect (core quad : Nat) (s : State) : Host.Outcome State Fault Refusal :=
  if !s.quadFree core quad then .next s
  else
    match s.chooseCohort core quad with
    | none => .next s
    | some cr =>
      let chosen := s.choosePair cr
      let ready := (s.readySplits cr).map (·.id)
      let slot := ((s.cohort? cr).map (·.slot)).getD 0
      let w := ((s.grid? cr.b.grid).map Grid.width).getD 32
      let s := s.modCore core fun k =>
        { k with busy := tput 0 quad (s.cycle + s.passes core quad w) k.busy, chose := tput 0 quad (s.cycle + 1) k.chose }
      let heard (c : Cohort) : Cohort :=
        if c.core == core && c.quad == quad then
          c.mapSplits fun p => { p with yieldFor := p.yieldFor.filter fun k => k != slot }
        else c
      let s := { s with selected := chosen, blocks := s.blocks.map fun (b : Block) => b.withCohorts (b.cohorts.map heard) }
      .next (s.modCohort cr fun c =>
        let d := c.mapSplits fun p => { p with passed := if ready.contains p.id then p.passed + 1 else p.passed }
        { d with promoted := false, readySince := none })

/-- COHORT_PROMOTION (R180): ready for 64 cycles without being chosen. -/
def promotionDue (s : State) (cr : CRef) : Bool :=
  match s.cohort? cr with
  | some c => !c.promoted && s.cohortReady cr && (match c.readySince with | some t => decide (t + 64 ≤ s.cycle) | none => false)
  | none => false

def execCohortPromotion (s : State) : Host.Outcome State Fault Refusal :=
  let promote (b : Block) (c : Cohort) : Cohort := { c with promoted := c.promoted || promotionDue s ⟨b.ref, c.id⟩ }
  .next { s with blocks := s.blocks.map fun (b : Block) => b.withCohorts (b.cohorts.map (promote b)) }

/-- SPLIT_STARVATION (R180): ready and passed over in eight choices of its cohort. -/
def starvationDue (s : State) (r : SRef) : Bool :=
  match s.split? r with
  | some p => !p.starved && decide (8 ≤ p.passed) && s.splitReady r
  | none => false

def execSplitStarvation (s : State) : Host.Outcome State Fault Refusal :=
  let starve (b : Block) (c : Cohort) : Cohort :=
    c.mapSplits fun p => { p with starved := p.starved || starvationDue s ⟨⟨b.ref, c.id⟩, p.id⟩ }
  .next { s with blocks := s.blocks.map fun (b : Block) => b.withCohorts (b.cohorts.map (starve b)) }

/-- YIELD_EXPIRY (R99): 64 cycles have passed, or every cohort that was ready has had an issue slot. -/
def yieldDue (s : State) (r : SRef) : Bool :=
  match s.split? r with
  | some p => p.yieldUntil.isSome && !p.yields s.cycle
  | none => false

def execYieldExpiry (s : State) : Host.Outcome State Fault Refusal :=
  let wake (b : Block) (c : Cohort) : Cohort :=
    c.mapSplits fun p => if yieldDue s ⟨⟨b.ref, c.id⟩, p.id⟩ then { p with yieldUntil := none, yieldFor := [] } else p
  .next { s with blocks := s.blocks.map fun (b : Block) => b.withCohorts (b.cohorts.map (wake b)) }

/-- The passing of a cycle: grids with an ending stop (R361), fetches ask for the lines that they miss (R375), and what has been ready
since when (R180). -/
def State.tick (s : State) : State :=
  let t := s.closeGrids
  let s := { t with cycle := t.cycle + 1 }.askFetches
  { s with blocks := s.blocks.map fun b => { b with cohorts := b.cohorts.map fun c =>
      { c with readySince := if s.cohortReady ⟨b.ref, c.id⟩ then some (c.readySince.getD s.cycle) else none } } }

/-! ### The end of an instruction (R29) -/

/-- Has the latency of a class A or class B instruction ended? -/
def Issued.latencyOver (i : Issued) (cycle : Nat) : Bool :=
  match i.fin with
  | .latency due => decide (due ≤ cycle)
  | .narrow due _ => decide (due ≤ cycle)
  | _ => false

/-- The flag of one such instruction falls, and its saturations are counted (R127). -/
def State.endLatency (s : State) (i : Issued) : State :=
  let n := match i.fin with | .narrow _ n => n | _ => 0
  (s.modCohort i.c fun c => { c with ovf := BitVec.ofNat 32 (min 0xFFFFFFFF (c.ovf.toNat + n)) }).finishIssue i.uid

/-- CLASS_LATENCY_END (R29, R127), for every instruction whose latency ends. -/
def execClassLatencyEnd (s : State) : Host.Outcome State Fault Refusal :=
  .next ((s.issued.filter fun i => i.latencyOver s.cycle).foldl State.endLatency s)

/-- Are these accesses performed? -/
def State.allDone (s : State) (accs : List Nat) : Bool :=
  accs.all fun id => s.flight.all fun a => a.id != id || a.isFixed

/-- Has a TLBI removed what it removes, and has nothing under way any more that used it (R360)? -/
def State.shotDown (s : State) (accs : List Nat) (copies : List (Nat × Nat)) (walks : List Nat) : Bool :=
  s.allDone accs && (walks.all fun w => s.walks.all fun q => q.id != w || q.failed) &&
    copies.all fun q => s.copies.all fun o => o.id != q.1 ||
      ([o.pages.1, o.pages.2].filterMap id).all fun e => e.vbase != q.2

/-- The splits that a TLBI or a PWRITE holds until it ends go on (R354, R360). -/
def State.freeHeld (s : State) (uid : Nat) : State :=
  (s.allSplits.filter fun r =>
    match (s.split? r).bind (·.hold) with
    | some h => h.uid == uid && (match h.kind with | .tlbi => true | .pwrite => true | _ => false)
    | none => false).foldl (fun s r => s.release r 0) s

/-- CLASS_V_COMPLETION (R29): a class V instruction whose work is done lowers its flag; a fence or a TLBI when the accesses it
waits for are performed (R205, R360), a PWRITE when it has taken effect (R354). -/
def execClassVCompletion (uid : Nat) (s : State) : Host.Outcome State Fault Refusal :=
  match s.issued.find? fun i => i.uid == uid with
  | some i =>
    match i.fin with
    | .complete => .next ((s.finishIssue uid).freeHeld uid)
    | .fence accs => .next (if s.allDone accs then s.finishIssue uid else s)
    | .shootdown accs copies walks => .next (if s.shotDown accs copies walks then (s.finishIssue uid).freeHeld uid else s)
    | .priv n v hyper => .next (((s.privWrite i.c n v hyper).finishIssue uid).freeHeld uid)
    | _ => .next s
  | none => .next s

/-! ### Spawning (R188) -/

/-- Is any class V result still owed to these lanes? -/
def Cohort.owes (c : Cohort) (ls : Mask) : Bool :=
  c.pend.any fun p => p.due.isNone && !p.landed && p.lanes &&& ls != 0#64 && (match p.reg with | .uni _ => false | _ => true)

/-- May the split spawn now: has everything that its threads are owed been written, and is no access of theirs in flight (log 78)? So
the orders that a thread's accesses stand in never reach across its spawn, and no reply finds its lane gone (R188, R374). -/
def State.spawnReady (s : State) (r : SRef) : Bool :=
  match s.cohort? r.c, s.split? r with
  | some c, some p => p.spawn.isSome && p.hold.isNone && !c.owes p.lanes &&
      !s.flight.any fun a => a.c == r.c && (lanesOf p.lanes).any a.hasLane
  | _, _ => false

/-- The record of one thread (R188). -/
def spawnRecord (g : Grid) (c : Cohort) (p : Split) (live cycle l : Nat) : SpawnRec :=
  let n := if p.spawn == some true then g.vregs else min live g.vregs
  { tid := tget 0 c.tids l
    target := p.pc
    midBlock := if p.entering || p.parked.isSome then none else some (p.header, p.reconv)
    preds := (List.range 7).map fun k => (tget 0#64 c.preds k).getLsbD l
    regs := (List.range n).filterMap fun k => if c.vreg k l == 0 then none else some (k, c.vreg k l)
    saved := n
    core := c.core
    arrival := cycle }

/-- Bytes that a record takes, and the record of a block's thread as bytes (R188); the order of its fields is the model's (log 29). -/
def SpawnRec.size (r : SpawnRec) : Nat := 32 + 4 * r.saved
def SpawnRec.bytes (r : SpawnRec) (block : Nat) : List Byte :=
  leBytes 4 r.tid ++ leBytes 4 block ++ leBytes 8 r.target.toNat ++
    leBytes 16 ((r.preds.mapIdx fun i p => boolBit p i).foldl (· + ·) 0) ++
    (List.range r.saved).flatMap fun k => leBytes 4 (tget 0 r.regs k).toNat

/-- The records that formers and their stores keep: all but those in the images of saved blocks (R189, R389). -/
def State.keptRecords (s : State) : List (BRef × SpawnRec) :=
  (s.blocks.filter fun b => b.st != .saved).flatMap fun b => b.former.map fun r => (b.ref, r)

/-- Bytes in use in a core's spawn buffer (R189). -/
def State.bufferUse (s : State) (core : Nat) : Nat :=
  ((s.keptRecords.filter fun q => q.2.core == core && q.2.place.isNone).map fun q => q.2.size).sum

/-- Pieces in use of the spawn area of a grid's context: offset and bytes. -/
def State.areaUse (s : State) (g : Grid) : List (Nat × Nat) :=
  s.keptRecords.filterMap fun q => match s.grid? q.1.grid, q.2.place with
    | some h, some o => if h.part == g.part && h.regs.sparea == g.regs.sparea then some (o, q.2.size) else none
    | _, _ => none

/-- The lowest offset at which `n` bytes lie clear of the pieces in use. -/
def lowestGap (used : List (Nat × Nat)) (n : Nat) : Nat :=
  ((sortOn id (0 :: used.map fun u => u.1 + u.2)).find? fun o =>
    used.all fun u => decide (o + n ≤ u.1) || decide (u.1 + u.2 ≤ o)).getD 0

/-- Bytes written from a virtual address on by the hardware; a byte whose address does not translate is not written (log 80). -/
def State.areaWrite (s : State) (g : Grid) (owner : Option BRef) (va : Nat) (bytes : List Byte) : State :=
  (bytes.mapIdx fun i v => (va + i, v)).foldl (fun s q => match s.regXlate g .rd 0 q.1 with
    | .ok p => s.regWrite owner p.pa [q.2]
    | .error _ => s) s

/-- A record reaches the former of its core: it lies in the core's buffer of 64 KiB, or, where that is full, in the context's spawn area
in memory, at the lowest free offset (R189, log 80). -/
def State.storeRec (br : BRef) (s : State) (r : SpawnRec) : State :=
  match s.grid? br.grid with
  | none => s
  | some g =>
    if s.bufferUse r.core + r.size ≤ 65536 then s.modBlock br fun b => { b with former := b.former ++ [{ r with place := none }] }
    else
      let o := lowestGap (s.areaUse g) r.size
      (s.areaWrite g none (g.regs.sparea.toNat + o) (r.bytes br.block)).modBlock br fun b =>
        { b with former := b.former ++ [{ r with place := some o }] }

/-- The threads of a split leave their cohort as records of the former. -/
def State.spawnSplit (s : State) (r : SRef) : State :=
  match s.cohort? r.c, s.split? r, s.grid? r.c.b.grid with
  | some c0, some p, some g =>
    let c := (c0.commitWhere p.lanes fun q =>
      (q.due.isSome || q.landed) && (match q.reg with | .uni _ => false | _ => true)).dropOwed p.lanes
    let live := match s.codeWord c.core g p.mode p.pc with | .ok w => hdrLive w | .error _ => g.vregs
    let recs := (lanesOf p.lanes).map (spawnRecord g c p live s.cycle)
    let s := s.modCohort r.c fun _ =>
      { c with threads := c.threads &&& ~~~p.lanes, splits := c.splits.filter fun q => q.id != p.id }
    freeCohort ((recs.foldl (State.storeRec r.c.b) s).remerge r.c) r.c
  | _, _, _ => s

/-- What the writing of a split's spawn records asks the banks for: the walks of the part of the spawn area that they may take, where the
core's buffer has no room for all of them (R189). -/
def State.spawnReads (s : State) (r : SRef) : List Nat :=
  match s.cohort? r.c, s.split? r, s.grid? r.c.b.grid with
  | some c, some p, some g =>
    let n := population p.lanes * (32 + 4 * g.vregs)
    if s.bufferUse c.core + n ≤ 65536 then []
    else s.regWalks g g.regs.sparea.toNat ((s.areaUse g).foldl (fun m u => max m (u.1 + u.2)) 0 + n)
  | _, _, _ => []

/-- May the split spawn now, and do the banks serve what its records need? -/
def State.spawnGoes (s : State) (r : SRef) : Bool := s.spawnReady r && s.regReady (s.spawnReads r)

/-- SPAWN (R188). -/
def execSpawn (r : SRef) (s : State) : Host.Outcome State Fault Refusal :=
  .next (if s.spawnGoes r then (s.touchAll (s.spawnReads r)).spawnSplit r else s)

end Sys2Proof.Machine
end

