-- ==== Sys2Proof/Machine/Place.lean ====
section
/-! DEFINITION. The registrar's dispatch (R166-R178, R194): room on cores, the order of pending blocks, placement, marks,
pre-emption and rescue; the former's cohorts (R190, R191); retirement of blocks and grids (R98, R170). -/

namespace Sys2Proof.Machine

/-! ### Room (R164) -/

/-- The blocks that occupy a core. -/
def occupying (bs : List Block) (core : Nat) : List Block := bs.filter fun b => b.cores.contains core && b.st != .saved

def State.gridOf (s : State) (b : Block) : Grid := (s.grid? b.ref.grid).getD { id := 0 }

/-- What the blocks `bs` carry on a quadrant, with their reserves. A reserve that a cohort has taken counts as that cohort. -/
def State.quadUse (s : State) (bs : List Block) (core quad : Nat) : Load :=
  (occupying bs core).foldl (fun u b =>
    let g := s.gridOf b
    let n := (b.cohorts.filter fun c => c.core == core && c.quad == quad).length +
      (if b.reserveQuad == some (core, quad) && !b.cohorts.any (·.reserve) then 1 else 0)
    (u.1 + n, u.2.1 + n * vbytes g, u.2.2 + n * g.acc)) (0, 0, 0)

def threadsOn (bs : List Block) (core : Nat) : Nat :=
  (occupying bs core).foldl (fun t b => (b.cohorts.filter fun c => c.core == core).foldl (fun t c => t + population c.threads) t) 0

def State.scratchOn (s : State) (bs : List Block) (core : Nat) : Nat :=
  (occupying bs core).foldl (fun t b => t + (s.gridOf b).scratchBytes) 0

/-- Do cohorts (threads and quadrant) fit on a core, with a reserve on a quadrant of it? -/
def State.coreHolds (s : State) (bs : List Block) (g : Grid) (core : Nat) (cs : List (Nat × Nat)) (reserve : Option Nat) : Bool :=
  limitsHold g (threadsOn bs core) (s.scratchOn bs core) (s.quadUse bs core) cs reserve &&
    (g.acc == 0 || !s.arrayFailed core)

/-- How a block would lie on a core: the right core of a pair, the core and quadrant of its reserve, the threads already there,
and the blocks to save first. -/
structure Fit where
  right : Option Nat
  reserve : Nat × Nat
  threads : Nat
  saves : List BRef := []

/-- The right neighbour that pairs with a core (R163). -/
def State.pairOf (s : State) (core : Nat) : Option Nat :=
  match s.chart.rects[core / 65536]? with
  | some r => if core % 2 == 0 && decide (core % 256 + 1 < r.cols) then some (core + 1) else none
  | none => none

/-- R164: the fit of a block's cohorts (threads, quadrant, on the right core) on a core among the blocks `bs`. -/
def State.fitAt (s : State) (bs : List Block) (g : Grid) (cs : List (Nat × Nat × Bool)) (own : Option (Bool × Nat)) (core : Nat) :
    Option Fit :=
  let left := (cs.filter fun c => !c.2.2).map fun c => (c.1, c.2.1)
  let right := (cs.filter fun c => c.2.2).map fun c => (c.1, c.2.1)
  let t := threadsOn bs core
  if g.pair then
    match s.pairOf core with
    | none => none
    | some k =>
      match own with
      | some (r, q) =>
        if s.coreHolds bs g core left none && s.coreHolds bs g k right none then some ⟨some k, (if r then k else core, q), t, []⟩
        else none
      | none =>
        match [0, 1, 2, 3].find? fun q => s.coreHolds bs g core left (some q) && s.coreHolds bs g k right none with
        | some q => some ⟨some k, (core, q), t, []⟩
        | none =>
          ([0, 1, 2, 3].find? fun q => s.coreHolds bs g core left none && s.coreHolds bs g k right (some q)).map fun q =>
            ⟨some k, (k, q), t, []⟩
  else
    match own with
    | some (_, q) => if s.coreHolds bs g core left none then some ⟨none, (core, q), t, []⟩ else none
    | none => ([0, 1, 2, 3].find? fun q => s.coreHolds bs g core left (some q)).map fun q => ⟨none, (core, q), t, []⟩

/-! ### Pending blocks (R174, R175, R195) -/

/-- A pending block: the next of its grid, or a saved one. -/
structure Pending where
  grid : Grid
  saved : Option Block

/-- Has the producer of a depkind 1 grid ended with a nonzero status (R177)? -/
def State.producerFailed (s : State) (g : Grid) : Bool :=
  g.depkind == 1 &&
    (match g.producer.bind s.grid? with
     | some p => p.status != 0 && (p.st == .ended || p.st == .closing || p.st == .retired)
     | none => false)

/-- The first tile that the grid's next block needs, and their number (R177). -/
def Grid.tileSpan (g : Grid) : Nat × Nat :=
  let span := fld (g.word 2) 56 53
  (g.next / 2 ^ fld (g.word 2) 52 48 * (span + 1), span + 1)

/-- Are the flags of the grid's next block all nonzero (R177)? An array that cannot be read shows no flag (log 28). -/
def State.tilesReady (s : State) (g : Grid) : Bool :=
  g.depkind != 1 ||
    ((List.range g.tileSpan.2).all fun t =>
       match s.regXlate g .rd 0 ((g.word 6).toNat + 16 + 4 * (g.tileSpan.1 + t)) with
       | .ok p => !s.poisoned p.pa && leNat ((List.range 4).map fun i => s.readPhys (p.pa + i)) != 0
       | .error _ => false)

/-- TILE_FLAG_READ: the registrar reads the flags of the block at the head of the grid's order. -/
def State.readTiles (s : State) (g : Nat) : State :=
  match s.grid? g with
  | some gr =>
    if gr.depkind != 1 || gr.st != .running then s
    else
      let ok := s.tilesReady gr
      s.modGrid g fun x => { x with tiles := ok, waitFrom := if ok && !x.tiles then some s.ticks else x.waitFrom }
  | none => s

/-- What a reading of the flags of the grid's next block asks the banks for. -/
def State.tileReads (s : State) (g : Grid) : List Nat := s.regReads g ((g.word 6).toNat + 16 + 4 * g.tileSpan.1) (4 * g.tileSpan.2)

/-- The registrar asks for the flags of the grid's next block: it reads them at once where the banks answer at once, and else when they
come to it (R177, R249, R253, R258). -/
def State.askTiles (s : State) (id : Nat) : State :=
  match s.grid? id with
  | none => s
  | some g =>
    if g.depkind != 1 || g.st != .running || s.flight.any (fun a => a.op == .tiles id) then s
    else
      let pas := s.tileReads g
      if s.regReady pas then (s.touchAll pas).readTiles id
      else s.launchAccess { id := 0, uid := 0, c := ⟨⟨0, 0⟩, 0⟩, core := 0, lane := 0, op := .tiles id, scratch := false, va := 0
                            pa := pas.getLast?.getD 0, size := 4, scope := 3 }

/-- The block order by which saved blocks stand (R174, R195). -/
def sortSaved (bs : List Block) : List Block :=
  bs.foldl (fun l b => (l.takeWhile fun c => c.saveOrder ≤ b.saveOrder) ++ [b] ++ (l.dropWhile fun c => c.saveOrder ≤ b.saveOrder)) []

/-- The pending blocks of a grid that may be placed next, in their order: blocks that were pre-empted (R174), the next block that
has not been dispatched (R171), and blocks that a rescue saved: of those the one saved first alone, since they return in the order in
which they were saved (R195). Of the others, one that fits nowhere does not hold back the rest (R175). -/
def State.pendingOf (s : State) (g : Grid) : List Pending :=
  if g.st != .running then []
  else
    let saved := s.blocks.filter fun b => b.ref.grid == g.id && b.st == .saved
    let pre := sortSaved (saved.filter fun b => !b.rescued)
    let res := sortSaved (saved.filter (·.rescued))
    let next := decide (g.next < g.blockCount) && (g.depkind != 1 || g.tiles) && !s.producerFailed g
    pre.map (fun b => ⟨g, some b⟩) ++ (if next then [⟨g, none⟩] else []) ++ (res.take 1).map (fun b => ⟨g, some b⟩)

/-- The index of a pending block in its grid. -/
def Pending.index (p : Pending) : Nat :=
  match p.saved with
  | some b => b.ref.block
  | none => p.grid.next

/-- Since when a pending block waits (R173): a saved block since its save ended, the others since their grid came to be dispatched. -/
def Pending.since (p : Pending) : Option Nat :=
  match p.saved with
  | some b => b.waitSince
  | none => p.grid.waitFrom

/-- R171, R175: priority, age, identifier. -/
def Grid.before (a b : Grid) : Bool :=
  decide (b.prio < a.prio) || (a.prio == b.prio && (decide (a.age < b.age) || (a.age == b.age && decide (a.id < b.id))))

def sortGrids (gs : List Grid) : List Grid :=
  gs.foldl (fun l g => (l.takeWhile fun h => Grid.before h g) ++ [g] ++ (l.dropWhile fun h => Grid.before h g)) []

/-- Every pending block that may be placed next, in the order in which the registrar considers them. -/
def State.pendingAll (s : State) : List Pending := (sortGrids s.grids).flatMap s.pendingOf

/-- Splits beyond the cap are to spawn (R394); a table holds at most eight. -/
def capAll (cap : Nat) : Nat → Cohort → Cohort
  | 0, c => c
  | n + 1, c =>
    match c.cap cap with
    | some d => if d.liveSplits ≤ cap then d else capAll cap n d
    | none => c

/-- The splits of a restored cohort that spawn at the restore: one that a wait holds spawns when it is over (R188). -/
def Cohort.leaving (c : Cohort) : List Split := c.splits.filter fun p => p.isSpawning && p.hold.isNone

/-- The cohort without the threads of the splits that leave it. -/
def Cohort.withoutLeaving (c : Cohort) : Cohort :=
  { c with threads := c.threads &&& ~~~(c.leaving.foldl (fun m p => m ||| p.lanes) 0#64)
           splits := c.splits.filter fun p => !(p.isSpawning && p.hold.isNone) }

/-- The cohorts of a saved block as they stand after R394, under the cap of its partition. -/
def State.afterSpawns (s : State) (p : Pending) (b : Block) : List Cohort :=
  (b.cohorts.map fun c => (capAll (s.part p.grid.part).scap 8 c).withoutLeaving).filter fun c => c.threads != 0#64

/-- The cohorts that a pending block brings. -/
def State.cohortsOf (s : State) (p : Pending) : List (Nat × Nat × Bool) :=
  match p.saved with
  | none => newCohorts p.grid
  | some b => (s.afterSpawns p b).map fun c => (population c.threads, c.quad, b.core2 == some c.core)

/-- Publisher entries that the blocks `bs` hold on a core. -/
def State.entriesOn (s : State) (bs : List Block) (core : Nat) : Nat :=
  ((s.core core).subs.filter fun e => bs.any fun b => b.ref == e.pub).length

/-- Barrier records that the blocks `bs` occupy on a core (R430). -/
def recordsOn (bs : List Block) (core : Nat) : Nat :=
  (((occupying bs core).filter fun b => b.core == core).map fun b => (b.barriers.filter fun p => p.2.arrived != 0).length).sum

/-- R393, R394: what a restore among the blocks `bs` needs beyond R164. -/
def State.restoreRoom (s : State) (bs : List Block) (p : Pending) (core : Nat) : Bool :=
  match p.saved with
  | none => true
  | some b =>
    let right := (s.pairOf core).getD core
    let half (r : Bool) : Nat := (b.entries.filter fun e => decide (524288 ≤ e.puboff) == r).length
    decide (s.entriesOn bs core + half false ≤ 16) && decide (s.entriesOn bs right + half true ≤ 16) &&
      decide (recordsOn bs core + (b.barriers.filter fun k => k.2.arrived != 0).length ≤ 32) &&
      b.cohorts.all fun c => decide ((capAll (s.part p.grid.part).scap 8 c).liveSplits ≤ (s.part p.grid.part).scap)

/-- The fit of a pending block on a core among the blocks `bs`. -/
def State.fitPending (s : State) (bs : List Block) (p : Pending) (core : Nat) : Option Fit :=
  let own : Option (Bool × Nat) :=
    p.saved.bind fun b => (b.cohorts.find? (·.reserve)).map fun c => (b.core2 == some c.core, c.quad)
  if s.restoreRoom bs p core then s.fitAt bs p.grid (s.cohortsOf p) own core else none

/-! ### Ranking cores (R172) -/

/-- Names of all enabled cores. -/
def State.coreNames (s : State) : List Nat :=
  (List.range s.chart.rects.length).flatMap fun i =>
    match s.chart.rects[i]? with
    | some r => (List.range r.rows).flatMap fun y => (List.range r.cols).map fun x => i * 65536 + y * 256 + x
    | none => []

/-- The largest issue-rate grade of a core's quadrants. -/
def State.worstGrade (s : State) (core : Nat) : Nat := [0, 1, 2, 3].foldl (fun m q => max m (s.grade core q)) 1

def State.weight (s : State) (core : Nat) : Rat := 1 / (s.worstGrade core : Rat)

def hops (d e : Nat) : Nat :=
  let diff (a b : Nat) : Nat := max a b - min a b
  4 * (diff (d / 12) (e / 12) + diff (d % 12) (e % 12))

/-- The target domain of a grid's blocks (R172, R178). -/
def State.targetOf (s : State) (g : Grid) : Option Nat :=
  match g.hrmode with
  | 1 => some (g.word 3).toNat
  | 2 =>
    let a := fld (g.word 3) 50 0
    match s.walkFull (s.part g.part) g.regs.ptb a with
    | .ok e =>
      let pa := e.place a
      if paRegion pa ≤ 1 then some (paDomain pa) else none
    | .error _ => none
  | _ => g.target

/-- R172: the choice among cores with their fits. -/
def State.rankCores (s : State) (target : Option Nat) (fits : List (Nat × Fit)) : Option (Nat × Fit) :=
  let room (d : Nat) : Rat := (fits.filter fun f => s.coreDomain f.1 == d).foldl (fun t f => t + s.weight f.1) 0
  let ds := (fits.map fun f => s.coreDomain f.1).dedup
  let d : Option Nat :=
    match target with
    | some t =>
      if ds.contains t then some t
      else pickBy (fun a b => decide (hops t a < hops t b) || (hops t a == hops t b &&
        (decide (room b < room a) || (room a == room b && decide (a < b))))) ds
    | none => pickBy (fun a b => decide (room b < room a) || (room a == room b && decide (a < b))) ds
  match d with
  | none => none
  | some d =>
    pickBy (fun a b =>
      decide (s.weight b.1 < s.weight a.1) || (s.weight a.1 == s.weight b.1 &&
        (decide (a.2.threads < b.2.threads) || (a.2.threads == b.2.threads && decide (a.1 < b.1)))))
      (fits.filter fun f => s.coreDomain f.1 == d)

/-- The cores that a block of a grid occupies from `core` on: the left one, and the right one of a pair (R163). -/
def State.spanOf (s : State) (g : Grid) (core : Nat) : List Nat := core :: (if g.pair then (s.pairOf core).toList else [])

/-- Does the mark of grid `g` bar the pending block: is the block that it stands for older, or the mark kept by a rescue? -/
def State.markBars (s : State) (g : Grid) (m : Mark) (p : Pending) : Bool :=
  if g.id == p.grid.id then
    p.index != m.block && (m.kept || ((s.pendingOf g).takeWhile fun q => q.index != p.index).any fun q => q.index == m.block)
  else m.kept || Grid.before g p.grid

/-- R173: is a core that the block would occupy marked for an older block? -/
def State.markedFor (s : State) (p : Pending) (core : Nat) : Bool :=
  s.grids.any fun g => g.st == .running && (match g.mark with
    | some m => s.markBars g m p && (s.spanOf g m.core).any (s.spanOf p.grid core).contains
    | none => false)

/-- The core that a rescue keeps for the pending block (R194 step 5). -/
def State.keptFor (s : State) (p : Pending) : Option Nat :=
  (s.grid? p.grid.id).bind fun g => g.mark.bind fun m => if m.kept && m.block == p.index then some m.core else none

/-- The core that R172 chooses for a pending block among the blocks `bs`, or the core that a rescue keeps for it. DESIGN CHOICE
(log 73): a core that is marked for an older block is not a core with room, and adds none to its domain's. -/
def State.coreFor (s : State) (bs : List Block) (p : Pending) : Option (Nat × Fit) :=
  match (s.keptFor p).bind fun k => (s.fitPending bs p k).map fun f => (k, f) with
  | some c => some c
  | none =>
    s.rankCores (s.targetOf p.grid) (s.coreNames.filterMap fun k =>
      if s.markedFor p k then none else (s.fitPending bs p k).map fun f => (k, f))

/-- The pending block that is placed next, with its core (R175). -/
def State.choosePlacement (s : State) : Option (Pending × Nat × Fit) :=
  s.pendingAll.findSome? fun p => (s.coreFor s.blocks p).map fun c => (p, c)

/-! ### Dispatch -/

/-- Steps 6 and 7 of R166, and the start of the grid. -/
def State.release2 (s : State) (g : Grid) : State :=
  let producer := match s.grid? (g.word 6).toNat with | some p => p.status | none => 0
  if g.depkind == 2 && producer != 0 then s.retireGrid g 0x1D
  else if !s.weightsReady g then s.retireGrid g 0x19
  else (s.modGrid g.id fun x => { x with st := .running, waitFrom := some s.ticks }).askTiles g.id

/-- Has the previous launch of its stream retired (R167)? -/
def State.streamFree (s : State) (g : Grid) : Bool :=
  s.grids.all fun h => h.poster != g.poster || h.stream != g.stream || decide (g.id ≤ h.id) || h.st == .retired

/-- May the launch enter dispatch (R167)? The task queues of a domain are served in the order in which their records were accepted
(R178): a child comes after every older child of its domain that may enter too (log 74). -/
def State.mayEnter (s : State) (g : Grid) : Bool :=
  g.st == .queued && s.streamFree g &&
    (g.parent.isNone || s.grids.all fun h =>
      h.parent.isNone || h.st != .queued || h.target != g.target || decide (g.id ≤ h.id) || !s.streamFree h)

/-- Has the producer that a depkind 2 grid names retired? One that the registrar does not know counts as retired (R176). -/
def State.producerDone (s : State) (g : Grid) : Bool :=
  g.depkind != 2 || (match s.grid? (g.word 6).toNat with
    | some p => p.st == .retired
    | none => true)

/-- May a grid in dispatch go on: has its producer retired, and do the banks serve the look-up of its weights (R169, R176)? -/
def State.releases (s : State) (g : Grid) : Bool := g.st == .awaiting && s.producerDone g && s.regReady (s.rangeReads g)

/-- Its look-up of steps 6 and 7. -/
def State.releaseNow (s : State) (g : Grid) : State := (s.touchAll (s.rangeReads g)).release2 g

/-- Consumers whose producer has retired go on, up to `n` of them; one that completes there may release others (R176). -/
def State.releaseConsumers : Nat → State → State
  | 0, s => s
  | n + 1, s =>
    match s.grids.find? s.releases with
    | none => s
    | some h => State.releaseConsumers n (s.releaseNow h)

/-- Every consumer whose producer has retired goes on. -/
def State.releaseAll (s : State) : State := s.releaseConsumers s.grids.length

/-- May the launch enter dispatch now, where the banks serve the registrar's reads (R240, R249, R253, R258)? -/
def State.enters (s : State) (g : Grid) : Bool := s.mayEnter g && s.regReady (s.launchReads g)

/-- DISPATCH_ENTRY (R166, R167, R171, R176): a launch enters dispatch, or one that waits there goes on. -/
def dispatchEntry (id : Nat) (s : State) : State :=
  match s.grid? id with
  | none => s
  | some g =>
    if s.releases g then (s.releaseNow g).releaseAll
    else if !s.enters g then s
    else
      let s := (s.touchAll (s.launchReads g)).modGrid id fun x => { x with age := s.ticks }
      match s.launchChecks { g with age := s.ticks } with
      | .error c => (s.retireGrid { g with age := s.ticks } c).releaseAll
      | .ok g =>
        let s := s.modGrid id fun x => { x with desc := g.desc, header := g.header, ranges := g.ranges, producer := g.producer, st := .awaiting }
        s.releaseAll

/-- Slots in use on a core. -/
def slotsUsed (bs : List Block) (core : Nat) : List Nat :=
  (occupying bs core).flatMap fun b => (b.cohorts.filter fun c => c.core == core).map (·.slot)

/-- The lowest free slot of a quadrant (R162). -/
def freeSlot (used : List Nat) (quad : Nat) : Nat :=
  ((List.range 16).find? fun i => !used.contains (4 * i + quad)).getD 0 * 4 + quad

/-- A core that comes to hold a block asks to be woken where it is gated (R426). -/
def State.occupy (s : State) (core : Nat) : State :=
  let gated := (s.core core).power == .gated
  let s := s.modCore core fun k => { k with idleSince := none }
  if gated then s.modDom (s.coreDomain core) fun d =>
    if d.wakes.contains (.core core) then d else { d with wakes := d.wakes ++ [.core core] }
  else s

/-- A core that no block occupies any more is idle from now on (R425). -/
def State.vacate (s : State) (core : Nat) : State :=
  if (occupying s.blocks core).isEmpty then s.modCore core fun k => { k with idleSince := some s.ticks } else s

/-- The cohorts of a newly dispatched block (R162, R182, R183). -/
def formCohorts (s : State) (g : Grid) (core : Nat) (right : Option Nat) (entry : DWord) : List Cohort :=
  let out := (newCohorts g).foldl (fun (acc : List Cohort × Nat) c =>
    let k := if c.2.2 then right.getD core else core
    let used := slotsUsed s.blocks k ++ (acc.1.filter fun d => d.core == k).map (·.slot)
    let lanes := maskOf (List.range c.1)
    let sp : Split := { id := s.fresh + acc.2, pc := g.entry + 16, lanes := lanes, reconv := reconvOf g.entry entry, header := g.entry,
                        join := lanes, blkEnd := g.entry + BitVec.ofNat 64 (8 * (1 + hdrLength entry)),
                        blkReconv := reconvOf g.entry entry }
    (acc.1 ++ [{ id := acc.2 + 1, core := k, slot := freeSlot used c.2.1, quad := c.2.1, age := s.ticks, threads := lanes,
                 tids := tputs 0 ((List.range c.1).map fun l => (l, acc.2 * g.width + l)) [], splits := [sp] }], acc.2 + 1)) ([], 0)
  out.1

/-- The lowest checkpoint slot that no running block of the grid holds (R399). -/
def State.freeCkSlot (s : State) (g : Nat) : Nat :=
  let used := (s.blocks.filter fun b => b.ref.grid == g).map (·.ckSlot)
  ((List.range (used.length + 1)).find? fun k => !used.contains k).getD 0

/-- A pending block has been placed: a mark that stood for it goes (R173). -/
def Grid.placed (g : Grid) (index : Nat) : Grid :=
  { g with mark := if g.mark.map (·.block) == some index then none else g.mark }

/-- The grid's next block is dispatched on a core (R171, R183). -/
def State.dispatchBlock (s : State) (g : Grid) (core : Nat) (f : Fit) : State :=
  let cs := formCohorts s g core f.right g.header
  let b : Block := { ref := ⟨g.id, g.next⟩, core := core, core2 := f.right, cohorts := cs, reserveQuad := some f.reserve,
                     ckSlot := s.freeCkSlot g.id, nextCohort := cs.length + 1 }
  let s := { s with blocks := s.blocks ++ [b], fresh := s.fresh + cs.length }
  let s := (s.modGrid g.id fun x => { x.placed g.next with next := x.next + 1, tiles := false }).askTiles g.id
  b.cores.foldl State.occupy s

/-- A saved block for which no core of the module is compatible (R393, R394). -/
def State.incompatible (s : State) : Option Block :=
  s.blocks.find? fun b =>
    match s.grid? b.ref.grid with
    | some g => b.st == .saved && g.st == .running && g.endings.isEmpty && s.coreNames.all fun k => (s.fitPending [] ⟨g, some b⟩ k).isNone
    | none => false

/-- What the placing of a pending block asks the banks for: the walk of its grid's homeroom address (R172), and the subscription records of
a save image (R331, R332). -/
def State.placeReads (s : State) (p : Pending) : List Nat :=
  (if p.grid.hrmode == 2 then s.regWalks p.grid (fld (p.grid.word 3) 50 0) 1 else []) ++
    (match p.saved with | some b => s.regReads p.grid (b.image.toNat + 0x300) 0x300 | none => [])

/-- The pending block that is placed next, where the banks serve what its placing reads. -/
def State.placement (s : State) : Option (Pending × Nat × Fit) :=
  s.choosePlacement.bind fun q => if s.regReady (s.placeReads q.1) then some q else none

/-- BLOCK_PLACEMENT (R172-R175): the first pending block that fits is dispatched, when it is not a saved one. A grid with a saved
block that no core can take ends with 0x1A (R393). -/
def execBlockPlacement (s : State) : Host.Outcome State Fault Refusal :=
  match s.incompatible with
  | some b =>
    .next ((s.record (s.coreDomain b.core) 3 b.core (b.ref.grid + 2 ^ 64 * 0x1A)).endGrid b.ref.grid (b.ref.block, 0, 0) 0x1A)
  | none =>
    match s.placement with
    | some (p, core, f) => .next (if p.saved.isNone then (s.touchAll (s.placeReads p)).dispatchBlock p.grid core f else s)
    | none => .next s

/-- PLACEMENT_MARK (R173): the core that R172 would choose for the oldest pending block of a priority, if the block's own and lower
priorities held nothing, once it has waited 10,000 ticks. -/
def State.markFor (s : State) (g : Grid) : Option Mark :=
  match s.pendingAll.find? fun q => q.grid.prio == g.prio with
  | none => none
  | some p =>
    let due := match p.since with | some t => decide (t + 10000 ≤ s.ticks) | none => false
    let free := match g.mark with | some m => m.block != p.index && !m.kept | none => true
    if p.grid.id == g.id && free && due then
      (s.coreFor (s.blocks.filter fun b => decide (g.prio < (s.gridOf b).prio)) p).map fun c => ⟨c.1, p.index, false⟩
    else none

def execPlacementMark (id : Nat) (s : State) : Host.Outcome State Fault Refusal :=
  match s.grid? id with
  | some g =>
    match s.markFor g with
    | some m => .next (s.modGrid id fun x => { x with mark := some m })
    | none => .next s
  | none => .next s

/-! ### Pre-emption and rescue (R174, R194) -/

/-- Request saves. -/
def State.requestSaves (s : State) (bs : List BRef) (rescued : Option Nat) : State :=
  bs.foldl (fun s r => s.bump.modBlock r fun b =>
    if b.st == .resident then
      { b with st := .saving, saveOrder := s.fresh, rescued := rescued == some b.ref.grid, settledCk := false, image := 0 }
    else b) s

/-- The blocks to save: the shortest prefix of the candidates whose saving lets the block fit on the core. DESIGN CHOICE (log 72): R174
saves 'the fewest such blocks, lowest priority first and youngest first', and the model takes the blocks in that order until the
block fits, where a choice out of that order might need fewer. -/
def State.savesFor (s : State) (bs : List Block) (p : Pending) (core : Nat) (cands : List Block) : Option Fit :=
  ((List.range cands.length).map (· + 1)).findSome? fun n =>
    let gone := (cands.take n).map (·.ref)
    (s.fitPending (bs.filter fun b => !gone.contains b.ref) p core).map fun f => { f with saves := gone }

/-- The order of R174: lowest priority first, youngest first. -/
def State.savedFirst (s : State) (a b : Block) : Bool :=
  let g := s.gridOf a
  let h := s.gridOf b
  decide (g.prio < h.prio) || (g.prio == h.prio && (decide (h.age < g.age) || (h.age == g.age &&
    (decide (h.id < g.id) || (g.id == h.id && decide (b.ref.block < a.ref.block))))))

def sortBlocks (f : Block → Block → Bool) (bs : List Block) : List Block :=
  bs.foldl (fun l b => (l.takeWhile fun c => !f b c) ++ [b] ++ (l.dropWhile fun c => !f b c)) []

/-- The pending block that triggers pre-emption, with its core and the saves (R174). -/
def State.preempts (s : State) : Option (Pending × Nat × Fit) :=
  let staying := s.blocks.filter fun b => b.st != .saving
  s.pendingAll.findSome? fun p =>
    if (s.coreFor s.blocks p).isSome || (s.coreFor staying p).isSome then none
    else
      (s.rankCores (s.targetOf p.grid) (s.coreNames.filterMap fun k =>
        if s.markedFor p k then none
        else
          let here := s.spanOf p.grid k
          let cands := sortBlocks s.savedFirst (staying.filter fun b =>
            b.st == .resident && decide ((s.gridOf b).prio < p.grid.prio) && b.cores.any here.contains)
          (s.savesFor staying p k cands).map fun f => (k, f))).map fun c => (p, c)

/-- PREEMPTION (R174). -/
def execPreemption (s : State) : Host.Outcome State Fault Refusal :=
  match s.preempts with
  | some (_, _, f) => .next (s.requestSaves f.saves none)
  | none => .next s

/-- Does a hold make its split wait (R193, R314)? -/
def HoldKind.blocks : HoldKind → Bool
  | .bar _ _ => true
  | .barRecord _ _ _ => true
  | .barb _ => true
  | .queue _ => true
  | .waitm _ _ => true
  | .handle _ => true
  | .subsync _ _ => true
  | .latch => true
  | .latchFull => true
  | _ => false

/-- Can a lane of a QPUSH or QPOP that holds its split act now (R212)? -/
def State.queueMoves (s : State) (g : Grid) (b : Block) (r : SRef) (left : List (Nat × Nat × DWord)) : Bool :=
  match s.fetched r with
  | .instr (.qpush _) _ => left.any fun q => queueActs g b true q.2.1
  | .instr (.qpop _) _ => left.any fun q => queueActs g b false q.2.1
  | _ => false

/-- Is the split in a blocking wait (R193)? A QPUSH or QPOP that could act, and that packets alone hold back, is in none (R336). -/
def State.waits (s : State) (b : Block) (c : Cohort) (p : Split) : Bool :=
  match p.hold with
  | some h => h.kind.blocks && (match h.kind with
    | .queue left => !s.queueMoves (s.gridOf b) b ⟨⟨b.ref, c.id⟩, p.id⟩ left
    | _ => true)
  | none => false

/-- R193: is every thread of the block in a blocking wait? -/
def State.waiting (s : State) (b : Block) : Bool :=
  b.st == .resident && b.former.isEmpty && !b.cohorts.isEmpty &&
    b.cohorts.all fun c => c.splits.all (fun p => s.waits b c p || p.parked.isSome) && c.splits.any (s.waits b c)

/-- Is `d` the grid `g` or a descendant of it? Launch depth is at most 10. -/
def State.descends (s : State) (g : Nat) : Nat → Nat → Bool
  | 0, d => d == g
  | n + 1, d => d == g || (match (s.grid? d).bind (·.parent) with | some p => s.descends g n p | none => false)

/-- R194: is the grid stuck? A saved block counts as undispatched, since it is pending again (R174, R328). -/
def State.stuck (s : State) (g : Grid) : Bool :=
  let mine := s.blocks.filter fun b => b.ref.grid == g.id && (b.st == .resident || b.st == .checkpointing)
  !mine.isEmpty && mine.all s.waiting && s.grids.any fun h =>
    s.descends g.id 10 h.id && (h.st == .queued || h.st == .awaiting || (h.st == .running &&
      (decide (h.next < h.blockCount) || s.blocks.any fun b => b.ref.grid == h.id && b.st == .saved)))

/-- The tick at which the latest wait of a block's splits began. -/
def State.lastWait (s : State) (b : Block) : Nat :=
  s.wbase + (b.cohorts.flatMap fun c => c.splits.filterMap fun p => p.hold.map (·.since)).foldl max 0 * 10 / 21

/-- Since when blocks wait and grids are stuck: a block not since before its latest wait began, nor a grid since before its resident blocks
wait, so that a wait that was left and begun anew within a cycle counts from there (R194). -/
def State.noteWaits (s : State) : State :=
  let mark (b : Block) : Block :=
    if b.st == .saved then b
    else { b with waitSince := if s.waiting b then some (max (b.waitSince.getD s.ticks) (s.lastWait b)) else none }
  let s := { s with blocks := s.blocks.map mark }
  let last (g : Grid) : Nat := ((s.blocks.filter fun b => b.ref.grid == g.id && b.st != .saved).filterMap (·.waitSince)).foldl max 0
  let stuck (g : Grid) : Grid :=
    { g with stuckSince := if g.st == .running && s.stuck g then some (max (g.stuckSince.getD s.ticks) (last g)) else none }
  { s with grids := s.grids.map stuck }

def Grid.rescueDue (g : Grid) (ticks : Nat) : Bool :=
  match g.stuckSince with
  | some t => decide (t + 100000 ≤ ticks)
  | none => false

/-- DEADLOCK_RESCUE (R194). The core is kept by a mark for the oldest pending block of the grid and its descendants; a block that an
earlier rescue saved comes after the others (R195). -/
def execDeadlockRescue (id : Nat) (s : State) : Host.Outcome State Fault Refusal :=
  match s.grid? id with
  | none => .next s
  | some g =>
    if !(g.rescueDue s.ticks && s.stuck g) then .next s
    else
      let longest (a b : Block) : Bool := decide (a.waitSince.getD 0 < b.waitSince.getD 0)
      let mine := sortBlocks longest (s.blocks.filter fun b => b.ref.grid == id && s.waiting b)
      match mine with
      | [] => .next s
      | b :: _ =>
        let here := mine.filter fun c => c.cores.any b.cores.contains
        let others := sortBlocks (fun x y => s.savedFirst x y) (s.blocks.filter fun c =>
          c.ref.grid != id && c.st == .resident && c.cores.any b.cores.contains && decide ((s.gridOf c).prio ≤ g.prio))
        let young (x y : Block) : Bool :=
          decide ((s.gridOf y).age < (s.gridOf x).age) || ((s.gridOf y).age == (s.gridOf x).age && s.savedFirst x y)
        let cands := here ++ sortBlocks young others
        let s := s.modGrid id fun x => { x with stuckSince := some s.ticks }
        let pending := s.pendingAll.filter fun p => s.descends id 10 p.grid.id
        match (pending.find? fun p => !((p.saved.map (·.rescued)).getD false)).or pending.head? with
        | none => .next (s.requestSaves [b.ref] (some id))
        | some p =>
          let saves := match s.savesFor s.blocks p b.core cands with | some f => f.saves | none => cands.map (·.ref)
          .next ((s.requestSaves saves (some id)).modGrid p.grid.id fun x => { x with mark := some ⟨b.core, p.index, true⟩ })

/-! ### The former (R190, R191) -/

/-- Do two records share a key (R190)? DESIGN CHOICE (log 75): records of splits that were spawned inside a block, at one address but
under different headers or reconvergence headers, keep keys of their own. -/
def sameKey (a b : SpawnRec) : Bool := a.target == b.target && a.midBlock == b.midBlock

/-- The records of the former's next cohort of a key that begins with record `r`: W of them, or fewer after 256 cycles. -/
def formable (g : Grid) (b : Block) (cycle : Nat) (r : SpawnRec) : List SpawnRec :=
  let key := b.former.filter (sameKey r)
  let newest := key.foldl (fun m q => max m q.arrival) 0
  if decide (g.width ≤ key.length) || decide (newest + 256 ≤ cycle) then
    (key.foldl (fun l q => (l.takeWhile fun c => c.tid < q.tid) ++ [q] ++ (l.dropWhile fun c => c.tid < q.tid)) []).take g.width
  else []

/-- Where a reformed cohort of the block goes: core, quadrant and whether it takes the reserve (R190). DESIGN CHOICE (log 76): of a pair
block's two cores, the left one is tried before the right one. -/
def State.formPlace (s : State) (g : Grid) (b : Block) (threads : Nat) : Option (Nat × Nat × Bool) :=
  let open' (k q : Nat) : Bool :=
    let u := s.quadUse s.blocks k q
    decide (u.1 + 1 ≤ 16) && decide (u.2.1 + vbytes g ≤ 262144) && decide (u.2.2 + g.acc ≤ 32) &&
      decide (threadsOn s.blocks k + threads ≤ 2048)
  match b.cores.findSome? fun k => ([0, 1, 2, 3].find? (open' k)).map fun q => (k, q, false) with
  | some p => some p
  | none =>
    match b.reserveQuad with
    | some (k, q) => if b.cohorts.any (·.reserve) then none else some (k, q, true)
    | none => none

/-- A key of the block's former that can form now. -/
def State.formTarget (s : State) (b : Block) : Option (SpawnRec × List SpawnRec × Nat × Nat × Bool) :=
  match s.grid? b.ref.grid with
  | none => none
  | some g =>
    if b.st != .resident || g.st != .running then none
    else b.former.findSome? fun r =>
      let rs := formable g b s.cycle r
      if rs.isEmpty then none else (s.formPlace g b rs.length).map fun p => (r, rs, p)

/-- The cohort of some records (R191). -/
def reformed (b : Block) (rs : List SpawnRec) (r : SpawnRec) (core quad slot age uid : Nat) (res : Bool) : Cohort :=
  let idx := rs.mapIdx fun l q => (l, q)
  let lanes := maskOf (List.range rs.length)
  let hdr := (r.midBlock.map (·.1)).getD r.target
  { id := b.nextCohort, core := core, slot := slot, quad := quad, age := age, threads := lanes, reformed := true, reserve := res
    tids := tputs 0 (idx.map fun p => (p.1, p.2.tid)) []
    vregs := tputs 0 (idx.flatMap fun p => p.2.regs.map fun v => (64 * v.1 + p.1, v.2)) []
    preds := tputs 0#64 ((List.range 7).map fun k =>
      (k, maskOf ((idx.filter fun p => p.2.preds.getD k false).map (·.1)))) []
    splits := [{ id := uid, pc := r.target, lanes := lanes, join := lanes, header := hdr,
                 reconv := (r.midBlock.map (·.2)).getD 0, entering := r.midBlock.isNone
                 joined := if r.midBlock.isNone then some false else none }] }

/-- A split takes the bounds of its block from the header that it is in (R40, R184). -/
def State.loadBounds (s : State) (r : SRef) : State :=
  match s.cohort? r.c, s.split? r, s.grid? r.c.b.grid with
  | some c, some p, some g =>
    match s.codeWord c.core g p.mode p.header with
    | .ok w => if isHeader w then s.modSplit r fun p =>
        { p with blkEnd := p.header + BitVec.ofNat 64 (8 * (1 + hdrLength w)), blkReconv := reconvOf p.header w } else s
    | .error _ => s
  | _, _, _ => s

/-- COHORT_FORMATION (R190, R191). A header is entered without its spawn bit acting, since formation is no path of R39. -/
def execCohortFormation (br : BRef) (target : Nat) (s : State) : Host.Outcome State Fault Refusal :=
  match s.block? br with
  | none => .next s
  | some b =>
    match s.formTarget b with
    | none => .next s
    | some (r, rs, core, quad, res) =>
      if r.target.toNat != target then .next s
      else
        let slot := freeSlot (slotsUsed s.blocks core) quad
        let c := reformed b rs r core quad slot s.ticks s.fresh res
        let sr : SRef := ⟨⟨br, c.id⟩, s.fresh⟩
        let s := s.bump.modBlock br fun b =>
          { b with cohorts := b.cohorts ++ [c], nextCohort := b.nextCohort + 1, former := b.former.filter fun q => !rs.contains q }
        .next (if r.midBlock.isSome then s.loadBounds sr else s.enterHeader sr true)

/-! ### Retirement (R98, R170, R339) -/

/-- Is a write of a shared register still to take effect (R354)? -/
def Finish.isPriv : Finish → Bool
  | .priv _ _ _ => true
  | _ => false

/-- May the block retire (R98, R339, R396)? -/
def State.retireReady (s : State) (b : Block) : Bool :=
  match s.grid? b.ref.grid with
  | none => false
  | some g =>
    if g.st == .running then
      b.st == .resident && decide (g.ntid ≤ b.exited) && !s.blockBusy b.ref && (!g.ckpt || b.settledCk) &&
        s.allEntries.all fun e => e.2.pub != b.ref || (e.2.outstanding == 0 && e.2.chunk.isNone)
    else g.st == .ended && b.st != .saving && b.st != .restoring && !(s.flight.any fun a => a.c.b == b.ref && a.op.replies) &&
      !(s.begun.any fun q => q.b == b.ref) && !s.issued.any fun i => i.c.b == b.ref && i.fin.isPriv

/-- The SUBSCRIBE that a subscriber record stands for now. -/
def State.recId (s : State) (sub : BRef) (n : Nat) : Nat := ((s.block? sub).map fun b => (tget {} b.recs n).id).getD 0

/-- A block that retires tells its publishers and its subscribers, and its entries are freed (R339). -/
def State.sendRemovals (s : State) (b : Block) : State :=
  let s := b.recs.foldl (fun s r =>
    if r.2.state == 2 then
      let m : Notice := { id := s.fresh, kind := .removal, sub := b.ref, pub := ⟨b.ref.grid, r.2.pub⟩, n := r.1, rid := r.2.id }
      { s.bump with notices := s.notices ++ [m] }
    else s) s
  (s.allEntries.filter fun e => e.2.pub == b.ref).foldl (fun s e =>
    let m : Notice := { id := s.fresh, kind := .removed, sub := e.2.sub, pub := b.ref, n := e.2.n, rid := s.recId e.2.sub e.2.n }
    { (s.freeEntry e.2).bump with notices := s.notices ++ [m] }) s

/-- BLOCK_RETIRE (R98, R339): the block leaves its core. A block of a grid that has ended leaves it as soon as its loads and
atomics have completed, begun team instructions have retired and its writes of shared registers have taken effect. -/
def execBlockRetire (br : BRef) (s : State) : Host.Outcome State Fault Refusal :=
  match s.block? br with
  | none => .next s
  | some b =>
    if !s.retireReady b then .next s
    else
      let ended := ((s.grid? br.grid).map fun g => g.st == .ended).getD false
      let s := if ended then s else s.sendRemovals b
      let s := { s with blocks := s.blocks.filter fun c => c.ref != br
                        issued := s.issued.filter fun i => i.c.b != br
                        selected := s.selected.filter fun r => r.c.b != br
                        checkpoints := s.checkpoints.filter fun c => c.ref != br }
      .next (b.cores.foldl State.vacate (s.modGrid br.grid fun g => { g with retiredBlocks := g.retiredBlocks + 1 })).settleAll

/-- May the grid retire (R170)? -/
def State.gridDone (s : State) (g : Grid) : Bool :=
  (g.st == .running || g.st == .ended) && !(s.blocks.any fun b => b.ref.grid == g.id) &&
    (g.st == .ended || decide (g.blockCount ≤ g.next) || s.producerFailed g) &&
    !(s.flight.any fun a => a.c.b.grid == g.id || (match a.op with | .publish b => b.grid == g.id | _ => false)) &&
    s.grids.all fun h => h.parent != some g.id || h.st == .retired

/-- May it retire now, where the banks serve the walk of its status pointer? -/
def State.retires (s : State) (g : Grid) : Bool := s.gridDone g && s.regReady (s.statusReads g)

/-- GRID_RETIRE (R170, R176, R177): the status word is written, and consumers that waited for this producer go on. -/
def gridRetire (id : Nat) (s : State) : State :=
  match s.grid? id with
  | none => s
  | some g =>
    if !s.retires g then s
    else
      let status := if g.st == .running && s.producerFailed g then 0x1D else g.status
      ((s.touchAll (s.statusReads g)).retireGrid g status).releaseAll

end Sys2Proof.Machine
end

