-- ==== Sys2Proof/Machine/Preempt.lean ====
section
/-! DEFINITION. Block images (R391, R392), saves and restores (R388-R395), checkpoints (R396-R400), rollback and uncorrectable
errors (R321, R322, R401-R404). -/

namespace Sys2Proof.Machine

/-! ### The block image (R391, R392) -/

/-- A field of an image: offset, width in bytes, value. -/
abbrev Field := Nat × Nat × Nat

def at' (base : Nat) (fs : List Field) : List Field := fs.map fun f => (base + f.1, f.2)

/-- A publisher entry as a 32-byte record (R331). -/
def entryFields (e : SubEntry) : List Field :=
  [(0, 4, e.puboff), (4, 4, e.length), (8, 4, e.localoff), (12, 4, e.sub.block), (16, 8, if e.toImage then e.image.toNat else 0),
   (28, 1, e.state + 16 * e.n), (29, 1, e.outstanding), (30, 2, e.seq)]

/-- A subscriber record (R332). -/
def recFields (r : SubRec) : List Field :=
  [(0, 4, r.localoff), (4, 4, r.pub), (8, 4, r.length), (12, 1, r.state), (14, 2, r.expect)]

def barrierWord (r : Barrier) : Nat :=
  boolBit (r.phase % 2 == 1) 63 + boolBit r.fixed.isSome 62 + r.fixed.getD 0 % 2 ^ 13 * 2 ^ 32 + r.arrived % 2 ^ 13

def teamFields (s : State) (b : Block) (t : Nat × Team) : List Field :=
  let a := (s.core t.2.core).arb
  let held := a.holder == some (b.ref, t.1)
  [(0, 8, boolBit true 63 + boolBit held 62 + (t.2.members.foldl (fun m p => m + 2 ^ (48 + p.1)) 0) + t.2.count % 2 ^ 32),
   (8, 4, if held then a.tenure else 0)]

/-- A handle: status word, count, address, and of a pending one its queue, in a form that the spec leaves open (log 29). -/
def handleFields (s : State) (h : Handle) : List Field :=
  [(0, 8, h.status), (8, 8, h.count), (16, 8, h.address),
   (24, 8, match h with
     | .pending op => 1 + 256 * ((s.copies.find? fun o => o.id == op).map (·.queue)).getD 0
     | _ => 0)]

def frameFields (f : Frame) : List Field := (List.range 13).map fun n => (8 * n, 8, if n == 0x00B then 0 else frameVal f n)

/-- A split entry (R392). -/
def splitFields (p : Split) : List Field :=
  let state := if p.parked.isSome then 1 else if p.hold.isSome then 2 else 0
  let undone := match p.hold with
    | some h => (match h.kind with | .queue left => (h.lanes &&& ~~~(maskOf (left.map (·.1)))).toNat | _ => 0)
    | none => 0
  [(0x000, 8, p.pc.toNat), (0x008, 8, p.lanes.toNat), (0x010, 8, p.reconv.toNat), (0x018, 8, p.join.toNat),
   (0x020, 8, 1 + 2 * modeNum p.mode + 16 * state + 256 * p.frames.length), (0x028, 8, undone), (0x030, 8, p.header.toNat)] ++
    (p.kbank.map fun k => (0x040 + 0x20 * (k.1 / 8) + 4 * (k.1 % 8), 4, k.2.toNat)) ++
    (p.frames.mapIdx fun i f => at' (0x080 + 128 * i) (frameFields f)).flatten

/-- Z of R392. -/
def sectionBytes (g : Grid) : Nat := (0x2000 + 4 * g.width * g.vregs + 2048 * g.acc + 4095) / 4096 * 4096

/-- A cohort section (R392). -/
def cohortFields (s : State) (g : Grid) (b : Block) (c : Cohort) : List Field :=
  [(0, 8, c.slot + 64 * c.quad + boolBit (b.core2 == some c.core) 8 + boolBit c.team.isSome 9 + c.team.getD 0 * 1024 +
      boolBit c.reformed 15),
   (8, 8, c.age), (0x1C, 4, c.ovf.toNat), (0x20, 8, c.threads.toNat)] ++
    (c.flags.map fun f => (0x10 + f.1, 1, f.2)) ++
    (c.sregs.map fun r => (0x40 + 4 * r.1, 4, r.2.toNat)) ++
    (c.handles.flatMap fun h => at' (0x100 + 32 * h.1) (handleFields s h.2)) ++
    ((List.range 64).map fun l => (0x300 + l, 1, (c.preds.foldl (fun m p => m + boolBit (p.2.getLsbD l) p.1) 0))) ++
    ((List.range 64).map fun l => (0x340 + 4 * l, 4, if c.threads.getLsbD l then tget 0 c.tids l else 0xFFFFFFFF)) ++
    (c.xregs.map fun x => (0x800 + 4 * x.1, 4, x.2.toNat)) ++
    (c.splits.mapIdx fun e p => at' (0x1000 + 512 * e) (splitFields p)).flatten ++
    (c.vregs.map fun v => (0x2000 + 4 * (g.width * (v.1 / 64) + v.1 % 64), 4, v.2.toNat)) ++
    (c.tiles.map fun t => (0x2000 + 4 * g.width * g.vregs + 4 * t.1, 4, t.2.toNat))

/-- Spawn records one after another from `base` on, each at an 8-byte boundary (R188, R391), and the end of the last. -/
def spawnFields (b : Block) (base : Nat) (rs : List SpawnRec) : List Field × Nat :=
  rs.foldl (fun acc r =>
    (acc.1 ++ (r.bytes b.ref.block).mapIdx fun i v => (acc.2 + i, 1, v.toNat), (acc.2 + r.size + 7) / 8 * 8)) ([], base)

/-- The cohorts of a block in the order of their sections: by core, the left one first, and then by slot (R391). -/
def Block.sections (b : Block) : List Cohort :=
  let key (c : Cohort) : Nat := c.slot + boolBit (b.core2 == some c.core) 6
  b.cohorts.foldl (fun l c => (l.takeWhile fun d => key d ≤ key c) ++ [c] ++ l.dropWhile fun d => key d ≤ key c) []

/-- Every field of a block image, and its length in bytes. The layout has room for 16 publisher entries (log 29). -/
def imageFields (s : State) (g : Grid) (b : Block) (kind : Nat) : List Field × Nat :=
  let cores := b.cores.length
  let half := g.scratchBytes
  let base := 0x1000 + half * cores
  let z := sectionBytes g
  let rbase := base + z * b.cohorts.length
  let recs := spawnFields b rbase b.former
  let regs := [g.regs.xvec.toNat, g.regs.xdeleg.toNat, g.regs.ptb.toNat, g.regs.llen.toNat, g.regs.ckint.toNat,
    g.regs.ckptr.toNat, g.regs.sparea.toNat]
  ([(0, 8, 1 + 256 * kind + boolBit b.rollback 16), (0x8, 8, b.ref.grid), (0x10, 4, b.ref.block), (0x14, 4, b.cohorts.length),
    (0x18, 4, b.former.length), (0x1C, 4, cores), (0x20, 8, g.desc.toNat), (0x28, 8, s.ticks), (0x30, 8, b.seq),
    (0x38, 8, b.lastCk), (0xB8, 8, g.regs.seed.toNat)] ++
    (b.wptr.map fun w => (0x40 + 8 * w.1, 8, w.2)) ++
    (regs.mapIdx fun i v => (0x80 + 8 * i, 8, v)) ++
    (b.barriers.map fun r => (0x100 + 8 * r.1, 8, barrierWord r.2)) ++
    (b.teams.flatMap fun t => at' (0x200 + 16 * t.1) (teamFields s b t)) ++
    ((b.entries.take 16).mapIdx fun i e => at' (0x300 + 32 * i) (entryFields e)).flatten ++
    (b.recs.flatMap fun r => at' (0x500 + 16 * r.1) (recFields r.2)) ++
    (b.scratch.map fun v => ((if v.1 < 524288 then 0x1000 + v.1 else 0x1000 + half + (v.1 - 524288)), 1, v.2.toNat)) ++
    (b.sections.mapIdx fun i c => at' (base + z * i) (cohortFields s g b c)).flatten ++
    recs.1, recs.2)

/-- The image as bytes by offset. -/
def imageTable (fs : List Field) : Sparse Byte :=
  fs.foldl (fun t f => tputs 0 ((leBytes f.2.1 f.2.2).mapIdx fun i v => (f.1 + i, v)) t) []

/-- Q of R399. -/
def copyBytesOf (g : Grid) (cores : Nat) : Nat :=
  let m := min g.ntid (64 * cores)
  (0x1000 + g.scratchBytes * cores + m * sectionBytes g + g.ntid * (32 + 4 * g.vregs) + 4095) / 4096 * 4096

/-- Virtual address of the copy that a checkpoint with this seq writes. -/
def ckAddress (g : Grid) (b : Block) (seq : Nat) : Nat :=
  let q := copyBytesOf g b.cores.length
  g.regs.ckptr.toNat + b.ckSlot * (2 * q + 65536) + seq % 2 * q

/-- Translation of an address of the checkpoint area, under the checks of a supervisor store (R399, R101). -/
def State.ckXlate (s : State) (g : Grid) (va : Nat) : Except XFault Phys :=
  match s.regXlate g .wr 16 va with
  | .error f => .error f
  | .ok p =>
    if p.ws then .error { cause := 0x0A }
    else if paRegion p.pa == 2 || paRegion p.pa == 4 then .error { cause := 2 }
    else .ok p

/-- Write words of the checkpoint area for a block: address and value, each of 8 bytes; or the cause with which one fails. -/
def State.ckWrite (s : State) (g : Grid) (br : BRef) (ws : List (Nat × List Byte)) : Except XFault State :=
  ws.foldl (fun r w => match r with
    | .error f => .error f
    | .ok s =>
      match s.ckXlate g w.1 with
      | .error f => .error f
      | .ok p => .ok (s.regWrite (some br) p.pa w.2)) (.ok s)

/-- A failure of the checkpoint area: the event, and the end of the grid (R399). -/
def State.ckFail (s : State) (g : Grid) (b : Block) (cause : Nat) : State :=
  (s.record (s.coreDomain b.core) 6 b.core (g.id + 2 ^ 64 * cause)).endGrid g.id (b.ref.block, 0, 0) cause

/-- The words of an image of `len` bytes, at the addresses from `va` on. -/
def imageWords (table : Sparse Byte) (va len : Nat) : List (Nat × List Byte) :=
  (List.range (len / 8)).map fun k => (va + 8 * k, (List.range 8).map fun i => tget 0 table (8 * k + i))

/-! ### What an image holds (R389, R391) -/

/-- The instruction of a hold that an image abandons: a latch entry (R319), a WAITM (R214), and what has not issued yet. -/
def Split.abandoned (p : Split) : Option Nat :=
  match p.hold with
  | some h =>
    match h.kind with
    | .latch => some h.uid
    | .waitm _ _ => some h.uid
    | _ => none
  | none => none

/-- Is the split's instruction issued, with its fetch suspended (R373, R388)? -/
def Split.suspended (p : Split) : Bool :=
  match p.hold with
  | some h => (match h.kind with | .walk _ => true | .code _ => true | _ => false)
  | none => false

/-- Values that a held QPOP has popped are written to their registers (R214, R389). -/
def Cohort.popped (c : Cohort) : Cohort :=
  c.splits.foldl (fun c p =>
    match p.hold with
    | some h =>
      match h.kind with
      | .queue left =>
        (c.pend.filter fun q => q.uid == h.uid).foldl (fun c q => c.commitLanes q (h.lanes &&& ~~~(maskOf (left.map (·.1))))) c
      | _ => c
    | none => c) c

/-- A block as its image records it: results written, abandoned issues undone with their flags. -/
def captureBlock (s : State) (b : Block) : Block :=
  let flagOf (uid : Nat) : Option Nat := (s.issued.find? fun i => i.uid == uid).bind (·.flag)
  let cohort (c : Cohort) : Cohort :=
    let c := (c.commitWhere (BitVec.allOnes 64) fun p => p.due.isSome || p.landed).popped
    let c := (c.splits.filterMap Split.abandoned).foldl (fun c u => match flagOf u with | some f => c.flagDown f | none => c) c
    { c.mapSplits fun p => { p with hold := if p.abandoned.isSome || p.unissued then none else p.hold, forced := false } with
      latch := none, readySince := none, promoted := false }
  { b with cohorts := b.cohorts.map cohort, teams := b.teams.map fun t => (t.1, { t.2 with assembled := none }) }

/-- Numbers of the abandoned instructions. -/
def Block.abandonedUids (b : Block) : List Nat := b.cohorts.flatMap fun c => c.splits.filterMap Split.abandoned

/-- A block's publisher entries in the tables of its cores. -/
def State.entriesOf (s : State) (br : BRef) : List SubEntry := (s.allEntries.filter fun e => e.2.pub == br).map (·.2)

/-- Where the image of a block stands in memory, with its kind and the block as it records it: a saved block's, one that a save or a
checkpoint has captured, and one that is being restored. -/
def State.standingImage (s : State) (g : Grid) (b : Block) : Option (Nat × Nat × Block) :=
  if b.st == .saved || b.st == .restoring then some (b.image.toNat, 1, b)
  else if !b.captured then none
  else
    let c := { captureBlock s b with entries := s.entriesOf b.ref }
    some (if b.saveBegun then (b.image.toNat, 1, c) else (ckAddress g b (b.seq + 1), 2, c))

/-- What reaches a block whose image is written, or under way, between two states is written into that image in memory, byte by byte where
the image differs: deliveries and their counts (R342), packets and snapshot bytes (R341, R343), notices (R340, R344), the completion of
what detached (R389), and the bit that asks for a rollback (R402). -/
def State.imaged (t s : State) : State :=
  t.blocks.foldl (fun u b =>
    match s.block? b.ref, s.grid? b.ref.grid with
    | some a, some g =>
      match (if a.st == b.st then s.standingImage g a else none), t.standingImage g b with
      | some (_, k, a'), some (va, _, b') =>
        let old := imageTable (imageFields s g a' k).1
        let new := imageTable (imageFields { s with copies := t.copies } g b' k).1
        ((old.map (·.1) ++ new.map (·.1)).dedup.filter fun k => tget 0 old k != tget 0 new k).foldl (fun u k =>
          u.areaWrite g (some b.ref) (va + k) [tget 0 new k]) u
      | _, _ => u
    | _, _ => u) t

/-- The receive log in the checkpoint area is written as it grows (R399, R400): entry `i` as 128 bytes at 2Q + 128 i. -/
def State.logged (t s : State) : State :=
  t.blocks.foldl (fun u b =>
    match s.block? b.ref, s.grid? b.ref.grid with
    | some a, some g =>
      (List.range b.log.length).foldl (fun u i =>
        match b.log[i]? with
        | none => u
        | some e =>
          if a.log[i]? == some e then u
          else
            let base := ckAddress g b 0 + 2 * copyBytesOf g b.cores.length + 128 * i
            let fs : List Field := [(0, 8, e.off), (8, 8, e.mask), (0x10, 8, e.bar * 2 ^ 32 + e.counted)] ++
              e.bytes.mapIdx fun k v => (0x40 + k, 1, v.toNat)
            match u.ckWrite g b.ref (imageWords (imageTable fs) base 128) with
            | .ok u => u
            | .error f => u.ckFail g b f.cause) u
    | _, _ => u) t

/-! ### Settling (R388, R389) -/

/-- Accesses of a block that wait for a draft way (R396), and those that come after one of them. -/
def State.stalled (s : State) (br : BRef) : List Nat :=
  s.flight.foldl (fun l a => if a.c.b == br && a.stage == .issued && (s.wayless a || a.after.any l.contains) then l ++ [a.id] else l) []

/-- Numbers of the instructions that they belong to. -/
def State.stalledUids (s : State) (br : BRef) : List Nat :=
  ((s.flight.filter fun a => (s.stalled br).contains a.id).map (·.uid)).dedup

/-- Does an instruction wait for such accesses? -/
def State.waitsWay (s : State) (i : Issued) : Bool :=
  (s.stalledUids i.c.b).contains i.uid || (match i.fin with | .fence accs => accs.any (s.stalled i.c.b).contains | _ => false)

/-- The accesses of a block that its checkpoint does not wait for: those, and the replies of their instructions. -/
def State.passedOver (s : State) (br : BRef) : List Access :=
  s.flight.filter fun a => a.c.b == br && ((s.stalled br).contains a.id || (a.isFixed && (s.stalledUids br).contains a.uid))

/-- Have the block's operations in flight settled, but for what waits for a draft way, which the checkpoint is to free? Instructions that
hold their split stay under way, and those whose fetch is suspended go on first (R388). -/
def State.settled (s : State) (br : BRef) : Bool :=
  (s.flight.all fun a => a.c.b != br || (s.passedOver br).contains a) && !(s.begun.any fun b => b.b == br && !b.members.isEmpty) &&
    !(s.selected.any fun r => r.c.b == br) &&
    (s.issued.all fun i => i.c.b != br || i.fin == .event || i.fin == .drafted || i.fin == .sealed || s.waitsWay i) &&
    ((s.block? br).map fun b => b.cohorts.all fun c => c.splits.all fun p => !p.suspended).getD true

/-- The same, with nothing left that waits for a draft way. -/
def State.settledAll (s : State) (br : BRef) : Bool := s.settled br && (s.stalled br).isEmpty

/-! ### Checkpoints (R398-R400) -/

/-- Is a checkpoint asked of the block? One that an error has damaged while it is being saved takes none: it is to roll back to an earlier
one (R398). -/
def State.ckAsked (s : State) (b : Block) : Bool :=
  let g := s.gridOf b
  g.st == .running && (b.st == .checkpointing || (b.st == .saving && g.ckpt && !b.settledCk && !b.rollback))

/-- What the walks of a copy's addresses ask the banks for. -/
def State.ckReads (s : State) (b : Block) : List Nat :=
  let g := s.gridOf b
  s.regWalks g (ckAddress g b (b.seq + 1)) (copyBytesOf g b.cores.length)

/-- May a checkpoint of the block go on now (R398): is what it waits for done? -/
def State.ckReady (s : State) (b : Block) : Bool :=
  s.ckAsked b &&
    if b.publishing then (s.unpublished b.ref).isEmpty
    else !s.writing b.ref && s.regReady (s.ckReads b) && s.settled b.ref && (s.settledAll b.ref || !b.drafts.isEmpty) &&
      (b.exposed || !(s.copies.any fun o => o.b == b.ref)) && b.cohorts.all fun c => c.splits.all fun p => !p.forced

/-- Draft bytes by the 8-byte word that they lie in, as runs of neighbours: first address and bytes. -/
def draftRuns (ds : Sparse (Option Byte)) : List (Nat × List Byte) :=
  (ds.foldl (fun (l : List (Nat × List Byte)) d => match d.2, l with
    | none, _ => l
    | some v, (a, vs) :: r =>
      if a + vs.length == d.1 && a / 8 == d.1 / 8 then (a, vs ++ [v]) :: r else (d.1, [v]) :: (a, vs) :: r
    | some v, [] => [(d.1, [v])]) []).reverse

/-- A store that stands in draft lines is sealed with them. -/
def Issued.sealed (i : Issued) : Issued := if i.fin == .drafted then { i with fin := .sealed } else i

/-- The block's drafts are sealed, and their writes set out for their home banks, in no fixed order among themselves; one comes only
after an earlier publication's write of the same bytes (R263, R398). The update counts of their sectors are dropped (R397). -/
def State.publish (s : State) (b : Block) : State :=
  let uid := s.fresh
  let whole (pa : Nat) : Bool := (List.range 64).all fun i => (tget none b.drafts (pa / 64 * 64 + i)).isSome
  let earlier := s.unpublished b.ref
  let s := (draftRuns b.drafts).foldl (fun (t : State) q =>
    t.launchAccess { id := 0, uid := uid, c := ⟨⟨0, 0⟩, 0⟩, core := b.core, lane := 0, op := .publish b.ref, scratch := false, va := 0,
                     pa := q.1, size := q.2.length, scope := 3, bytes := q.2, covers := whole q.1
                     after := (earlier.filter fun a => a.overlaps false q.1 q.2.length).map (·.id) }) s.bump
  let t : State := { s with issued := s.issued.map fun i => if i.c.b == b.ref then i.sealed else i }
  t.modBlock b.ref fun x => { x with drafts := [], draftCounts := [] }

/-- The stores of a block whose drafts are published are performed at their scopes, once none of its sealed drafts is left (R105, R263). -/
def State.finishSealed (s : State) (b : BRef) : State :=
  if (s.unpublished b).isEmpty then
    (s.issued.filter fun i => i.c.b == b && i.fin == .sealed).foldl (fun s i => s.finishIssue i.uid) s
  else s

/-- Step 2 of R398: the capture, into the copy that does not hold the latest committed checkpoint, whose number its header keeps until the
commit. -/
def State.capture (s : State) (g : Grid) (b : Block) : Except XFault State :=
  let s := { s.touchAll (s.ckReads b) with checkpoints := s.checkpoints.filter fun c => c.ref != b.ref || c.seq == b.seq }.modBlock b.ref
    fun x => { x with captured := true, lastCk := s.ticks }
  match (s.block? b.ref).bind (s.standingImage g) with
  | some (va, k, c) =>
    let f := imageFields s g { c with seq := b.seq + 1 } k
    s.ckWrite g b.ref ((imageWords (imageTable f.1) va f.2).filter fun w => w.1 != va + 0x30)
  | none => .ok s

/-- The number of a copy in memory. -/
def State.ckSeq (s : State) (g : Grid) (b : Block) (seq : Nat) : Option Nat :=
  match s.ckXlate g (ckAddress g b seq + 0x30) with
  | .ok p => some (if paRegion p.pa == 3 then seq else s.readPhys8 p.pa)
  | .error _ => none

/-- The block as a checkpoint that is committed now records it, with what is under way in it. -/
def State.committed (s : State) (b : Block) : Block :=
  { captureBlock s b with seq := b.seq + 1, log := [], drafts := [], draftCounts := [], mark := s.fresh, captured := false
                          held := (s.issued.filter fun i => i.c.b == b.ref && !b.abandonedUids.contains i.uid).map Issued.sealed
                          wayless := s.passedOver b.ref, entries := s.entriesOf b.ref }

/-- Steps 2 and 3 of R398: capture and commit, of which each goes on when its writes are performed. Answers whether the checkpoint is
committed. A failure of the checkpoint area ends the grid (R399). -/
def State.commitBlock (s : State) (b : Block) : State × Bool :=
  match s.grid? b.ref.grid with
  | none => (s, true)
  | some g =>
    match (if b.captured then .ok s else s.capture g b) with
    | .error e => (s.ckFail g b e.cause, false)
    | .ok s =>
      if s.writing b.ref then (s, false)
      else
        match (if s.ckSeq g b (b.seq + 1) == some (b.seq + 1) then .ok s
          else s.ckWrite g b.ref [(ckAddress g b (b.seq + 1) + 0x30, leBytes 8 (b.seq + 1))]) with
        | .error e => (s.ckFail g b e.cause, false)
        | .ok s =>
          if s.writing b.ref then (s, false)
          else
            match s.block? b.ref with
            | none => (s, true)
            | some x =>
              ({ s with checkpoints := s.checkpoints ++ [s.committed x] }.modBlock b.ref fun y =>
                { y with seq := y.seq + 1, log := [], mark := s.fresh, captured := false }, true)

/-- Step 5 of R398, once every sealed draft is written: the phase of CKPT completes, or the forcing instruction may issue alone, or the
save goes on. Where something still waited for a draft way, it is performed first, and another checkpoint follows. -/
def State.afterPublish (s : State) (b : Block) : State :=
  if !s.settledAll b.ref then s
  else if b.st == .saving then s.modBlock b.ref fun x => { x with settledCk := true }
  else
    match b.forcer with
    | some r =>
      if (s.split? r).isSome then s.modSplit r fun p => { p with forced := true }
      else s.modBlock b.ref fun x => { x with st := .resident, forcer := none }
    | none =>
      let s := s.modBlock b.ref fun x => { x with st := .resident, settledCk := decide (s.ntidOf b ≤ x.exited) }
      (if b.phaseFull (s.ntidOf b) (tget {} b.barriers 16) then s.finishPhase b.ref 16 else s).settleAll

/-- CHECKPOINT (R398): capture, commit and the beginning of publication, and, when that is complete, what it was for; after a forcing
instruction, the second commit, and the cohorts resume. -/
def execCheckpoint (br : BRef) (s : State) : Host.Outcome State Fault Refusal :=
  match s.block? br with
  | none => .next s
  | some b =>
    if !s.ckReady b then .next s
    else if b.publishing then .next ((s.modBlock br fun x => { x with publishing := false }).afterPublish b)
    else
      match s.commitBlock b with
      | (t, false) => .next t
      | (s, true) =>
        if b.exposed then .next (s.modBlock br fun x => { x with st := .resident, exposed := false }).settleAll
        else
          let s := s.publish b
          .next (if (s.unpublished br).isEmpty then (s.finishSealed br).afterPublish b else s.modBlock br fun x => { x with publishing := true })

/-! ### Saves (R390) -/

/-- May a save go on to its notices (R390 steps 1-4)? -/
def State.saveReady (s : State) (b : Block) : Bool :=
  b.st == .saving && !b.saveBegun && (!(s.gridOf b).ckpt || b.settledCk || b.rollback || (s.gridOf b).st != .running) &&
    (if b.rollback then s.settled b.ref else s.settledAll b.ref)

/-- SAVE (R390, R341, R344): the block has stopped and settled; it closes its publisher entries' chunks and tells its publishers
that it leaves. The image's address is the registrar's choice (log 11). -/
def execSave (br : BRef) (s : State) : Host.Outcome State Fault Refusal :=
  match s.block? br with
  | none => .next s
  | some b =>
    if !s.saveReady b then .next s
    else
      let image := Config.registrarAddress s.draw &&& 0x0007FFFFFFFFF000
      let s := { s with draw := s.draw + 1 }.modBlock br fun x => { x with saveBegun := true, image := image }
      let s := (s.allEntries.filter fun e => e.2.pub == br).foldl (fun s e => s.closeChunk e.1 e.2.id) s
      .next (b.recs.foldl (fun s r =>
        let pub : BRef := ⟨br.grid, r.2.pub⟩
        if r.2.state != 0 && (s.entry? pub br r.1).isSome then
          { s.bump with notices := s.notices ++ [{ id := s.fresh, kind := .absent, sub := br, pub := pub, n := r.1, image := image }] }
        else s) s)

/-- Has a copy whose source is the scratchpad read all its source bytes (R389)? -/
def CopyOp.gathered (o : CopyOp) : Bool :=
  let (rs, fromGlob, _) := o.moves.source
  fromGlob || (List.range (runsTotal rs)).all fun k => decide (k < o.done) || (tget none o.ahead k).isSome

/-- Has the block nothing left to do with its packets, notices and drafts before its image is written (R341, R344, R390)? -/
def State.exchanged (s : State) (b : Block) : Bool :=
  (s.unpublished b.ref).isEmpty && !(s.notices.any fun m => m.kind == .absent && m.sub == b.ref) &&
    (s.entriesOf b.ref).all fun e => e.outstanding == 0 && e.chunk.isNone

/-- What the walks of a save image's addresses ask the banks for. -/
def State.saveReads (s : State) (b : Block) : List Nat :=
  s.regWalks (s.gridOf b) b.image.toNat (copyBytesOf (s.gridOf b) b.cores.length)

/-- May the image be written, or, where it has been captured, has it been (R389, R390)? -/
def State.saveDone (s : State) (b : Block) : Bool :=
  b.st == .saving && b.saveBegun && s.settled b.ref && s.exchanged b &&
    (if b.captured then !s.writing b.ref
     else s.regReady (s.saveReads b) && s.copies.all fun o => o.b != b.ref || o.gathered)

/-- R390 step 5: the image is captured, and its words set out for their home banks. -/
def State.writeSave (s : State) (g : Grid) (b : Block) : State :=
  let t := (s.touchAll (s.saveReads b)).modBlock b.ref fun x => { x with captured := true }
  match (t.block? b.ref).bind (t.standingImage g) with
  | some (va, k, c) =>
    let f := imageFields t g c k
    (imageWords (imageTable f.1) va f.2).foldl (fun t w =>
      match t.regXlate g .rd 16 w.1 with
      | .ok p => t.regWrite (some b.ref) p.pa w.2
      | .error _ => t) t
  | none => t

/-- R390 steps 6 and 7: every write of the image is performed, and the core's resources are freed. The drafts of a block that is to roll back
are discarded (R402). -/
def State.endSave (s : State) (b : Block) : State :=
  let gone := b.abandonedUids
  let late := if b.rollback then (s.stalledUids b.ref) else []
  let c := captureBlock s b
  let b' := { c with st := .saved, entries := s.entriesOf b.ref, saveBegun := false, captured := false, waitSince := some s.ticks
                     drafts := if b.rollback then [] else c.drafts, draftCounts := if b.rollback then [] else c.draftCounts }
  let s := { s with
    blocks := s.blocks.map fun (x : Block) => if x.ref == b.ref then b' else x
    flight := s.flight.filter fun a => a.c.b != b.ref
    issued := s.issued.filter fun i => !gone.contains i.uid && !late.contains i.uid
    cores := tmap {} (fun k => { k with subs := k.subs.filter fun e => e.pub != b.ref }) s.cores }
  (b.cores.foldl State.vacate (s.dropPass b)).settleAll

/-- SAVE_COMPLETE (R390, R391, R318, R344): the image is captured and written; and when that is done, the core's resources are freed. -/
def execSaveComplete (br : BRef) (s : State) : Host.Outcome State Fault Refusal :=
  match s.block? br, s.grid? br.grid with
  | some b, some g =>
    .next (if !s.saveDone b then s
      else if b.captured then s.endSave b
      else
        let t := s.writeSave g b
        if t.writing br then t else t.endSave b)
  | _, _ => .next s

/-! ### Restores (R393-R395, R343) -/

/-- Cohorts of a restored block take slots of their quadrants on the new core, with the splits that are to spawn chosen (R394). -/
def rehouse (s : State) (b : Block) (core : Nat) (f : Fit) (cap : Nat) : List Cohort :=
  b.cohorts.foldl (fun acc c =>
    let k := if b.core2 == some c.core then f.right.getD core else core
    let used := slotsUsed s.blocks k ++ (acc.filter fun d => d.core == k).map (·.slot)
    acc ++ [capAll cap 8 { c with core := k, slot := freeSlot used c.quad }]) []

/-- Is a publisher entry's record one that its table admits (R331), given its four words? -/
def entryOk (w0 w2 w3 : Nat) : Bool :=
  let len := w0 / 2 ^ 32
  w2 / 2 ^ 51 == 0 && w3 % 2 ^ 32 == 0 && decide (w3 / 2 ^ 32 % 16 ≤ 3) && w3 / 2 ^ 40 % 256 == 0 &&
    (w3 / 2 ^ 32 % 16 == 0 || (decide (64 ≤ len) && decide (len ≤ 524288) && len % 64 == 0))

/-- Is a subscriber record one that its table admits (R332), given its second word? -/
def recOk (w1 : Nat) : Bool := w1 / 2 ^ 32 % 4 != 3 && w1 / 2 ^ 34 % 2 ^ 14 == 0

/-- Does the registrar find every subscription record of a save image admitted (R331, R332)? A word that it cannot read passes (log 81). -/
def State.imageOk (s : State) (g : Grid) (b : Block) : Bool :=
  let word (o : Nat) : Option Nat := match s.regRead8 g (b.image.toNat + o) with | .ok v => some v | .error _ => none
  (List.range 16).all fun i =>
    (match word (0x300 + 32 * i), word (0x310 + 32 * i), word (0x318 + 32 * i) with
     | some w0, some w2, some w3 => entryOk w0 w2 w3
     | _, _, _ => true) &&
    (match word (0x508 + 16 * i) with | some w1 => recOk w1 | none => true)

def Team.withCore (t : Team) (core : Nat) : Team := { t with core := core }

/-- RESTORE (R393): the block chosen for a core is installed there with its entries, and tells its publishers. -/
def execRestore (br : BRef) (s : State) : Host.Outcome State Fault Refusal :=
  match s.placement with
  | some (p, core, f) =>
    match p.saved with
    | some b =>
      if b.ref != br then .next s
      else
        let s := s.touchAll (s.placeReads p)
        let home (k : Nat) : Nat := if b.core2 == some k then f.right.getD core else core
        let full := rehouse s b core f (s.part p.grid.part).scap
        let b' := { b with st := .restoring, core := core, core2 := f.right, reserveQuad := some f.reserve, entries := [], former := []
                           cohorts := (full.map Cohort.withoutLeaving).filter fun c => c.threads != 0#64, rescued := false, waitSince := none,
                           teams := b.teams.map fun (t : Nat × Team) => (t.1, Team.withCore t.2 (home t.2.core)) }
        let s : State := { s with blocks := s.blocks.map fun (x : Block) => if x.ref == br then b' else x }
        let s := b.former.foldl (fun s r => s.storeRec br { r with core := home r.core }) s
        let s := full.foldl (fun s c => (c.leaving.flatMap fun q => (lanesOf q.lanes).map (spawnRecord p.grid c q 0 s.cycle)).foldl
          (State.storeRec br) s) s
        let s := b.entries.foldl (fun s e =>
          s.modCore (if e.puboff < 524288 then core else f.right.getD core) fun c => { c with subs := c.subs ++ [e] }) s
        let s := s.modGrid br.grid fun x => x.placed br.block
        let s := b'.cores.foldl State.occupy s
        let s := b.recs.foldl (fun s r =>
          let pub : BRef := ⟨br.grid, r.2.pub⟩
          if r.2.state != 0 && (s.entry? pub br r.1).isSome then
            { s.bump with notices := s.notices ++ [{ id := s.fresh, kind := .present, sub := br, pub := pub, n := r.1 }] }
          else s) s
        .next ((if s.imageOk p.grid b then s
          else (s.record (s.coreDomain core) 3 core (br.grid + 2 ^ 64 * 5)).endGrid br.grid (br.block, 0, 0) 5))
    | none => .next s
  | none => .next s

/-! ### Rollback (R402, R345) -/

/-- A fresh snapshot of an entry's range reaches its subscriber, in place of what was on its way: packets, and the first snapshot of a
SUBSCRIBE that is still under way (R345, R300). -/
def State.resnap (s : State) (e : SubEntry) : State :=
  match s.block? e.pub with
  | none => s
  | some pb =>
    let bytes := pb.sread e.puboff e.length
    let snap := tputs 0 (bytes.mapIdx fun i v => (i, v)) []
    let s : State :=
      { s with packets := s.packets.filter fun p => p.entry != e.id
               requests := s.requests.map fun (q : SubReq) => if q.entry.map (·.2) == some e.id then { q with bytes := snap } else q }
    let s := s.updEntry e.pub e.sub e.n fun x => some { x with chunk := none, outstanding := 0 }
    let s := s.modRec e.sub e.n fun r => { r with expect := e.seq }
    s.scratchWrite e.sub (bytes.mapIdx fun i v => (e.localoff + i, v)) false

/-- The block's own subscriptions after a rollback, as subscriber (R345): those set up since the checkpoint end as UNSUB ends them, and of
those that stood at it each gets a fresh snapshot. -/
def State.resubscribe (s : State) (b was : Block) : State :=
  b.recs.foldl (fun s r =>
    if r.2.state == 0 then s
    else if (tget {} was.recs r.1).state == 0 || (tget {} was.recs r.1).id != r.2.id then s.cutSubscription b.ref r.1
    else
      match s.entry? ⟨b.ref.grid, r.2.pub⟩ b.ref r.1 with
      | some e => if r.2.state == 2 then s.resnap e else s
      | none => s) s

/-- The receive log is replayed (R400, R402). -/
def State.replay (s : State) (b : Block) : State :=
  b.log.foldl (fun s e =>
    let ws := (List.range 64).filterMap fun i => if e.mask.testBit i then some (e.off + i, e.bytes.getD i 0) else none
    (s.scratchWrite b.ref ws false).barbAdd b.ref e.bar false (-(e.counted : Int))) s

/-- A field of `n` bytes of a copy in the checkpoint area, at an offset from an address, as the memory holds it. -/
def State.ckField (s : State) (g : Grid) (va off n : Nat) : Nat :=
  match s.ckXlate g (va + off / 8 * 8) with
  | .ok p => s.readPhys8 p.pa / 2 ^ (8 * (off % 8)) % 2 ^ (8 * n)
  | .error _ => 0

/-- Does a copy in memory count as the checkpoint `c`: does it name the block's launch and index, and carry that seq (R399)? -/
def State.copyStands (s : State) (g : Grid) (b c : Block) : Bool :=
  let a := ckAddress g b c.seq
  c.ref == b.ref && s.ckSeq g b c.seq == some c.seq && s.ckField g a 8 8 == b.ref.grid && s.ckField g a 0x10 4 == b.ref.block

/-- A frame from its registers in an image; `rd` gives the register of a number. -/
def Frame.loaded (f : Frame) (rd : Nat → Nat) : Frame :=
  { f with pc := BitVec.ofNat 64 (rd 0), cause := BitVec.ofNat 32 (rd 1), inst0 := BitVec.ofNat 64 (rd 2), inst1 := BitVec.ofNat 64 (rd 3)
           len := BitVec.ofNat 32 (rd 4), addr := BitVec.ofNat 64 (rd 5), lanes := BitVec.ofNat 64 (rd 6), prev := BitVec.ofNat 32 (rd 7)
           reconv := BitVec.ofNat 64 (rd 8), join := BitVec.ofNat 64 (rd 9), gpa := BitVec.ofNat 64 (rd 10), hdr := BitVec.ofNat 64 (rd 12) }

/-- A split from its entry in an image; `rd` gives the field of some bytes at an offset of the entry. -/
def Split.loaded (p : Split) (rd : Nat → Nat → Nat) : Split :=
  let w (o : Nat) : DWord := BitVec.ofNat 64 (rd o 8)
  { p with pc := w 0, reconv := w 0x10, join := w 0x18, header := w 0x30
           kbank := tputs 0 ((List.range 16).map fun k => (k, BitVec.ofNat 32 (rd (0x40 + 4 * k) 4))) []
           frames := p.frames.mapIdx fun i f => f.loaded fun n => rd (0x80 + 128 * i + 8 * n) 8 }

/-- A cohort from its section in an image (R392). -/
def Cohort.loaded (c : Cohort) (g : Grid) (rd : Nat → Nat → Nat) : Cohort :=
  let word (o : Nat) : Word := BitVec.ofNat 32 (rd o 4)
  { c with ovf := word 0x1C
           flags := tputs 0 ((List.range 12).map fun f => (f, rd (0x10 + f) 1)) []
           sregs := tputs 0 ((List.range 48).map fun r => (r, word (0x40 + 4 * r))) []
           preds := tputs 0#64 ((List.range 7).map fun p => (p, maskOf ((List.range 64).filter fun l => (rd (0x300 + l) 1).testBit p))) []
           tids := tputs 0 ((lanesOf c.threads).map fun l => (l, rd (0x340 + 4 * l) 4)) []
           xregs := tputs 0 ((List.range 512).map fun x => (x, word (0x800 + 4 * x))) []
           vregs := tputs 0 ((List.range g.vregs).flatMap fun r => (List.range g.width).map fun l =>
             (64 * r + l, word (0x2000 + 4 * (g.width * r + l)))) []
           tiles := tputs 0 ((List.range (512 * g.acc)).map fun t => (t, word (0x2000 + 4 * g.width * g.vregs + 4 * t))) []
           splits := c.splits.mapIdx fun e p => p.loaded fun o n => rd (0x1000 + 512 * e + o) n }

/-- A block as the copy in memory holds it (R402 step 3): its data, its registers and its splits are those of the memory; what is under way
in it stands in no image, and is that of the capture. -/
def State.loadCopy (s : State) (g : Grid) (b c : Block) : Block :=
  let rd (o n : Nat) : Nat := s.ckField g (ckAddress g b c.seq) o n
  let half := g.scratchBytes
  let base := 0x1000 + half * c.cores.length
  let place (x : Cohort) : Nat := c.sections.findIdx fun y => y.id == x.id
  { c with wptr := tputs 0 ((List.range 8).map fun q => (q, rd (0x40 + 8 * q) 8)) []
           scratch := tputs 0 ((List.range (half * c.cores.length)).map fun k =>
             ((if k < half then k else 524288 + (k - half)), BitVec.ofNat 8 (rd (0x1000 + k) 1))) []
           cohorts := c.cohorts.map fun x => x.loaded g fun o n => rd (base + sectionBytes g * place x + o) n }

/-- The latest committed checkpoint of a block: of the copies that stand in memory the one with the larger seq, loaded from there (R399). -/
def State.latestCopy (s : State) (g : Grid) (b : Block) : Option Block :=
  (pickBy (fun c d => decide (d.seq < c.seq)) (s.checkpoints.filter (s.copyStands g b))).map (s.loadCopy g b)

/-- The block as it was when it was newly dispatched. -/
def State.atStart (s : State) (g : Grid) (b : Block) : Block :=
  let others : State := { s with blocks := s.blocks.filter fun x => x.ref != b.ref }
  let cs := formCohorts others g b.core b.core2 g.header
  { ref := b.ref, core := b.core, core2 := b.core2, cohorts := cs, nextCohort := cs.length + 1 }

/-- Rollback of a block to its latest committed checkpoint, or to its start (R402). DESIGN CHOICE (log 101): %wptr takes the copy's value,
and bytes that an older copy has delivered since are not counted again; and the barriers of the copy that have arrivals take their
records whatever the core's number in use, which may so exceed 32 for a time. -/
def State.rollbackBlock (s : State) (b : Block) (kind : Nat) : State :=
  match s.grid? b.ref.grid with
  | none => s
  | some g =>
    let was : Block := (s.latestCopy g b).getD (s.atStart g b)
    let s := s.record (s.coreDomain b.core) 5 b.core (kind + 2 ^ 64 * was.seq)
    -- the checkpoint's cohorts, on the quadrants and cores where the block now is
    let placed (k : Nat) : Nat := if was.core2 == some k then b.core2.getD b.core else b.core
    let place (c : Cohort) : Cohort := { c with core := placed c.core }
    let now : Block :=
      { was with st := .resident, core := b.core, core2 := b.core2, cohorts := was.cohorts.map place, reserveQuad := b.reserveQuad
                 former := []
                 teams := was.teams.map fun (t : Nat × Team) => (t.1, Team.withCore t.2 (placed t.2.core)),
                 ckSlot := b.ckSlot, seq := was.seq, log := b.log, recs := b.recs, entries := [], drafts := [], draftCounts := [],
                 forcer := none, exposed := false, publishing := false, captured := false, rollback := false, damaged := 0, held := []
                 wayless := [], saveOrder := b.saveOrder, image := b.image }
    let kept (c : Nat) : Bool := s.copies.all fun o => o.id != c || o.b != b.ref || decide (o.id < was.mark)
    let s : State := { s with
      blocks := s.blocks.map fun (x : Block) => if x.ref == b.ref then now else x
      flight := (s.flight.filter fun a => a.c.b != b.ref && (match a.op with
        | .claim c => kept c
        | .fetch c => kept c
        | _ => true)) ++ was.wayless
      begun := s.begun.map fun q => if q.b == b.ref then { q with members := [] } else q
      issued := (s.issued.filter fun i => i.c.b != b.ref) ++ was.held
      selected := s.selected.filter fun r => r.c.b != b.ref
      copies := s.copies.filter fun o => o.b != b.ref || decide (o.id < was.mark)
      checkpoints := s.checkpoints.filter fun c => c.ref != b.ref || decide (c.seq ≤ was.seq)
      fresh := s.fresh + 128 }
    let s := was.former.foldl (fun s r => s.storeRec b.ref { r with core := placed r.core }) s
    let s := (((s.dropPass b).replay b).resubscribe b was).finishSealed b.ref
    let s := (s.allEntries.filter fun e => e.2.pub == b.ref && e.2.state != 0).foldl (fun s e => s.resnap e.2) s
    let s := s.settleEntries.wakeSubsync.settleAll
    if g.acc != 0 && b.cores.any s.arrayFailed then s.requestSaves [b.ref] none else s

/-- Has the restoring block all acknowledgements of its notices, and are the writes that were bound for its image performed (R343)? -/
def State.restored (s : State) (b : Block) : Bool :=
  b.st == .restoring && !(s.notices.any fun m => m.kind == .present && m.sub == b.ref) && !s.writing b.ref

/-- RESTORE_COMPLETE (R343, R402): after every acknowledgement the block goes on, once the packets held for it are applied. -/
def execRestoreComplete (br : BRef) (s : State) : Host.Outcome State Fault Refusal :=
  match s.block? br with
  | none => .next s
  | some b =>
    if !s.restored b then .next s
    else
      let t := s.modBlock br fun x => { x with st := .resident }
      let t := if b.rollback then t.rollbackBlock b b.damaged else b.cohorts.foldl (fun t c => t.remerge ⟨br, c.id⟩) t
      .next (t.applyHeld br t.packets.length).settleAll

/-! ### Uncorrectable errors (R401-R404, R321, R322, R250) -/

/-- A block meets an uncorrectable core-state error: it rolls back, or its grid ends with 0x1C (R402, R403, R398). One that is being saved or
restored, or is saved, rolls back when it is restored; of several errors the first one's kind of state is recorded then. In the tick in
which its grid has ended the error still counts among the endings (R429). -/
def State.damageBlock (s : State) (br : BRef) (kind : Nat) : State :=
  match s.block? br, s.grid? br.grid with
  | some b, some g =>
    if !(g.st == .running || (g.st == .ended && g.endedBy.map (·.1) == some s.ticks)) then s
    else if !g.ckpt || b.exposed then
      (s.record (s.coreDomain b.core) 3 b.core (g.id + 2 ^ 64 * 0x1C)).endGrid g.id (b.ref.block, 0, 0) 0x1C
    else
      match b.st with
      | .resident => s.rollbackBlock b kind
      | .checkpointing => s.rollbackBlock b kind
      | _ => s.modBlock br fun x => if x.rollback then x else
          { x with rollback := true, damaged := kind, captured := x.captured && x.saveBegun }
  | _, _ => s

/-- A quadrant's grade changes, in the chart and in its copy at address 0 (R257, R322). -/
def State.setGrade (s : State) (core quad v : Nat) : State :=
  match s.chart.site? core with
  | none => s
  | some (c, r) =>
    let n := 96 * r + c
    let gs := (s.chart.grades.filter fun g => !(g.1 == n && g.2.1 == quad)) ++ [(n, quad, v)]
    let s := { s with chart := { s.chart with grades := gs } }
    match gradeByteAt s.chart core quad with
    | some o => s.regWrite none o [BitVec.ofNat 8 v]
    | none => s

/-- One column of an array is retired (R321, R322). -/
def State.retireColumn (s : State) (core quad column : Nat) : State :=
  let n := tget 0 (s.core core).columns quad + 1
  let s := s.modCore core fun c => { c with columns := tput 0 quad n c.columns }
  let s := s.record (s.coreDomain core) 4 core (quad + 2 ^ 64 * column)
  if n == 3 then s.setGrade core quad (min (2 * s.grade core quad) 254)
  else if n == 19 then s.setGrade core quad 255
  else s

/-- Insert a column among others by array and physical place, once. -/
def insertColumn (c : Nat × Nat) : List (Nat × Nat) → List (Nat × Nat)
  | [] => [c]
  | d :: l =>
    if decide (c.1 < d.1) || (c.1 == d.1 && decide (c.2 < d.2)) then c :: d :: l
    else if c == d then d :: l
    else d :: insertColumn c l

/-- UNCORRECTABLE_ERROR (R401, R404). A damaged entry that belongs to no block is cleared, which leaves nothing to change, and recorded.
DESIGN CHOICE (log 101): R428 has no type for that, and the event stands as one of type 0x05 with seq 0. A damaged line of an L1 or of an
instruction cache, or a TLB entry, is dropped. -/
def execUncorrectableError (e : Damage) (s : State) : Host.Outcome State Fault Refusal :=
  match e with
  | .block br kind => .next ((s.damageBlock br kind).imaged s)
  | .orphan core kind => .next (s.record (s.coreDomain core) 5 core kind)
  | .l1Line core line => .next (s.modCore core fun c => c.dropLine line)
  | .codeLine core line => .next (s.modCore core fun c => { c with code := c.code.filter fun l => l != line })
  | .tlbEntry core second n =>
    .next (if second then { s with tlb2 := tput [] (s.coreDomain core) ((tget [] s.tlb2 (s.coreDomain core)).eraseIdx n) s.tlb2 }
      else s.modCore core fun c => { c with tlb := c.tlb.eraseIdx n })
  | .l1Tags core => .next (s.modCore core fun c => { c with l1 := [] })
  | .residue core columns =>
    match s.begun.find? fun b => b.core == core with
    | none => .next s
    | some b =>
      let s := { s with begun := s.begun.filter fun q => q != b }
      .next ((((columns.foldl (fun l c => insertColumn c l) []).foldl (fun s c => s.retireColumn core c.1 c.2) s).damageBlock b.b 0).imaged s)
  | .memory pa =>
    let marks :=
      if paRegion pa == 1 then setAdd (pa / 128 * 2) (setAdd (pa / 128 * 2 + 1) s.poison) else setAdd (pa / 64) s.poison
    .next { s with poison := marks }

/-! ### Events that reach saved blocks (R340-R344, R389) -/

/-- DISPATCH_ENTRY (R166, R167, R171, R176). -/
def execDispatchEntry (id : Nat) (s : State) : Host.Outcome State Fault Refusal := .next ((dispatchEntry id s).imaged s)

/-- GRID_RETIRE (R170, R176, R177). -/
def execGridRetire (id : Nat) (s : State) : Host.Outcome State Fault Refusal := .next ((gridRetire id s).imaged s)

/-- COPY_RESOLVE (R215, R221, R223). -/
def execCopyResolve (id units reads : Nat) (s : State) : Host.Outcome State Fault Refusal :=
  .next ((copyResolve id units reads s).imaged s)

/-- PEER_DELIVERY (R219, R342, R400). -/
def execPeerDelivery (id bit : Nat) (s : State) : Host.Outcome State Fault Refusal :=
  .next (((peerDelivery id bit s).imaged s).logged s)

/-- FILL_LINE_LANDED (R220, R406). -/
def execFillLineLanded (id : Nat) (s : State) : Host.Outcome State Fault Refusal := .next ((fillLineLanded id s).imaged s)

/-- SUBSCRIBE_REQUEST (R299, R300). -/
def execSubscribeRequest (id : Nat) (s : State) : Host.Outcome State Fault Refusal := .next ((subscribeRequest id s).imaged s)

/-- SNAPSHOT_LANDED (R300). -/
def execSnapshotLanded (id : Nat) (s : State) : Host.Outcome State Fault Refusal := .next ((snapshotLanded id s).imaged s)

/-- UPDATE_PACKET (R336, R343). -/
def execUpdatePacket (id : Nat) (s : State) : Host.Outcome State Fault Refusal := .next ((updatePacket id s).imaged s)

/-- UPDATE_ACK (R336, R337). -/
def execUpdateAck (id : Nat) (s : State) : Host.Outcome State Fault Refusal := .next ((updateAck id s).imaged s)

/-- ABSENT_NOTICE (R341). -/
def execAbsentNotice (id : Nat) (s : State) : Host.Outcome State Fault Refusal := .next ((absentNotice id s).imaged s)

/-- PRESENT_NOTICE (R343). -/
def execPresentNotice (id : Nat) (s : State) : Host.Outcome State Fault Refusal := .next ((presentNotice id s).imaged s)

/-- REMOVAL_NOTICE (R339, R301). -/
def execRemovalNotice (id : Nat) (s : State) : Host.Outcome State Fault Refusal := .next ((removalNotice id s).imaged s)

end Sys2Proof.Machine
end

