-- ==== Sys2Proof/Machine/Coherence.lean ====
section
/-! DEFINITION. The events of the memory hierarchy: translation walks (R235), packets and leases (R239, R246, R253), the home bank's
writes (R240), revokes and invalidations (R241, R242), L2 modes (R245) and recesses (R249). -/

namespace Sys2Proof.Machine

/-! ### Walks (R235) -/

/-- May the queued walk start: is it the oldest of its domain's queue, with fewer than 64 in progress? A miss that shares another's walk
takes no place. -/
def State.walkStarts (s : State) (w : WalkReq) : Bool :=
  let d := s.coreDomain w.core
  let here := s.walks.filter fun q => s.coreDomain q.req.core == d && !q.failed && q.lead.isNone
  decide ((here.filter (·.started)).length < 64) && ((here.find? fun q => !q.started).map (·.req)) == some w

/-- Walks that fetches ask for and that are not under way (R375). -/
def State.fetchMisses (s : State) : List WalkReq :=
  ((s.blocks.filter fun b => b.st == .resident && (s.gridOf b).st == .running).flatMap fun b => b.cohorts.flatMap fun c =>
    c.splits.filterMap fun p => (s.fetchMiss ⟨⟨b.ref, c.id⟩, p.id⟩).bind fun q =>
      if p.spawn.isSome || s.walks.any fun w => w.req == q then none else some q).dedup

/-- The table entries that a walk in progress reads. -/
def State.readsOf (s : State) (w : Walk) : List Nat :=
  match s.grid? w.req.grid with
  | some g => s.walkReads (s.part g.part) (if w.started then w.ptb else g.regs.ptb) (32768 * w.req.va)
  | none => []

/-- A walk asks for the next of the table lines that it reads, at the line's home bank. -/
def State.readEntryOf (s : State) (id : Nat) : State :=
  match s.walks.find? fun w => w.id == id with
  | some w =>
    match (s.readsOf w)[w.done]? with
    | some pa => s.launchAccess { id := 0, uid := 0, c := ⟨⟨0, 0⟩, 0⟩, core := w.req.core, lane := 0, op := .walk id, scratch := false, va := 0
                                  pa := pa, size := 8, scope := 3 }
    | none => s
  | none => s

/-- PAGE_WALK (R235): a fetch's miss joins the queue; or the walker of the core's domain takes up the oldest waiting miss, with the
first-stage base in force now (R358). -/
def execPageWalk (w : WalkReq) (s : State) : Host.Outcome State Fault Refusal :=
  .next (if s.fetchMisses.contains w then s.askWalk w
    else if s.walkStarts w then
      let t : State := { s with walks := s.walks.map fun q => if q.req == w && !q.failed then
          { q with started := true, ptb := ((s.grid? w.grid).map fun g => g.regs.ptb).getD 0 } else q }
      (t.walks.filter fun q => q.req == w && !q.failed).foldl (fun t q => t.readEntryOf q.id) t
    else s)

/-- Splits held by a walk may go on when none of theirs is left. -/
def State.wakeWalk (s : State) (w : WalkReq) : State :=
  s.allSplits.foldl (fun s r =>
    match (s.split? r).bind (·.hold) with
    | some h =>
      match h.kind with
      | .walk left =>
        if left.contains w then
          s.modSplit r fun p => { p with hold := some { h with kind := .walk (left.filter fun q => q != w), since := s.cycle } }
        else s
      | _ => s
    | none => s) s

/-- Can the walk end now: is it in progress, and has it read every table line (R235)? -/
def State.walkEnds (s : State) (w : Walk) : Bool :=
  w.started && !w.failed && decide ((s.readsOf w).length ≤ w.done) && !s.flight.any fun a => a.op == .walk w.id

/-- A table line is served to a walk, which goes on to the next (R235). -/
def State.serveWalk (s : State) (a : Access) (id : Nat) : State :=
  let part := ((s.walks.find? fun w => w.id == id).bind fun w => (s.grid? w.req.grid).map (·.part)).getD 0
  let t : State := { s with flight := s.flight.filter fun b => b.id != a.id
                            walks := s.walks.map fun w => if w.id == id then { w with done := w.done + 1 } else w }
  (t.bankServed (paDomain a.pa) a.pa part 0).readEntryOf id

/-- WALK_COMPLETION (R235, R360): a translation goes to the TLBs of the domain and of each core whose miss shares the walk, unless a TLBI
has removed it. A walk that fails leaves its fault to the accesses that asked for it. -/
def execWalkCompletion (id : Nat) (s : State) : Host.Outcome State Fault Refusal :=
  match s.walks.find? fun w => w.id == id with
  | none => .next s
  | some w =>
    if !s.walkEnds w then .next s
    else
      let here (q : Walk) : Bool := q.id == id || q.lead == some id
      let reqs := (s.walks.filter here).map (·.req)
      let gone : State := { s with walks := s.walks.filter fun q => !here q }
      let t :=
        if w.drop then gone
        else match s.walkEnd w with
          | .ok e => reqs.foldl (fun (t : State) q => t.tlbPut q.core e) gone
          | .error _ => { s with walks := s.walks.map fun (q : Walk) => if here q then { q with failed := true } else q }
      .next (reqs.foldl State.wakeWalk t)

/-! ### Requests at the banks (R239, R242, R246, R253) -/

/-- Would the bank serve the request, but that the home directory has no room for its visitor copy (R242)? -/
def State.crowded (s : State) (a : Access) : Bool :=
  let d := s.bankDomain a
  let h := paDomain a.pa
  !a.scratch && !a.writes && a.stage == .issued && decide (paRegion a.pa ≤ 1) && !s.l1Hit a && s.clear a && s.atBank a &&
    d != h && !s.l2Has d a.pa && !s.dirRoom a.pa && s.domainUp d && !s.lineWaits a.pa &&
    !s.flight.any fun b => b.op == .evict && paDomain b.pa == h && s.bankNumber h b.pa == s.bankNumber h a.pa

/-- The directory evicts its entry of the lowest line that nothing holds: first its visitor copies are invalidated, as for a write (R242,
log 84). -/
def State.evict (s : State) (a : Access) : State :=
  match (s.entriesAt a.pa).find? fun l => !s.held (paDomain a.pa) (128 * l) with
  | none => s
  | some l =>
    let home : BankWait := { domain := paDomain a.pa, arrived := true }
    s.launchAccess { id := 0, uid := 0, c := ⟨⟨0, 0⟩, 0⟩, core := 0, lane := 0, op := .evict, scratch := false, va := 0, pa := 128 * l
                     size := 128, scope := 3
                     stage := .waiting s.ticks home ((tget [] s.directory l).map fun d =>
                       { domain := d, trip := some (s.inject 1 0 (s.bankPlace (paDomain a.pa) a.pa) (s.bankPlace d (128 * l))) }) }

/-- Is the access a read that can be served now? A reading of tile flags needs the lines of all of them. -/
def State.canServe (s : State) (a : Access) : Bool :=
  !a.writes && a.stage == .issued && s.servable a && (match a.op with
    | .tiles id => ((s.grid? id).map fun g => (s.tileReads g).all s.bankOpen).getD true
    | _ => true)

/-- The flags of a grid's next block are read (R177). -/
def State.serveTiles (s : State) (a : Access) (id : Nat) : State :=
  let t : State := { s with flight := s.flight.filter fun b => b.id != a.id }
  (t.touchAll (((s.grid? id).map s.tileReads).getD [])).readTiles id

def State.serve (s : State) (a : Access) : State :=
  match a.op with
  | .watch => s.serveWatch a
  | .pref _ _ _ => s.servePref a
  | .fetch copy => s.serveFetch a copy
  | .code => s.serveCode a
  | .walk id => s.serveWalk a id
  | .tiles id => s.serveTiles a id
  | _ => s.serveLoad a

/-- LEASE_GRANT (R239): the bank serves a block-scope LD that missed in L1, and grants a lease on its line; or its directory makes room
first (R242). -/
def State.leaseDue (s : State) (a : Access) : Bool :=
  a.op == .load && !a.scratch && !a.covers && a.scope == 0 && decide (paRegion a.pa ≤ 1) && !s.l1Hit a && (s.canServe a || s.crowded a)

def execLeaseGrant (acc : Nat) (s : State) : Host.Outcome State Fault Refusal :=
  match s.access? acc with
  | some a => .next (if !s.leaseDue a then s else if s.crowded a then s.evict a else s.serveLoad a)
  | none => .next s

/-- Has what a fetch of a copy or of code brings reached its core? -/
def State.lands (s : State) (a : Access) : Bool :=
  a.replied && s.flight.contains a && (match a.op with | .fetch _ => true | .code => true | _ => false)

/-- It comes to the copy, or to the instruction cache. -/
def State.land (s : State) (a : Access) : State :=
  match a.op with
  | .fetch copy => s.landFetch a copy
  | _ => s.landCode a

/-- Has the packet of the access something to do now: to leave its core, to go on to its next router, for a read to be served at the
end of its way, or for a reply to act at its core? -/
def State.packetDue (s : State) (a : Access) : Bool := s.sends a || s.moves a || s.crowded a || s.canServe a || s.lands a

/-- PACKET_SERVICE (R246, R252-R254): a packet leaves its core, a router port serves it, or its bank or its core does. -/
def execPacketService (acc : Nat) (s : State) : Host.Outcome State Fault Refusal :=
  match s.access? acc with
  | some a =>
    .next (if s.sends a then s.sendRequest a
      else if s.moves a then s.moveOn a
      else if s.crowded a then s.evict a
      else if s.canServe a then s.serve a
      else if s.lands a then s.land a else s)
  | none => .next s

/-- Has an L1 a sector that is absent: within 8 ticks of its lease's expiry, or after it (R239)? -/
def Core.lapsed (c : Core) (ticks : Nat) : Bool := c.l1.any fun e => e.sectors.any fun q => leaseOver ticks q.2

/-- LEASE_EXPIRY (R239): every L1 drops its copies from 8 ticks before their leases' expiry. -/
def execLeaseExpiry (s : State) : Host.Outcome State Fault Refusal :=
  let left (e : L1Line) : L1Line := { e with sectors := e.sectors.filter fun q => !leaseOver s.ticks q.2 }
  let drop (c : Core) : Core := { c with l1 := (c.l1.map left).filter fun e => !e.sectors.isEmpty }
  .next (s.cores.foldl (fun s k => if k.2.lapsed s.ticks then s.modCore k.1 drop else s) s)

/-- EPOCH_START (R241): the banks clear the signature that recorded the epoch before last. -/
def State.epochDue (s : State) : Bool := s.sigs.any fun r => decide (r.epoch + 2 ≤ s.ticks / 16384)

def execEpochStart (s : State) : Host.Outcome State Fault Refusal :=
  .next { s with sigs := s.sigs.filter fun r => decide (s.ticks / 16384 < r.epoch + 2)
                 leases := s.leases.filter fun r => decide (s.ticks < r.expiry) }

/-! ### Writes at the home bank (R240-R242) -/

/-- May the write reach its home bank now? Writes to one line arrive one after another, and packets in the order of R253. -/
def State.arrives (s : State) (a : Access) : Bool :=
  a.homeBound && a.stage == .issued && s.bankTakes a && (!s.travels a || s.atBank a)

/-- WRITE_ARRIVAL (R240, R242). -/
def execWriteArrival (acc : Nat) (s : State) : Host.Outcome State Fault Refusal :=
  match s.access? acc with
  | none => .next s
  | some a =>
    .next (if s.arrives a then
      (s.touchBanks a.pa).bump.setAccess acc fun x => { x with stage := s.waitingStage a.pa a.size, trip := none }
    else s)

/-- May the write be performed now? One of the scratchpad waits for its place among the writes that are forwarded (R271, R336), and a draft
for its draft way (R396). -/
def State.performs (s : State) (a : Access) : Bool :=
  if a.homeBound then
    match a.stage with
    | .waiting _ home visitors => home.resolved s.ticks && visitors.isEmpty
    | _ => false
  else a.writes && a.stage == .issued && s.clear a && (a.scratch || s.wayFree a) &&
    (!a.scratch || !(s.storesBefore a.c ((List.range 64).filter a.hasLane) a.uid a.id a.offsets || s.overflows a.c.b a.offsets))

/-- The blocks that are to take a checkpoint so that a draft write finds its draft way (R396): those that hold one of the ways of its set, and
its own block where that has drafts. DESIGN CHOICE (log 102): R396 names the writing block, whose checkpoint frees no way that another
block holds. -/
def State.wayOwners (s : State) (a : Access) : List BRef :=
  match s.block? a.c.b with
  | none => []
  | some w =>
    (s.blocks.filter fun b => b.st == .resident && (s.gridOf b).st == .running &&
      (if b.ref == w.ref then !(s.draftLines b).isEmpty else !(s.draftsIn b (s.coreDomain w.core) a.pa).isEmpty)).map (·.ref)

/-- Is the access a draft write without a way, for which a checkpoint is still to be asked? -/
def State.asksWay (s : State) (a : Access) : Bool := s.wayless a && !(s.wayOwners a).isEmpty

/-- The registrar reads a tile-ready array again (R177, R306). -/
def State.rereadTiles (s : State) (array : Option Nat) : State :=
  s.grids.foldl (fun s g =>
    let here := match s.regXlate g .rd 0 (g.word 6).toNat with | .ok p => some p.pa | .error _ => none
    if g.depkind == 1 && g.st == .running && here.isSome && here == array then s.askTiles g.id else s) s

/-- The last of a request's writes by an edge link is performed: it is answered (R417). -/
def State.edgeDone (s : State) (link uid : Nat) : State :=
  if s.flight.any fun a => a.op == .edge link && a.uid == uid then s
  else { s with edgeReply := s.edgeReply ++ [(link, some [])] }

/-- WRITE_PERFORM (R263, R240, R242): a write takes effect, or a copy or the directory has its line; the line's directory entry is
cleared. -/
def execWritePerform (acc : Nat) (s : State) : Host.Outcome State Fault Refusal :=
  match s.access? acc with
  | none => .next s
  | some a =>
    if s.asksWay a then .next ((s.wayOwners a).foldl (fun s b => s.askCheckpoint b none) s)
    else if !s.performs a then .next s
    else
      let u := s
      let s : State := if a.homeBound then { s with directory := tput [] (a.pa / 128) [] s.directory } else s
      match a.op with
      | .atomic op _ _ sr ls => .next (performAtomic s a op sr ls)
      | .tready array => .next ((s.performStore a).rereadTiles array)
      | .publish b => .next ((s.performStore a).finishSealed b)
      | .claim _ => .next (s.setAccess acc fun x => { x with stage := .fixed [] false })
      | .evict => .next { s with flight := s.flight.filter fun x => x.id != acc }
      | .edge link => .next ((s.performStore a).edgeDone link a.uid)
      | .status id =>
        match s.grid? id with
        | some g => .next (((s.performStore a).finishRetire g g.status).releaseAll.imaged u)
        | none => .next (s.performStore a)
      | _ => .next (s.performStore a)

/-! ### Revokes and invalidations (R241, R242) -/

/-- Change what the bank of a domain resolves for a write that waits. -/
def State.modWait (s : State) (acc domain : Nat) (f : BankWait → BankWait) : State :=
  let g (w : BankWait) : BankWait := if w.domain == domain then f w else w
  s.setAccess acc fun x => match x.stage with
    | .waiting t h vs => { x with stage := .waiting t (g h) (vs.map g) }
    | _ => x

/-- The packet of a core in a list, and the list with it changed, or without it. -/
def packetOf (l : List (Nat × Trip)) (core : Nat) : Option Trip := (l.find? fun q => q.1 == core).map (·.2)
def setPacket (l : List (Nat × Trip)) (core : Nat) (t : Trip) : List (Nat × Trip) := l.map fun q => if q.1 == core then (core, t) else q
def dropPacket (l : List (Nat × Trip)) (core : Nat) : List (Nat × Trip) := l.filter fun q => q.1 != core

/-- What a bank of a domain resolves for an access. -/
def Access.waitOf (a : Access) (domain : Nat) : Option BankWait := a.waits.find? fun w => w.domain == domain

/-- Can a packet act: has it arrived, or does its port serve it? -/
def State.acts (s : State) (t : Trip) : Bool := t.there || s.portServes t

/-- REVOKE (R241): the packet goes on; or it reaches the core, which drops the whole line, if it holds it, and acknowledges. -/
def execRevoke (core acc : Nat) (s : State) : Host.Outcome State Fault Refusal :=
  let d := s.coreDomain core
  match s.access? acc with
  | none => .next s
  | some a =>
    match (a.waitOf d).bind fun w => packetOf w.revokes core with
    | none => .next s
    | some t =>
      .next (if t.there then
        (s.bump.modCore core fun c => c.dropLine (a.pa / 128)).modWait acc d fun w =>
          { w with revokes := dropPacket w.revokes core
                   acks := w.acks ++ [(core, s.inject 1 0 (s.coreRouter core) (s.bankPlace d a.pa))] }
      else if s.portServes t then s.modWait acc d fun w => { w with revokes := setPacket w.revokes core t.on }
      else s)

/-- REVOKE_ACK (R241, R242): the acknowledgement of a revoke, or that of an invalidation, goes on, or reaches the bank that waits for it. -/
def execRevokeAck (what : PowerUnit) (acc : Nat) (s : State) : Host.Outcome State Fault Refusal :=
  match s.access? acc with
  | none => .next s
  | some a =>
    .next (match what with
      | .core k =>
        let d := s.coreDomain k
        match (a.waitOf d).bind fun w => packetOf w.acks k with
        | none => s
        | some t =>
          if t.there then s.modWait acc d fun w => { w with acks := dropPacket w.acks k }
          else if s.portServes t then s.modWait acc d fun w => { w with acks := setPacket w.acks k t.on } else s
      | .banks d =>
        match (a.waits.drop 1).find? fun w => w.domain == d && w.dropped with
        | none => s
        | some w =>
          if (w.trip.map Trip.there).getD true then s.setAccess acc fun x => match x.stage with
            | .waiting t h vs => { x with stage := .waiting t h (vs.filter fun w => !(w.domain == d && w.dropped)) }
            | _ => x
          else if (w.trip.map s.portServes).getD false then s.modWait acc d fun w => { w with trip := w.trip.map Trip.on } else s)

/-- Has a visitor bank resolved its leases on a copy that it is to drop (R242)? -/
def BankWait.drops (w : BankWait) (ticks : Nat) : Bool := !w.dropped && w.resolved ticks

/-- INVALIDATION (R242): its packet goes on; it reaches a visitor bank, which resolves the leases that it has granted on the copy; and when
they are resolved the bank drops the copy, and its acknowledgement sets out. -/
def execInvalidation (domain acc : Nat) (s : State) : Host.Outcome State Fault Refusal :=
  match s.access? acc with
  | none => .next s
  | some a =>
    match a.stage with
    | .waiting t h vs =>
      let on (f : BankWait → BankWait) (s : State) : State := s.setAccess acc fun x =>
        { x with stage := .waiting t h (vs.map fun w => if w.domain == domain then f w else w) }
      match vs.find? fun w => w.domain == domain with
      | none => .next s
      | some w =>
        .next (if !w.arrived then
            (if (w.trip.map Trip.there).getD true then on (fun _ => s.bankWait domain a.pa a.size) (s.touchDomain domain).bump
             else if (w.trip.map s.portServes).getD false then on (fun w => { w with trip := w.trip.map Trip.on }) s
             else s)
          else if w.drops s.ticks then
            on (fun w => { w with dropped := true, trip := some (s.inject 1 0 (s.bankPlace domain a.pa) (s.bankPlace (paDomain a.pa) a.pa)) })
              (s.l2Drop domain (a.pa / 128)).bump
          else s)
    | _ => .next s

/-- Messages between the banks and the cores for a write that waits; `late` takes those that time may not pass before, since R253 delivers
every packet within 2^20 ticks of its injection. -/
def State.messages (s : State) (late : Bool) (a : Access) : List Instr :=
  let goes (t : Trip) : Bool := s.acts t && (!late || t.late s.ticks)
  let of (w : BankWait) : List Instr :=
    ((w.revokes.filter fun q => goes q.2).map fun q => .revoke q.1 a.id) ++
      (w.acks.filter fun q => goes q.2).map fun q => .revokeAck (.core q.1) a.id
  match a.stage with
  | .waiting _ h vs =>
    of h ++ vs.flatMap fun w =>
      (if !w.arrived && (w.trip.map goes).getD true then [.invalidation w.domain a.id] else []) ++ of w ++
        (if w.dropped && (w.trip.map goes).getD true then [.revokeAck (.banks w.domain) a.id] else [])
  | _ => []

/-! ### L2 modes (R245) and recesses (R249) -/

/-- Is the partition at a context boundary with a requested mode? -/
def State.modeDue (s : State) (part : Nat) : Bool :=
  (s.part part).l2req.isSome && s.blocks.all fun b => b.st == .saved || (s.gridOf b).part != part

/-- L2_MODE_CHANGE (R245): dirty lines are written back, visitor copies dropped and the directories cleared. -/
def execL2ModeChange (part : Nat) (s : State) : Host.Outcome State Fault Refusal :=
  .next (if s.modeDue part then
    let t := s.dropCopies (s.directory.map (·.1))
    let clean : State := { t with l2 := t.l2.map fun b => (b.1, b.2.map fun (e : L2Line) => { e with dirty := false }), directory := [] }
    clean.modPart part fun p => { p with l2mode := p.l2req.getD p.l2mode, l2req := none }
  else s)

/-- Is bank `b` inside its refresh window (R249)? -/
def State.inWindow (s : State) (bank : Nat) : Bool :=
  let u := s.ticks % 32768
  decide (2048 * bank ≤ u) && decide (u < 2048 * bank + 640)

/-- The bank inside its window, if any. -/
def State.bankNow (s : State) : Option Nat := (List.range 16).find? s.inWindow

/-- RECESS_START (R249). -/
def execRecessStart (s : State) : Host.Outcome State Fault Refusal :=
  match s.bankNow with
  | some b => .next { s with recess := some b }
  | none => .next s

/-- RECESS_END (R249). -/
def execRecessEnd (s : State) : Host.Outcome State Fault Refusal :=
  match s.recess with
  | some b => .next (if s.inWindow b then s else { s with recess := none })
  | none => .next s

end Sys2Proof.Machine
end

