-- ==== Sys2Proof/Machine/Power.lean ====
section
/-! DEFINITION. Power gating and the inrush tokens (R258, R425, R426). -/

namespace Sys2Proof.Machine

/-! ### Gating (R425, R258) -/

/-- The tick from which a core has held no block. -/
def State.idleFrom (s : State) (core : Nat) : Nat := (s.core core).idleSince.getD s.bootTick

/-- Has a powered core been idle for PGIDLE ticks? A PGIDLE of 0 turns gating off. -/
def State.gateDue (s : State) (core : Nat) : Bool :=
  s.pgidle != 0 && (s.core core).power == .on && (s.chart.site? core).isSome && (occupying s.blocks core).isEmpty &&
    decide (s.idleFrom core + s.pgidle ≤ s.ticks)

/-- CORE_GATE (R425, R258): the core empties its L1 and its first-level TLB and begins to gate. -/
def execCoreGate (core : Nat) (s : State) : Host.Outcome State Fault Refusal :=
  .next (if s.gateDue core then
    s.modCore core fun c => { c with power := .gating (s.ticks + 1000), l1 := [], tlb := [] } else s)

/-- The parts of a range of bytes in 64-byte sectors: address, and place and length in the range. -/
def sectorParts : Nat → Nat → Nat → Nat → List (Nat × Nat × Nat)
  | 0, _, _, _ => []
  | n + 1, a, k, len =>
    if len == 0 then [] else
    let here := min len (64 - a % 64)
    (a, k, here) :: sectorParts n (a + here) (k + here) (len - here)

/-- Where a port's register template lies, or none where it names none (R168). -/
def PortRegs.template (r : PortRegs) : Option Nat := if r.pgrid.getLsbD 0 then some (fld r.pgrid 47 6 * 64) else none

/-- Physical addresses that a request from outside has the banks read: of a host request, of another module's, and of a POST the register
template, which the registrar reads when it accepts the record (R168). -/
def State.requestPas (s : State) (i : Instr) : List Nat :=
  match i with
  | .hostRead p false off _ => [(s.portRegs p).pwin.toNat + off]
  | .inboundRequest _ addr len none => (sectorParts (len / 64 + 2) addr 0 len).map (·.1)
  | .post p _ _ => (s.portRegs p).template.toList
  | _ => []

/-- The domains whose banks an access in flight needs: of the bank that it has reached, and of its home, which a visitor bank asks; or of
the banks that resolve what it waits for. -/
def State.needsBanks (s : State) (a : Access) : List Nat :=
  if a.scratch || decide (1 < paRegion a.pa) then []
  else if a.stage != .issued then a.waits.map (·.domain)
  else if a.draft || s.l1Hit a || (s.travels a && !(((s.tripOf a).map Trip.there).getD false)) then []
  else [s.bankDomain a, paDomain a.pa]

/-- What the registrar waits to read: for launches that may enter dispatch or retire, for the block to be placed next, for tile flags, for
checkpoints and saves, and for spawn records (R166, R170, R172, R177, R189, R390, R398). -/
def State.registrarReads (s : State) : List Nat :=
  (s.grids.flatMap fun g =>
    (if s.mayEnter g then s.launchReads g else []) ++ (if g.st == .awaiting && s.producerDone g then s.rangeReads g else []) ++
      (if s.gridDone g then s.statusReads g else []) ++ (if s.flight.any fun a => a.op == .tiles g.id then s.tileReads g else [])) ++
  ((s.choosePlacement.map fun q => s.placeReads q.1).getD []) ++
  (s.blocks.flatMap fun b =>
    (if s.ckAsked b && !b.publishing && s.settled b.ref then s.ckReads b else []) ++ (if b.saveBegun && !b.captured then s.saveReads b else [])) ++
  s.allSplits.flatMap fun r => if s.spawnReady r then s.spawnReads r else []

/-- Does a request wait for the banks of a domain (R258)? -/
def State.banksWanted (s : State) (d : Nat) : Bool :=
  let here (pa : Nat) : Bool := decide (paRegion pa ≤ 1) && paDomain pa == d
  (s.flight.any fun a => (s.needsBanks a).contains d) || s.registrarReads.any here ||
    (match s.agenda with | i :: _ => (s.requestPas i).any here | [] => false)

/-- Has a domain's bank group been idle, with every core of the domain gated, for PGIDLE ticks? -/
def State.bankGateDue (s : State) (d : Nat) : Bool :=
  s.pgidle != 0 && decide (d < 84) && (s.dom d).banks == .on && !s.banksWanted d &&
    decide (((s.dom d).banksIdle.getD s.bootTick) + s.pgidle ≤ s.ticks) &&
    s.coreNames.all fun k => s.coreDomain k != d || (s.core k).power == .gated

/-- BANK_GROUP_GATE (R425, R258): the banks write back their dirty lines, have the visitor copies of their lines invalidated and
drop their own. -/
def execBankGroupGate (d : Nat) (s : State) : Host.Outcome State Fault Refusal :=
  .next (if s.bankGateDue d then
    let u := s.dropCopies ((s.directory.filter fun e => paDomain (128 * e.1) == d).map (·.1))
    let mask (e : Nat × List Nat) : Option (Nat × List Nat) :=
      let l := e.2.filter fun k => k != d
      if l.isEmpty then none else some (e.1, l)
    let t : State := { u with directory := u.directory.filterMap mask, l2 := u.l2.filter fun b => b.1 / 16 != d }
    t.modDom d fun x => { x with banks := .gating (s.ticks + 1000) }
  else s)

/-! ### Waking (R426) -/

/-- Give free tokens to the waiting requests, oldest first; a domain has eight. -/
def grantTokens (ticks : Nat) : Nat → Domain → Domain
  | 0, d => d
  | n + 1, d =>
    match d.wakes with
    | [] => d
    | u :: rest =>
      if d.tokens.length < 8 then grantTokens ticks n { d with wakes := rest, tokens := d.tokens ++ [(ticks + 2000, u)] } else d

def State.setPower (s : State) (u : PowerUnit) (p : Power) : State :=
  match u with
  | .core n => s.modCore n fun c => { c with power := p }
  | .banks d => s.modDom d fun x => { x with banks := p }

def State.powerOf (s : State) (u : PowerUnit) : Power :=
  match u with
  | .core n => (s.core n).power
  | .banks d => (s.dom d).banks

/-- The requests that hold tokens are waking. -/
def State.grant (s : State) (d : Nat) : State :=
  let x := grantTokens s.ticks 8 (s.dom d)
  x.tokens.foldl (fun s t => s.setPower t.2 .waking) (s.modDom d fun _ => x)

/-- Is a gated unit wanted: a core by a block that it holds, a bank group by a request? -/
def State.wanted (s : State) (u : PowerUnit) : Bool :=
  match u with
  | .core n => !(occupying s.blocks n).isEmpty
  | .banks d => s.banksWanted d

/-- The domain that a unit belongs to. -/
def State.unitDomain (s : State) (u : PowerUnit) : Nat :=
  match u with
  | .core n => s.coreDomain n
  | .banks d => d

def State.enqueueWake (s : State) (u : PowerUnit) : State :=
  s.modDom (s.unitDomain u) fun d => if d.wakes.contains u then d else { d with wakes := d.wakes ++ [u] }

/-- Has a unit a request to make, or the domain's oldest request a token to take? -/
def State.wakeDue (s : State) (d : Nat) (u : PowerUnit) : Bool :=
  s.unitDomain u == d && s.powerOf u == .gated &&
    ((s.wanted u && !(s.dom d).wakes.contains u) || ((s.dom d).wakes.head? == some u && decide ((s.dom d).tokens.length < 8)))

/-- WAKE_REQUEST (R426): the request enters its domain's queue, and the oldest requests take the free tokens. -/
def execWakeRequest (d : Nat) (u : PowerUnit) (s : State) : Host.Outcome State Fault Refusal :=
  .next (if s.wakeDue d u then (if s.wanted u then s.enqueueWake u else s).grant d else s)

/-- Tokens whose 2,000 ticks are over. -/
def State.tokensDue (s : State) (d : Nat) : List (Nat × PowerUnit) := (s.dom d).tokens.filter fun t => decide (t.1 ≤ s.ticks)

/-- A domain's holders wake, and the next requests take their tokens. A core's %clock starts (R85). -/
def State.releaseTokens (s : State) (d : Nat) : State :=
  let due := s.tokensDue d
  if due.isEmpty then s
  else
    let s := s.modDom d fun x => { x with tokens := x.tokens.filter fun t => !decide (t.1 ≤ s.ticks) }
    let wake (s : State) (t : Nat × PowerUnit) : State :=
      match t.2 with
      | .core n => s.modCore n fun c =>
          { c with power := .on, up := s.cycle, busy := [], chose := []
                   idleSince := if (occupying s.blocks n).isEmpty then some s.ticks else none }
      | .banks k => s.modDom k fun x => { x with banks := .on, banksIdle := some s.ticks }
    (due.foldl wake s).grant d

/-- INRUSH_TOKEN_RELEASE (R426), in every domain. -/
def execInrushTokenRelease (s : State) : Host.Outcome State Fault Refusal :=
  .next ((s.domains.map (·.1)).foldl State.releaseTokens s)

/-- Is the unit gating? -/
def State.isGating (s : State) (u : PowerUnit) : Bool := match s.powerOf u with | .gating _ => true | _ => false

/-- GATING_COMPLETE (R425, R426): the unit is gated; a request that has come for it in the meantime enters the queue. -/
def execGatingComplete (u : PowerUnit) (s : State) : Host.Outcome State Fault Refusal :=
  .next (if s.isGating u then
    let t := s.setPower u .gated
    if t.wanted u then (t.enqueueWake u).grant (t.unitDomain u) else t
  else s)

end Sys2Proof.Machine
end

