-- ==== Sys2Proof/Machine/Ports.lean ====
section
/-! DEFINITION. The control ports (R408-R413), the far tier's and the edge links' events (R414-R417) and the Afnar mailbox
(R422-R424). A port whose link is down sends nothing. -/

namespace Sys2Proof.Machine

/-! ### Requests of a port -/

/-- R408: at most 64 bytes inside one aligned 64-byte block of the BAR. -/
def requestOk (limit off n : Nat) : Bool := decide (1 ≤ n) && decide (n ≤ 64) && decide (off % 64 + n ≤ 64) && decide (off + n ≤ limit)

/-- The code that a port writes to claim MSEM (R413). -/
def portCode : Port → Nat
  | .a => 1
  | .b => 2

def State.badTarget (s : State) (p : Port) : State := s.modPort p fun r => { r with badtarget := true }
def State.notOwner (s : State) (p : Port) : State := s.modPort p fun r => { r with notowner := true }
def State.owns (s : State) (p : Port) : Bool := s.msem == portCode p

/-- The data of a completion, and whether it is marked poisoned. -/
def State.complete (s : State) (p : Port) (bytes : List Byte) (poisoned : Bool) : State :=
  s.modPort p fun r => { r with reply := bytes, poisoned := poisoned }

def zeros (n : Nat) : List Byte := List.replicate n 0

/-- In state 0x80 a port reads BSTAT, and every other access reads zero or is discarded (R420). -/
def State.dead (s : State) : Bool := s.bstate == 0x80

/-- Does a port act now? It does while its link is up, whatever the boot has come to (R418, R420). -/
def State.portActs (s : State) (p : Port) : Bool := (s.portRegs p).linkUp

/-- A byte of region 3 as a port reads it (R410, R420). -/
def State.portByte (s : State) (off : Nat) : Byte :=
  if s.dead && !(decide (8 ≤ off) && decide (off < 16)) then 0 else s.mmioByte off

/-- The physical address of a BAR2 offset (R409). -/
def State.aperture (s : State) (p : Port) (off : Nat) : Nat := (s.portRegs p).pwin.toNat + off

/-! ### HOST_READ and writes through BAR2 (R408, R409) -/

/-- Is the address in memory that a port may read (R409, R236)? -/
def State.portReads (s : State) (pa n : Nat) : Bool := decide (paRegion pa ≤ 1) && s.admits pa n

/-- R409: a poisoned sector, or an unfilled line. -/
def State.marked (s : State) (pa n : Nat) : Bool := (List.range n).any fun i => s.poisoned (pa + i) || !s.lineFilled (pa + i)

/-- HOST_READ (R408-R410): a read through BAR2, or of the registers through BAR0. -/
def execHostRead (p : Port) (bar0 : Bool) (off len : Nat) (s : State) : Host.Outcome State Fault Refusal :=
  .next (if !s.portActs p then s
    else if !requestOk (if bar0 then 2 ^ 21 else 2 ^ 38) off len then (s.complete p [] false).badTarget p
    else if bar0 && s.fenceHolds off len then s
    else if bar0 then s.complete p ((List.range len).map fun i => s.portByte (off + i)) false
    else if s.dead then s.complete p (zeros len) false
    else
      let pa := s.aperture p off
      if !s.portReads pa len then (s.complete p (zeros len) false).badTarget p
      else if !s.bankReads pa then s
      else
        let s := s.touchBanks pa
        if s.marked pa len then
          { s with draw := s.draw + len }.complete p ((List.range len).map fun i => Config.poisonByte (s.draw + i)) true
        else s.complete p ((List.range len).map fun i => s.readMem (pa + i)) false)

/-- The runs of bytes that a masked write names, with their addresses. -/
def maskRuns : Nat → List (Option Byte) → List (Nat × List Byte)
  | _, [] => []
  | a, none :: r => maskRuns (a + 1) r
  | a, some v :: r =>
    match r, maskRuns (a + 1) r with
    | some _ :: _, (_, vs) :: q => (a, v :: vs) :: q
    | _, q => (a, [v]) :: q

/-- A run of a host write on its way to its home bank: after the port's earlier writes to its bytes (R273). -/
def State.hostAccess (p : Port) (whole : Bool) (s : State) (q : Nat × List Byte) : State :=
  s.launchAccess { id := 0, uid := s.fresh, c := ⟨⟨0, 0⟩, 0⟩, core := 0, lane := 0, op := .host p, scratch := false, va := 0, pa := q.1,
                   size := q.2.length, scope := 3, bytes := q.2, covers := whole,
                   after := ((s.hostWrites p).filter fun a => a.overlaps false q.1 q.2.length).map (·.id) }

/-- A write through BAR2 (R408, R409, R273), merged by its byte mask. The port has received it; it is performed at its home bank later. -/
def State.bar2Write (s : State) (p : Port) (off : Nat) (bytes : List (Option Byte)) : State :=
  if !s.portActs p then s
  else if !requestOk (2 ^ 38) off bytes.length then s.badTarget p
  else if s.dead then s
  else
    let pa := s.aperture p off
    if !(paRegion pa == 0 && s.admits pa bytes.length) then s.badTarget p
    else (maskRuns pa bytes).foldl (State.hostAccess p (pa % 64 == 0 && bytes.length == 64 && bytes.all (· != none))) s

/-! ### POST, PFENCE and PSTAT (R411, R412, R273) -/

/-- The starting values of a host-posted grid's registers, and the failure of its template (R168). -/
def State.hostRegs (s : State) (r : PortRegs) : GridRegs × Option Nat :=
  let plain : GridRegs := { ptb := r.pptb }
  if !r.pgrid.getLsbD 0 then (plain, none)
  else
    let pa := fld r.pgrid 47 6 * 64
    if paRegion pa != 0 || !s.admits pa 64 then (plain, some 2)
    else if s.poisoned pa then (plain, some 7)
    else
      let w (k : Nat) : DWord := BitVec.ofNat 64 (s.read8 (pa + 8 * k))
      ({ plain with xvec := normXvec (w 0), xdeleg := normDeleg ((w 1).setWidth 32), llen := normLlen (w 2),
                    ckint := (w 3).setWidth 32, ckptr := normCkptr (w 4), seed := (w 5).setWidth 32 }, none)

/-- Accepted records of a port's stream that have not entered dispatch (R412). -/
def State.streamLoad (s : State) (p : Port) (stream : Nat) : Nat :=
  (s.grids.filter fun g => g.poster == .port p && g.stream == stream && g.st == .queued).length

/-- A write to POST, of a whole record or of less (R412, R166, R168): outcomes in the order of R412. The record is accepted when the banks
have served the read of the port's template. -/
def State.posted (s : State) (p : Port) (full : Bool) (record : List DWord) : State :=
  if s.bstate != 0x0F then s.modPort p fun r => { r with refused := true }
  else if !full then s.modPort p fun r => { r with partialPost := true }
  else if 32 ≤ s.streamLoad p (fld (record.getD 0 0) 63 58) then s.modPort p fun r => { r with drop := true }
  else
    let r := s.portRegs p
    if !r.template.toList.all s.bankReads then s
    else
      let key := fld r.phptb 63 48
      let regs := s.hostRegs r
      let g : Grid := { id := 0, poster := .port p, record := record, part := key, regs := regs.1, early := regs.2 }
      (((s.touchAll r.template.toList).modPart key fun q => { q with hptb := r.phptb }).acceptLaunch g).modPort p fun q =>
        { q with lastid := s.lastLaunch + 1 }

/-- POST (R412): a write from the start of POST on, of so many words; `full` says that every bit of its byte mask is set. One of more than 64
bytes is no request that a port accepts (R408). -/
def execPost (p : Port) (full : Bool) (record : List DWord) (s : State) : Host.Outcome State Fault Refusal :=
  .next (if !s.portActs p then s
    else if 8 < record.length then s.badTarget p
    else s.posted p (full && record.length == 8) record)

/-- PFENCE (R273): a read returns zero once the port's earlier writes are performed, and is not answered before. -/
def execPfence (p : Port) (s : State) : Host.Outcome State Fault Refusal :=
  .next (if s.portActs p && (s.hostWrites p).isEmpty then s.complete p (zeros 8) false else s)

/-- The status bits with ones cleared. -/
def PortRegs.cleared (r : PortRegs) (ones : DWord) : PortRegs :=
  { r with drop := r.drop && !ones.getLsbD 0, refused := r.refused && !ones.getLsbD 1,
           notowner := r.notowner && !ones.getLsbD 2, partialPost := r.partialPost && !ones.getLsbD 3,
           badtarget := r.badtarget && !ones.getLsbD 4 }

/-- PSTAT (R411): ones clear. -/
def execPstat (p : Port) (ones : DWord) (s : State) : Host.Outcome State Fault Refusal :=
  .next (if !s.portActs p || s.dead then s else s.modPort p fun r => r.cleared ones)

/-! ### MSEM (R413) -/

def normEwin (v : DWord) : DWord := v &&& 0x80FF0000FFFFFFFF
def normEin (v : DWord) : DWord := v &&& 0xC0FFFFFF00FFFFFF

/-- A management setting, or none where the offset is no such register (R413). -/
def State.setting (s : State) (off : Nat) (v : DWord) : Option State :=
  if off == 0x10 then some { s with pgidle := fld v 31 0 }
  else if 0x100 ≤ off && off < 0x180 then some { s with ewin := tput 0 ((off - 0x100) / 8) (normEwin v) s.ewin }
  else if 0x200 ≤ off && off < 0x300 then some { s with ein := tput 0 ((off - 0x200) / 8) (normEin v) s.ein }
  else none

/-- A port writes MSEM, or a setting that its owner alone may write (R413). -/
def State.guarded (s : State) (p : Port) (off : Nat) (v : DWord) : State :=
  if off == 0 then
    if fld v 1 0 == portCode p && s.msem == 0 then { s with msem := portCode p }
    else if fld v 1 0 == 0 && s.owns p then { s with msem := 0 } else s
  else
    match s.setting off v with
    | some t => if s.owns p then t else s.notOwner p
    | none => s

/-- The management writes of this tick: those that have come, or none yet. -/
def State.managedNow (s : State) : Managed :=
  let now : Managed := ⟨s.ticks, s.msem, s.pgidle, s.ewin, s.ein, (s.portA.notowner, s.portB.notowner), []⟩
  match s.managed with
  | some m => if m.tick == s.ticks then m else now
  | none => now

/-- The state as it stood before the management writes of a tick. -/
def State.before (s : State) (m : Managed) : State :=
  { s with msem := m.msem, pgidle := m.pgidle, ewin := m.ewin, ein := m.ein, portA := { s.portA with notowner := m.notowner.1 }
           portB := { s.portB with notowner := m.notowner.2 } }

/-- A management write of a port arrives (R413). Of those that arrive in one tick port A's take effect first, so that one of port A undoes
what port B's have done in the tick, and they take effect after it. -/
def State.manage (s : State) (p : Port) (off : Nat) (v : DWord) : State :=
  let m := s.managedNow
  let ws := m.writes ++ [(p, off, v)]
  let t := if p == .a && m.writes.any (fun w => w.1 == .b) then
      ((ws.filter fun w => w.1 == .a) ++ ws.filter fun w => w.1 == .b).foldl (fun (t : State) w => t.guarded w.1 w.2.1 w.2.2) (s.before m)
    else s.guarded p off v
  { t with managed := some { m with writes := ws } }

/-- MSEM_CLAIM (R413): a port writes its code. -/
def execMsemClaim (p : Port) (s : State) : Host.Outcome State Fault Refusal :=
  .next (if s.portActs p && !s.dead then s.manage p 0 (BitVec.ofNat 64 (portCode p)) else s)

/-- MSEM_RELEASE (R413): a port writes zero. -/
def execMsemRelease (p : Port) (s : State) : Host.Outcome State Fault Refusal :=
  .next (if s.portActs p && !s.dead then s.manage p 0 0 else s)

/-- PORT_LINK_DOWN (R413). -/
def execPortLinkDown (p : Port) (s : State) : Host.Outcome State Fault Refusal :=
  let t := s.modPort p fun r => { r with linkUp := false }
  .next (if s.owns p then { t with msem := 0, managed := none } else t)

/-! ### The mailbox (R422-R424) -/

/-- Writes of Afnar: `n` chunks of up to 64 bytes from a 64-byte boundary on. -/
def State.afnarWrite (s : State) (pa : Nat) (bytes : List Byte) : Nat → State
  | 0 => s
  | n + 1 =>
    if bytes.isEmpty then s
    else (s.outsideWrite .afnar 0 pa (bytes.take 64)).afnarWrite (pa + 64) (bytes.drop 64) n

/-- A recorder entry as bytes (R428); a payload holds its first value in its low eight bytes and its second in the others (log 5). -/
def RecEntry.bytes (e : RecEntry) : List Byte :=
  leBytes 8 e.time ++ leBytes 1 e.type ++ leBytes 1 (boolBit e.fatal 0) ++ leBytes 1 e.domain ++ leBytes 1 0 ++ leBytes 4 e.core ++
    leBytes 16 e.payload

/-- The result of command 0x01 (R423): a header, and 4,096 entries, oldest first; places never written come last, as zeros. -/
def State.recorderBytes (s : State) (d : Nat) : List Byte :=
  let x := s.dom d
  leBytes 4 (x.events % 4096) ++ leBytes 1 (boolBit s.frozen 0) ++ leBytes 3 0 ++ leBytes 8 x.events ++ leBytes 48 0 ++
    x.ring.flatMap RecEntry.bytes ++ zeros (32 * (4096 - x.ring.length))

/-- The nonce register holds 64 bytes. -/
def Mailbox.nonceBytes (m : Mailbox) : List Byte := (m.nonce ++ zeros 64).take 64

/-- The result of command 0x02 (R424). -/
def State.report (s : State) : List Byte :=
  leBytes 8 1 ++ s.mailbox.nonceBytes ++ (List.range 64).map (Config.firmwareDigest s.fwslot) ++
    (List.range 64).map (Config.mapDigest s.mapcopy) ++ leBytes 4 s.chart.gcores ++ leBytes 4 s.chart.gbisect ++
    leBytes 4 s.chart.gsram ++ leBytes 4 s.chart.gdetour ++ leBytes 8 s.bstat ++ leBytes 8 s.ticks ++ leBytes 8 s.nv.boots ++
    leBytes 16 0 ++ (List.range 4627).map (Config.signature s.draw)

/-- A command's result, or none for an unknown command or domain. -/
def State.commandResult (s : State) (domain cmd : Nat) : Option (List Byte) :=
  match cmd with
  | 1 => if domain < 84 then some (s.recorderBytes domain) else none
  | 2 => some s.report
  | 3 => some []
  | 4 => some ((List.range 2592).map Config.identityKey ++ Config.certificate)
  | _ => none

/-- Installed region-0 memory holds the result from the buffer address on (R423). -/
def State.resultFits (s : State) (pa n : Nat) : Bool := n == 0 || (paRegion pa == 0 && s.admits pa n)

/-- Is a command write of port `p` taken in this tick (R422)? None is while Afnar is busy; of two in one tick, port A's is. -/
def Mailbox.takes (m : Mailbox) (p : Port) (tick : Nat) : Bool :=
  match p with
  | .a => m.status != 1 || m.taken == some (.b, tick)
  | .b => m.status != 1 && m.taken != some (.a, tick)

/-- A command write (R422, R423): Afnar is busy until AFNAR_COMMAND_DONE, or answers with status 3. -/
def State.mailboxCommand (s : State) (p : Port) (domain cmd : Nat) : State :=
  if !s.portActs p || s.dead then s
  else if cmd == 3 && !s.owns p then s.notOwner p
  else if !s.mailbox.takes p s.ticks then s
  else
    let m := { s.mailbox with domain := domain, cmd := cmd, target := s.mailbox.buffer, taken := some (p, s.ticks) }
    match s.commandResult domain cmd with
    | none => { s with mailbox := { m with status := 3 } }
    | some bytes => { s with mailbox := { m with status := if s.resultFits m.target bytes.length then 1 else 3 } }

/-- READ_RECORDER (R423). -/
def execReadRecorder (p : Port) (domain : Nat) (s : State) : Host.Outcome State Fault Refusal :=
  .next (s.mailboxCommand p (domain % 256) 1)
/-- ATTESTATION_REPORT (R424). -/
def execAttestationReport (p : Port) (s : State) : Host.Outcome State Fault Refusal := .next (s.mailboxCommand p s.mailbox.domain 2)
/-- UNFREEZE (R423, R427). -/
def execUnfreeze (p : Port) (s : State) : Host.Outcome State Fault Refusal := .next (s.mailboxCommand p s.mailbox.domain 3)
/-- IDENTITY_PUBLIC_KEY (R423). -/
def execIdentityPublicKey (p : Port) (s : State) : Host.Outcome State Fault Refusal :=
  .next (s.mailboxCommand p s.mailbox.domain 4)

/-- Is Afnar at work on a command of an earlier tick, with no write of its result still on the way? -/
def State.afnarReady (s : State) : Bool :=
  s.mailbox.status == 1 && !(s.flight.any fun a => a.op == .afnar) &&
    (match s.mailbox.taken with | some q => decide (q.2 < s.ticks) | none => true)

/-- The command is done. -/
def State.commandDone (s : State) : State :=
  { s with mailbox := { s.mailbox with status := 2, writing := false }, frozen := s.frozen && s.mailbox.cmd != 3, draw := s.draw + 1 }

/-- AFNAR_COMMAND_DONE (R422, R423): Afnar writes the result, and the command is done when every write is performed (log 55). -/
def execAfnarCommandDone (s : State) : Host.Outcome State Fault Refusal :=
  let m := s.mailbox
  .next (if !s.afnarReady then s
    else if m.writing then s.commandDone
    else
      let bytes := (s.commandResult m.domain m.cmd).getD []
      let t := s.afnarWrite m.target bytes (bytes.length / 64 + 1)
      if t.flight.any fun a => a.op == .afnar then { t with mailbox := { m with writing := true } } else t.commandDone)

/-! ### REGISTER_WRITE and HOST_WRITE (R408-R411, R413, R416, R417, R422, R425) -/

def normPwin (v : DWord) : DWord := v &&& 0x0000FFC000000000
def normPgrid (v : DWord) : DWord := v &&& 0x0000FFFFFFFFFFC1

/-- A write to the port's own register block (R411). -/
def PortRegs.write (r : PortRegs) (off : Nat) (v : DWord) : PortRegs :=
  match off with
  | 0x50 => { r with pptb := normPtb v }
  | 0x58 => { r with phptb := normHptb v }
  | 0x60 => { r with pwin := normPwin v }
  | 0x70 => { r with pgrid := normPgrid v }
  | _ => r

/-- A command write of the mailbox that leaves out the command's own byte sets the domain field alone, where Afnar is not busy (log 54). -/
def State.mailboxDomain (s : State) (domain : Nat) : State :=
  if s.mailbox.status == 1 then s else { s with mailbox := { s.mailbox with domain := domain } }

/-- A register of region 3 that is not POST takes a value from a port (R410, R411, R413, R422); `low` says whether the write names its lowest
byte. A write to any other offset, or to the other port's block, is discarded. -/
def State.registerSet (s : State) (p : Port) (off : Nat) (v : DWord) (low : Bool) : State :=
  if off == portBase p + 0x48 then s.modPort p fun r => r.cleared v
  else if portBase p ≤ off && off < portBase p + 0x78 then s.modPort p fun r => r.write (off - portBase p) v
  else if off == 0x30000 then (if low then s.mailboxCommand p (fld v 15 8) (fld v 7 0) else s.mailboxDomain (fld v 15 8))
  else if off == 0x30010 then { s with mailbox := { s.mailbox with buffer := fld v 47 12 * 4096 } }
  else if 0x30040 ≤ off && off < 0x30080 then
    let m := s.mailbox.nonceBytes
    { s with mailbox := { s.mailbox with nonce := m.take (off - 0x30040) ++ leBytes 8 v.toNat ++ m.drop (off - 0x30040 + 8) } }
  else if off == 0 || (s.setting off v).isSome then s.manage p off v
  else s

/-- The bytes that a write names of the aligned 8 bytes at an offset. -/
def namedBytes (at' : Nat) (bytes : List (Option Byte)) (off : Nat) : List (Option Byte) :=
  (List.range 8).map fun i => if off + i < at' then none else (bytes.getD (off + i - at') none)

/-- What a register takes from some of its bytes: each of the others keeps what it holds, and of PSTAT, whose ones clear, counts as zero
(log 54). -/
def State.mergedWord (s : State) (p : Port) (off : Nat) (named : List (Option Byte)) : DWord :=
  BitVec.ofNat 64 (leNat (named.mapIdx fun i v => v.getD (if off == portBase p + 0x48 then 0 else s.portByte (off + i))))

/-- A write through BAR0 (R408, R410-R413). One into POST posts a record, or part of one. DESIGN CHOICE (log 54): the spec does not say what a
write of some bytes of a register does; the model merges them by the byte mask, register by register in the order of their offsets. -/
def State.bar0Write (s : State) (p : Port) (off : Nat) (bytes : List (Option Byte)) : State :=
  if !s.portActs p then s
  else if !requestOk (2 ^ 21) off bytes.length then s.badTarget p
  else if portBase p ≤ off && off < portBase p + 0x40 then
    s.posted p (bytes.length == 64 && bytes.all (·.isSome)) (recordWords (bytes.map (·.getD 0)))
  else if s.dead then s
  else
    (List.range 8).foldl (fun s i =>
      let at' := (off / 8 + i) * 8
      let named := namedBytes off bytes at'
      if named.any (·.isSome) then s.registerSet p at' (s.mergedWord p at' named) (named.headD none).isSome else s) s

/-- REGISTER_WRITE (R410): eight bytes through BAR0. Registers with rows of their own act as those. -/
def execRegisterWrite (p : Port) (off : Nat) (v : DWord) (s : State) : Host.Outcome State Fault Refusal :=
  .next (s.bar0Write p off ((leBytes 8 v.toNat).map some))

/-- HOST_WRITE (R408, R409): a write through BAR2, or of registers through BAR0; `none` is a byte that its mask leaves out. -/
def execHostWrite (p : Port) (off : BarPlace) (bytes : List (Option Byte)) (s : State) : Host.Outcome State Fault Refusal :=
  match off with
  | .bar0 off => .next (s.bar0Write p off bytes)
  | .bar2 off => .next (s.bar2Write p off bytes)

/-! ### The far tier and the edge links (R414-R417) -/

/-- Global bytes that the next byte of a copy reads and writes: virtual and physical address. -/
def State.copySides (s : State) (op : CopyOp) : List (Nat × Nat) :=
  match s.grid? op.b.grid with
  | none => []
  | some g =>
    let at' (isDst fill : Bool) (a : Nat) : List (Nat × Nat) :=
      match s.copyXlate op.core g op.mode (op.scope == 3) fill isDst a (op.page isDst) with
      | .ok p => [(a, p.pa)]
      | .error _ => []
    match op.moves with
    | .runs toGlob fromGlob fill _ rs =>
      match byteAt rs op.done with
      | some (d, src, _) =>
        (if toGlob then at' true fill d else []) ++
          (match src with | some a => if fromGlob then at' false fill a else [] | none => [])
      | none => []
    | .peer fromGlob _ rs _ ds =>
      if !fromGlob then []
      else ds.flatMap fun d =>
        if d.code.isSome then []
        else match byteAt rs d.done with
          | some (_, some a, _) => at' false false a
          | _ => []
    | .fence _ => []

/-- The address at which the next byte of a copy crosses a window that the link carries (R416). -/
def State.crossing (s : State) (op : CopyOp) (link : Nat) : Option Nat :=
  ((s.copySides op).find? fun q => paRegion q.2 == 4 && (tget 0 s.ewin (q.2 / 2 ^ 40 % 16)).getLsbD link).map (·.1)

/-- EDGE_LINK_DOWN (R415, R416): copies that the link carries resolve with 0x07. -/
def execEdgeLinkDown (link : Nat) (s : State) : Host.Outcome State Fault Refusal :=
  if s.linksDown.contains link || decide (32 ≤ link) then .next s
  else
    let t := { s with linksDown := setAdd link s.linksDown }.record 0 8 0xFFFFFF link
    .next ((s.copies.filter s.begins).foldl (fun t o =>
      match s.crossing o link with
      | some a => t.endCopy o 7 false o.done a
      | none => t) t)

/-- CXL_PORT_FAILURE (R414, R251): requests to the port end as they reach it. -/
def execCxlPortFailure (n : Nat) (s : State) : Host.Outcome State Fault Refusal :=
  .next (if s.cxlDown.contains n || decide (16 ≤ n) then s
    else { s with cxlDown := setAdd n s.cxlDown }.record 0 8 0xFFFFFF n)

/-- R417: is an inbound request served? -/
def State.admitsInbound (s : State) (link addr len : Nat) (write : Bool) : Bool :=
  let w := tget 0 s.ein link
  w.getLsbD (if write then 62 else 63) && decide (1 ≤ len) && decide (fld w 23 0 ≤ addr / 2 ^ 24) &&
    decide ((addr + len - 1) / 2 ^ 24 < fld w 55 32) && decide (paRegion addr ≤ (if write then 0 else 1)) && s.admits addr len

/-- INBOUND_REQUEST (R417): a read or write of another module's copy: served, or answered with a refusal, unless the module has stopped
(R418, R427). The reply has no byte where a sector is poisoned, or a weight-store line is unfilled. -/
def execInboundRequest (link addr len : Nat) (data : Option (List Byte)) (s : State) : Host.Outcome State Fault Refusal :=
  let n := match data with | some bs => bs.length | none => len
  if s.linksDown.contains link || decide (32 ≤ link) || s.dead || s.stopped then .next s
  else if !s.admitsInbound link addr n data.isSome then .next { s with edgeReply := s.edgeReply ++ [(link, none)] }
  else
    let parts := sectorParts (n / 64 + 2) addr 0 n
    match data with
    | some bs =>
      let t := parts.foldl (fun t q => State.outsideWrite (.edge link) s.fresh t q.1 ((bs.drop q.2.1).take q.2.2)) s.bump
      .next (t.edgeDone link s.fresh)
    | none =>
      if parts.any fun q => !s.bankReads q.1 then .next s
      else
        let t := parts.foldl (fun s q => s.touchBanks q.1) s
        let v := (List.range n).map fun i => if s.marked (addr + i) 1 then none else some (s.readMem (addr + i))
        .next { t with edgeReply := t.edgeReply ++ [(link, some v)] }

end Sys2Proof.Machine
end

