-- ==== Sys2Proof/Machine/Boot.lean ====
section
/-! DEFINITION. Reset and boot (R418-R421), the roll call (R256), the report card (R4-R8), the detour table (R255), the seating
chart's copy (R257), and fatal events (R427). -/

namespace Sys2Proof.Machine

/-! ### The detour table (R255) and the mesh of 48 by 28 routers (R252) -/

/-- A dead link as the eastward or southward link of its lower router, with the planes. -/
structure DeadLink where
  col : Nat
  row : Nat
  south : Bool
  planes : Nat
  hops : Nat
  deriving DecidableEq, Repr

def deadRouters (ds : List Detour) : List (Nat × Nat) := (ds.filter fun d => d.dir == 4).map fun d => (d.col, d.row)

def deadLinks (ds : List Detour) : List DeadLink :=
  ds.filterMap fun d =>
    match d.dir with
    | 0 => some ⟨d.col, d.row, false, d.planes, d.hops⟩
    | 1 => some ⟨d.col - 1, d.row, false, d.planes, d.hops⟩
    | 2 => some ⟨d.col, d.row, true, d.planes, d.hops⟩
    | 3 => some ⟨d.col, d.row - 1, true, d.planes, d.hops⟩
    | _ => none

/-- The L2 bank at a router, as 16 * domain + bank (R236). -/
def routerBank (col row : Nat) : Nat := 16 * (12 * (row / 4) + col / 4) + (col % 4 + 4 * (row % 4))

/-- The table that firmware writes from the defect map: extra hops and partners (R255, R257). -/
def detourTable (m : DefectMap) (dead : List Nat) : List Detour :=
  m.detours.map fun d =>
    { d with hops := 2, partner := if d.dir == 4 then partnerOf dead (routerBank d.col d.row) else 0xFF }

/-- Does a link of the plane join two live routers and stand itself? -/
def linkLive (rs : List (Nat × Nat)) (ls : List DeadLink) (plane col row : Nat) (south : Bool) : Bool :=
  let other := if south then (col, row + 1) else (col + 1, row)
  !rs.contains (col, row) && !rs.contains other &&
    !ls.any fun l => l.col == col && l.row == row && l.south == south && l.planes.testBit plane

/-- %gbisect (R5): the lesser cut, 819.2 GB/s for each live link-plane, rounded down. -/
def bisection (ds : List Detour) : Nat :=
  let rs := deadRouters ds
  let ls := deadLinks ds
  let count (n : Nat) (f : Nat → Nat → Bool) : Nat :=
    ((List.range n).map fun k => ((List.range 2).filter fun p => f p k).length).foldl (· + ·) 0
  min (count 28 fun p y => linkLive rs ls p 23 y false) (count 48 fun p x => linkLive rs ls p x 13 true) * 8192 / 10

/-- Extra hops of the straight run of a leg on one plane that comes to router (col, row) from `k` routers away: dead links crossed,
and dead routers passed. `axis` is the row for a run along it; `up` comes from lower indices. None where the start is dead. -/
def armCost (rs : List (Nat × Nat)) (ls : List DeadLink) (plane col row : Nat) (south up : Bool) (k : Nat) : Option Nat :=
  let place (j : Nat) : Nat × Nat :=
    if south then (col, if up then row - j else row + j) else (if up then col - j else col + j, row)
  let crossed (j : Nat) : Nat :=
    let a := place j
    let b := place (j + 1)
    let low := if up then b else a
    match ls.find? fun l => l.col == low.1 && l.row == low.2 && l.south == south && l.planes.testBit plane with
    | some l => l.hops
    | none => 0
  if rs.contains (place k) then none
  else some ((List.range k).foldl (fun t j => t + crossed j + (if j != 0 && rs.contains (place j) then 2 else 0)) 0)

/-- The dearest run of at least one hop to a router from one side. -/
def bestArm (rs : List (Nat × Nat)) (ls : List DeadLink) (plane col row : Nat) (south up : Bool) : Option Nat :=
  let room := if up then (if south then row else col) else (if south then 27 - row else 47 - col)
  ((List.range room).filterMap fun k => armCost rs ls plane col row south up (k + 1)).foldl
    (fun m c => some (max (m.getD 0) c)) none

/-- Extra hops of the dearest legs of route 0 that turn, start or end at a router: along the row, then along the column (R254). A
turn at a dead router goes to the side that its entry names: 0 toward the lower column, 1 toward the higher (R255). -/
def turnCost (ds : List Detour) (rs : List (Nat × Nat)) (ls : List DeadLink) (plane col row : Nat) : Nat :=
  let down := [true, false].filterMap fun up => bestArm rs ls plane col row true up
  let v : Option Nat := if down.isEmpty then none else some (down.foldl max 0)
  match ds.find? fun d => d.dir == 4 && d.col == col && d.row == row with
  | none =>
    let h := ([true, false].filterMap fun up => bestArm rs ls plane col row false up).foldl max 0
    h + v.getD 0
  | some d =>
    match v with
    | none => 0
    | some v =>
      ([true, false].filterMap fun up => (bestArm rs ls plane col row false up).map fun h =>
        h + v + (if up == (d.side == 0) then 0 else 2)).foldl max 0

/-- %gdetour (R255): the largest extra cost of any leg of route 0 between live routers. A straight leg through a dead router is one
that ends at a live one beyond it. -/
def longestDetour (ds : List Detour) : Nat :=
  if ds.isEmpty then 0
  else
    let rs := deadRouters ds
    let ls := deadLinks ds
    ((List.range 2).flatMap fun p => (List.range 48).flatMap fun x => (List.range 28).map fun y =>
      turnCost ds rs ls p x y).foldl max 0

/-! ### The roll call (R256) -/

/-- Enabled core sites, by row: the columns of each. -/
def enabledRows (m : DefectMap) : List (List Nat) :=
  let rs := deadRouters m.detours
  (List.range 56).map fun r => (List.range 96).filter fun c => !m.cores.contains (96 * r + c) && !rs.contains (c / 2, r / 2)

/-- Runs of consecutive numbers in a rising list: first number and length. -/
def runsOf : List Nat → List (Nat × Nat)
  | [] => []
  | x :: xs =>
    match runsOf xs with
    | (y, n) :: r => if y == x + 1 then (x, n + 1) :: r else (x, 1) :: (y, n) :: r
    | [] => [(x, 1)]

/-- R256: the better of two rectangles: area, topmost row, leftmost column, more columns. -/
def Rect.better (a b : Rect) : Bool :=
  let x := a.rows * a.cols
  let y := b.rows * b.cols
  decide (y < x) || (x == y && (decide (a.row < b.row) || (a.row == b.row && (decide (a.col < b.col) ||
    (a.col == b.col && decide (b.cols < a.cols))))))

/-- Rectangles with their top in row `r`, of maximal width for each height. -/
def rectsFrom (r : Nat) : Nat → List Nat → List (List Nat) → List Rect
  | _, _, [] => []
  | h, cols, row :: rest =>
    let cols := cols.filter row.contains
    if cols.isEmpty then []
    else ((runsOf cols).map fun q => Rect.mk q.1 r (h + 1) q.2) ++ rectsFrom r (h + 1) cols rest

/-- The largest rectangle of the sites left. -/
def largestRect : Nat → List (List Nat) → Option Rect
  | _, [] => none
  | r, row :: rest =>
    pickBy Rect.better ((rectsFrom r 0 row (row :: rest)) ++ (largestRect (r + 1) rest).toList)

/-- The sites left when a rectangle is taken. -/
def takeRect (q : Rect) (rows : List (List Nat)) : List (List Nat) :=
  rows.mapIdx fun r row => if q.row ≤ r ∧ r < q.row + q.rows then row.filter fun c => !(decide (q.col ≤ c) && decide (c < q.col + q.cols)) else row

/-- R256: at most 255 rectangles are taken. -/
def rollCall : Nat → List (List Nat) → List Rect
  | 0, _ => []
  | n + 1, rows =>
    match largestRect 0 rows with
    | none => []
    | some q => q :: rollCall n (takeRect q rows)

/-! ### The report card (R4-R8) -/

/-- R7. -/
def gradeOf (cores bisect detour : Nat) : Nat :=
  if 5248 ≤ cores && 45000 ≤ bisect && detour ≤ 2 then 1
  else if 5120 ≤ cores && 44000 ≤ bisect && detour ≤ 4 then 2
  else if 4864 ≤ cores && 40000 ≤ bisect && detour ≤ 6 then 3
  else 0

/-- The chart and the report card that the roll call makes of a defect map. -/
def surveyed (m : DefectMap) : Chart :=
  let banks := (m.banks ++ (deadRouters m.detours).map fun q => routerBank q.1 q.2).dedup
  let det := detourTable m banks
  let rects := rollCall 255 (enabledRows m)
  let cores := rects.foldl (fun t q => t + q.rows * q.cols) 0
  let bisect := bisection det
  let detour := longestDetour det
  { rects := rects, grades := m.grades, detours := det, banks := banks, gcores := cores, gbisect := bisect,
    gsram := (1984 * cores + 2048 * (1344 - banks.length)) / 1024, gdetour := detour, grade := gradeOf cores bisect detour }

/-- R8: is a computed grade worse than the part number's? -/
def worse (computed part : Nat) : Bool := computed == 0 || decide (part < computed)

/-! ### Reset (R418, R420, R421) -/

/-- Wafer time after the supply was lost (R421). -/
def State.timeAfterLoss (s : State) : Nat :=
  let times := s.domains.flatMap fun d => d.2.ring.map (·.time)
  if times.isEmpty then 0 else times.foldl max 0 + 1

/-- What a reset keeps: the recorders, wafer time, what does not lose its contents, and, unless the supply was lost, DRAM. The boot ROM is
about to run. -/
def State.afterReset (s : State) : State :=
  let lost := s.nv.supplyLost
  let t := if lost then s.timeAfterLoss else s.ticks
  let kept : Sparse Domain := s.domains.map fun (d : Nat × Domain) => (d.1, { ring := d.2.ring, events := d.2.events })
  { wbase := t, bootTick := t, fresh := s.fresh, draw := s.draw, agenda := s.agenda, frozen := s.frozen
    domains := kept.filter fun (d : Nat × Domain) => d.2 != {}
    nv := { s.nv with supplyLost := false }
    mem := if lost then [] else s.mem
    poison := if lost then [] else s.poison
    counts := [] }

/-- Step 4 of R418. DESIGN CHOICE (log 88): R8 has firmware report a grade mismatch through Afnar and gives no form or moment of the
report; the model shows it by the recorder entry, which READ_RECORDER reads, and by the grades in ATTESTATION_REPORT alone. -/
def State.survey (s : State) (m : DefectMap) : State :=
  let h := surveyed m
  let t := { s with chart := h, bstate := 0x04 }
  let t := { t with mem := tputs memDefault ((chartBytes h).mapIdx fun i v => (i, v)).reverse t.mem }
  if worse h.grade m.grade then t.record 0 1 0xFFFFFF (h.grade + 2 ^ 64 * m.grade) else t

/-- The first copy whose signature holds, with its number. -/
def State.mapCopy (s : State) : Option (Nat × DefectMap) :=
  ((s.nv.maps.take 2).mapIdx fun i m => (i, m)).findSome? fun q => if q.2.1 then some (q.1, q.2.2) else none

/-- Events for the rejected copies before the one in use (R418 step 3). -/
def State.rejectedMaps (s : State) : State :=
  let n := match s.mapCopy with | some q => q.1 | none => 2
  (List.range n).foldl (fun s i => s.record 0 7 0xFFFFFF i) s

/-- Step 2 of R418: the boot ROM, which counts the boot, verifies the firmware slots. -/
def State.bootFirmware (s : State) : State :=
  let s := { s with nv := { s.nv with boots := s.nv.boots + 1 } }
  match (s.nv.slots.take 2).findIdx? id with
  | none => { s with bstate := 0x80 }
  | some slot => { s with fwslot := slot, bstate := 0x02 }

/-- Step 3: firmware verifies the copies of the defect map. -/
def State.bootMap (s : State) : State :=
  let s := s.rejectedMaps
  match s.mapCopy with
  | none => { s with bstate := 0x81 }
  | some q => { s with mapcopy := q.1, bstate := 0x03 }

/-- Step 4: the roll call under the copy in use. -/
def State.bootSurvey (s : State) : State :=
  match s.mapCopy with
  | none => { s with bstate := 0x81 }
  | some q => s.survey q.2

/-- The next step after reset (R418), of which each sets BSTAT.state: nothing where the module accepts launches, or has stopped. -/
def State.bootStep (s : State) : State :=
  match s.bstate with
  | 0x01 => s.bootFirmware
  | 0x02 => s.bootMap
  | 0x03 => s.bootSurvey
  | 0x04 => { s with bstate := 0x0F }
  | _ => s

/-- RESET (R418, R421): the state right after it, in which the boot ROM runs. The later steps, which `step` takes one by one (`bootStep`), lead
to state 0x0F, 0x80 or 0x81. -/
def execReset (s : State) : Host.Outcome State Fault Refusal := .next s.afterReset

/-- FATAL_EVENT (R427): the event is written, every ring freezes and every domain stops. -/
def execFatalEvent (domain code : Nat) (s : State) : Host.Outcome State Fault Refusal :=
  .next { s.record domain 9 0xFFFFFF code with frozen := true, stopped := true, bstate := 0x82 }

end Sys2Proof.Machine
end

