-- ==== Sys2Proof/Machine/Dispatch.lean ====
section
/-! DEFINITION. The dispatch: one arm for each constructor of Instr, each a call of its meaning. -/

namespace Sys2Proof.Machine

def exec (i : Instr) (s : State) : Host.Outcome State Fault Refusal :=
  match i with
  | .mov o => Sys2Proof.Machine.execMov o s
  | .movi o => Sys2Proof.Machine.execMovi o s
  | .movh o => Sys2Proof.Machine.execMovh o s
  | .iadd o => Sys2Proof.Machine.execIadd o s
  | .iaddImmediate o => Sys2Proof.Machine.execIaddImmediate o s
  | .iadd3 o => Sys2Proof.Machine.execIadd3 o s
  | .isub o => Sys2Proof.Machine.execIsub o s
  | .imul o => Sys2Proof.Machine.execImul o s
  | .imulImmediate o => Sys2Proof.Machine.execImulImmediate o s
  | .imulh o => Sys2Proof.Machine.execImulh o s
  | .imad o => Sys2Proof.Machine.execImad o s
  | .imadw o => Sys2Proof.Machine.execImadw o s
  | .idiv o => Sys2Proof.Machine.execIdiv o s
  | .irem o => Sys2Proof.Machine.execIrem o s
  | .imin o => Sys2Proof.Machine.execImin o s
  | .imax o => Sys2Proof.Machine.execImax o s
  | .iabs o => Sys2Proof.Machine.execIabs o s
  | .ineg o => Sys2Proof.Machine.execIneg o s
  | .and o => Sys2Proof.Machine.execAnd o s
  | .andImmediate o => Sys2Proof.Machine.execAndImmediate o s
  | .or o => Sys2Proof.Machine.execOr o s
  | .orImmediate o => Sys2Proof.Machine.execOrImmediate o s
  | .xor o => Sys2Proof.Machine.execXor o s
  | .xorImmediate o => Sys2Proof.Machine.execXorImmediate o s
  | .andn o => Sys2Proof.Machine.execAndn o s
  | .not o => Sys2Proof.Machine.execNot o s
  | .shl o => Sys2Proof.Machine.execShl o s
  | .shr o => Sys2Proof.Machine.execShr o s
  | .sar o => Sys2Proof.Machine.execSar o s
  | .rot o => Sys2Proof.Machine.execRot o s
  | .fshl o => Sys2Proof.Machine.execFshl o s
  | .bfx o => Sys2Proof.Machine.execBfx o s
  | .bfi o => Sys2Proof.Machine.execBfi o s
  | .popc o => Sys2Proof.Machine.execPopc o s
  | .clz o => Sys2Proof.Machine.execClz o s
  | .brev o => Sys2Proof.Machine.execBrev o s
  | .sel o => Sys2Proof.Machine.execSel o s
  | .isetp o => Sys2Proof.Machine.execIsetp o s
  | .isetpImmediate o => Sys2Proof.Machine.execIsetpImmediate o s
  | .plop o => Sys2Proof.Machine.execPlop o s
  | .lea o => Sys2Proof.Machine.execLea o s
  | .nadd o => Sys2Proof.Machine.execNadd o s
  | .fadd o => Sys2Proof.Machine.execFadd o s
  | .fsub o => Sys2Proof.Machine.execFsub o s
  | .fmul o => Sys2Proof.Machine.execFmul o s
  | .ffma o => Sys2Proof.Machine.execFfma o s
  | .fmin o => Sys2Proof.Machine.execFmin o s
  | .fmax o => Sys2Proof.Machine.execFmax o s
  | .fsetp o => Sys2Proof.Machine.execFsetp o s
  | .fclass o => Sys2Proof.Machine.execFclass o s
  | .frnd o => Sys2Proof.Machine.execFrnd o s
  | .fexp o => Sys2Proof.Machine.execFexp o s
  | .fldexp o => Sys2Proof.Machine.execFldexp o s
  | .frcp o => Sys2Proof.Machine.execFrcp o s
  | .frsq o => Sys2Proof.Machine.execFrsq o s
  | .fsqrt o => Sys2Proof.Machine.execFsqrt o s
  | .ex2 o => Sys2Proof.Machine.execEx2 o s
  | .lg2 o => Sys2Proof.Machine.execLg2 o s
  | .sin o => Sys2Proof.Machine.execSin o s
  | .cos o => Sys2Proof.Machine.execCos o s
  | .f2i o => Sys2Proof.Machine.execF2i o s
  | .i2f o => Sys2Proof.Machine.execI2f o s
  | .f2f o => Sys2Proof.Machine.execF2f o s
  | .cvtq o => Sys2Proof.Machine.execCvtq o s
  | .cvtx o => Sys2Proof.Machine.execCvtx o s
  | .prmt o => Sys2Proof.Machine.execPrmt o s
  | .hadd2 o => Sys2Proof.Machine.execHadd2 o s
  | .hmul2 o => Sys2Proof.Machine.execHmul2 o s
  | .hfma2 o => Sys2Proof.Machine.execHfma2 o s
  | .vadd2 o => Sys2Proof.Machine.execVadd2 o s
  | .vsub2 o => Sys2Proof.Machine.execVsub2 o s
  | .vmax2 o => Sys2Proof.Machine.execVmax2 o s
  | .vmin2 o => Sys2Proof.Machine.execVmin2 o s
  | .acs2 o => Sys2Proof.Machine.execAcs2 o s
  | .sread o => Sys2Proof.Machine.execSread o s
  | .swrite o => Sys2Proof.Machine.execSwrite o s
  | .shfl o => Sys2Proof.Machine.execShfl o s
  | .vote o => Sys2Proof.Machine.execVote o s
  | .redx o => Sys2Proof.Machine.execRedx o s
  | .umov o => Sys2Proof.Machine.execUmov o s
  | .elect o => Sys2Proof.Machine.execElect o s
  | .ovclr o => Sys2Proof.Machine.execOvclr o s
  | .bra o => Sys2Proof.Machine.execBra o s
  | .brp o => Sys2Proof.Machine.execBrp o s
  | .bru o => Sys2Proof.Machine.execBru o s
  | .brx o => Sys2Proof.Machine.execBrx o s
  | .call o => Sys2Proof.Machine.execCall o s
  | .callx o => Sys2Proof.Machine.execCallx o s
  | .ret o => Sys2Proof.Machine.execRet o s
  | .exit o => Sys2Proof.Machine.execExit o s
  | .yield o => Sys2Proof.Machine.execYield o s
  | .nop o => Sys2Proof.Machine.execNop o s
  | .ldI8 o => Sys2Proof.Machine.execLdI8 o s
  | .ldN8 o => Sys2Proof.Machine.execLdN8 o s
  | .ldI16 o => Sys2Proof.Machine.execLdI16 o s
  | .ldN16 o => Sys2Proof.Machine.execLdN16 o s
  | .ldB32 o => Sys2Proof.Machine.execLdB32 o s
  | .ldB64 o => Sys2Proof.Machine.execLdB64 o s
  | .ldB128 o => Sys2Proof.Machine.execLdB128 o s
  | .stB8 o => Sys2Proof.Machine.execStB8 o s
  | .stB16 o => Sys2Proof.Machine.execStB16 o s
  | .stB32 o => Sys2Proof.Machine.execStB32 o s
  | .stB64 o => Sys2Proof.Machine.execStB64 o s
  | .stB128 o => Sys2Proof.Machine.execStB128 o s
  | .ldsI8 o => Sys2Proof.Machine.execLdsI8 o s
  | .ldsN8 o => Sys2Proof.Machine.execLdsN8 o s
  | .ldsI16 o => Sys2Proof.Machine.execLdsI16 o s
  | .ldsN16 o => Sys2Proof.Machine.execLdsN16 o s
  | .ldsB32 o => Sys2Proof.Machine.execLdsB32 o s
  | .ldsB64 o => Sys2Proof.Machine.execLdsB64 o s
  | .ldsB128 o => Sys2Proof.Machine.execLdsB128 o s
  | .stsB8 o => Sys2Proof.Machine.execStsB8 o s
  | .stsB16 o => Sys2Proof.Machine.execStsB16 o s
  | .stsB32 o => Sys2Proof.Machine.execStsB32 o s
  | .stsB64 o => Sys2Proof.Machine.execStsB64 o s
  | .stsB128 o => Sys2Proof.Machine.execStsB128 o s
  | .ldwB32 o => Sys2Proof.Machine.execLdwB32 o s
  | .ldwB64 o => Sys2Proof.Machine.execLdwB64 o s
  | .ldwB128 o => Sys2Proof.Machine.execLdwB128 o s
  | .pref o => Sys2Proof.Machine.execPref o s
  | .atomGlobal o => Sys2Proof.Machine.execAtomGlobal o s
  | .atomScratchpad o => Sys2Proof.Machine.execAtomScratchpad o s
  | .atomCasB128 o => Sys2Proof.Machine.execAtomCasB128 o s
  | .redGlobal o => Sys2Proof.Machine.execRedGlobal o s
  | .redScratchpad o => Sys2Proof.Machine.execRedScratchpad o s
  | .fence o => Sys2Proof.Machine.execFence o s
  | .waitm o => Sys2Proof.Machine.execWaitm o s
  | .bar o => Sys2Proof.Machine.execBar o s
  | .barbInit o => Sys2Proof.Machine.execBarbInit o s
  | .barbArrive o => Sys2Proof.Machine.execBarbArrive o s
  | .barbWait o => Sys2Proof.Machine.execBarbWait o s
  | .qpush o => Sys2Proof.Machine.execQpush o s
  | .qpop o => Sys2Proof.Machine.execQpop o s
  | .qtry o => Sys2Proof.Machine.execQtry o s
  | .ckpt o => Sys2Proof.Machine.execCkpt o s
  | .copy o => Sys2Proof.Machine.execCopy o s
  | .tcopy o => Sys2Proof.Machine.execTcopy o s
  | .tcopyPeer o => Sys2Proof.Machine.execTcopyPeer o s
  | .fill o => Sys2Proof.Machine.execFill o s
  | .htest o => Sys2Proof.Machine.execHtest o s
  | .hcancel o => Sys2Proof.Machine.execHcancel o s
  | .hmovH o => Sys2Proof.Machine.execHmovH o s
  | .hmovS o => Sys2Proof.Machine.execHmovS o s
  | .hmovC o => Sys2Proof.Machine.execHmovC o s
  | .hmovA o => Sys2Proof.Machine.execHmovA o s
  | .qfence o => Sys2Proof.Machine.execQfence o s
  | .qbind o => Sys2Proof.Machine.execQbind o s
  | .qfree o => Sys2Proof.Machine.execQfree o s
  | .mmaBf16 o => Sys2Proof.Machine.execMmaBf16 o s
  | .mmaF16 o => Sys2Proof.Machine.execMmaF16 o s
  | .mmaE4m3 o => Sys2Proof.Machine.execMmaE4m3 o s
  | .mmaE5m2 o => Sys2Proof.Machine.execMmaE5m2 o s
  | .mmaE3m2 o => Sys2Proof.Machine.execMmaE3m2 o s
  | .mmaE2m3 o => Sys2Proof.Machine.execMmaE2m3 o s
  | .mmaE2m1 o => Sys2Proof.Machine.execMmaE2m1 o s
  | .mmaE4m3Qn4 o => Sys2Proof.Machine.execMmaE4m3Qn4 o s
  | .mmaE2m1Qn4 o => Sys2Proof.Machine.execMmaE2m1Qn4 o s
  | .mmasBf16 o => Sys2Proof.Machine.execMmasBf16 o s
  | .mmasF16 o => Sys2Proof.Machine.execMmasF16 o s
  | .mmasE4m3 o => Sys2Proof.Machine.execMmasE4m3 o s
  | .mmasE5m2 o => Sys2Proof.Machine.execMmasE5m2 o s
  | .mmasE2m1 o => Sys2Proof.Machine.execMmasE2m1 o s
  | .accld o => Sys2Proof.Machine.execAccld o s
  | .accst o => Sys2Proof.Machine.execAccst o s
  | .accz o => Sys2Proof.Machine.execAccz o s
  | .scacc o => Sys2Proof.Machine.execScacc o s
  | .subscribe o => Sys2Proof.Machine.execSubscribe o s
  | .unsub o => Sys2Proof.Machine.execUnsub o s
  | .subsync o => Sys2Proof.Machine.execSubsync o s
  | .launch o => Sys2Proof.Machine.execLaunch o s
  | .tready o => Sys2Proof.Machine.execTready o s
  | .sysc o => Sys2Proof.Machine.execSysc o s
  | .sret o => Sys2Proof.Machine.execSret o s
  | .hcall o => Sys2Proof.Machine.execHcall o s
  | .hret o => Sys2Proof.Machine.execHret o s
  | .pread o => Sys2Proof.Machine.execPread o s
  | .pwrite o => Sys2Proof.Machine.execPwrite o s
  | .tlbi o => Sys2Proof.Machine.execTlbi o s
  | .gridend o => Sys2Proof.Machine.execGridend o s
  | .ebreak o => Sys2Proof.Machine.execEbreak o s
  | .illegal o => Sys2Proof.Machine.execIllegal o s
  | .unimplementedOpcode o => Sys2Proof.Machine.execUnimplementedOpcode o s
  | .spawn r => Sys2Proof.Machine.execSpawn r s
  | .cohortFormation b target => Sys2Proof.Machine.execCohortFormation b target s
  | .issueSelect core quad => Sys2Proof.Machine.execIssueSelect core quad s
  | .fetchFault r => Sys2Proof.Machine.execFetchFault r s
  | .loadReply uid => Sys2Proof.Machine.execLoadReply uid s
  | .copyResolve op units reads => Sys2Proof.Machine.execCopyResolve op units reads s
  | .peerDelivery op bit => Sys2Proof.Machine.execPeerDelivery op bit s
  | .fillLineLanded op => Sys2Proof.Machine.execFillLineLanded op s
  | .teamInstructionBegin core => Sys2Proof.Machine.execTeamInstructionBegin core s
  | .teamInstructionRetire core => Sys2Proof.Machine.execTeamInstructionRetire core s
  | .hallPassIdleExpiry core => Sys2Proof.Machine.execHallPassIdleExpiry core s
  | .dispatchEntry g => Sys2Proof.Machine.execDispatchEntry g s
  | .placementMark g => Sys2Proof.Machine.execPlacementMark g s
  | .save b => Sys2Proof.Machine.execSave b s
  | .saveComplete b => Sys2Proof.Machine.execSaveComplete b s
  | .restore b => Sys2Proof.Machine.execRestore b s
  | .deadlockRescue g => Sys2Proof.Machine.execDeadlockRescue g s
  | .blockRetire b => Sys2Proof.Machine.execBlockRetire b s
  | .gridRetire g => Sys2Proof.Machine.execGridRetire g s
  | .checkpoint b => Sys2Proof.Machine.execCheckpoint b s
  | .uncorrectableError e => Sys2Proof.Machine.execUncorrectableError e s
  | .pageWalk w => Sys2Proof.Machine.execPageWalk w s
  | .leaseGrant acc => Sys2Proof.Machine.execLeaseGrant acc s
  | .writeArrival acc => Sys2Proof.Machine.execWriteArrival acc s
  | .writePerform acc => Sys2Proof.Machine.execWritePerform acc s
  | .revoke core acc => Sys2Proof.Machine.execRevoke core acc s
  | .revokeAck what acc => Sys2Proof.Machine.execRevokeAck what acc s
  | .invalidation domain acc => Sys2Proof.Machine.execInvalidation domain acc s
  | .l2ModeChange part => Sys2Proof.Machine.execL2ModeChange part s
  | .packetService acc => Sys2Proof.Machine.execPacketService acc s
  | .subscribeRequest id => Sys2Proof.Machine.execSubscribeRequest id s
  | .updatePacket id => Sys2Proof.Machine.execUpdatePacket id s
  | .updateAck id => Sys2Proof.Machine.execUpdateAck id s
  | .absentNotice id => Sys2Proof.Machine.execAbsentNotice id s
  | .presentNotice id => Sys2Proof.Machine.execPresentNotice id s
  | .removalNotice id => Sys2Proof.Machine.execRemovalNotice id s
  | .coreGate core => Sys2Proof.Machine.execCoreGate core s
  | .bankGroupGate domain => Sys2Proof.Machine.execBankGroupGate domain s
  | .wakeRequest domain what => Sys2Proof.Machine.execWakeRequest domain what s
  | .post p full record => Sys2Proof.Machine.execPost p full record s
  | .pfence p => Sys2Proof.Machine.execPfence p s
  | .pstat p ones => Sys2Proof.Machine.execPstat p ones s
  | .hostRead p bar0 off len => Sys2Proof.Machine.execHostRead p bar0 off len s
  | .hostWrite p off bytes => Sys2Proof.Machine.execHostWrite p off bytes s
  | .msemClaim p => Sys2Proof.Machine.execMsemClaim p s
  | .msemRelease p => Sys2Proof.Machine.execMsemRelease p s
  | .portLinkDown p => Sys2Proof.Machine.execPortLinkDown p s
  | .registerWrite p off value => Sys2Proof.Machine.execRegisterWrite p off value s
  | .readRecorder p domain => Sys2Proof.Machine.execReadRecorder p domain s
  | .attestationReport p => Sys2Proof.Machine.execAttestationReport p s
  | .unfreeze p => Sys2Proof.Machine.execUnfreeze p s
  | .identityPublicKey p => Sys2Proof.Machine.execIdentityPublicKey p s
  | .fatalEvent domain code => Sys2Proof.Machine.execFatalEvent domain code s
  | .edgeLinkDown link => Sys2Proof.Machine.execEdgeLinkDown link s
  | .inboundRequest link addr len data => Sys2Proof.Machine.execInboundRequest link addr len data s
  | .cxlPortFailure n => Sys2Proof.Machine.execCxlPortFailure n s
  | .classVCompletion uid => Sys2Proof.Machine.execClassVCompletion uid s
  | .walkCompletion id => Sys2Proof.Machine.execWalkCompletion id s
  | .snapshotLanded id => Sys2Proof.Machine.execSnapshotLanded id s
  | .noticeAcknowledgement id => Sys2Proof.Machine.execNoticeAcknowledgement id s
  | .restoreComplete b => Sys2Proof.Machine.execRestoreComplete b s
  | .gatingComplete what => Sys2Proof.Machine.execGatingComplete what s
  | .reset => Sys2Proof.Machine.execReset s
  | .blockPlacement => Sys2Proof.Machine.execBlockPlacement s
  | .preemption => Sys2Proof.Machine.execPreemption s
  | .epochStart => Sys2Proof.Machine.execEpochStart s
  | .afnarCommandDone => Sys2Proof.Machine.execAfnarCommandDone s
  | .classLatencyEnd => Sys2Proof.Machine.execClassLatencyEnd s
  | .recessStart => Sys2Proof.Machine.execRecessStart s
  | .recessEnd => Sys2Proof.Machine.execRecessEnd s
  | .leaseExpiry => Sys2Proof.Machine.execLeaseExpiry s
  | .cohortPromotion => Sys2Proof.Machine.execCohortPromotion s
  | .splitStarvation => Sys2Proof.Machine.execSplitStarvation s
  | .yieldExpiry => Sys2Proof.Machine.execYieldExpiry s
  | .inrushTokenRelease => Sys2Proof.Machine.execInrushTokenRelease s
  | .chunkClose => Sys2Proof.Machine.execChunkClose s

end Sys2Proof.Machine
end

