-- ==== Sys2Proof/Machine/Sched.lean ====
section
/-! DEFINITION. Which events may come next. Events of the first kind are due in this cycle or tick by a rule; time does not pass
before them. Events of the second kind end a latency that the spec leaves open, so time may pass before them (log 1). -/

namespace Sys2Proof.Machine

/-- What the machine does next. -/
inductive Choice where
  | event (i : Instr)
  /-- the next step after reset (R418) -/
  | boot
  /-- a split whose fetch was suspended, or that a queue operation or a read of a handle holds, goes on -/
  | resume (r : SRef)
  /-- a core cycle passes -/
  | clock
  deriving DecidableEq, Repr

def given (c : Bool) (i : Instr) : List Instr := if c then [i] else []

/-- The chosen split `r` issues what it fetches (R50, R375). -/
def issueStep (r : SRef) (s : State) : Host.Outcome State Fault Refusal :=
  match s.fetched r with
  | .gone => .next { s with selected := s.selected.drop 1 }
  | .fault => exec (.fetchFault r) s
  | .bad w => .next (illegalWord r w s)
  | .instr i _ => exec i s

/-! ### Splits whose fetch was suspended (R373, R382) -/

/-- The splits whose walks, or lines of code, have come in an earlier cycle. -/
def State.walkedSplits (s : State) : List SRef :=
  s.allSplits.filter fun r => match s.split? r with
    | some p => p.walked && decide ((p.hold.map (·.since)).getD 0 < s.cycle)
    | none => false

/-- The state after such a split has gone on, where it can: its instruction issues, or meets another miss. -/
def State.again (s : State) (r : SRef) : Option State :=
  match issueStep r { s with selected := r :: s.selected } with
  | .next t => if (t.split? r).bind (·.hold) == (s.split? r).bind (·.hold) then none else some t
  | _ => none

/-- The lowest lane of a split that raises a trap between two states, or 64: of those that have entered a handler, or ended the grid. -/
def raisedLane (s t : State) (r : SRef) : Nat :=
  match s.cohort? r.c, s.split? r, s.grid? r.c.b.grid with
  | some c, some p, some g =>
    let after := ((t.cohort? r.c).map (·.splits)).getD []
    let entered := (lanesOf p.lanes).filter fun l => after.any fun q => q.lanes.getLsbD l && decide (p.frames.length < q.frames.length)
    let ends := (((t.grid? g.id).map (·.endings)).getD []).filter fun e =>
      !g.endings.contains e && e.key.2.1 == r.c.b.block && e.key.2.2.1 == c.slot
    (entered ++ ends.map fun e => e.key.2.2.2 - 65 * s.cycle).foldl min 64
  | _, _, _ => 64

/-- The suspended splits of a cohort that can go on, with the lowest lane in which each raises. -/
def State.goingOn (s : State) (cr : CRef) : List (SRef × Nat) :=
  (s.walkedSplits.filter fun r => r.c == cr).filterMap fun r => (s.again r).map fun t => (r, raisedLane s t r)

/-- Of the suspended splits of a cohort, that which goes on first: traps of one cycle are entered in the order of their lowest lanes (R382). -/
def State.firstOn (s : State) (cr : CRef) : Option SRef := (pickBy (fun a b => decide (a.2 < b.2)) (s.goingOn cr)).map (·.1)

/-- The suspended split of the cohort whose trap is entered before that of the chosen split `r`, if any. -/
def State.beforeChosen (s : State) (r : SRef) : Option SRef :=
  if (s.walkedSplits.filter fun q => q.c == r.c).isEmpty then none
  else
    match issueStep r s with
    | .next t => ((pickBy (fun a b => decide (a.2 < b.2)) (s.goingOn r.c)).filter fun q =>
        decide (q.2 < raisedLane s t r) && decide (raisedLane s t r < 64)).map (·.1)
    | _ => none

/-- Will a quadrant's issue stage choose a cohort in this cycle? -/
def State.chooses (s : State) (core q : Nat) : Bool := s.quadFree core q && (s.chooseCohort core q).isSome

/-- The suspended split that goes on now: after its quadrant's issue stage has chosen, whose traps may come before its own. -/
def State.suspendedDue (s : State) : Option SRef :=
  ((s.walkedSplits.map (·.c)).dedup.filter fun cr => match s.cohort? cr with
    | some c => !s.chooses c.core c.quad
    | none => false).findSome? s.firstOn

/-! ### Events that are due -/

/-- Quadrants that hold cohorts. -/
def State.quadrants (s : State) : List (Nat × Nat) :=
  (s.blocks.flatMap fun b => b.cohorts.map fun c => (c.core, c.quad)).dedup

/-- Cores that hold cohorts. -/
def State.busyCores (s : State) : List Nat := (s.quadrants.map (·.1)).dedup

/-- Cores whose arrays have something to do. -/
def State.arrayCores (s : State) : List Nat := (s.busyCores ++ s.begun.map (·.core)).dedup

/-- Has a quadrant of the core a cohort to choose in this cycle? The pass is granted after the cycle's issues, so that instructions
assembled in one cycle stand side by side (R317). -/
def State.choosing (s : State) (core : Nat) : Bool := [0, 1, 2, 3].any (s.chooses core)

/-- Blocks whose team has an instruction assembled on a core with a failed array: each meets an uncorrectable core-state error (R322). -/
def State.failedTeams (s : State) : List BRef :=
  (s.blocks.filter fun b => s.mayBegin b && !((s.gridOf b).endings.any fun e => e.key.2.1 == b.ref.block) &&
    b.teams.any fun t => t.2.assembled.isSome && s.arrayFailed t.2.core).map (·.ref)

/-- Does the block run, and may its split spawn? -/
def State.spawns (s : State) (r : SRef) : Bool :=
  match s.block? r.c.b, s.grid? r.c.b.grid with
  | some b, some g => g.st == .running && b.st != .saved && b.st != .restoring && s.spawnGoes r
  | _, _ => false

/-- What decides the order of a choice comes before the choice of the same cycle (R180). -/
def State.orderDue (s : State) : List Instr :=
  given (s.blocks.any fun b => b.cohorts.any fun c => promotionDue s ⟨b.ref, c.id⟩) .cohortPromotion ++
  given (s.allSplits.any (starvationDue s)) .splitStarvation

/-- The issue stage and the splits (R99, R180, R188, R190). -/
def State.issueDue (s : State) : List Instr :=
  (s.quadrants.filterMap fun q => if s.chooses q.1 q.2 then some (.issueSelect q.1 q.2) else none) ++
  given (s.allSplits.any (yieldDue s)) .yieldExpiry ++
  (s.allSplits.flatMap fun r => given (s.spawns r) (.spawn r)) ++
  (s.blocks.flatMap fun b => match s.formTarget b with
    | some (r, _) => [.cohortFormation b.ref r.target.toNat]
    | none => []) ++
  given (s.issued.any fun i => i.latencyOver s.cycle) .classLatencyEnd

/-- The arrays (R315, R317, R322). -/
def State.arraysDue (s : State) : List Instr :=
  (s.arrayCores.flatMap fun k =>
    given (!s.choosing k && (s.passMoves k || (s.beginner k).isSome)) (.teamInstructionBegin k) ++
    given (!s.choosing k && (match (s.core k).arb.holder with
      | some h => s.holderIdle k h && !(s.waitingTeams k).isEmpty
      | none => false)) (.hallPassIdleExpiry k) ++
    given (s.begun.any fun b => b.core == k && decide (b.due ≤ s.cycle)) (.teamInstructionRetire k)) ++
  s.failedTeams.map fun b => .uncorrectableError (.block b 0)

/-- The packets of a peer copy to its receivers. -/
def CopyOp.peerTrips (o : CopyOp) : List (Nat × Trip) :=
  match o.moves with
  | .peer _ _ _ _ ds => ds.filterMap fun d => if d.code.isNone then d.trip.map fun t => (d.bit, t) else none
  | _ => []

/-- Chunks (R335), leases and epochs (R239, R241), waiting writes (R240, R242), packets that have been on their way as long as they may be
(R253), misses of fetches (R375), recesses (R249) and L2 modes (R245). -/
def State.memoryDue (s : State) : List Instr :=
  given (s.allEntries.any fun p => s.chunkDue p.2) .chunkClose ++
  given (s.cores.any fun k => k.2.lapsed s.ticks) .leaseExpiry ++
  given s.epochDue .epochStart ++
  (s.flight.flatMap fun a =>
    given ((a.homeBound && s.performs a) || s.asksWay a) (.writePerform a.id) ++
    (a.waits.drop 1).flatMap (fun w => given (w.drops s.ticks) (.invalidation w.domain a.id)) ++
    s.messages true a ++
    given (s.moves a && (a.trip.map fun t => t.late s.ticks).getD false) (.packetService a.id)) ++
  s.copies.flatMap (fun o => o.peerTrips.filterMap fun q => if s.portServes q.2 && q.2.late s.ticks then some (.peerDelivery o.id q.1) else none) ++
  s.fetchMisses.map .pageWalk ++
  given (s.bankNow.isSome && s.recess != s.bankNow) .recessStart ++
  given (match s.recess with | some b => !s.inWindow b | none => false) .recessEnd ++
  (s.parts.flatMap fun p => given (s.modeDue p.1) (.l2ModeChange p.1))

/-- Units that are gated, with what asks for them. -/
def State.gatedUnits (s : State) : List PowerUnit :=
  (s.cores.filterMap fun k => if k.2.power == .gated then some (.core k.1) else none) ++
    (s.domains.filterMap fun d => if d.2.banks == .gated then some (.banks d.1) else none)

/-- Units that are gating, with the tick by which they have gated. -/
def State.gatingUnits (s : State) : List (PowerUnit × Nat) :=
  (s.cores.filterMap fun k => match k.2.power with | .gating t => some (.core k.1, t) | _ => none) ++
    (s.domains.filterMap fun d => match d.2.banks with | .gating t => some (.banks d.1, t) | _ => none)

/-- Power (R425, R426). -/
def State.powerDue (s : State) : List Instr :=
  ((s.coreNames.filter s.gateDue).map .coreGate) ++
  (((List.range 84).filter s.bankGateDue).map .bankGroupGate) ++
  (s.gatedUnits.flatMap fun u => given (s.wakeDue (s.unitDomain u) u) (.wakeRequest (s.unitDomain u) u)) ++
  given (s.domains.any fun d => !(s.tokensDue d.1).isEmpty) .inrushTokenRelease ++
  (s.gatingUnits.flatMap fun u => given (decide (u.2 ≤ s.ticks)) (.gatingComplete u.1))

/-- The placement that comes next: a grid that a block without a compatible core ends, or the block that is placed (R175, R393). -/
def State.placements (s : State) : List Instr :=
  match s.incompatible with
  | some _ => [.blockPlacement]
  | none =>
    match s.placement with
    | some (p, _, _) => [match p.saved with | some b => .restore b.ref | none => .blockPlacement]
    | none => []

/-- Marks (R173) and rescues (R194), and at the tick a save ends the placements in the room that it has freed (R390). -/
def State.registrarDue (s : State) : List Instr :=
  (if s.blocks.any fun b => b.st == .saved && b.waitSince == some s.ticks then s.placements else []) ++
  s.grids.flatMap fun g =>
    given (g.st == .running && (s.markFor g).isSome) (.placementMark g.id) ++
    given (g.st == .running && g.rescueDue s.ticks && s.stuck g) (.deadlockRescue g.id)

def State.due (s : State) : List Instr := s.issueDue ++ s.arraysDue ++ s.memoryDue ++ s.powerDue ++ s.registrarDue

/-! ### Events that end a latency -/

/-- Walks and accesses (R235, R239-R242, R374). -/
def State.accessOpen (s : State) : List Instr :=
  (s.walks.flatMap fun w =>
    given (!w.started && !w.failed && s.walkStarts w.req) (.pageWalk w.req) ++
    given (s.walkEnds w) (.walkCompletion w.id)) ++
  (s.flight.flatMap fun a =>
    (if s.leaseDue a then [.leaseGrant a.id] else given (s.packetDue a) (.packetService a.id)) ++
    given (s.arrives a) (.writeArrival a.id) ++
    given (!a.homeBound && s.performs a) (.writePerform a.id) ++
    s.messages false a) ++
  (s.issued.flatMap fun i => match i.fin with
    | .reply _ _ _ _ _ _ => given (s.replyReady i.uid) (.loadReply i.uid)
    | .performed _ _ true => given (s.replyReady i.uid) (.loadReply i.uid)
    | .complete => [.classVCompletion i.uid]
    | .fence accs => given (s.allDone accs) (.classVCompletion i.uid)
    | .shootdown accs copies walks => given (s.shotDown accs copies walks) (.classVCompletion i.uid)
    | .priv _ _ _ => [.classVCompletion i.uid]
    | _ => [])

/-- Writes of the ports, the edge links, Afnar and the registrar (R273): arriving, and performed once nothing is in their way. -/
def State.hostOpen (s : State) : List Instr :=
  (s.flight.filter fun a => match a.op with
    | .host _ => true
    | .edge _ => true
    | .afnar => true
    | .status _ => true
    | .reg _ => true
    | _ => false).flatMap fun a =>
      given (s.sends a || s.moves a) (.packetService a.id) ++ given (s.arrives a) (.writeArrival a.id) ++
        given (s.performs a) (.writePerform a.id) ++ s.messages false a ++
        (a.waits.drop 1).flatMap fun w => given (w.drops s.ticks) (.invalidation w.domain a.id)

/-- Copies (R215-R223). A copy reads and delivers any number of bytes at a time; one, 128 and all that are left stand for the others. -/
def State.copyOpen (s : State) : List Instr :=
  (s.copies.filter s.begins).flatMap fun o =>
    match o.moves with
    | .fence _ => [.copyResolve o.id 0 0]
    | .runs _ _ fill _ rs =>
      let rest := runsTotal rs - o.done
      (if fill then [.fillLineLanded o.id] else [1, 128, rest + 1].map fun n => .copyResolve o.id n 0) ++
        (if rest ≤ o.ahead.length then [] else [1, 128, rest].map fun n => .copyResolve o.id 0 n)
    | .peer _ _ rs _ ds =>
      if ds.all fun d => d.code.isSome || d.done == runsTotal rs then [.copyResolve o.id 0 0]
      else ((ds.filter fun d => d.code.isNone && d.done != runsTotal rs).map fun d => .peerDelivery o.id d.bit) ++
        (if runsTotal rs ≤ o.ahead.length then [] else [1, 128, runsTotal rs].map fun n => .copyResolve o.id 0 n)

/-- Subscriptions and notices (R299, R336, R339-R343). -/
def State.subsOpen (s : State) : List Instr :=
  (s.requests.map fun q => if q.entry.isNone then .subscribeRequest q.id else .snapshotLanded q.id) ++
  (s.packets.flatMap fun p => given (s.packetReady p || s.packetArrives p) (.updatePacket p.id) ++ given p.applied (.updateAck p.id)) ++
  (s.notices.flatMap fun m =>
    if m.acted then [.noticeAcknowledgement m.id]
    else match m.kind with
      | .absent => [.absentNotice m.id]
      | .present => [.presentNotice m.id]
      | .removed => given (s.snapshotDone m) (.removalNotice m.id)
      | _ => [.removalNotice m.id])

/-- The registrar (R166, R172-R175, R98, R170), checkpoints (R398), saves and restores (R390-R395). -/
def State.registrarOpen (s : State) : List Instr :=
  (s.grids.flatMap fun g => given (s.enters g || s.releases g) (.dispatchEntry g.id) ++ given (s.retires g) (.gridRetire g.id)) ++
  s.placements ++
  given s.preempts.isSome .preemption ++
  (s.blocks.flatMap fun b =>
    given (s.retireReady b) (.blockRetire b.ref) ++ given (s.ckReady b) (.checkpoint b.ref) ++
    given (s.saveReady b) (.save b.ref) ++ given (s.saveDone b) (.saveComplete b.ref) ++
    given (s.restored b) (.restoreComplete b.ref)) ++
  given s.afnarReady .afnarCommandDone ++
  (s.gatingUnits.map fun u => .gatingComplete u.1)

def State.opens (s : State) : List Instr := s.accessOpen ++ s.copyOpen ++ s.subsOpen ++ s.registrarOpen

/-- A split held at its instruction that can look again (R212, R222). -/
def State.resumable (s : State) (r : SRef) : Bool :=
  match s.grid? r.c.b.grid, s.block? r.c.b, s.cohort? r.c, s.split? r with
  | some g, some b, some c, some p =>
    g.st == .running && (b.st == .resident || (b.st == .checkpointing && p.forced)) &&
      (match p.hold with
       | some h =>
         match h.kind with
         | .handle n => !(c.handle n).isPending
         | .queue left => s.queueMoves g b r left
         | _ => false
       | none => false)
  | _, _, _, _ => false

/-! ### The outside world -/

/-- Does the request at the head of the agenda find its banks ready (R240, R249, R253, R258)? A read of device memory, by a port or another
module, waits, and so do a POST for its port's template and a read of a fence register for its port's writes (R168, R273). -/
def State.agendaReady (s : State) (i : Instr) : Bool :=
  match i with
  | .hostRead _ true off len => !s.fenceHolds off len
  | .pfence p => (s.hostWrites p).isEmpty
  | _ => (s.requestPas i).all s.bankReads

/-- Everything that may come next, when no split has been chosen to issue and nothing comes from outside. Before boot is over, and after
a fatal event, or where boot stopped, nothing but the steps of boot, time, Afnar and the ports (R418, R420, R427). -/
def State.choices (s : State) : List Choice :=
  if s.stopped || s.bstate != 0x0F then
    (if s.bstate < 0x0F then [.boot] else []) ++ (given s.afnarReady .afnarCommandDone ++ s.hostOpen).map .event ++ [.clock]
  else if !s.orderDue.isEmpty then s.orderDue.map .event
  else
    match s.suspendedDue with
    | some r => [.resume r]
    | none =>
      let due := s.due
      if due.isEmpty then
        s.opens.map .event ++ ((s.allSplits.filter s.resumable).map .resume) ++ [.clock]
      else due.map .event

/-- One of the choices: the only one, or one that Config draws (log 1). -/
def State.choose (s : State) : Choice × State :=
  match s.choices with
  | [] => (.clock, s)
  | [c] => (c, s)
  | c :: cs => ((c :: cs).getD (Config.choose s.draw % (cs.length + 1)) .clock, { s with draw := s.draw + 1 })

/-- A core cycle passes. Where a grid stops in it, waits on what it leaves go on: its packets count as acknowledged (R339, R337). -/
def State.clock (s : State) : State :=
  (if s.grids.any fun g => !g.endings.isEmpty then s.tick.wakeSubsync.settleAll else s.tick).noteWaits

/-! ### A program placed for the next step (log 10) -/

/-- Where the placed instruction lies: its virtual and its physical address. -/
def placedAt : Nat := 0x10000

/-- A kernel of 192 vector and 48 uniform registers, 512 KiB of scratchpad, 32 lanes and 32 tiles (R43). -/
def placedDesc : DWord := 0x0000002000803018

/-- A grid in its blocks' run. -/
def placedGrid : Grid :=
  { id := 1, record := [0, 0x0001000100000001, 0x0000000100010020, 0, 0, 0, 0, 0], st := .running, desc := placedDesc, next := 1 }

/-- A user split of 32 lanes about to issue at the placed address, since `cycle`. -/
def placedSplit (cycle : Nat) : Split :=
  { id := 1, pc := BitVec.ofNat 64 placedAt, lanes := 0xFFFFFFFF, join := 0xFFFFFFFF, last := cycle }

/-- Its block, on the core at the left top of rectangle 0. -/
def placedBlock (cycle : Nat) : Block :=
  { ref := ⟨1, 0⟩, nextCohort := 2
    cohorts := [{ id := 1, threads := 0xFFFFFFFF, tids := ((List.range 31).map fun l => (l + 1, l + 1)), splits := [placedSplit cycle] }] }

/-- A translation of the low 2^27 bytes onto themselves, with every right. -/
def placedTlb : TlbEntry :=
  { tag := 0, htag := 0, vbase := 0, size := 2 ^ 27, leaf := 2 ^ 27, pa := 0, iset := 0, ws := false, perms := 255 }

/-- The core that fetches it: it holds that translation, and the line of the instruction. -/
def placedCore : Core := { tlb := [placedTlb], code := [placedAt / 128] }

/-- The bytes of an instruction of up to five words, as the module stores them (R11, R15). -/
def placedBytes (nbits w : Nat) : List Byte := leBytes 40 (w % 2 ^ nbits)

end Sys2Proof.Machine
end

