-- ==== Sys2Proof/Machine/Step.lean ====
section
/-! DEFINITION. One step of the module: an event of the outside world, the issue of a chosen split's instruction, an event that
Sched.lean lets come next, a step of boot, or the passing of a core cycle. Every step but those two, and a word without an instruction,
is `exec` of one Instr. -/

namespace Sys2Proof.Machine

/-- The step without the outside world. -/
def innerStep (s : State) : Host.Outcome State Fault Refusal :=
  match s.selected with
  | r :: rest =>
    match s.beforeChosen r with
    | some w => issueStep w { s with selected := w :: r :: rest }
    | none => issueStep r s
  | [] =>
    match s.choose with
    | (.event i, t) => exec i t
    | (.boot, t) => .next t.bootStep
    | (.resume r, t) => issueStep r { t with selected := [r] }
    | (.clock, t) => .next t.clock

/-- One step. An event of the outside world waits for its banks; then it comes at any step, which Config draws (log 1). -/
def step (s : State) : Host.Outcome State Fault Refusal :=
  match s.agenda with
  | i :: rest =>
    if s.agendaReady i then
      let t := { s with draw := s.draw + 1 }
      if Config.choose s.draw % 2 == 0 then exec i { t with agenda := rest } else innerStep t
    else innerStep s
  | [] => innerStep s

/-- The instruction `w` of `nbits` bits placed where the next step fetches: on a booted module, a running grid of one block of one
cohort, whose one user split has been chosen to issue at `placedAt` (log 10). -/
def State.withFetchWord (s : State) (nbits w : Nat) : State :=
  let t := s.writeRun placedAt (placedBytes nbits w)
  { t with bstate := 0x0F, stopped := false, agenda := [], cycle := s.cycle + 8, grids := [placedGrid], blocks := [placedBlock s.cycle],
           cores := tput {} 0 placedCore s.cores, selected := [⟨⟨⟨1, 0⟩, 1⟩, 1⟩],
           fresh := s.fresh + 1, lastLaunch := 1 }

end Sys2Proof.Machine
end

