-- ==== Sys2Proof/Safety.lean ====
section
/-! DEFINITION. What the statements mean: a machine in good form, a safe run, an instruction that issues, the value that a
register has in program order, and what an instruction changes when it has issued. -/

namespace Sys2Proof.Machine

/-- Bytes in the one canonical form: addresses strictly rising, no entry equal to what an unlisted address reads as. -/
def Memory.wf (m : List Host.Cell) : Bool := tableOk memDefault m

/-- Does a run of `n` steps from `s` end in a next state: neither a fault nor a refusal? -/
def Safe (n : Nat) (s : State) : Prop := ∃ t, Sys2Proof.core.run n s = .next t

/-! ### Issue -/

/-- At `s` the chosen split issues `i`: `x` is what issues, `u` the state in which its own effect begins. Some lane executes it, no
field of it is illegal (R50), and no register that it reads is under-gapped (R37). -/
structure Issues (i : Instr) (s : State) (x : Ctx) (u : State) : Prop where
  begins : s.beginIssue i = .go x u
  lanes : x.ex ≠ 0#64
  legal : x.legal = true
  gap : x.underGap = false

/-! ### Registers in program order (R32-R36) -/

/-- What a register of a cohort holds in a lane, without the results still owed to it. A predicate holds 1 or 0. -/
def Cohort.held (c : Cohort) (r : Reg) (l : Nat) : Word :=
  match r with
  | .vec n => c.vreg n l
  | .uni n => tget 0 c.sregs n
  | .prd n => if c.pred n l then 1 else 0

/-- The value of a register in the program order of a lane: that of its latest producer, visible or not. -/
def Cohort.newest (c : Cohort) (r : Reg) (l : Nat) : Word :=
  match r with
  | .uni n => overlay (c.sreg (bitMask l) n) (c.pend.filter fun p => p.reg == r && p.lanes.getLsbD l)
  | _ =>
    match c.pend.reverse.find? fun p => p.reg == r && p.lanes.getLsbD l with
    | some p => tget 0 p.vals l
    | none => c.held r l

/-- `d` is the cohort of `x` after the results `os` for the lanes `ls`: each register named has its result in each of these lanes, a
uniform register that of the lowest of them in every lane of the split, and every other register is as it was. Of two results to
one register the later in the list stands. -/
def Ctx.Results (x : Ctx) (ls : Mask) (os : List (Reg × (Nat → Word))) (d : Cohort) : Prop :=
  ∀ r l, d.newest r l =
    match os.reverse.find? fun o => o.1 == r with
    | none => x.c.newest r l
    | some o =>
      match r with
      | .uni _ => if x.sp.lanes.getLsbD l then o.2 (lowest ls) else x.c.newest r l
      | _ => if ls.getLsbD l then o.2 l else x.c.newest r l

/-- The results that `d` owes beyond `c`: those of the instruction `x`, visible from the issue distance of their class (R31, R32),
or, for class V, after a wait for the flag that the instruction sets (R33). -/
def Ctx.Owed (x : Ctx) (k : Cls) (d : Cohort) : Prop :=
  ∃ ps, d.pend = x.c.pend ++ ps ∧ ∀ p ∈ ps, p.uid = x.uid ∧ p.landed = false ∧ p.flag = x.h.set.toNat ∧
    p.due = (match k with | .a => some (x.sp.dist + 3) | .b => some (x.sp.dist + 5) | .v => none)

/-- `t` is `u` but for what an instruction of class `k` does whose results in the lanes `ls` are `os`: its cohort owes them, its flag
is one higher (R29), and it is noted as under way, to end as `fin` says. Nothing else is changed: no byte of memory, no
register of another cohort, no special or exception register. -/
def Ctx.Effect (x : Ctx) (u t : State) (k : Cls) (ls : Mask) (os : List (Reg × (Nat → Word))) (fin : Finish) : Prop :=
  ∃ d : Cohort,
    t = { u.modCohort x.r.c (fun _ => d) with issued := u.issued ++ [⟨x.uid, x.r.c, x.r.split, ls, setFlag x.h, fin⟩] } ∧
    d = { x.c with pend := d.pend, flags := d.flags } ∧
    (∀ f, d.flagCount f = x.c.flagCount f + if setFlag x.h = some f then 1 else 0) ∧
    x.Owed k d ∧ x.Results ls os d

/-- How an instruction of a class ends: class A and B after their latency, class V when it completes. -/
def endOf (k : Cls) (cycle : Nat) : Finish :=
  match k with
  | .a => .latency (cycle + 3)
  | .b => .latency (cycle + 5)
  | .v => .complete

/-- `i` completes from `s` with the results `os` and no other effect: the next state is that of the effect, after the split has
entered the next block where the instruction was the last of its own (R40). -/
def Gives (i : Instr) (s : State) (x : Ctx) (u : State) (k : Cls) (os : List (Reg × (Nat → Word))) : Prop :=
  ∃ t, Sys2Proof.Machine.exec i s = .next (t.settle x.r) ∧ x.Effect u t k x.ex os (endOf k u.cycle)

/-! ### Numbers -/

/-- `v` is the n-bit pattern of the exact value `e` under R72: wrapped, or saturated to the range of its signedness. -/
def Narrowed (n : Nat) (sat signed : Bool) (e : Int) (v : Nat) : Prop :=
  v < 2 ^ n ∧
    if sat then
      asInt n signed v =
        (if signed then min (max e (-(2 : Int) ^ (n - 1))) ((2 : Int) ^ (n - 1) - 1) else min (max e 0) ((2 : Int) ^ n - 1))
    else (v : Int) % (2 : Int) ^ n = e % (2 : Int) ^ n

/-- The rational number that a value is; NaN and the infinities are none. -/
def FV.rat : FV → Option ℚ
  | .fin s m e => some ((if s then -1 else 1) * (m : ℚ) * (2 : ℚ) ^ e)
  | _ => none

/-- Is one value below another, by number, where neither is NaN? -/
def FV.Below : FV → FV → Prop
  | .inf s, .inf t => s = true ∧ t = false
  | .inf s, .fin _ _ _ => s = true
  | .fin _ _ _, .inf t => t = false
  | .fin s m e, .fin t n k => (FV.fin s m e).rat.getD 0 < (FV.fin t n k).rat.getD 0
  | _, _ => False

/-- max(F) of R112 and R142. -/
def Fmt.most (f : Fmt) : ℚ :=
  match f.specials with
  | .ieee => (2 - (2 : ℚ) ^ (-(f.t : Int))) * (2 : ℚ) ^ ((2 : Int) ^ f.w - 2 - f.bias)
  | .onlyNan => (2 - (2 : ℚ) ^ (1 - (f.t : Int))) * (2 : ℚ) ^ ((2 : Int) ^ f.w - 1 - f.bias)
  | .none => (2 - (2 : ℚ) ^ (-(f.t : Int))) * (2 : ℚ) ^ ((2 : Int) ^ f.w - 1 - f.bias)

/-- A multiple of `q` next to `x` in a rounding direction: the rounding step of R113. -/
def roundTo (q : ℚ) (r : Rnd) (x : ℚ) : ℚ :=
  let n := ⌊x / q⌋
  if q * n = x then x
  else
    match r with
    | .rn =>
      if x - q * n < q * (n + 1) - x then q * n
      else if q * (n + 1) - x < x - q * n then q * (n + 1)
      else if n % 2 = 0 then q * n else q * (n + 1)
    | .rz => if 0 < x then q * n else q * (n + 1)
    | .rm => q * n
    | .rp => q * (n + 1)

/-- R113 Round. -/
def Fmt.round (f : Fmt) (r : Rnd) (x : ℚ) : ℚ := roundTo ((2 : ℚ) ^ (max (Int.log 2 |x|) f.emin - f.p + 1)) r x

/-- Does ftz make a value of this magnitude zero (R115)? -/
def Fmt.Flushed (ftz : Bool) (f : Fmt) (v : ℚ) : Prop := ftz = true ∧ (f = .f32 ∨ f = .bf16) ∧ |v| < (2 : ℚ) ^ f.emin

/-- `c` is a code of the format for the number `v` of sign `s`. -/
def Fmt.Is (f : Fmt) (s : Bool) (v : ℚ) (c : Nat) : Prop :=
  c < 2 ^ (f.body + 1) ∧ (decodeF f c).sign = s ∧ (decodeF f c).rat = some v

/-- `c` is the code of Flush(Fit(Round(x))) of a nonzero exact number (R113, R115). -/
def Fmt.Rounds (ftz : Bool) (f : Fmt) (r : Rnd) (x : ℚ) (c : Nat) : Prop :=
  let s : Bool := decide (x < 0)
  let y := f.round r x
  let toInf : Bool := match r with | .rn => true | .rz => false | .rm => s | .rp => !s
  (|y| ≤ f.most → (f.Flushed ftz y → f.Is s 0 c) ∧ (¬ f.Flushed ftz y → f.Is s y c)) ∧
  (f.most < |y| → if toInf = true then c = infBits f s else f.Is s (if s then -f.most else f.most) c)

/-- `c` is the code of a nonzero real number rounded to nearest, as R113 rounds a rational one: a multiple of the quantum of its binade within
half a quantum of it, through Flush. Nothing is said of a number so near a midpoint that a 2^-100th part of it would reach it. -/
def Fmt.Correct (ftz : Bool) (f : Fmt) (y : ℝ) (c : Nat) : Prop :=
  let e : Int := max (Int.log 2 |y|) f.emin - f.p + 1
  let q : ℝ := (2 : ℝ) ^ e
  (∀ k : Nat, (2 : ℝ) ^ (-100 : Int) * |y| < |2 * |y| - (2 * k + 1) * q|) →
    ∃ n : Nat, |2 * |y| - 2 * n * q| ≤ q ∧
      let v : ℚ := (if y < 0 then -1 else 1) * n * (2 : ℚ) ^ e
      (f.Flushed ftz v → ∃ s, (s = true ↔ y < 0) ∧ f.Is s 0 c) ∧ (¬ f.Flushed ftz v → ∃ s, (s = true ↔ y < 0) ∧ f.Is s v c)

/-- The code of a zero of sign `s`. -/
def Fmt.zero (f : Fmt) (s : Bool) : Nat := if s then 2 ^ f.body else 0

/-- `c` is the sum of two values with one rounding (R113, R114). -/
def Fmt.Sum (ftz : Bool) (f : Fmt) (r : Rnd) (x y : FV) (c : Nat) : Prop :=
  match x, y with
  | .nan, _ => c = f.nan
  | _, .nan => c = f.nan
  | .inf s, .inf t => if s = t then c = infBits f s else c = f.nan
  | .inf s, .fin _ _ _ => c = infBits f s
  | .fin _ _ _, .inf t => c = infBits f t
  | .fin s m e, .fin t n k =>
    let a := (FV.fin s m e).rat.getD 0
    let b := (FV.fin t n k).rat.getD 0
    if a + b = 0 then c = f.zero (if a = 0 ∧ s = t then s else decide (r = .rm)) else f.Rounds ftz r (a + b) c

/-- `p` is the exact product of two values (R114). -/
def FV.Product (x y p : FV) : Prop :=
  match x, y with
  | .nan, _ => p = .nan
  | _, .nan => p = .nan
  | .inf s, .inf t => p = .inf (s != t)
  | .inf s, .fin t n _ => if n = 0 then p = .nan else p = .inf (s != t)
  | .fin s m _, .inf t => if m = 0 then p = .nan else p = .inf (s != t)
  | .fin s m e, .fin t n k =>
    p.sign = (s != t) ∧ p.rat = some ((FV.fin s m e).rat.getD 0 * (FV.fin t n k).rat.getD 0)

/-- `c` is the value with one rounding. -/
def Fmt.Once (ftz : Bool) (f : Fmt) (r : Rnd) (p : FV) (c : Nat) : Prop :=
  match p with
  | .nan => c = f.nan
  | .inf s => c = infBits f s
  | .fin s m e => if m = 0 then c = f.zero s else f.Rounds ftz r ((FV.fin s m e).rat.getD 0) c

/-- `c'` is `c` clamped to [+0, 1] where `.SAT` asks for it (R116). -/
def Fmt.Clamped (sat : Bool) (f : Fmt) (c c' : Nat) : Prop :=
  if sat = false then c' = c
  else if decodeF f c = .nan ∨ (decodeF f c).sign = true then c' = 0
  else if decodeF f c = .inf false ∨ (∃ v, (decodeF f c).rat = some v ∧ 1 < v) then f.Is false 1 c'
  else c' = c

/-- `c` is a code of the format for a value that it represents. -/
def Fmt.Same (f : Fmt) (v : FV) (c : Nat) : Prop :=
  match v with
  | .nan => c = f.nan
  | .inf s => c = infBits f s
  | .fin s m e => f.Is s ((FV.fin s m e).rat.getD 0) c

/-- `c` is Flush(Saturate(Round(x))) of a nonzero exact number, and `sat` says whether it saturates (R113). -/
def Fmt.Saturates (ftz : Bool) (f : Fmt) (r : Rnd) (x : ℚ) (c : Nat) (sat : Bool) : Prop :=
  let s : Bool := decide (x < 0)
  let y := f.round r x
  (sat = true ↔ f.most < |y|) ∧
    if f.most < |y| then f.Is s (if s then -f.most else f.most) c
    else (f.Flushed ftz y → f.Is s 0 c) ∧ (¬ f.Flushed ftz y → f.Is s y c)

/-- The values of the QN4 codes (R147). -/
def qn4Values : List ℚ :=
  [0, 20 / 256, 42 / 256, 66 / 256, 94 / 256, 127 / 256, 167 / 256, 208 / 256, 1, -22 / 256, -47 / 256, -76 / 256, -110 / 256,
   -152 / 256, -202 / 256, -1]

/-- `c` is the QN4 code of a nonzero number under R133, and `sat` says whether it saturates. -/
def Qn4Code (rz : Bool) (x : ℚ) (c : Nat) (sat : Bool) : Prop :=
  c < 16 ∧ (sat = true ↔ 1 < |x|) ∧ (1 < x → c = 8) ∧ (x < -1 → c = 15) ∧ (|x| ≤ 1 →
    let v := qn4Values.getD c 0
    if rz then (0 < x → 0 ≤ v) ∧ (x < 0 → v ≤ 0) ∧ |v| ≤ |x| ∧ ∀ w ∈ qn4Values, 0 ≤ w * x → |w| ≤ |x| → |w| ≤ |v|
    else ∀ w ∈ qn4Values, |x - v| ≤ |x - w| ∧ (|x - v| = |x - w| → |v| ≤ |w|))

/-- `i` completes as a narrowing conversion with the results `os`; `n` saturated lanes are to be counted (R127). -/
def Narrows (i : Instr) (s : State) (x : Ctx) (u : State) (os : List (Reg × (Nat → Word))) (n : Nat) : Prop :=
  ∃ t, Sys2Proof.Machine.exec i s = .next (t.settle x.r) ∧ x.Effect u t .b x.ex os (.narrow (u.cycle + 5) n)

/-- R90. The fixed tree over lane numbers: at level k the lanes 2^k * i and up; one side without an executing lane passes the other
through. -/
def treeOf (f : Nat → Nat → Nat) (leaf : Nat → Option Nat) : Nat → Nat → Option Nat
  | 0, i => leaf i
  | k + 1, i =>
    match treeOf f leaf k (2 * i), treeOf f leaf k (2 * i + 1) with
    | some a, some b => some (f a b)
    | some a, none => some a
    | none, b => b

/-! ### Accesses -/

/-- The lanes `ls` as the executing lanes. -/
def Ctx.only (x : Ctx) (ls : Mask) : Ctx := { x with ex := ls }

/-- An address of format M (R19, R100): base plus the scaled offset. -/
def Ctx.at64 (x : Ctx) (o : OpM) (size l : Nat) : DWord := BitVec.ofNat 64 (x.rdN 2 o.a l) + BitVec.ofInt 64 (size * o.off.toInt)

/-- A scratchpad offset of format M. -/
def Ctx.at32 (x : Ctx) (o : OpM) (size l : Nat) : Nat := (x.rd o.a l + BitVec.ofInt 32 (size * o.off.toInt)).toNat

/-- The lanes whose checks fail, with cause and address, in lane order (R101, R102). -/
def Ctx.fails (x : Ctx) (addr : Nat → DWord) (chk : Nat → Except XFault Phys) : List LaneFault :=
  x.lanes.filterMap fun l =>
    match chk l with
    | .error f => some ⟨l, f.cause, addr l, f.gpa⟩
    | .ok _ => none

/-- `ls` are the executing lanes whose checks pass. -/
def Ctx.Passes (x : Ctx) (chk : Nat → Except XFault Phys) (ls : Mask) : Prop :=
  ∀ l, ls.getLsbD l = true ↔ x.ex.getLsbD l = true ∧ ∃ p, chk l = .ok p

/-- A 16-byte access is performed as two halves (R104): offset and size of each part. -/
def halvesOf (size : Nat) : List (Nat × Nat) := if size = 16 then [(0, 8), (8, 8)] else [(0, size)]

/-- What an access of the lane of `a` comes after: the thread's unperformed accesses to bytes of its own, what its fences and acquires
hold back (R201, R205, R264), and, where it writes, the writes of lower lanes of the instruction, whose accesses are `bs`, to the same
bytes (R104), or all of them for a TREADY (R306). -/
def Ctx.ComesAfter (x : Ctx) (t : State) (bs : List Access) (a : Access) (id : Nat) : Prop :=
  (∃ e ∈ t.flight, e.id = id ∧ e.c = x.r.c ∧ e.hasLane a.lane = true ∧ e.isFixed = false ∧ e.overlaps a.scratch a.pa a.size = true) ∨
  (∃ o ∈ x.c.orders, o.lanes.getLsbD a.lane = true ∧ (id ∈ o.acq ∨ a.op.writes = true ∧ id ∈ o.rel)) ∨
  (a.op.writes = true ∧ ∃ e ∈ t.flight ++ bs, e.id = id ∧ e.uid = x.uid ∧ e.isFixed = false ∧ (e ∈ t.flight ∨ e.id < a.id) ∧
    ((∃ p, a.op = .tready p) ∨ e.overlaps a.scratch a.pa a.size = true))

/-- `v` is `t` with the accesses `as` in flight, in this order, each numbered and ordered behind what it comes after, and behind what `more`
names. -/
def Ctx.LaunchesBehind (x : Ctx) (t v : State) (as : List Access) (more : Access → Nat → Prop) : Prop :=
  ∃ bs : List Access, v = { t with fresh := t.fresh + bs.length, flight := t.flight ++ bs } ∧
    bs.map (·.id) = (List.range bs.length).map (t.fresh + ·) ∧
    bs.map (fun a => { a with id := 0, after := [] }) = as ∧ ∀ a ∈ bs, ∀ id, id ∈ a.after ↔ x.ComesAfter t bs a id ∨ more a id

/-- `v` is `t` with the accesses `as` in flight, in this order, each numbered and ordered behind earlier ones. -/
def Ctx.Launches (x : Ctx) (t v : State) (as : List Access) : Prop := x.LaunchesBehind t v as fun _ _ => False

/-- No page of these addresses has still to be walked (R235). -/
def Ctx.Mapped (x : Ctx) (u : State) (as : List DWord) : Prop := ∀ a ∈ as, u.codeMiss x.c.core x.g x.sp.mode a = false

/-- Words of code at these addresses can be checked for a mode: no page of them has still to be walked, and the core's instruction cache
holds their lines (R235, R375). -/
def Ctx.Fetched (x : Ctx) (m : Mode) (u : State) (as : List DWord) : Prop :=
  ∀ a ∈ as, u.codeMiss x.c.core x.g m a = false ∧ u.codeLine x.c.core x.g m a = none

/-- `t` is what an instruction leaves that has met misses of some of these pages: their walks are asked for, and the split stands at the
instruction, which has not issued, until they have ended (R235, R373). -/
def Ctx.Suspends (x : Ctx) (s t : State) (as : List DWord) : Prop :=
  ∃ (qs : List WalkReq) (p : Split), s.split? x.r = some p ∧
    t.split? x.r = some { p with hold := some ⟨.walk qs, 0, x.ex, s.cycle⟩ } ∧
    t = { s with selected := s.selected.tail, fresh := t.fresh, walks := t.walks, blocks := t.blocks } ∧
    (∀ q, q ∈ qs ↔ ∃ a ∈ as, s.codeMiss x.c.core x.g x.sp.mode a = true ∧ q = ⟨x.c.core, x.g.id, a.toNat / 32768⟩) ∧
    (∀ q ∈ qs, ∃ w ∈ t.walks, w.req = q) ∧ ∀ w ∈ s.walks, w ∈ t.walks

/-- Walks that ended without a translation for one of these addresses are forgotten when the instruction has issued (R235). -/
def Ctx.walked (x : Ctx) (as : List DWord) (t : State) : State :=
  { t with walks := t.walks.filter fun w =>
      !(w.failed && w.req.core == x.c.core && w.req.grid == x.g.id && as.any fun a => a.toNat / 32768 == w.req.va) }

/-- What an instruction leaves whose checkpoint has just been published: the second commit is due (R398). -/
def Ctx.after (x : Ctx) (t : State) : State :=
  if x.sp.forced then
    (t.modBlock x.r.c.b fun b => { b with st := .checkpointing, exposed := true, forcer := none }).modSplit x.r fun p =>
      { p with forced := false }
  else t

/-- The block is asked to take a checkpoint before the chosen instruction takes effect (R396, R398). -/
def Asks (s : State) (x : Ctx) (forcer : Option SRef) : State :=
  ({ s with selected := s.selected.tail } : State).modBlock x.r.c.b fun b =>
    { b with st := .checkpointing, forcer := forcer, exposed := false }

/-! ### Sums, atomics -/

/-- `c` is the FP32 code of the exact sum of the terms under R153. -/
def SumOf (ts : List FV) (c : Nat) : Prop :=
  if .nan ∈ ts ∨ (.inf false ∈ ts ∧ .inf true ∈ ts) then c = 0x7FC00000
  else if .inf false ∈ ts then c = 0x7F800000
  else if .inf true ∈ ts then c = 0xFF800000
  else
    let e := (ts.map fun t => t.rat.getD 0).sum
    if e = 0 then c = (if ts ≠ [] ∧ ∀ t ∈ ts, t.sign = true ∧ t.rat = some 0 then 0x80000000 else 0)
    else Fmt.f32.Rounds false .rn e c

/-- `c` is RoundSR(x, r) of a nonzero number (R203). -/
def RoundsSR (x : ℚ) (r c : Nat) : Prop :=
  let f := Fmt.f32
  let s : Bool := decide (x < 0)
  let q := (2 : ℚ) ^ (max (Int.log 2 |x|) f.emin - f.p + 1)
  let lo := f.round .rz x
  let y := if lo = x then x else if (r : ℚ) < (|x| - |lo|) / q * 2 ^ 32 then (if s then lo - q else lo + q) else lo
  if |y| ≤ f.most then f.Is s y c else c = infBits f s

/-- Round1 of R200 under `.SR`: special terms and a zero sum as R153 has them, else RoundSR with the bits `r`. -/
def SumSR (ts : List FV) (r c : Nat) : Prop :=
  (((∃ t ∈ ts, t.rat = none) ∨ (ts.map fun t => t.rat.getD 0).sum = 0) → SumOf ts c) ∧
  ((∀ t ∈ ts, t.rat ≠ none) → (ts.map fun t => t.rat.getD 0).sum ≠ 0 → RoundsSR (ts.map fun t => t.rat.getD 0).sum r c)

/-- R202. -/
def mixOf (a : DWord) (n seed : Nat) : Nat :=
  let x := (a >>> 2) ^^^ (BitVec.ofNat 64 n <<< 48) ^^^ BitVec.ofNat 64 seed
  let x := x ^^^ (x >>> 31)
  let x := x * 0xA2F1B7D35C4E9867
  let x := x ^^^ (x >>> 29)
  let x := x * 0x5D3E8A1F27C4B6E3
  let x := x ^^^ (x >>> 32)
  x.toNat % 2 ^ 32

/-- R198. `v` is the new value of an operation but FADD on `bits` bits, from the value `cur` and the lane's operand `b`; of a CAS the
operand holds the compare value in its low half and the new value in its high half. -/
def AtomValue (op bits cur b v : Nat) : Prop :=
  let sg (n : Nat) : Int := asInt 32 true n
  let p := decodeF .f32 cur
  let q := decodeF .f32 b
  let low : Prop := p.Below q ∨ ¬ q.Below p ∧ p.sign = true ∧ q.sign = false
  let picks (most : Bool) : Prop :=
    (p = .nan → q = .nan → v = Fmt.f32.nan) ∧ (p = .nan → q ≠ .nan → v = b) ∧ (p ≠ .nan → q = .nan → v = cur) ∧
    (p ≠ .nan → q ≠ .nan → (low → v = if most then b else cur) ∧ (¬ low → v = if most then cur else b))
  (op = 0 ∨ op = 1 → v < 2 ^ bits ∧ v ≡ cur + b [MOD 2 ^ bits]) ∧
  (op = 2 → v = if sg cur ≤ sg b then cur else b) ∧ (op = 3 → v = if sg b ≤ sg cur then cur else b) ∧
  (op = 4 → v = min cur b) ∧ (op = 5 → v = max cur b) ∧
  (op = 6 → ∀ k, v.testBit k = (cur.testBit k && b.testBit k)) ∧ (op = 7 → ∀ k, v.testBit k = (cur.testBit k || b.testBit k)) ∧
  (op = 8 → ∀ k, v.testBit k = (cur.testBit k != b.testBit k)) ∧ (op = 9 ∨ op = 10 → v = b) ∧
  (op = 11 ∨ op = 12 → v = if b % 2 ^ bits = cur then b / 2 ^ bits else cur) ∧
  (op = 14 → picks false) ∧ (op = 15 → picks true)

/-! ### Objects in the scratchpad -/

/-- A run of relations over a list, from the first value to the last. -/
def Runs {α β : Type} (R : α → β → α → Prop) : α → List β → α → Prop
  | a, [], c => a = c
  | a, b :: bs, c => ∃ m, R a b m ∧ Runs R m bs c

/-- The little-endian number of `n` bytes at `off`. -/
def numberAt (m : Nat → Byte) (off n : Nat) : Nat := leNat ((List.range n).map fun k => m (off + k))

/-- `m` with the `n` bytes of a number at `off`. -/
def withNumber (m : Nat → Byte) (off n v : Nat) : Nat → Byte := fun p =>
  if off ≤ p ∧ p < off + n then BitVec.ofNat 8 (v / 256 ^ (p - off)) else m p

/-- R210, R211. A byte-count barrier object at `q.1` takes a change of `q.2` bytes due; `arm` is BARB.INIT's arming. -/
def BarbNext (arm : Bool) (m : Nat → Byte) (q : Nat × Int) (m' : Nat → Byte) : Prop :=
  let v := BitVec.ofNat 64 (numberAt m q.1 8)
  ∃ w : DWord, m' = withNumber m q.1 8 w.toNat ∧
    (w.extractLsb' 0 32 = v.extractLsb' 0 32 + BitVec.ofInt 32 q.2) ∧ (w.extractLsb' 32 30 = v.extractLsb' 32 30) ∧
    (let armed : Bool := v.getLsbD 62 || arm
     let completes : Bool := armed && decide (w.extractLsb' 0 32 = 0)
     w.getLsbD 62 = (armed && !completes) ∧ w.getLsbD 63 = (v.getLsbD 63 != completes))

/-- R212, R213. One lane's operation on its queue: lane, header offset, value and what comes of it. -/
def QueueNext (g : Grid) (push : Bool) (m : Nat → Byte) (q : (Nat × Nat × DWord) × QueueOut) (m' : Nat → Byte) : Prop :=
  let off := q.1.2.1
  let head := numberAt m off 4
  let tail := numberAt m (off + 4) 4
  let slots := numberAt m (off + 8) 2
  let allowance := numberAt m (off + 10) 2
  let count := (tail + 2 ^ 32 - head) % 2 ^ 32
  let bad : Option Nat :=
    if off % 16 ≠ 0 then some 3
    else if inScratch g off 16 = false then some 2
    else if slots = 0 ∨ allowance = 0 ∨ slots < allowance ∨ numberAt m (off + 12) 4 ≠ 0 then some 5
    else if inScratch g (off + 16) (8 * slots) = false then some 2
    else none
  (∀ c, bad = some c → q.2 = .faults c ∧ m' = m) ∧
  (bad = none → push = true →
    (count < allowance → q.2 = .done 0 ∧
      m' = withNumber (withNumber m (off + 4) 4 ((tail + 1) % 2 ^ 32)) (off + 16 + 8 * (tail % slots)) 8 q.1.2.2.toNat) ∧
    (allowance ≤ count → q.2 = .waits ∧ m' = m)) ∧
  (bad = none → push = false →
    (count ≠ 0 → q.2 = .done (numberAt m (off + 16 + 8 * (head % slots)) 8) ∧
      m' = withNumber m off 4 ((head + 1) % 2 ^ 32)) ∧
    (count = 0 → q.2 = .waits ∧ m' = m))

/-- No split of the machine is held in a wait of this kind. -/
def State.NoneHeld (s : State) (k : HoldKind → Prop) : Prop :=
  ∀ b ∈ s.blocks, ∀ c ∈ b.cohorts, ∀ p ∈ c.splits, ∀ h, p.hold = some h → ¬ k h.kind

/-- No image of a block stands in memory that what happens now could change: none is saved, captured or being restored. -/
def State.NoImages (s : State) : Prop := ∀ b ∈ s.blocks, b.st ≠ .saved ∧ b.st ≠ .restoring ∧ b.captured = false

/-- An entry of the subscription table of core `k` lies at one of some cores, or is that of a pair block on one of them (R302, R333). -/
def State.EntryAt (s : State) (cores : List Nat) (k : Nat) (e : SubEntry) : Prop :=
  (∃ q ∈ s.cores, q.1 = k ∧ e ∈ q.2.subs) ∧
    (k ∈ cores ∨ ∃ b ∈ s.blocks, b.ref = e.pub ∧ b.core2.isSome = true ∧ ∃ c ∈ b.cores, c ∈ cores)

/-- No packet stands at the home bank of an address. -/
def State.NoPacketAt (s : State) (pa : Nat) : Prop :=
  ∀ b ∈ s.flight, ∀ t, b.trip = some t → t.way ≠ [s.bankPlace (paDomain pa) pa]

/-- The lanes of `x` have no unperformed access. -/
def Ctx.AllDone (x : Ctx) (u : State) : Prop :=
  ∀ a ∈ u.flight, a.c = x.r.c → ∀ l, x.ex.getLsbD l = true → a.hasLane l = true → a.isFixed = true

/-- `t` is `u` but for scratchpad bytes of the block, now as `m` says, and the subscription updates that they generate. -/
def Ctx.Writes (x : Ctx) (u : State) (m : Nat → Byte) (t : State) : Prop :=
  ∃ f : Block → Block, t = { u.modBlock x.r.c.b f with cores := t.cores, packets := t.packets, fresh := t.fresh } ∧
    (∀ b, f b = { b with scratch := (f b).scratch }) ∧
    (∀ b, u.block? x.r.c.b = some b → ∀ p, tget 0 (f b).scratch p = m p) ∧
    ((∀ k ∈ x.b.core :: x.b.core2.toList, ∀ e ∈ (u.core k).subs, e.pub ≠ x.b.ref) →
      t.cores = u.cores ∧ t.packets = u.packets ∧ t.fresh = u.fresh)

/-! ### The end of instructions -/

/-- R29, R33, R36. The instructions with these numbers end: in `d`, their results are written. A result to a vector or predicate register
waits from then on for its readers alone; a uniform result is read by the splits that it is not owed to, and by its own when it is
visible to them. Of several under way to one uniform register, see R34. -/
def Cohort.Ends (c d : Cohort) (uids : List Nat) : Prop :=
  d = { c with pend := d.pend, sregs := d.sregs, flags := d.flags, ovf := d.ovf } ∧
  (let plain (p : Pend) : Bool := match p.reg with | .uni _ => false | _ => true
   ∃ f : Pend → Pend, d.pend.filter plain = (c.pend.filter plain).map f ∧
    ∀ p, f p = { p with landed := p.landed || uids.contains p.uid, wrote := (f p).wrote }) ∧
  (∀ r p, p ∈ c.pend → p.reg = .uni r → (∀ q ∈ c.pend, q.reg = .uni r → q = p) → p.landed = false → p.uid ∈ uids →
    ∀ own : Mask, d.sreg own r =
      if p.lanes &&& own = 0#64 then blend (tget 0 c.sregs r) (tget 0 p.vals 0) p.bits else tget 0 c.sregs r) ∧
  ∀ r, (∀ q ∈ c.pend, q.reg ≠ .uni r) → tget 0 d.sregs r = tget 0 c.sregs r

/-! ### Copies and handles -/

/-- The results that instruction `uid` is owed in `c` have their words in `d`: `value l` in a lane, of which register `k` of the
destination takes bits [32k+31:32k]. -/
def Fills (c d : Cohort) (uid : Nat) (rs : List Reg) (value : Nat → Nat) : Prop :=
  d = { c with pend := d.pend } ∧ List.Forall₂ (fun p q : Pend =>
    q = { p with vals := q.vals } ∧ (p.uid ≠ uid → q = p) ∧
    (p.uid = uid → ∀ k, rs[k]? = some p.reg →
      match p.reg with
      | .uni _ => tget 0 q.vals 0 = BitVec.ofNat 32 (value (lowest p.lanes) / 2 ^ (32 * k))
      | _ => ∀ l, p.lanes.getLsbD l = true → tget 0 q.vals l = BitVec.ofNat 32 (value l / 2 ^ (32 * k)))) c.pend d.pend

/-- An operation of the copy queues that begins: no earlier one of its core stands before it in its queue, and no earlier QFENCE
names the queue; a QFENCE begins when no earlier operation stands in a queue that it names. -/
def Begins (u : State) (before : List CopyOp) (op : CopyOp) : Prop :=
  (∃ rest, u.copies = before ++ op :: rest ∧ ∀ o ∈ before, o.id ≠ op.id) ∧
  ∀ o ∈ before, o.core = op.core →
    match op.moves with
    | .fence mask => ¬ (o.queue < 8 ∧ mask.testBit o.queue = true)
    | _ => o.queue ≠ op.queue ∧ ∀ mask, o.moves = .fence mask → mask.testBit op.queue = false

/-- In `t` the operation has left its queue, and what followed it has resolved so. -/
def Resolves (u t : State) (op : CopyOp) (code : Nat) (cancelled : Bool) (count : Nat) (addr : DWord) : Prop :=
  (∀ o, o ∈ t.copies ↔ o ∈ u.copies ∧ o.id ≠ op.id) ∧
  ∀ k c, u.cohort? ⟨op.b, k⟩ = some c → ∃ d, t.cohort? ⟨op.b, k⟩ = some d ∧ ∀ h,
    tget .empty d.handles h = if tget .empty c.handles h = .pending op.id then .resolved code cancelled count addr
      else tget .empty c.handles h

/-! ### Launches -/

/-- R170, R240, R305. In `t` the grid has retired with a status: its status word holds it, where the word's pointer is not 0 and passes, no
other byte of memory has changed, and a handle that follows the launch has resolved with it. Where the home bank does not take the write
of the word at once, that write is in flight and the grid closes with it. -/
def Retires (s t : State) (g : Grid) (status : Nat) : Prop :=
  let va := (g.word 5).toNat / 4 * 4
  let takes (pa : Nat) : Prop := s.lineFree pa = true ∧ s.bankQuiet pa = true
  let late : Prop := va ≠ 0 ∧ ∃ pa, s.statusPlace g = some pa ∧ ¬ takes pa
  (∃ h, t.grid? g.id = some h ∧ h.status = status ∧ (¬ late → h.st = .retired) ∧ (late → h.st = .closing)) ∧
  (va = 0 ∨ late ∨ s.statusPlace g = none → ∀ a, t.readMem a = s.readMem a) ∧
  -- no write of the registrar to these bytes is under way
  (∀ pa, va ≠ 0 → s.statusPlace g = some pa → takes pa →
    (∀ a ∈ s.flight, (∃ b, a.op = .reg b) → a.overlaps false pa 4 = false) → ∀ a, t.readMem a =
    if pa ≤ a ∧ a < pa + 4 then BitVec.ofNat 8 (status / 256 ^ (a - pa)) else s.readMem a) ∧
  (∀ pa, va ≠ 0 → s.statusPlace g = some pa → ¬ takes pa → ∃ a ∈ t.flight, a.op = .status g.id ∧ a.pa = pa ∧ a.size = 4 ∧
    a.stage = .issued ∧ a.bytes = leBytes 4 status) ∧
  (∀ op, ¬ late → g.handleOp = some op → ∀ r c, s.cohort? r = some c → ∃ d, t.cohort? r = some d ∧
    ∀ h, tget .empty c.handles h = .pending op → tget .empty d.handles h = .resolved status false 0 0)

end Sys2Proof.Machine
end

