-- ==== Sys2Proof/WellFormed.lean ====
section
/-! DEFINITION. Well-formed instructions: the field rules that need no machine state (R17, R22-R25, R68, R69), and that the
constructor is the one the encoding names. -/

namespace Sys2Proof

/-- Does the constructor agree with the fields that select it (HMOV's modifier, an unassigned opcode)? -/
def Instr.formOk : Instr → Bool
  | .hmovH o => o.m == 0
  | .hmovS o => o.m == 1
  | .hmovC o => o.m == 2
  | .hmovA o => o.m == 3
  | .unimplementedOpcode o => !assigned o.op.toNat && o.op.toNat != 0x1FF
  | i => (Machine.hdr? i).isSome

/-- R17, R22-R25, R68, R69 and the set field of R15: no illegal field value that shows without the machine's state. -/
def WellFormed (i : Instr) : Prop := i.formOk = true ∧ (Machine.shape i).legal = true ∧
  match Machine.hdr? i with
  | some h => h.set.toNat ≤ 11 ∨ h.set.toNat = 15
  | none => False

end Sys2Proof
end

