-- ==== Sys2Proof/Certificates/Slice0/Obligations.lean ====
section
/-! DEFINITION. The statements for the provers. Each is about what an instruction, an event or the machine does by the rules of the
spec that its docstring names. -/

section

open Sys2Proof Sys2Proof.Machine

/-! ### Integer instructions (R69-R82) -/

/-- R70-R73. The two-source and one-source arithmetic instructions: the exact value of the operands, read with the instruction's width
and signedness, wrapped or saturated. Moves, the immediate forms and the three-source forms, as the words they write. Division truncates
toward zero and the remainder has the sign of the dividend; the most negative value divided by −1 gives itself and the remainder 0. Lanes
whose divisor is zero raise 0x0B together, and the others complete. Nothing else changes. -/
def Obligations.IntegerArithmeticMovesAndDivision : Prop :=
  ((∀ (o : OpA) (s : State) (x : Ctx) (u : State),
      let n := widthOf o.m
      let sg := o.m.getLsbD 2
      let sat := o.m.getLsbD 1
      let a (l : Nat) : Int := asInt n sg (x.rdN (n / 32) o.a l)
      let b (l : Nat) : Int := asInt n sg (x.rdN (n / 32) o.b l)
      let sa (l : Nat) : Int := asInt n true (x.rdN (n / 32) o.a l)
      let yields (i : Instr) (k : Cls) (signed : Bool) (e : Nat → Int) : Prop :=
        Issues i s x u → ∃ v, Gives i s x u k (outs o.d (n / 32) v) ∧ ∀ l, Narrowed n sat signed (e l) (v l)
      yields (.iadd o) .a sg (fun l => a l + b l) ∧ yields (.isub o) .a sg (fun l => a l - b l) ∧
        yields (.imul o) .b sg (fun l => a l * b l) ∧ yields (.imulh o) .b sg (fun l => a l * b l / (2 : Int) ^ n) ∧
        yields (.imin o) .a sg (fun l => min (a l) (b l)) ∧ yields (.imax o) .a sg (fun l => max (a l) (b l)) ∧
        yields (.iabs o) .a true (fun l => |sa l|) ∧ yields (.ineg o) .a true (fun l => -sa l)) ∧
   (∀ (oa : OpA) (ob : OpB) (oc : OpC) (s : State) (x : Ctx) (u : State),
      let n := widthOf oa.m
      let a (l : Nat) : Word := x.rd oa.a l
      let b (l : Nat) : Word := x.rd oa.b l
      let c (l : Nat) : Word := x.rd oa.m l
      let d (l : Nat) : Word := x.rd ob.a l
      (Issues (.mov oa) s x u → Gives (.mov oa) s x u .a (outs oa.d (n / 32) fun l => x.rdN (n / 32) oa.a l)) ∧
      (Issues (.movi oc) s x u → Gives (.movi oc) s x u .a (out32 oc.d fun _ => oc.imm.signExtend 32)) ∧
      (Issues (.movh ob) s x u →
        ∃ v, Gives (.movh ob) s x u .a (out32 ob.d v) ∧ ∀ l, (v l).toNat = 65536 * ob.imm.toNat + (d l).toNat % 65536) ∧
      (Issues (.iaddImmediate ob) s x u → Gives (.iaddImmediate ob) s x u .a (out32 ob.d fun l => d l + ob.imm.signExtend 32)) ∧
      (Issues (.imulImmediate ob) s x u → Gives (.imulImmediate ob) s x u .b (out32 ob.d fun l => d l * ob.imm.signExtend 32)) ∧
      (Issues (.iadd3 oa) s x u → Gives (.iadd3 oa) s x u .a (out32 oa.d fun l => a l + b l + c l)) ∧
      (Issues (.imad oa) s x u → Gives (.imad oa) s x u .b (out32 oa.d fun l => a l * b l + c l)) ∧
      (Issues (.imadw oa) s x u →
        ∃ v, Gives (.imadw oa) s x u .b (outs oa.d 2 v) ∧
          ∀ l, v l < 2 ^ 64 ∧ v l ≡ (a l).toNat * (b l).toNat + x.rdN 2 oa.m l [MOD 2 ^ 64]))) ∧
  (∀ (o : OpA) (s : State) (x : Ctx) (u : State),
     let n := widthOf o.m
     let sg := o.m.getLsbD 2
     let a (l : Nat) : Int := asInt n sg (x.rdN (n / 32) o.a l)
     let b (l : Nat) : Int := asInt n sg (x.rdN (n / 32) o.b l)
     let bad : List LaneFault := (x.lanes.filter fun l => b l = 0).map fun l => ⟨l, 0x0B, 0, 0⟩
     let good : Mask := x.ex &&& ~~~(maskOf (bad.map (·.lane)))
     let divides (i : Instr) (f : Int → Int → Int) : Prop :=
       Issues i s x u →
         ∃ v, (∀ l, b l ≠ 0 → Narrowed n false sg (f (a l) (b l)) (v l)) ∧
           (bad = [] → Gives i s x u .v (outs o.d (n / 32) v)) ∧
           (bad ≠ [] → good = 0#64 → exec i s = .next ((x.raise u bad).settle x.r)) ∧
           (bad ≠ [] → good ≠ 0#64 → ∃ t, { x with ex := good }.Effect u t .v good (outs o.d (n / 32) v) .complete ∧
             exec i s = .next ((x.raise t bad).settle x.r))
     divides (.idiv o) (fun p q => p.sign * q.sign * (p.natAbs / q.natAbs : Nat)) ∧
       divides (.irem o) (fun p q => p - q * (p.sign * q.sign * (p.natAbs / q.natAbs : Nat))))

/-- R74-R77. The logic and bit-count instructions, shifts, the rotation to the left and the bit-field instructions, bit by bit. `k` of a
shift is its immediate or the low byte of source 2; of a bit field the position is the low byte of source 2 and the length the next
byte. -/
def Obligations.LogicShiftsAndBitFields : Prop :=
  (∀ (oa : OpA) (ob : OpB) (s : State) (x : Ctx) (u : State),
     let n := widthOf oa.m
     let a (l k : Nat) : Bool := (x.rdN (n / 32) oa.a l).testBit k
     let b (l k : Nat) : Bool := (x.rdN (n / 32) oa.b l).testBit k
     let bits (i : Instr) (f : Nat → Nat → Bool) : Prop :=
       Issues i s x u → ∃ v, Gives i s x u .a (outs oa.d (n / 32) v) ∧ ∀ l k, k < n → (v l).testBit k = f l k
     let imm (i : Instr) (f : Bool → Bool → Bool) : Prop :=
       Issues i s x u → ∃ v, Gives i s x u .a (out32 ob.d v) ∧
         ∀ l k, k < 32 → (v l).getLsbD k = f ((x.rd ob.a l).getLsbD k) (ob.imm.getLsbD k)
     bits (.and oa) (fun l k => a l k && b l k) ∧ bits (.or oa) (fun l k => a l k || b l k) ∧
       bits (.xor oa) (fun l k => a l k != b l k) ∧ bits (.andn oa) (fun l k => a l k && !b l k) ∧
       bits (.not oa) (fun l k => !a l k) ∧ bits (.brev oa) (fun l k => a l (n - 1 - k)) ∧
       imm (.andImmediate ob) and ∧ imm (.orImmediate ob) or ∧ imm (.xorImmediate ob) xor ∧
       (Issues (.popc oa) s x u → ∃ v, Gives (.popc oa) s x u .a (outs oa.d 1 v) ∧
         ∀ l, v l = ((Finset.range n).filter fun k => a l k = true).card) ∧
       (Issues (.clz oa) s x u → ∃ v, Gives (.clz oa) s x u .a (outs oa.d 1 v) ∧
         ∀ l, v l ≤ n ∧ (∀ k, n - v l ≤ k → k < n → a l k = false) ∧ (v l < n → a l (n - 1 - v l) = true))) ∧
  (∀ (o : OpA) (s : State) (x : Ctx) (u : State),
     let n := widthOf o.m
     let a (l k : Nat) : Bool := (x.rdN (n / 32) o.a l).testBit k
     let amount (l : Nat) : Nat := if o.m.getLsbD 1 then (o.m.toNat / 4) else (x.rd o.b l).toNat % 256
     let pos (l : Nat) : Nat := (x.rd o.b l).toNat % 256
     let len (l : Nat) : Nat := (x.rd o.b l).toNat / 256 % 256
     let bits (i : Instr) (m : Nat) (f : Nat → Nat → Bool) : Prop :=
       Issues i s x u → ∃ v, Gives i s x u .a (outs o.d (m / 32) v) ∧ ∀ l k, k < m → (v l).testBit k = f l k
     bits (.shl o) n (fun l k => decide (amount l ≤ k) && a l (k - amount l)) ∧
     bits (.shr o) n (fun l k => decide (k + amount l < n) && a l (k + amount l)) ∧
     bits (.sar o) n (fun l k => a l (min (k + amount l) (n - 1))) ∧
     bits (.rot o) n (fun l k => a l ((k + (n - amount l % n)) % n)) ∧
     bits (.fshl o) 32 (fun l k =>
       let j := (x.rd o.m l).toNat % 32
       if j ≤ k then (x.rd o.a l).getLsbD (k - j) else (x.rd o.b l).getLsbD (32 + k - j)) ∧
     bits (.bfx o) 32 (fun l k =>
       let m := min (len l) 32
       if len l = 0 then false
       else if k < m then (x.rd o.a l).getLsbD (pos l + k)
       else o.m.getLsbD 2 && (x.rd o.a l).getLsbD (pos l + m - 1)) ∧
     bits (.bfi o) 32 (fun l k =>
       if pos l ≤ k ∧ k < pos l + len l then (x.rd o.a l).getLsbD (k - pos l) else (x.rd o.m l).getLsbD k))

/-- R78-R82. Comparisons, truth tables, selection, addresses and names of neighbouring cores. -/
def Obligations.PredicatesSelectionAndAddresses : Prop :=
  ∀ (oa : OpA) (ob : OpB) (s : State) (x : Ctx) (u : State),
    let cmp (c : Nat) (a b : Int) : Bool :=
      [decide (a < b), decide (a ≤ b), decide (a > b), decide (a ≥ b), decide (a = b), decide (a ≠ b)].getD c false
    let both (i : Instr) (pd pn : Nat) (f : Nat → Bool) : Prop :=
      Issues i s x u → Gives i s x u .a (outP pd f ++ outP pn fun l => !f l)
    let bit (p l : Nat) : Nat := if x.pred p l then 1 else 0
    both (.isetp oa) (fld oa.d 2 0) (fld oa.m 6 4) (fun l =>
      let n := if oa.d.getLsbD 3 then 64 else 32
      let sg := oa.d.getLsbD 4
      cmp (fld oa.d 7 5) (asInt n sg (x.rdN (n / 32) oa.a l)) (asInt n sg (x.rdN (n / 32) oa.b l))) ∧
    (Issues (.isetpImmediate ob) s x u → Gives (.isetpImmediate ob) s x u .a (outP (fld ob.d 2 0) fun l =>
      let n := if ob.d.getLsbD 3 then 64 else 32
      let sg := ob.d.getLsbD 4
      cmp (fld ob.d 7 5) (asInt n sg (x.rdN (n / 32) ob.a l)) (if sg then ob.imm.toInt else ob.imm.toNat))) ∧
    both (.plop oa) (fld oa.d 2 0) (fld oa.d 6 4) (fun l =>
      oa.m.getLsbD (bit (fld oa.a 2 0) l + 2 * bit (fld oa.a 6 4) l + 4 * bit (fld oa.b 2 0) l)) ∧
    (Issues (.sel oa) s x u → Gives (.sel oa) s x u .a (outs oa.d (if oa.m.getLsbD 4 then 2 else 1) fun l =>
      let n := if oa.m.getLsbD 4 then 2 else 1
      let p := xor (x.pred (fld oa.m 2 0) l) (oa.m.getLsbD 3)
      if p then x.rdN n oa.a l else x.rdN n oa.b l)) ∧
    (Issues (.lea oa) s x u → ∃ v, Gives (.lea oa) s x u .a (outs oa.d 2 v) ∧
      ∀ l, v l < 2 ^ 64 ∧
        BitVec.ofNat 64 (v l) = BitVec.ofNat 64 (x.rdN 2 oa.a l) +
          ((if oa.m.getLsbD 3 then (x.rd oa.b l).signExtend 64 else (x.rd oa.b l).zeroExtend 64) <<< (fld oa.m 2 0))) ∧
    (Issues (.nadd oa) s x u → ∃ v : Nat → Option Nat,
      Gives (.nadd oa) s x u .a (out32 oa.d (fun l => BitVec.ofNat 32 ((v l).getD 0x00FFFFFF)) ++ outP (fld oa.m 2 0) fun l => (v l).isSome) ∧
        ∀ l e, v l = some e ↔
          let name := x.rd oa.a l
          let row := (name.extractLsb' 8 8).toNat + ((x.rd oa.b l).extractLsb' 8 8).toInt
          let col := (name.extractLsb' 0 8).toNat + ((x.rd oa.b l).extractLsb' 0 8).toInt
          name.toNat < 2 ^ 24 ∧ ∃ r, u.chart.rects[name.toNat / 65536]? = some r ∧
            (name.extractLsb' 8 8).toNat < r.rows ∧ (name.extractLsb' 0 8).toNat < r.cols ∧
            0 ≤ row ∧ row < r.rows ∧ 0 ≤ col ∧ col < r.cols ∧
            (e : Int) = name.toNat / 65536 * 65536 + row * 256 + col)

/-! ### Operands and issue (R15-R37, R50) -/

/-- R22, R23, R25. What an operand code names: registers, the lane index and the constants, alone and over two or four registers;
and which codes are legal sources there. -/
def Obligations.OperandCodes : Prop :=
  ∀ (c : Cohort) (w : Nat) (own : Mask) (code : BitVec 8) (l : Nat), l < 64 → (w = 32 ∨ w = 64) →
    let n := code.toNat
    let konst : List Nat :=
      [0, l, 1, 0xFFFFFFFF, 0x3F800000, 0x40000000, 0x3F000000, 0xBF800000, 0x7F800000, 0x7FC00000, 0x80000000, 0x7FFFFFFF, w,
       0x40490FDB, 0x3F317218]
    (n < 0xC0 → c.src32 w own code l = c.vreg n l) ∧
    (0xC0 ≤ n → n < 0xF0 → c.src32 w own code l = c.sreg own (n - 0xC0)) ∧
    (0xF0 ≤ n → n < 0xFF → konst[n - 0xF0]? = some (c.src32 w own code l).toNat) ∧
    (n < 0xC0 → c.srcN w own 2 code l = (c.vreg n l).toNat + 2 ^ 32 * (c.vreg (n + 1) l).toNat) ∧
    (0xC0 ≤ n → n < 0xF0 →
      c.srcN w own 2 code l = (c.sreg own (n - 0xC0)).toNat + 2 ^ 32 * (c.sreg own (n - 0xC0 + 1)).toNat) ∧
    (∀ k, k = 1 ∨ k = 2 ∨ k = 4 → n = 0xF3 → c.srcN w own k code l = 2 ^ (32 * k) - 1) ∧
    (∀ k, n = 0xF0 ∨ n = 0xF1 ∨ n = 0xF2 ∨ n = 0xFC → c.srcN w own k code l = (c.src32 w own code l).toNat) ∧
    (∀ k, k = 1 ∨ k = 2 ∨ k = 4 ∨ k = 8 → (srcOk code k = true ↔
      (n < 0xC0 ∧ k ∣ n ∧ n + k ≤ 0xC0) ∨ (0xC0 ≤ n ∧ n < 0xF0 ∧ k ∣ n - 0xC0 ∧ n + k ≤ 0xF0) ∨
      (0xF0 ≤ n ∧ n < 0xFF ∧ k = 1) ∨ ((k = 2 ∨ k = 4) ∧ (n = 0xF0 ∨ n = 0xF1 ∨ n = 0xF2 ∨ n = 0xF3 ∨ n = 0xFC))))

/-- R16, R28-R30, R37, R50, R179. When the chosen split may issue an instruction, and what issue itself does. A split whose fetch was
suspended goes on with what it has met, also while its block stops (R373, R388). The distance grows by the gap, PC passes the
instruction and its inline words, the guard selects the lanes, and every other part of the state stands. An instruction whose guard selects no lane only counts its flag for one cycle; one whose fields are illegal raises 0x05 in every executing lane. With
the gap-check bit, an instruction of class A, B or V that would read another value than its latest producer's does not execute and raises
0x09, unless a rule of its own about modes, registers, teams, tiles or fields makes it illegal first (R50), and BRP and BRU raise it in every
lane of the split; a result owed only in lanes that supply nothing to a matrix instruction does not count (R289, R294, R296); without the bit nothing
is under-gapped. -/
def Obligations.IssueAndItsChecks : Prop :=
  (∀ (i : Instr) (h : Hdr) (s : State) (r : SRef) (rest : List SRef) (g : Grid) (b : Block) (c : Cohort) (sp : Split),
     hdr? i = some h → s.selected = r :: rest → s.grid? r.c.b.grid = some g → s.block? r.c.b = some b →
     s.cohort? r.c = some c → s.split? r = some sp →
     let gap := max h.gap.toNat 1
     let may : Prop :=
       g.st = .running ∧ sp.spawn = none ∧ sp.parked = none ∧ sp.entering = false ∧
         (h.set.toNat ≤ 11 → c.flagCount h.set.toNat < 63) ∧
         (if sp.walked = true then b.st = .resident ∨ b.st = .checkpointing ∨ b.st = .saving
          else (b.st = .resident ∨ b.st = .checkpointing ∧ sp.forced = true) ∧ sp.hold = none ∧
            (∀ f, f < 12 → h.wait.getLsbD f = true → c.flagCount f = 0) ∧ sp.last + gap ≤ s.cycle)
     (¬ may → s.beginIssue i = .stop { s with selected := rest }) ∧
     (may → ∃ x, s.beginIssue i = .go x (({ s with selected := rest, fresh := s.fresh + 1 } : State).modCohort r.c fun _ => x.c) ∧
       x.r = r ∧ x.i = i ∧ x.h = h ∧ x.uid = s.fresh ∧ x.sp.pc = sp.pc ∧ x.sp.lanes = sp.lanes ∧ x.sp.dist = sp.dist + gap ∧
       (∀ l, x.ex.getLsbD l = (sp.lanes.getLsbD l && (x.pred (fld h.guard 2 0) l != h.guard.getLsbD 3))) ∧
       x.c = { c with
         vregs := x.c.vregs, sregs := x.c.sregs, preds := x.c.preds, pend := x.c.pend
         splits := c.splits.map fun q =>
           if q.id = sp.id then
             { sp with pc := sp.pc + BitVec.ofNat 64 (8 * (1 + inlineWords i)), dist := sp.dist + gap, last := s.cycle, passed := 0,
                       starved := false, yieldUntil := none, yieldFor := [], hold := none }
           else q })) ∧
  ((∀ (i : Instr) (s u : State) (x : Ctx), s.beginIssue i = .go x u → x.sp.forced = false → (∀ w ∈ s.walks, w.failed = false) →
      (match i with | .brp _ | .bru _ | .unimplementedOpcode _ => False | _ => True) →
      let user : Bool := x.sp.mode == .user
      let entered (m : Mode) : Bool := x.sp.mode == m && (match x.sp.frames with | f :: _ => f.entered == m | [] => false)
      let tiles (ns : List Nat) : Bool := user && ns.all fun n => x.c.ownsTile x.g n
      let rule : Bool := match i with
        | .waitm _ | .launch _ | .tready _ | .unsub _ | .subsync _ | .bar _ | .ckpt _ | .barbWait _ | .qpush _ | .qpop _ | .exit _
        | .qfree _ => user
        | .subscribe y => user && subscribeOk x y
        | .sysc _ | .hcall _ | .ebreak _ => x.sp.mode != .hypervisor
        | .sret _ => entered .supervisor
        | .hret _ => entered .hypervisor
        | .vote o =>
          let n := if fld o.m 1 0 = 2 && x.g.width = 64 then 2 else 1
          decide (fld o.m 1 0 ≤ 1) || (dstOk o.d n .uniAny && allocOk x.g { dsts := [(o.d, n, .uniAny)] })
        | .pwrite o =>
          pwriteFault x.sp.mode x.sp.frames.length (fld o.imm 11 0)
            (if o.imm.getLsbD 12 then x.rdD o.a x.low else (x.rd o.a x.low).setWidth 64) != some 0x05
        | .qbind o =>
          let t := x.b.team (fld o.m 3 0)
          user && x.c.team.isNone && tget 0 t.members x.c.quad == 0 && (t.members.isEmpty || t.core == x.c.core)
        | .accz o | .accld o => tiles [fld o.d 4 0]
        | .accst o => tiles [fld o.a 4 0]
        | .scacc o => tiles [fld o.d 4 0, fld o.m 4 0]
        | .mmaBf16 o | .mmaF16 o | .mmaE4m3 o | .mmaE5m2 o | .mmaE3m2 o | .mmaE2m3 o | .mmaE2m1 o | .mmaE4m3Qn4 o | .mmaE2m1Qn4 o =>
          tiles [fld o.d 4 0] && x.c.team.isSome
        | .mmasBf16 o | .mmasF16 o | .mmasE4m3 o | .mmasE5m2 o | .mmasE2m1 o =>
          tiles [fld o.d 4 0] && x.c.team.isSome && decide (x.rdN 2 o.m x.low / 2 ^ 32 ≤ 1)
        | _ => true
      (x.ex = 0#64 → ∃ t, x.Effect u t .v 0#64 [] (.latency (u.cycle + 1)) ∧ exec i s = .next (t.settle x.r)) ∧
      (x.ex ≠ 0#64 → x.legal = false → exec i s = .next ((x.raiseAll u 0x05).settle x.r)) ∧
      (cls i = .v → x.ex ≠ 0#64 → x.legal = true → x.underGap = true →
        exec i s = .next ((x.raiseAll u (if rule then 0x09 else 0x05)).settle x.r))) ∧
   (∀ (i : Instr) (o : OpJ) (s u : State) (x : Ctx), i = .brp o ∨ i = .bru o → s.beginIssue i = .go x u →
      (∀ w ∈ s.walks, w.failed = false) → x.legal = true → x.underGap = true →
      exec i s = .next (({ x with ex := x.sp.lanes } : Ctx).raiseAll u 0x09 |>.settle x.r)) ∧
   (∀ (i : Instr) (s u : State) (x : Ctx), s.beginIssue i = .go x u →
      let pairs (o : OpA) : BitVec 8 × Nat × DstKind := (o.m, if x.g.width = 64 then 4 else 2, .uniOnly)
      let decisions : Bool := match i with
        | .acs2 o => dstOk (pairs o).1 (pairs o).2.1 .uniOnly && allocOk x.g { dsts := [pairs o] }
        | _ => true
      (x.g.check = false → x.underGap = false) ∧
      (cls i ≠ .v → x.ex ≠ 0#64 → x.legal = true → decisions = true → x.underGap = true → exec i s = .next ((x.raiseAll u 0x09).settle x.r)) ∧
      (let supply : Mask := match i with
          | .scacc _ => 0xFFFF
          | .accld _ | .mmaBf16 _ | .mmaF16 _ | .mmaE4m3 _ | .mmaE5m2 _ | .mmaE3m2 _ | .mmaE2m3 _ | .mmaE2m1 _ | .mmaE4m3Qn4 _
          | .mmaE2m1Qn4 _ | .mmasBf16 _ | .mmasF16 _ | .mmasE4m3 _ | .mmasE5m2 _ | .mmasE2m1 _ => 0xFFFFFFFF
          | _ => BitVec.allOnes 64
        ∀ code n, (code, 1) ∈ (shape i).srcs → opnd code = some (.vec n) → x.g.check = true →
          (∃ p ∈ x.c.pend, p.reg = .vec n ∧ p.lanes &&& x.ex &&& supply ≠ 0#64) → x.underGap = true)) ∧
   (∀ (o : OpA) (s u : State) (x : Ctx), s.beginIssue (.accld o) = .go x u →
      (∀ p ∈ x.c.pend, p.lanes &&& 0xFFFFFFFF = 0#64 ∧ ∀ k, p.reg ≠ .prd k) → (∀ n, opnd o.a ≠ some (.uni n)) → x.underGap = false))

/-- R32-R34. What an instruction reads in a vector register: the result of the latest producer that is visible to it, a class A or
class B result by its distance, a class V result by a wait on its flag; with none, what the register held. And nothing is lost: the
value in program order stays what it was. The results owed to one register stand in the order of their producers. -/
def Obligations.ReadsSeeWhatIsVisible : Prop :=
  ∀ (i : Instr) (h : Hdr) (s u : State) (c : Cohort) (sp : Split) (x : Ctx),
    hdr? i = some h → s.beginIssue i = .go x u → s.cohort? x.r.c = some c → s.split? x.r = some sp →
    (c.pend.Pairwise fun p q => p.reg = q.reg → p.uid < q.uid) →
    let sees (p : Pend) : Bool :=
      match p.due with
      | some d => decide (d ≤ sp.dist + max h.gap.toNat 1)
      | none => decide (p.flag < 12) && h.wait.getLsbD p.flag && p.landed
    ∀ n l, sp.lanes.getLsbD l = true →
      (∀ code, opnd code = some (.vec n) →
        x.rd code l = match c.pend.reverse.find? fun p => p.reg == .vec n && p.lanes.getLsbD l && sees p with
          | some p => tget 0 p.vals l
          | none => c.vreg n l) ∧
      x.c.newest (.vec n) l = c.newest (.vec n) l

/-! ### Decoding, the step and the whole state -/

/-- R15-R21, R53-R59. Words written out from the spec's encodings decode to the instructions that they stand for. -/
def Obligations.SampleWordsDecode : Prop :=
  let h (gap : BitVec 3) (wait : BitVec 12) (set guard : BitVec 4) : Hdr := ⟨gap, wait, set, guard⟩
  decode [0x128000F733060740] = .ok (.isetp ⟨h 0 0 15 7, 0x33, 6, 7, 0x40⟩, []) ∧
  decode [0x00A0091A05012345] = .ok (.movi ⟨h 2 9 1 10, 5, 0x012345⟩, []) ∧
  decode [0x201000F70301020C] = .ok (.fadd ⟨h 1 0 15 7, 3, 1, 2, 0x0C⟩, []) ∧
  decode [0x821000270A040100] = .ok (.ldB32 ⟨h 1 0 2 7, 0x0A, 4, 0x010, 0, 0⟩, []) ∧
  decode [0x601010FC00000018] = .ok (.bra ⟨h 1 0x010 15 12, 0x18⟩, []) ∧
  decode [0xDA100007C0001000] = .ok (.pread ⟨h 1 0 0 7, 0xC0, 0, 0x1000⟩, []) ∧
  decode [0xD01000F702C40000, 0x11, 0x22, 0x33] = .ok (.subscribe ⟨⟨h 1 0 15 7, 2, 0xC4, 0, 0⟩, 0x11, 0x22⟩, [0x33]) ∧
  decode [0xFF8300048C100000] = .error .header ∧ decode [] = .error .empty ∧ decode [0xD01000F702C40000, 0x11] = .error .truncated

/-- R15-R21, R51-R59. No bit of an encoding is dropped: every well-formed instruction decodes from its words, whatever follows. And
the other direction: words that decode are the words of their instruction, so that no two words stand for one instruction. -/
def Obligations.DecodeOfEncode : Prop :=
  (∀ (i : Instr) (ws : List DWord), WellFormed i → encode i ≠ [] ∧ decode (encode i ++ ws) = .ok (i, ws)) ∧
  (∀ (ws rest : List DWord) (i : Instr), decode ws = .ok (i, rest) → encode i ++ rest = ws ∧ (encode i).length = 1 + inlineWords i)

/-- R40, R50, R375. A step of a chosen split runs the instruction that its bytes decode to: the words at PC, little-endian and under
execute permission, as many as the opcode fixes, inside the block. A word that does not translate is a fetch fault, and a word that
decodes to nothing is illegal. A fetch that misses both TLBs, or the core's instruction cache (log 95, the model's choice), issues
nothing. No suspended split of its cohort is to trap before it (R382). -/
def Obligations.StepRunsDecodedInstruction : Prop :=
  ∀ (s : State) (r : SRef) (rest : List SRef) (g : Grid) (c : Cohort) (sp : Split) (w : DWord) (ws : List DWord),
    s.agenda = [] → s.selected = r :: rest → s.grid? r.c.b.grid = some g → s.cohort? r.c = some c → s.split? r = some sp →
    s.beforeChosen r = none →
    let word (k : Nat) : Except XFault DWord := s.codeWord c.core g sp.mode (sp.pc + BitVec.ofNat 64 (8 * k))
    ((s.fetchMiss r).isSome = true ∨ (s.fetchLine r).isSome = true → step s = .next { s with selected := rest }) ∧
    (s.fetchMiss r = none → s.fetchLine r = none →
    (sp.entering = true → step s = exec (.fetchFault r) s) ∧
    (∀ f, sp.entering = false → word 0 = .error f → step s = exec (.fetchFault r) s) ∧
    (sp.entering = false → word 0 = .ok w → ws.length = inlineCount (opcodeField w).toNat →
      (∀ k (hk : k < ws.length), word (k + 1) = .ok ws[k]) →
      (sp.blkEnd = 0 ∨ sp.pc.toNat + 8 * (1 + ws.length) ≤ sp.blkEnd.toNat) →
      (∀ i h, decode (w :: ws) = .ok (i, []) → hdr? i = some h → step s = exec i s) ∧
      (∀ e, decode (w :: ws) = .error e → step s = .next (illegalWord r w s))))

/-- Every step keeps memory in its canonical form: addresses strictly rising, no entry equal to what an unlisted address reads as. -/
def Obligations.StepKeepsMemoryForm : Prop :=
  ∀ (s t : State), Memory.wf s.mem = true → step s = .next t → Memory.wf t.mem = true

/-- R419, R238, R254, R356. The module right after reset, at its first power-up: the boot ROM is about to run, nothing is resident, and
each register has the value that the spec gives for reset. That memory lists nothing and reads 0 there is the model's choice (log 3),
and so are the registers without a stated value (log 62). -/
def Obligations.ResetState : Prop :=
  State.reset.bstate = 0x01 ∧ State.reset.mem = [] ∧ Memory.wf State.reset.mem = true ∧ (∀ a, State.reset.readMem a = 0) ∧
  State.reset.grids = [] ∧ State.reset.blocks = [] ∧ State.reset.pgidle = 100000 ∧ State.reset.msem = 0 ∧
  State.reset.frozen = false ∧ State.reset.stopped = false ∧ State.reset.ticks = 0 ∧
  (∀ p, (State.reset.part p).scap = 8 ∧ (State.reset.part p).l2reg = 0) ∧ (∀ n, (State.reset.core n).power = .on) ∧
  (∀ g : Grid, g.regs = {} → g.regs.llen = 1024) ∧ ∃ t, step State.reset = .next t

/-- R11. Bytes of a run read back where they were written and nowhere else, and a 64-bit word is little-endian. -/
def Obligations.MemoryReadsWhatWasWritten : Prop :=
  ∀ (s : State) (pa a : Nat) (vs : List Byte) (v : DWord), Memory.wf s.mem = true →
    let t := s.writeRun pa vs
    Memory.wf t.mem = true ∧
    (∀ k (hk : k < vs.length), t.readMem (pa + k) = vs[k]) ∧
    (a < pa ∨ pa + vs.length ≤ a → t.readMem a = s.readMem a) ∧
    (s.writeRun pa (leBytes 8 v.toNat)).read8 pa = v.toNat ∧
    (∀ k, k < 8 → (s.writeRun pa (leBytes 8 v.toNat)).readMem (pa + k) = v.extractLsb' (8 * k) 8)

/-! ### Floating point (R108-R135) -/

/-- R112-R116. The codes of the formats and their values, what rounding and saturation make of an exact number, and what a source reads under
ftz. FADD, FSUB and FMUL: the exact result of the operands with one rounding, clamped where `.SAT` asks for it. FFMA: one rounding of
the exact product and sum, in FP32 and to nearest. -/
def Obligations.FormatsAndArithmeticWithOneRounding : Prop :=
  ((Fmt.f32.most = (2 - (2 : ℚ) ^ (-23 : Int)) * 2 ^ 127 ∧ Fmt.f16.most = 65504 ∧ Fmt.bf16.most = (2 - (2 : ℚ) ^ (-7 : Int)) * 2 ^ 127 ∧
    Fmt.e4m3.most = 448 ∧ Fmt.e5m2.most = 57344 ∧ Fmt.e3m2.most = 28 ∧ Fmt.e2m3.most = 15 / 2 ∧ Fmt.e2m1.most = 6 ∧
    ∀ f ∈ [Fmt.f32, .f16, .bf16, .e4m3, .e5m2, .e3m2, .e2m3, .e2m1],
      f.Is false f.most f.maxCode ∧
      (f.specials ≠ .none → f.nan < 2 ^ (f.body + 1) ∧ decodeF f f.nan = .nan) ∧
      (f.specials = .ieee → ∀ s, decodeF f (infBits f s) = .inf s) ∧
      ∀ c, c < 2 ^ (f.body + 1) →
        (∀ v, (decodeF f c).rat = some v → |v| ≤ f.most ∧
          |v| = (if c / 2 ^ f.t % 2 ^ f.w = 0 then (c % 2 ^ f.t : Nat) * (2 : ℚ) ^ (f.emin - f.t)
            else (1 + (c % 2 ^ f.t : Nat) / (2 : ℚ) ^ f.t) * (2 : ℚ) ^ ((c / 2 ^ f.t % 2 ^ f.w : Nat) - (f.bias : Int)))) ∧
        (∀ v s, (decodeF f c).rat = some v → (decodeF f c).sign = s → (s = decide (2 ^ f.body ≤ c)) ∧ (v ≠ 0 → s = decide (v < 0)))) ∧
   (∀ (ftz : Bool) (r : Rnd) (s : Bool) (m : Nat) (e : Int) (c : Nat), m ≠ 0 →
      let x : ℚ := (FV.fin s m e).rat.getD 0
      (∀ f ∈ [Fmt.f32, .f16, .bf16], f.Rounds ftz r x (finish ftz f r s m e) ∧
        (match decodeF f (c % 2 ^ (f.body + 1)) with
          | .fin t n k => if ftz = true ∧ (f = .f32 ∨ f = .bf16) ∧ n < 2 ^ f.t then (readF ftz f c).rat = some 0 ∧ (readF ftz f c).sign = t
              else readF ftz f c = .fin t n k
          | v => readF ftz f c = v)) ∧
      (∀ f ∈ [Fmt.f32, .f16, .bf16, .e4m3, .e5m2, .e3m2, .e2m3, .e2m1],
        let q := roundF f r s m e
        let y := f.round r x
        ((satCode f s q.1 q.2).2 = true ↔ f.most < |y|) ∧
        f.Is s (if |y| ≤ f.most then y else if s then -f.most else f.most) (satCode f s q.1 q.2).1))) ∧
  ((∀ (o : OpA) (s : State) (x : Ctx) (u : State), fld o.m 1 0 < 3 →
      let f := [Fmt.f32, .f16, .bf16].getD (fld o.m 1 0) .f32
      let r := [Rnd.rn, .rz, .rm, .rp].getD (fld o.m 3 2) .rn
      let z := x.g.ftz
      let a (l : Nat) : FV := readF z f ((x.rd o.a l).toNat % 2 ^ (f.body + 1))
      let b (l : Nat) : FV := readF z f ((x.rd o.b l).toNat % 2 ^ (f.body + 1))
      let gives (i : Instr) (p : Nat → Nat → Prop) : Prop :=
        Issues i s x u → ∃ v, Gives i s x u .b (outs o.d 1 v) ∧ ∀ l, ∃ c, p l c ∧ f.Clamped (o.m.getLsbD 4) c (v l)
      gives (.fadd o) (fun l c => f.Sum z r (a l) (b l) c) ∧
      gives (.fsub o) (fun l c => f.Sum z r (a l) (b l).neg c) ∧
      gives (.fmul o) (fun l c => ∃ p, (a l).Product (b l) p ∧ f.Once z r p c)) ∧
   (∀ (o : OpA) (s : State) (x : Ctx) (u : State), Issues (.ffma o) s x u →
      let g (c : BitVec 8) (l : Nat) : FV := readF x.g.ftz .f32 (x.rd c l).toNat
      ∃ v, Gives (.ffma o) s x u .b (outs o.d 1 v) ∧
        ∀ l, ∃ p, (g o.a l).Product (g o.b l) p ∧ Fmt.f32.Sum x.g.ftz .rn p (g o.m l) (v l)))

/-- R117, R118. FMIN, FMAX and FSETP, with −0 below +0 for the first two and equal to it for the third. -/
def Obligations.FloatMinMaxAndCompare : Prop :=
  ∀ (o : OpA) (s : State) (x : Ctx) (u : State),
    let fmt (k : Nat) : Fmt := [Fmt.f32, .f16, .bf16].getD k .f32
    let code (f : Fmt) (c : BitVec 8) (l : Nat) : Nat := (x.rd c l).toNat % 2 ^ (f.body + 1)
    let z := x.g.ftz
    -- the stored bits, or the zero of its sign where the operand is read as one
    let kept (f : Fmt) (c : Nat) : Nat :=
      if z = true ∧ (f = .f32 ∨ f = .bf16) ∧ c % 2 ^ f.body < 2 ^ f.t then f.zero (decide (2 ^ f.body ≤ c)) else c
    let picks (i : Instr) (most : Bool) : Prop :=
      fld o.m 1 0 < 3 → Issues i s x u → ∃ v, Gives i s x u .b (outs o.d 1 v) ∧ ∀ l,
        let f := fmt (fld o.m 1 0)
        let p := readF z f (code f o.a l)
        let q := readF z f (code f o.b l)
        let low : Prop := p.Below q ∨ ¬ q.Below p ∧ p.sign = true ∧ q.sign = false
        (p = .nan → q = .nan → v l = f.nan) ∧ (p = .nan → q ≠ .nan → v l = kept f (code f o.b l)) ∧
        (p ≠ .nan → q = .nan → v l = kept f (code f o.a l)) ∧
        (p ≠ .nan → q ≠ .nan → (low → v l = kept f (code f (if most then o.b else o.a) l)) ∧
          (¬ low → v l = kept f (code f (if most then o.a else o.b) l)))
    picks (.fmin o) false ∧ picks (.fmax o) true ∧
    (fld o.d 7 6 < 3 → Issues (.fsetp o) s x u →
      ∃ t : Nat → Bool, Gives (.fsetp o) s x u .b (outP (fld o.d 2 0) t ++ outP (fld o.m 2 0) fun l => !t l) ∧ ∀ l,
        let f := fmt (fld o.d 7 6)
        let p := readF z f (code f o.a l)
        let q := readF z f (code f o.b l)
        let nan : Prop := p = .nan ∨ q = .nan
        t l = true ↔
          (fld o.d 5 3 = 0 ∧ ¬ nan ∧ ¬ p.Below q ∧ ¬ q.Below p) ∨ (fld o.d 5 3 = 1 ∧ (nan ∨ p.Below q ∨ q.Below p)) ∨
          (fld o.d 5 3 = 2 ∧ p.Below q) ∨ (fld o.d 5 3 = 3 ∧ ¬ nan ∧ ¬ q.Below p) ∨ (fld o.d 5 3 = 4 ∧ q.Below p) ∨
          (fld o.d 5 3 = 5 ∧ ¬ nan ∧ ¬ p.Below q) ∨ (fld o.d 5 3 = 6 ∧ ¬ nan) ∨ (fld o.d 5 3 = 7 ∧ nan))

/-- R119, R120. FCLASS, FRND, FEXP and FLDEXP. -/
def Obligations.FloatClassRoundAndExponent : Prop :=
  ∀ (o : OpA) (s : State) (x : Ctx) (u : State), fld o.m 1 0 < 3 →
    let f := [Fmt.f32, .f16, .bf16].getD (fld o.m 1 0) .f32
    let r := [Rnd.rn, .rz, .rm, .rp].getD (fld o.m 3 2) .rn
    let z := x.g.ftz
    let code (l : Nat) : Nat := (x.rd o.a l).toNat % 2 ^ (f.body + 1)
    let a (l : Nat) : FV := readF z f (code l)
    let gives (i : Instr) (p : Nat → Nat → Prop) : Prop :=
      Issues i s x u → ∃ v, Gives i s x u .b (outs o.d 1 v) ∧ ∀ l, p l (v l)
    gives (.fclass o) (fun l v =>
      let c := code l
      let neg : Bool := decide (2 ^ f.body ≤ c)
      let ex := c / 2 ^ f.t % 2 ^ f.w
      let fr := c % 2 ^ f.t
      v = 2 ^ (if ex = 2 ^ f.w - 1 then (if fr = 0 then (if neg then 0 else 7) else if 2 ^ (f.t - 1) ≤ fr then 9 else 8)
        else if ex = 0 then (if fr = 0 then (if neg then 3 else 4) else if neg then 2 else 5)
        else if neg then 1 else 6)) ∧
    gives (.frnd o) (fun l v =>
      match a l with
      | .nan => v = f.nan
      | .inf t => v = infBits f t
      | .fin t m e => f.Is t (if m = 0 then 0 else roundTo 1 r ((FV.fin t m e).rat.getD 0)) v) ∧
    gives (.fexp o) (fun l v =>
      match a l with
      | .fin t m e => if m = 0 then v = 0x80000000 else BitVec.ofNat 32 v = BitVec.ofInt 32 (Int.log 2 |(FV.fin t m e).rat.getD 0|)
      | _ => v = 0x7FFFFFFF) ∧
    gives (.fldexp o) (fun l v =>
      match a l with
      | .nan => v = f.nan
      | .inf t => v = infBits f t
      | .fin t m e =>
        if m = 0 then v = f.zero t else f.Rounds z r ((FV.fin t m e).rat.getD 0 * (2 : ℚ) ^ (x.rd o.b l).toInt) v)

/-- R121-R123. The functions of one FP32 operand complete: their results for special operands, the exact cases, and the correct
rounding of the reciprocal and of the two roots. -/
def Obligations.ReciprocalsRootsAndSpecialOperands : Prop :=
  ∀ (o : OpA) (s : State) (x : Ctx) (u : State),
    let z := x.g.ftz
    let nan := 0x7FC00000
    let inf (t : Bool) : Nat := if t then 0xFF800000 else 0x7F800000
    let zero (t : Bool) : Nat := if t then 0x80000000 else 0
    let one := 0x3F800000
    let gives (i : Instr) (p : FV → Nat → Prop) : Prop :=
      Issues i s x u → ∃ v, Gives i s x u .v (outs o.d 1 v) ∧ ∀ l, p (readF z .f32 (x.rd o.a l).toNat) (v l)
    -- a positive number n * q nearest to a root: its square against the radicand, scaled by four
    let near (q : ℚ) (below : ℚ → Prop) (above : ℚ → Prop) (v : Nat) : Prop :=
      ∃ n : Nat, Fmt.f32.Is false (n * q) v ∧ below ((2 * (n : ℚ) - 1) * q) ∧ above ((2 * (n : ℚ) + 1) * q)
    gives (.frcp o) (fun a v => match a with
      | .nan => v = nan
      | .inf t => v = zero t
      | .fin t m e => if m = 0 then v = inf t else Fmt.f32.Rounds z .rn (((FV.fin t m e).rat.getD 0)⁻¹) v) ∧
    gives (.fsqrt o) (fun a v => match a with
      | .nan => v = nan
      | .inf t => v = if t then nan else inf false
      | .fin t m e => if m = 0 then v = zero t else if t = true then v = nan else
        let d := (FV.fin t m e).rat.getD 0
        near ((2 : ℚ) ^ (Int.log 2 d / 2 - 23)) (fun h => h ^ 2 < 4 * d) (fun h => 4 * d < h ^ 2) v) ∧
    gives (.frsq o) (fun a v => match a with
      | .nan => v = nan
      | .inf t => v = if t then nan else 0
      | .fin t m e => if m = 0 then v = inf t else if t = true then v = nan else
        let d := (FV.fin t m e).rat.getD 0
        near ((2 : ℚ) ^ (Int.log 2 d⁻¹ / 2 - 23)) (fun h => h ^ 2 * d < 4) (fun h => 4 < h ^ 2 * d) v) ∧
    gives (.ex2 o) (fun a v => match a with
      | .nan => v = nan
      | .inf t => v = if t then 0 else inf false
      | .fin t m e =>
        let d := (FV.fin t m e).rat.getD 0
        (128 ≤ d → v = inf false) ∧ (d ≤ -150 → v = 0) ∧
        (∀ k : Int, -149 ≤ k → k ≤ 127 → d = k → Fmt.f32.Rounds z .rn ((2 : ℚ) ^ k) v)) ∧
    gives (.lg2 o) (fun a v => match a with
      | .nan => v = nan
      | .inf t => v = if t then nan else inf false
      | .fin t m e => if m = 0 then v = inf true else if t = true then v = nan else
        ∀ k : Int, (FV.fin t m e).rat = some ((2 : ℚ) ^ k) → Fmt.f32.Is (decide (k < 0)) k v) ∧
    gives (.sin o) (fun a v => match a with
      | .fin t m e => if m = 0 then v = zero t else
        |(FV.fin t m e).rat.getD 0| < (2 : ℚ) ^ (-12 : Int) → Fmt.f32.Rounds z .rn ((FV.fin t m e).rat.getD 0) v
      | _ => v = nan) ∧
    gives (.cos o) (fun a v => match a with
      | .fin t m e => |(FV.fin t m e).rat.getD 0| < (2 : ℚ) ^ (-12 : Int) → v = one
      | _ => v = nan)

/-- R121, R122. EX2, LG2, SIN and COS on their general arguments, beside the special ones: the exact value of the function, a real number,
correctly rounded. It is so wherever no midpoint of two neighbouring codes lies within a 2^-100th part of the exact value; that no FP32
argument comes so near one is a fact of numbers, which the statement leaves aside. -/
def Obligations.TranscendentalsRoundCorrectly : Prop :=
  ∀ (o : OpA) (s : State) (x : Ctx) (u : State),
    let z := x.g.ftz
    let gives (i : Instr) (f : ℝ → ℝ) (general : ℚ → Prop) : Prop :=
      Issues i s x u → ∃ v, Gives i s x u .v (outs o.d 1 v) ∧ ∀ l,
        match readF z .f32 (x.rd o.a l).toNat with
        | .fin t m e => m ≠ 0 → general ((FV.fin t m e).rat.getD 0) → Fmt.f32.Correct z (f ((FV.fin t m e).rat.getD 0 : ℚ)) (v l)
        | _ => True
    gives (.ex2 o) (fun d => (2 : ℝ) ^ d) (fun d => -150 < d ∧ d < 128 ∧ ∀ k : Int, d ≠ k) ∧
    gives (.lg2 o) (fun d => Real.logb 2 d) (fun d => 0 < d ∧ ∀ k : Int, d ≠ (2 : ℚ) ^ k) ∧
    gives (.sin o) Real.sin (fun d => (2 : ℚ) ^ (-12 : Int) ≤ |d|) ∧
    gives (.cos o) Real.cos (fun d => (2 : ℚ) ^ (-12 : Int) ≤ |d|)

/-- R127-R130. F2I clamps a rounded value to its integer type; I2F and F2F convert with one rounding, saturate, and count the saturated
lanes, under legacyround toward zero where they would round to nearest; a widening or canonical F2F is exact and counts nothing. That a
widening one reads subnormals as they are under ftz too is the model's choice (log 70): R115 names no exception for it, and R128 and R151
call it exact. -/
def Obligations.ConversionsRoundAndSaturate : Prop :=
  ∀ (o : OpA) (s : State) (x : Ctx) (u : State),
    let fmt (k : Nat) : Fmt := [Fmt.f32, .f16, .bf16].getD k .f32
    let rnd := [Rnd.rn, .rz, .rm, .rp].getD (fld o.m 5 4) .rn
    let narrowed : Rnd := if x.g.legacyRound = true ∧ rnd = .rn then .rz else rnd
    let z := x.g.ftz
    let n := if o.m.getLsbD 3 then 64 else 32
    let sg := !o.m.getLsbD 2
    let count (sat : Nat → Bool) : Nat := ((if isUni o.d then [lowest x.ex] else x.lanes).filter sat).length
    (fld o.m 1 0 < 3 → Issues (.f2i o) s x u → ∃ v, Gives (.f2i o) s x u .b (outs o.d (n / 32) v) ∧ ∀ l, v l < 2 ^ n ∧
      let f := fmt (fld o.m 1 0)
      let lo : Int := if sg then -(2 : Int) ^ (n - 1) else 0
      let hi : Int := if sg then (2 : Int) ^ (n - 1) - 1 else (2 : Int) ^ n - 1
      match readF z f ((x.rd o.a l).toNat % 2 ^ (f.body + 1)) with
      | .nan => v l = 0
      | .inf t => asInt n sg (v l) = if t then lo else hi
      | .fin t m e =>
        ∀ k : Int, roundTo 1 rnd ((FV.fin t m e).rat.getD 0) = k → asInt n sg (v l) = max lo (min hi k)) ∧
    (fld o.m 1 0 < 3 → Issues (.i2f o) s x u → ∃ v sat, Narrows (.i2f o) s x u (outs o.d 1 v) (count sat) ∧ ∀ l,
      let k := asInt n sg (x.rdN (n / 32) o.a l)
      if k = 0 then v l = 0 ∧ sat l = false else (fmt (fld o.m 1 0)).Saturates z narrowed k (v l) (sat l)) ∧
    (fld o.m 1 0 < 3 → fld o.m 3 2 < 3 → Issues (.f2f o) s x u →
      let src := fmt (fld o.m 1 0)
      let dst := fmt (fld o.m 3 2)
      let widens : Bool := fld o.m 3 2 == 0 && fld o.m 1 0 != 0
      let a (l : Nat) : FV := readF (z && !widens) src ((x.rd o.a l).toNat % 2 ^ (src.body + 1))
      (fld o.m 3 2 = 0 ∨ fld o.m 3 2 = fld o.m 1 0 → ∃ v, Gives (.f2f o) s x u .b (outs o.d 1 v) ∧ ∀ l, dst.Same (a l) (v l)) ∧
      (fld o.m 3 2 ≠ 0 → fld o.m 3 2 ≠ fld o.m 1 0 →
        ∃ v sat, Narrows (.f2f o) s x u (outs o.d 1 v) (count sat) ∧ ∀ l,
          match a l with
          | .fin t m e =>
            if m = 0 then v l = dst.zero t ∧ sat l = false
            else dst.Saturates z narrowed ((FV.fin t m e).rat.getD 0) (v l) (sat l)
          | w => dst.Same w (v l) ∧ sat l = false))

/-- R131-R134, R147. CVTQ writes two narrow codes beside each other and keeps the other bits of its destination; CVTX reads two back
and converts them exactly. -/
def Obligations.NarrowCodesBothWays : Prop :=
  ∀ (o : OpA) (s : State) (x : Ctx) (u : State),
    let fmts : List Fmt := [.e4m3, .e5m2, .e3m2, .e2m3, .e2m1]
    let k := fld o.m 2 0
    let w := if k = 4 ∨ k = 5 then 4 else 8
    let p := 2 * w * fld o.m 4 3
    -- the code of one FP32 operand, and whether it saturates
    let elem (v : FV) (c : Nat) (sat : Bool) : Prop :=
      let f := fmts.getD k .e2m1
      match v with
      | .nan => (c, sat) = [(0x7F, false), (0x7E, false), (0, true), (0, true), (0, true), (0, true)].getD k (0, false)
      | .inf t => (c, sat) = if t then [(0xFE, true), (0xFC, false), (0x3F, true), (0x3F, true), (0xF, true), (15, true)].getD k (0, false)
          else [(0x7E, true), (0x7C, false), (0x1F, true), (0x1F, true), (0x7, true), (8, true)].getD k (0, false)
      | .fin t m e =>
        if m = 0 then (c, sat) = ((if t then [0x80, 0x80, 0x20, 0x20, 8, 0].getD k 0 else 0), false)
        else if k = 5 then Qn4Code x.g.legacyRound ((FV.fin t m e).rat.getD 0) c sat
        else f.Saturates false (if x.g.legacyRound then .rz else .rn) ((FV.fin t m e).rat.getD 0) c sat
    (k < 6 → Issues (.cvtq o) s x u → ∃ (c0 c1 v : Nat → Nat) (s0 s1 : Nat → Bool),
      Narrows (.cvtq o) s x u (outs o.d 1 v)
        (((if isUni o.d then [lowest x.ex] else x.lanes).filter fun l => s0 l || s1 l).length) ∧
      ∀ l, elem (readF x.g.ftz .f32 (x.rd o.a l).toNat) (c0 l) (s0 l) ∧ elem (readF x.g.ftz .f32 (x.rd o.b l).toNat) (c1 l) (s1 l) ∧
        v l / 2 ^ p % 2 ^ w = c0 l ∧ v l / 2 ^ (p + w) % 2 ^ w = c1 l ∧
        ∀ i, i < p ∨ p + 2 * w ≤ i → (v l).testBit i = (x.rd o.d l).getLsbD i) ∧
    (fld o.m 6 5 < 3 → Issues (.cvtx o) s x u →
      let dst := [Fmt.f32, .f16, .bf16].getD (fld o.m 6 5) .f32
      let w := if k = 7 then 16 else w
      let q := 2 * w * fld o.m 4 3
      -- one element code and the value it stands for
      let means (c : Nat) (v : FV) : Prop :=
        if k < 5 then v = decodeF (fmts.getD k .e2m1) (c % 2 ^ ((fmts.getD k .e2m1).body + 1))
        else if k = 5 then v.rat = some (qn4Values.getD c 0) ∧ v.sign = decide (8 < c)
        else if k = 6 then (if c = 255 then v = .nan else v.rat = some ((2 : ℚ) ^ ((c : Int) - 127)) ∧ v.sign = false)
        else
          let e := c / 2 % 256
          if e = 255 then v = .nan
          else v.rat = some ((2 : ℚ) ^ ((e : Int) - 127) * (1 + (c % 2 : Nat) / 2)) ∧ v.sign = false
      ∃ c0 c1 : Nat → Nat,
        Gives (.cvtx o) s x u .b
          (if fld o.m 6 5 = 0 then outs o.d 2 fun l => c0 l + 2 ^ 32 * c1 l else outs o.d 1 fun l => c0 l + 2 ^ 16 * c1 l) ∧
        ∀ l, (∃ v, means ((x.rd o.a l).toNat / 2 ^ q % 2 ^ w) v ∧ dst.Same v (c0 l)) ∧
          (∃ v, means ((x.rd o.a l).toNat / 2 ^ (q + w) % 2 ^ w) v ∧ dst.Same v (c1 l)))

/-- R124-R126, R135. The packed 16-bit instructions on both halves, PRMT's bytes, and ACS2 with its decision bits. -/
def Obligations.PackedHalvesAndBytes : Prop :=
  ∀ (o : OpA) (s : State) (x : Ctx) (u : State),
    let f := if o.m.getLsbD 0 then Fmt.bf16 else Fmt.f16
    let sg := o.m.getLsbD 0
    let z := x.g.ftz
    let code (c : BitVec 8) (h l : Nat) : Nat := (x.rd c l).toNat / 2 ^ (16 * h) % 2 ^ 16
    let v (c : BitVec 8) (h l : Nat) : FV := readF z f (code c h l)
    let n (c : BitVec 8) (h l : Nat) : Int := asInt 16 sg (code c h l)
    let halves (i : Instr) (p : Nat → Nat → Nat → Prop) : Prop :=
      Issues i s x u → ∃ r : Nat → Nat → Nat, Gives i s x u .b (outs o.d 1 fun l => r 0 l + 2 ^ 16 * r 1 l) ∧
        ∀ h l, h < 2 → r h l < 2 ^ 16 ∧ p h l (r h l)
    halves (.hadd2 o) (fun h l c => f.Sum z .rn (v o.a h l) (v o.b h l) c) ∧
    halves (.hmul2 o) (fun h l c => ∃ q, (v o.a h l).Product (v o.b h l) q ∧ f.Once z .rn q c) ∧
    halves (.hfma2 o) (fun h l c => ∃ q, (v o.a h l).Product (v o.b h l) q ∧ f.Sum z .rn q (v o.d h l) c) ∧
    halves (.vadd2 o) (fun h l c => Narrowed 16 (o.m.getLsbD 1) sg (n o.a h l + n o.b h l) c) ∧
    halves (.vsub2 o) (fun h l c => Narrowed 16 (o.m.getLsbD 1) sg (n o.a h l - n o.b h l) c) ∧
    halves (.vmax2 o) (fun h l c => asInt 16 sg c = max (n o.a h l) (n o.b h l)) ∧
    halves (.vmin2 o) (fun h l c => asInt 16 sg c = min (n o.a h l) (n o.b h l)) ∧
    (Issues (.prmt o) s x u → ∃ r : Nat → Nat, Gives (.prmt o) s x u .a (outs o.d 1 r) ∧ ∀ l i, i < 4 →
      let sel := (x.rd o.m l).toNat
      let b := ((x.rd o.a l).toNat + 2 ^ 32 * (x.rd o.b l).toNat) / 2 ^ (8 * (sel / 2 ^ (3 * i) % 8)) % 256
      r l < 2 ^ 32 ∧ r l / 2 ^ (8 * i) % 256 =
        if sel.testBit (16 + i) then 0 else if sel.testBit (12 + i) then (if 128 ≤ b then 255 else 0) else b) ∧
    -- ACS2: the greater half, a tie keeping source 1; bit 2L + h of the decision registers for the executing lanes alone
    (let words := if x.g.width = 64 then 4 else 2
     let win (h l : Nat) : Bool := decide (asInt 16 true (code o.a h l) < asInt 16 true (code o.b h l))
     Issues (.acs2 o) s x u → dstOk o.m words .uniOnly = true → allocOk x.g { dsts := [(o.m, words, .uniOnly)] } = true →
       ∃ t0 t ps, exec (.acs2 o) s = .next (t.settle x.r) ∧
         x.Effect u t0 .b x.ex (outs o.d 1 fun l =>
           (if win 0 l then code o.b 0 l else code o.a 0 l) + 2 ^ 16 * (if win 1 l then code o.b 1 l else code o.a 1 l))
           (.latency (u.cycle + 5)) ∧
         t = t0.modCohort x.r.c (fun c => { c with pend := c.pend ++ ps }) ∧ ps.map (·.reg) = regsOf o.m words ∧
         ∀ k (hk : k < ps.length), ps[k].uid = x.uid ∧ ps[k].lanes = x.sp.lanes ∧ ps[k].due = some (x.sp.dist + 5) ∧
           ∀ j, j < 32 → let l := 16 * k + j / 2
             ps[k].bits.getLsbD j = x.ex.getLsbD l ∧ (x.ex.getLsbD l = true → (tget 0 ps[k].vals 0).getLsbD j = win (j % 2) l))

/-! ### Special registers and cohort operations (R83-R93) -/

/-- R83-R87, R93. SREAD completes with the value of each special register. A read of %ovf is for a cohort without a narrowing conversion
under way, whether it saturates a lane or not.
SWRITE sets %ovf, or %seed outside user mode; OVCLR reads %ovf and clears it in one step. Neither passes a narrowing conversion of the
cohort that is under way. -/
def Obligations.SpecialRegistersReadAndWrite : Prop :=
  (∀ (o : OpB) (s : State) (x : Ctx) (u : State), Issues (.sread o) s x u →
     let n := fld o.imm 11 0
     (n = 0x038 → ∀ j ∈ s.issued, j.c = x.r.c → ∀ due k, j.fin ≠ .narrow due k) →
     ∃ v, Gives (.sread o) s x u .v (outs o.d (if o.imm.getLsbD 12 then 2 else 1) v) ∧ ∀ l,
       let g := x.g
       let tid := tget 0 x.c.tids l
       let b := x.b.ref.block
       let name := x.c.core
       let rect := (u.chart.rects[name / 65536]?).getD ⟨0, 0, 0, 0⟩
       let t := u.ticks % 32768
       let values : List (Nat × Nat) :=
         [(0x000, l), (0x001, tid), (0x002, tid % g.bdim.1), (0x003, tid / g.bdim.1 % g.bdim.2.1), (0x004, tid / g.bdim.1 / g.bdim.2.1),
          (0x005, g.bdim.1 * g.bdim.2.1 * g.bdim.2.2), (0x006, x.c.slot), (0x007, x.c.quad), (0x008, x.sp.lanes.toNat), (0x010, b),
          (0x011, b % g.gdim.1), (0x012, b / g.gdim.1 % g.gdim.2.1), (0x013, b / g.gdim.1 / g.gdim.2.1), (0x014, g.gdim.1),
          (0x015, g.gdim.2.1), (0x016, g.gdim.2.2), (0x017, g.bdim.1), (0x018, g.bdim.2.1), (0x019, g.bdim.2.2), (0x01A, g.depth),
          (0x020, name), (0x021, name / 2 ^ 16 * 2 ^ 16 + rect.rows * 2 ^ 8 + rect.cols), (0x022, u.coreDomain name),
          (0x023, u.grade name x.c.quad), (0x030, (u.cycle - (u.core name).up) % 2 ^ 64), (0x031, u.ticks % 2 ^ 64),
          (0x032, t / 2048 * 2 ^ 16 + (if t % 2048 < 640 then 2 ^ 15 else 0) + t), (0x038, x.c.ovf.toNat), (0x039, g.regs.seed.toNat),
          (0x050, u.chart.gcores), (0x051, u.chart.gbisect), (0x052, u.chart.gsram), (0x053, u.chart.gdetour), (0x054, u.chart.grade)]
       (∀ p ∈ values, n = p.1 → v l = p.2) ∧ ∀ q, q < 8 → n = 0x040 + q → v l = tget 0 x.b.wptr q % 2 ^ 64) ∧
  (∀ (ob : OpB) (oa : OpA) (s : State) (x : Ctx) (u : State),
     let quiet : Prop := ∀ j ∈ s.issued, j.c = x.r.c → ∀ due k, j.fin ≠ .narrow due k
     let n := fld ob.imm 11 0
     let v := x.rd ob.a (lowest x.ex)
     (Issues (.swrite ob) s x u → n = 0x038 → quiet →
       ∃ t, x.Effect u t .v x.ex [] .complete ∧
         exec (.swrite ob) s = .next ((t.modCohort x.r.c fun c => { c with ovf := v }).settle x.r)) ∧
     (Issues (.swrite ob) s x u → n = 0x039 → x.sp.mode ≠ .user →
       ∃ t, x.Effect u t .v x.ex [] .complete ∧
         exec (.swrite ob) s = .next ((t.modGrid x.g.id fun g => { g with regs := { g.regs with seed := v } }).settle x.r)) ∧
     (Issues (.swrite ob) s x u → n = 0x039 → x.sp.mode = .user → exec (.swrite ob) s = .next ((x.raiseAll u 0x02).settle x.r)) ∧
     (Issues (.ovclr oa) s x u → quiet →
       ∃ t, x.Effect u t .v x.ex (out32 oa.d fun _ => x.c.ovf) .complete ∧
         exec (.ovclr oa) s = .next ((t.modCohort x.r.c fun c => { c with ovf := 0 }).settle x.r)) ∧
     (Issues (.swrite ob) s x u → n = 0x038 → ¬ quiet → exec (.swrite ob) s = .next { s with selected := s.selected.tail }) ∧
     (Issues (.ovclr oa) s x u → ¬ quiet → exec (.ovclr oa) s = .next { s with selected := s.selected.tail }))

/-- R88-R92. SHFL, VOTE, REDX, UMOV and ELECT combine values of the executing lanes alone. -/
def Obligations.LanesExchangeValues : Prop :=
  ∀ (o : OpA) (s : State) (x : Ctx) (u : State),
    let on (l : Nat) : Prop := x.ex.getLsbD l = true
    let m := fld o.m 1 0
    (Issues (.shfl o) s x u → ∃ (v : Nat → Word) (q : Nat → Bool),
      Gives (.shfl o) s x u .v (out32 o.d v ++ outP (fld o.m 6 4) q) ∧ ∀ l,
        let w := x.g.shuffleWidth
        let j : Int := (l % w : Nat)
        let k : Nat := if o.m.getLsbD 2 then o.b.toNat else (x.rd o.b l).toNat
        let t : Int := [(k : Int), j - k, j + k, ((l % w ^^^ k : Nat) : Int)].getD m 0
        let from_ : Nat := l - l % w + t.toNat
        (q l = true ↔ 0 ≤ t ∧ t < w ∧ on from_) ∧
        v l = if q l then x.rd o.a from_ else if o.m.getLsbD 3 then 0 else x.rd o.a l) ∧
    (let words := if m = 2 ∧ x.g.width = 64 then 2 else 1
     let vote (l : Nat) : Prop := on l ∧ x.pred (fld o.a 2 0) l ≠ o.a.getLsbD 7
     Issues (.vote o) s x u → (2 ≤ m → dstOk o.d words .uniAny = true ∧ allocOk x.g { dsts := [(o.d, words, .uniAny)] } = true) →
      (m = 0 → ∃ b : Bool, Gives (.vote o) s x u .v (outP (fld o.d 2 0) fun _ => b) ∧ (b = true ↔ ∃ l, vote l)) ∧
      (m = 1 → ∃ b : Bool, Gives (.vote o) s x u .v (outP (fld o.d 2 0) fun _ => b) ∧ (b = true ↔ ∀ l, on l → vote l)) ∧
      (m = 2 → ∃ b : Mask, Gives (.vote o) s x u .v (outs o.d words fun _ => b.toNat) ∧ ∀ l, b.getLsbD l = true ↔ vote l) ∧
      (m = 3 → ∃ k, Gives (.vote o) s x u .v (outs o.d 1 fun _ => k) ∧ k = Nat.card { l : Fin 64 // vote l })) ∧
    (Issues (.redx o) s x u → ∃ v, Gives (.redx o) s x u .v (outs o.d 1 fun _ => v) ∧
      let op := fld o.m 3 0
      let sg (a : Nat) : Int := asInt 32 true a
      let vs : List Nat := x.lanes.map fun l => (x.rd o.a l).toNat
      let float (f : Nat → Nat → Nat) : Prop := v = (treeOf f (fun l => if on l then some (x.rd o.a l).toNat else none) 6 0).getD 0
      (op = 0 → v = vs.sum % 2 ^ 32) ∧
      (op = 1 → v ∈ vs ∧ ∀ a ∈ vs, sg v ≤ sg a) ∧ (op = 2 → v ∈ vs ∧ ∀ a ∈ vs, sg a ≤ sg v) ∧
      (op = 3 → v ∈ vs ∧ ∀ a ∈ vs, v ≤ a) ∧ (op = 4 → v ∈ vs ∧ ∀ a ∈ vs, a ≤ v) ∧
      (op = 5 → ∀ k, v.testBit k = true ↔ k < 32 ∧ ∀ a ∈ vs, a.testBit k = true) ∧
      (op = 6 → ∀ k, v.testBit k = true ↔ ∃ a ∈ vs, a.testBit k = true) ∧
      (op = 7 → ∀ k, v.testBit k = true ↔ (vs.filter fun a => a.testBit k).length % 2 = 1) ∧
      (op = 8 → float fun a b => addF x.g.ftz .f32 .rn (readF x.g.ftz .f32 a) (readF x.g.ftz .f32 b)) ∧
      (op = 9 → float fun a b => minF .f32 x.g.ftz a b false) ∧ (op = 10 → float fun a b => minF .f32 x.g.ftz a b true)) ∧
    (Issues (.umov o) s x u → ∃ v, Gives (.umov o) s x u .v (out32 o.d fun _ => v) ∧
      let low := lowest x.ex
      let j := (x.rd o.b low).toNat % 64
      v = if o.m.getLsbD 0 then (if on j then x.rd o.a j else 0) else x.rd o.a low) ∧
    (Issues (.elect o) s x u → ∃ q : Nat → Bool, Gives (.elect o) s x u .v (outP (fld o.d 2 0) q) ∧
      ∀ l, on l → (q l = true ↔ ∀ k, on k → l ≤ k))

/-! ### Control flow (R94-R99, R184-R186) -/

/-- R20, R41, R42, R94, R96, R97. BRA sends the executing lanes to its target, BRP and BRU the whole split when some, or every, lane has
the condition, and CALL as BRA with the address of the next word in v0:v1; otherwise, and at the next word, the lanes fall through. A
target that is misaligned, too large, untranslated or no header to enter traps the lanes at the branch, and a division with a bad
reconvergence header traps the lanes that would leave. BRX, RET and CALLX send each executing lane to the target that its pair holds: a
lane whose target fails traps with it as XADDR, the others write the link of a CALLX and go, lanes of one target together, the group of
the lowest lane first, in one division; where that division meets a bad reconvergence header they trap too. A branch whose words of code
are not at hand waits for them first, and nothing of it takes effect before (R373, R375); that it waits for the core's instruction cache
as well is the model's choice (log 95), and so is that lanes which all go to the next word make no division, of BRX, RET and CALLX as of
BRA (log 68). -/
def Obligations.BranchesAndCalls : Prop :=
  ∀ (s : State) (x : Ctx) (u : State),
    let on (l : Nat) : Prop := x.ex.getLsbD l = true
    let next : DWord := x.sp.pc + 8
    let fault (a : DWord) : Option XFault :=
      if a.toNat % 8 ≠ 0 ∨ 2 ^ 51 ≤ a.toNat then some { cause := 4 }
      else match u.codeWord x.c.core x.g x.sp.mode a with
        | .error f => some f
        | .ok w => if isHeader w = true ∧ hdrEntry w = false then none else some { cause := 4 }
    let joins : Option XFault :=
      if x.sp.blkReconv = 0 then none
      else match u.codeWord x.c.core x.g x.sp.mode x.sp.blkReconv with
        | .error f => some f
        | .ok w => if isHeader w = true then none else some { cause := 4 }
    -- the words of code that a branch to these targets checks
    let words (ts : List DWord) : List DWord :=
      let as := ts.filter fun a => decide (a.toNat % 8 = 0)
      as ++ if as = [] ∨ x.sp.blkReconv = 0 then [] else [x.sp.blkReconv]
    let ends (i : Instr) (ts : List DWord) (v : State) : Prop := exec i s = .next (x.walked (words ts) (v.settle x.r))
    let waits (i : Instr) (ts : List DWord) : Prop := ¬ x.Fetched x.sp.mode u (words ts) →
      ∃ t p k, exec i s = .next t ∧ s.split? x.r = some p ∧ t.split? x.r = some { p with hold := some ⟨k, 0, x.ex, s.cycle⟩ } ∧
        ((∃ qs, k = .walk qs) ∨ ∃ ls, k = .code ls) ∧ t.mem = s.mem ∧ t.issued = s.issued
    (∀ (o : OpJ),
      let target := x.sp.pc + BitVec.ofInt 64 (8 * o.off.toInt)
      let traps (ls : Mask) (f : XFault) (a : DWord) : State := x.raise u ((lanesOf ls).map fun l => ⟨l, f.cause, a, f.gpa⟩)
      -- what the lanes `ls` of the split do that take the branch
      let takes (i : Instr) (ls : Mask) (os : List (Reg × (Nat → Word))) (fin : Finish) : Prop :=
        let divides : Prop := target ≠ next ∧ ls ≠ x.sp.lanes
        (∀ f, fault target = some f → ends i [target] (traps ls f target)) ∧
        (∀ f, fault target = none → divides → joins = some f → ends i [target] (traps ls f x.sp.blkReconv)) ∧
        (fault target = none → (divides → joins = none) → ∃ t, x.Effect u t .v x.ex os fin ∧
          ends i [target] (if target = next then t else goTo t x.r x.sp.lanes [(target, ls)]))
      let all : Ctx := { x with ex := x.sp.lanes }
      let whole (i : Instr) (cond : Prop) : Prop :=
        s.beginIssue i = .go x u → all.legal = true → all.underGap = false → x.sp.lanes ≠ 0#64 →
          let fin : Finish := if x.ex = 0#64 then .latency (u.cycle + 1) else .complete
          (cond → x.Fetched x.sp.mode u (words [target]) → takes i x.sp.lanes [] fin) ∧
          (¬ cond → ∃ t, x.Effect u t .v x.ex [] fin ∧ ends i [] t)
      (Issues (.bra o) s x u → waits (.bra o) [target] ∧
        (x.Fetched x.sp.mode u (words [target]) → takes (.bra o) x.ex [] .complete)) ∧
      (Issues (.call o) s x u → waits (.call o) [target] ∧
        (x.Fetched x.sp.mode u (words [target]) → takes (.call o) x.ex (outs 0 2 fun _ => next.toNat) .complete)) ∧
      whole (.brp o) (x.ex ≠ 0#64) ∧ whole (.bru o) (x.ex = x.sp.lanes)) ∧
    ∀ (o : OpA),
      let pair (l : Nat) : DWord := BitVec.ofNat 64 (x.rdN 2 o.a l)
      let targets := x.lanes.map pair
      let sends (i : Instr) (os : List (Reg × (Nat → Word))) : Prop :=
        Issues i s x u → waits i targets ∧ (x.Fetched x.sp.mode u (words targets) →
          ∀ (good : Mask) (gs : List (DWord × Mask)), (∀ l, good.getLsbD l = true ↔ on l ∧ fault (pair l) = none) →
            (gs.map (·.1)).Nodup → (gs.Pairwise fun p q => lowest p.2 < lowest q.2) →
            (∀ q ∈ gs, q.2 ≠ 0#64 ∧ ∀ l, q.2.getLsbD l = true ↔ good.getLsbD l = true ∧ pair l = q.1) →
            (∀ l, good.getLsbD l = true → ∃ q ∈ gs, q.1 = pair l) →
            let onward : Prop := ∃ q, gs = [q] ∧ q.1 = next
            let divides : Prop := 2 ≤ gs.length ∨ gs ≠ [] ∧ x.ex ≠ x.sp.lanes ∧ ¬ onward
            let fails (e : Option XFault) : List LaneFault := x.lanes.filterMap fun l =>
              match fault (pair l) with
              | some f => some ⟨l, f.cause, pair l, f.gpa⟩
              | none => e.map fun f => ⟨l, f.cause, x.sp.blkReconv, f.gpa⟩
            (∀ f, divides → joins = some f → ends i targets (x.raise u (fails (some f)))) ∧
            ((divides → joins = none) →
              (good = 0#64 → ends i targets (x.raise u (fails none))) ∧
              (good ≠ 0#64 → ∃ t, (x.only good).Effect u t .v good os .complete ∧
                (onward → ends i targets (x.raise t (fails none))) ∧
                (¬ onward → ends i targets
                  (goTo (x.raise t (fails none)) x.r (x.sp.lanes &&& ~~~maskOf ((fails none).map (·.lane))) gs)))))
      sends (.brx o) [] ∧ sends (.ret o) [] ∧ sends (.callx o) (outs o.d 2 fun _ => next.toNat)

/-- R39, R40, R98, R99, R182, R184, R185. Lanes that leave their split become a split of their own, both parts with the block's
reconvergence header and the join of the division; lanes that are the whole split only move. They enter the block at their target, whose word
is at hand (in the instruction cache too, log 95, the model's choice): its header is checked, and the split parks when it is the one at which it reconverges. EXIT ends the threads of the executing lanes, which
leave their split and their cohort; YIELD keeps the split back while the other ready cohorts of its quadrant, those that
stand ready when it issues (log 93, the model's choice), have a slot, for at most 64 cycles; NOP does nothing. -/
def Obligations.SplitsDivideEnterExitAndYield : Prop :=
  (∀ (s : State) (r : SRef) (c : Cohort) (sp : Split) (g : Grid) (b : Block) (ls all : Mask) (target w : DWord),
     s.cohort? r.c = some c → s.split? r = some sp → s.grid? r.c.b.grid = some g → s.block? r.c.b = some b → ls ≠ 0#64 →
     (∀ q ∈ c.splits, q.id < s.fresh) → (c.splits.filter fun q => q.spawn.isNone).length < (s.part g.part).scap → sp.spawn = none →
     sp.joined = none →
     (s.blocks.map (·.ref)).Nodup → (b.cohorts.map (·.id)).Nodup → (c.splits.map (·.id)).Nodup →
     s.codeMiss c.core g sp.mode target = false → s.codeLine c.core g sp.mode target = none →
     s.codeWord c.core g sp.mode target = .ok w → isHeader w = true → hdrEntry w = false → headerBad g w = false →
     hdrSpawn w = false →
     let inBlock (p : Split) : Split :=
       { p with pc := target + 8, header := target, blkEnd := target + BitVec.ofNat 64 (8 * (1 + hdrLength w)),
                blkReconv := reconvOf target w, parked := none, entering := false }
     (ls = sp.lanes → sp.reconv ≠ target ∨ sp.reconv = 0 →
       goTo s r all [(target, ls)] = s.modSplit r fun p => inBlock { p with pc := target }) ∧
     (ls ≠ sp.lanes → sp.blkReconv ≠ target ∨ sp.blkReconv = 0 →
       goTo s r all [(target, ls)] = s.bump.modCohort r.c fun c =>
         { c with splits := (c.splits.map fun p =>
             if p.id = r.split then { p with lanes := p.lanes &&& ~~~ls, reconv := p.blkReconv, join := all } else p) ++
           [inBlock { sp with id := s.fresh, lanes := ls, reconv := sp.blkReconv, join := all, hold := none, passed := 0,
                              starved := false, forced := false }] }) ∧
     (ls ≠ sp.lanes → sp.blkReconv = target → sp.blkReconv ≠ 0 →
       goTo s r all [(target, ls)] = (s.bump.modCohort r.c fun c =>
         { c with splits := (c.splits.map fun p =>
             if p.id = r.split then { p with lanes := p.lanes &&& ~~~ls, reconv := p.blkReconv, join := all } else p) ++
           [{ sp with id := s.fresh, lanes := ls, pc := target, reconv := sp.blkReconv, join := all, hold := none, passed := 0,
                      starved := false, forced := false, parked := some s.cycle, entering := false }] }).remerge r.c)) ∧
  (∀ (o : OpA) (s : State) (x : Ctx) (u : State),
     (Issues (.exit o) s x u → x.sp.mode = .user →
       ∃ t, x.Effect u t .v x.ex [] .complete ∧
         let left := ((t.modBlock x.r.c.b fun b => { b with exited := b.exited + population x.ex }).modCohort x.r.c fun c =>
           { c.dropOwed x.ex with
             threads := c.threads &&& ~~~x.ex
             splits := (c.splits.map fun p => if p.id = x.r.split then { p with lanes := p.lanes &&& ~~~x.ex } else p).filter
               fun p => p.lanes != 0#64 }).remerge x.r.c
         let freed := (freeCohort left x.r.c).settleAll
         (x.g.ckpt = false ∨ (∃ b, freed.block? x.r.c.b = some b ∧ b.exited ≠ x.g.ntid) → exec (.exit o) s = .next (freed.settle x.r)) ∧
         (∀ b, freed.block? x.r.c.b = some b → x.g.ckpt = true → b.exited = x.g.ntid →
           exec (.exit o) s = .next ((freed.modBlock x.r.c.b fun b =>
             { b with st := .checkpointing, forcer := none, exposed := false }).settle x.r))) ∧
     (Issues (.exit o) s x u → x.sp.mode ≠ .user → exec (.exit o) s = .next ((x.raiseAll u 0x05).settle x.r)) ∧
     (Issues (.yield o) s x u → ∃ t others, x.Effect u t .v x.ex [] .complete ∧
       (∀ k, k ∈ others ↔ ∃ b ∈ u.blocks, ∃ c ∈ b.cohorts, c.core = x.c.core ∧ c.quad = x.c.quad ∧
         (b.ref ≠ x.r.c.b ∨ c.id ≠ x.c.id) ∧ c.readySince.isSome = true ∧ c.slot = k) ∧
       exec (.yield o) s = .next ((t.modSplit x.r fun p =>
         if others = [] then p else { p with yieldUntil := some (u.cycle + 64), yieldFor := others }).settle x.r)) ∧
     (Issues (.nop o) s x u → Gives (.nop o) s x u .a []))

/-! ### Memory (R100-R107, R196-R206) -/

/-- R100-R104, R107, R199. The checks of a global access in their order: alignment, bits [63:51], the first stage, the region, the
weight-store bit, the second stage; and those of a scratchpad access. Where a first-stage leaf grants what is needed and only its own
address does not translate, its rules come before the second stage's 0x13; that they look at the guest physical address is the model's
choice (log 83). LDS and STS: as loads and stores of the block's scratchpad, by 32-bit offset; an STS writes in ascending address order,
lanes of one address in lane order. An STS takes no checkpoint first, or has taken it, and none of its bytes would close a packet beyond the 64 that an entry
may have outstanding (R336). -/
def Obligations.AccessChecksAndScratchpad : Prop :=
  (∀ (x : Ctx) (s : State) (k : MemKind) (va : DWord) (off size : Nat), 0 < size →
     let tr := s.xlate x.c.core x.g x.sp.mode (match k with | .st => .wr | .atom => .rw | _ => .rd) va
     let barred (region : Nat) : Prop := region = 2 ∨ region = 4 ∨ region = 3 ∧ x.sp.mode = .user
     let chk := x.checkGlobal s k va size
     let s3 : Prop := (k = .pref ∨ va.toNat % size = 0) ∧ va.toNat < 2 ^ 51
     (k ≠ .pref → va.toNat % size ≠ 0 → chk = .error { cause := 3 }) ∧
     ((k = .pref ∨ va.toNat % size = 0) → 2 ^ 51 ≤ va.toNat → chk = .error { cause := 2 }) ∧
     (∀ f, s3 → tr = .error f → f.leaf = none → chk = .error f) ∧
     (∀ p, s3 → tr = .ok p →
       (barred (p.gpa / 2 ^ 44) ∨ barred (p.pa / 2 ^ 44) → chk = .error { cause := 2 }) ∧
       (¬ barred (p.gpa / 2 ^ 44) → ¬ barred (p.pa / 2 ^ 44) →
         (p.ws = true → k = .st ∨ k = .atom → chk = .error { cause := 0x0A }) ∧
         (p.ws = false → k = .ldw → chk = .error { cause := 2 }) ∧
         (¬ (p.ws = true ∧ (k = .st ∨ k = .atom)) → ¬ (p.ws = false ∧ k = .ldw) → chk = .ok p))) ∧
     (∀ f r, s3 → tr = .error f → f.leaf = some r →
       let ws : Prop := f.gpa / 2 ^ 44 = 1
       (barred (f.gpa / 2 ^ 44) → chk = .error { cause := 2 }) ∧
       (¬ barred (f.gpa / 2 ^ 44) →
         (ws → k = .st ∨ k = .atom → chk = .error { cause := 0x0A }) ∧ (¬ ws → k = .ldw → chk = .error { cause := 2 }) ∧
         (¬ (ws ∧ (k = .st ∨ k = .atom)) → ¬ (¬ ws ∧ k = .ldw) → chk = .error f))) ∧
     (let n := 1024 * fld x.g.desc 23 14
      let inside : Prop := off + size ≤ n ∨ x.g.desc.getLsbD 30 = true ∧ (524288 ≤ off ∨ n = 524288) ∧ off + size ≤ 524288 + n
      (off % size ≠ 0 → x.checkScratch off size = .error { cause := 3 }) ∧
      (off % size = 0 → ¬ inside → x.checkScratch off size = .error { cause := 2 }) ∧
      (off % size = 0 → inside → x.checkScratch off size = .ok { pa := off, ws := false }))) ∧
  (∀ (o : OpM) (s : State) (x : Ctx) (u : State) (good : Mask),
     let chk (size l : Nat) := x.checkScratch (x.at32 o size l) size
     let addr (size l : Nat) : DWord := BitVec.ofNat 64 (x.at32 o size l)
     let acc (op : AccOp) (size l : Nat) (bytes : List Byte) (p : Nat × Nat) : Access :=
       { id := 0, uid := x.uid, c := x.r.c, core := x.c.core, lane := l, op := op, scratch := true,
         va := addr size l + BitVec.ofNat 64 p.1, pa := x.at32 o size l + p.1, size := p.2, scope := 0,
         bytes := (bytes.drop p.1).take p.2, tags := x.tags u }
     let loads (i : Instr) (size n : Nat) (signed : Bool) : Prop :=
       let fs := x.fails (addr size) (chk size)
       Issues i s x u → x.Passes (chk size) good →
         (good = 0#64 → exec i s = .next ((x.raise u fs).settle x.r)) ∧
         (good ≠ 0#64 → ∃ t v, (x.only good).Effect u t .v good (outs o.d n fun _ => 0)
             (.reply o.d n size signed ((encode i).headD 0) x.sp.pc) ∧
           x.Launches t v ((lanesOf good).flatMap fun l => (halvesOf size).map (acc .load size l [])) ∧
           exec i s = .next ((x.raise v fs).settle x.r))
     let stores (i : Instr) (size n : Nat) : Prop :=
       let fs := x.fails (addr size) (chk size)
       let bytes := x.lanes.flatMap fun l => (List.range size).map fun k => x.at32 o size l + k
       Issues i s x u → x.Passes (chk size) good →
         x.sp.forced = true ∨ x.g.ckpt = false ∨ u.publishes x.r.c.b bytes = false →
         u.wouldOverflow x.r.c.b (bytes.map fun k => (k, 0)) = false →
           (good = 0#64 → exec i s = .next (x.after ((x.raise u fs).settle x.r))) ∧
           (good ≠ 0#64 → ∃ t v, (x.only good).Effect u t .v good [] (.performed ((encode i).headD 0) x.sp.pc false) ∧
             (∃ ls : List Nat, ls.Perm (lanesOf good) ∧
               (ls.Pairwise fun k l => x.at32 o size k < x.at32 o size l ∨ x.at32 o size k = x.at32 o size l ∧ k < l) ∧
               x.Launches t v (ls.flatMap fun l => (halvesOf size).map (acc .store size l (leBytes size (x.rdN n o.d l))))) ∧
             exec i s = .next (x.after ((x.raise v fs).settle x.r)))
     loads (.ldsI8 o) 1 1 true ∧ loads (.ldsN8 o) 1 1 false ∧ loads (.ldsI16 o) 2 1 true ∧ loads (.ldsN16 o) 2 1 false ∧
     loads (.ldsB32 o) 4 1 false ∧ loads (.ldsB64 o) 8 2 false ∧ loads (.ldsB128 o) 16 4 false ∧
     stores (.stsB8 o) 1 1 ∧ stores (.stsB16 o) 2 1 ∧ stores (.stsB32 o) 4 1 ∧ stores (.stsB64 o) 8 2 ∧ stores (.stsB128 o) 16 4)

/-- R100-R106, R397. LD and LDW: the lanes that fail their checks trap together, and the others put their loads in flight and owe their
registers; what they load is fixed when they are served. ST: the lanes that pass put their stores in flight, a draft where
checkpointing is on and the address is not of region 3, the core's own L1 copies of the lines go (R240), and no later load joins a fill
of them (R246); no byte of memory changes before the stores are performed. An instruction whose pages miss both TLBs waits for their
walks first and has not issued (R235, R373). -/
def Obligations.GlobalAccessesIssue : Prop :=
  (∀ (o : OpM) (s : State) (x : Ctx) (u : State) (good : Mask),
     let loads (i : Instr) (k : MemKind) (size n : Nat) (signed : Bool) : Prop :=
       let addr (l : Nat) : DWord := x.at64 o size l
       let chk (l : Nat) := x.checkGlobal u k (addr l) size
       let fs := x.fails addr chk
       let pages := (x.lanes.map addr).filter fun a => a.toNat % size == 0
       let ok (t : State) : State := x.walked pages (t.settle x.r)
       Issues i s x u → (¬ x.Mapped u pages → ∃ t, exec i s = .next t ∧ x.Suspends s t pages) ∧ (x.Mapped u pages → x.Passes chk good →
         (good = 0#64 → exec i s = .next (ok (x.raise u fs))) ∧
         (good ≠ 0#64 → ∃ t v,
           (x.only good).Effect (x.fillTlb u (lanesOf good) addr) t .v good (outs o.d n fun _ => 0)
             (.reply o.d n size signed ((encode i).headD 0) x.sp.pc) ∧
           x.Launches t v ((lanesOf good).flatMap fun l => (halvesOf size).map fun p =>
             { id := 0, uid := x.uid, c := x.r.c, core := x.c.core, lane := l, op := .load, scratch := false,
               va := addr l + BitVec.ofNat 64 p.1, pa := paOf chk l + p.1, size := p.2, scope := o.scope.toNat,
               covers := decide (k = .ldw), hint := o.hint.toNat, tags := x.tags u }) ∧
           exec i s = .next (ok (x.raise v fs))))
     loads (.ldI8 o) .ld 1 1 true ∧ loads (.ldN8 o) .ld 1 1 false ∧ loads (.ldI16 o) .ld 2 1 true ∧ loads (.ldN16 o) .ld 2 1 false ∧
     loads (.ldB32 o) .ld 4 1 false ∧ loads (.ldB64 o) .ld 8 2 false ∧ loads (.ldB128 o) .ld 16 4 false ∧
     loads (.ldwB32 o) .ldw 4 1 false ∧ loads (.ldwB64 o) .ldw 8 2 false ∧ loads (.ldwB128 o) .ldw 16 4 false) ∧
  (∀ (o : OpM) (s : State) (x : Ctx) (u : State) (good : Mask),
     let stores (i : Instr) (size n : Nat) : Prop :=
       let addr (l : Nat) : DWord := x.at64 o size l
       let chk (l : Nat) := x.checkGlobal u .st (addr l) size
       let fs := x.fails addr chk
       let pas := (lanesOf good).map (paOf chk)
       let pages := (x.lanes.map addr).filter fun a => a.toNat % size == 0
       let ok (t : State) : State := x.walked pages (t.settle x.r)
       Issues i s x u → (¬ x.Mapped u pages → ∃ t, exec i s = .next t ∧ x.Suspends s t pages) ∧
         (x.Mapped u pages → x.Passes chk good →
           (good = 0#64 → exec i s = .next (ok (x.raise u fs))) ∧
           (good ≠ 0#64 → ∃ t v,
             (x.only good).Effect (x.fillTlb u (lanesOf good) addr) t .v good [] (.performed ((encode i).headD 0) x.sp.pc false) ∧
             x.Launches { t.modCore x.c.core (fun c => { c with l1 := c.l1.filter fun e => pas.all fun p => p / 128 != e.line }) with
                 flight := t.flight.map fun e => match e.miss with
                   | some m => if e.core = x.c.core ∧ e.pa / 128 ∈ pas.map (· / 128) then { e with miss := some { m with opened := false } }
                     else e
                   | none => e } v
               ((lanesOf good).flatMap fun l => (halvesOf size).map fun p =>
                 { id := 0, uid := x.uid, c := x.r.c, core := x.c.core, lane := l, op := .store, scratch := false,
                   va := addr l + BitVec.ofNat 64 p.1, pa := paOf chk l + p.1, size := p.2, scope := o.scope.toNat,
                   bytes := ((leBytes size (x.rdN n o.d l)).drop p.1).take p.2
                   draft := x.g.ckpt && decide (paOf chk l / 2 ^ 44 ≠ 3), covers := coversSector pas size (paOf chk l)
                   tags := x.tags u }) ∧
             v.mem = u.mem ∧ exec i s = .next (ok (x.raise v fs))))
     stores (.stB8 o) 1 1 ∧ stores (.stB16 o) 2 1 ∧ stores (.stB32 o) 4 1 ∧ stores (.stB64 o) 8 2 ∧ stores (.stB128 o) 16 4)

/-- R19, R100, R101, R103, R107, R236, R239, R242-R244, R246, R249, R252-R254, R258, R374, R397. A load is served where nothing that it
comes after is unperformed: from the scratchpad, from an L1 copy, or from the bank that its packet has reached, which is its own domain's
for block scope and LDW, its own domain's visitor copy for domain and wafer scope, and else the home bank. The banks are powered, the line
is not held there (R240, R242), the weight bank is not in recess or its line is in L2, and the packet is the one whose turn it is (R253). A
read of a fence register waits for its port's writes (R273). The loads that share its fill get their values too, the bytes that each one's
block sees, in replies on plane 1. A block-scope LD that missed has a lease for %llen ticks, and an LDW a copy without one, but for a hint
of no allocation. When every reply of a load is there, each lane has its words, and the flag falls.
The way of a request. A packet leaves its core on plane 0 with wafer time [23:0], on the route from its core's router to its bank's that
route 0 or the register of its copy gives; a load joins the fill of its line by an earlier load of its core, to the same service point,
within 16 cycles of the first request, or takes one of 128 miss-status entries, or waits for one. A router port serves the packet of its
plane of the greatest age, ties by the injecting router's index, then by the order of their injection. PREF sends a request for each line
that its lanes could load, and changes no register and no byte; when a request is served, the line is in L2, for block scope but for a home
line of the weight store, and for block scope both its sectors are in L1. Which bank a PREF fills, that it takes no miss-status entry, and
that its lease has the length of LLEN at its issue, are the model's choice (log 86), and so is the place of injection of a request that no
core makes (log 85). -/
def Obligations.ReadsAreServedAndReplied : Prop :=
  (∀ (s : State) (a : Access) (b : Block) (g : Grid),
    s.access? a.id = some a → (s.flight.map (·.id)).Nodup → a.op = .load → a.stage = .issued → s.block? a.c.b = some b →
    s.grid? a.c.b.grid = some g →
    let line := a.pa / 128
    let own := s.coreDomain a.core
    let home := paDomain a.pa
    let d := if a.covers = true ∨ a.scope = 0 ∨ a.scope ≤ 2 ∧ s.l2Has own a.pa = true then own else home
    let live (x : Option Nat) : Prop := ∀ e, x = some e → s.ticks + 8 < e
    let hit : Prop := (a.scope = 0 ∨ a.covers = true) ∧
      ∃ e ∈ (s.core a.core).l1, e.line = line ∧ ∃ q ∈ e.sectors, q.1 = a.pa / 64 % 2 ∧ live q.2
    -- is the line not held at the bank of a domain, and are the banks powered?
    let free (k : Nat) : Prop := (s.dom k).banks = .on ∧ ∀ e ∈ s.flight, e.scratch = false → e.pa / 128 = line →
      (∀ t h vs, e.stage = .waiting t h vs → ∀ w ∈ h :: vs, w.domain = k → w.arrived = true → w.dropped = true) ∧
      (∀ bs p c, e.stage = .fixed bs p → e.op = .claim c → k ≠ home)
    let recess : Prop := paRegion a.pa = 1 ∧ s.recess = some (weightBank a.pa)
    let turn : Prop := a.trip = none ∨ a.trip = s.tripOf a
    let serves : Prop := paRegion a.pa ≤ 1 ∧ turn ∧ s.atBank a = true ∧
      (if d = home then free home ∧ (¬ recess ∨ s.l2Has home a.pa = true)
       else free d ∧ (s.l2Has d a.pa = true ∨ free home ∧ ¬ recess ∧ s.dirRoom a.pa = true))
    let fence : Prop := paRegion a.pa = 3 ∧ ∃ q, (∃ e ∈ s.flight, e.op = .host q) ∧
      let at' := (if q = .a then 0x10000 else 0x20000) + 0x40
      a.pa % 2 ^ 44 < at' + 8 ∧ at' < a.pa % 2 ^ 44 + a.size
    let near : Prop := a.trip = none ∧ (a.scratch = true ∨ hit ∨ 2 ≤ paRegion a.pa ∧ ¬ fence)
    let draft (k : Nat) : Option Byte := (tget none b.drafts (a.pa + k)).or (s.sealedByte b.ref (a.pa + k))
    let bytes : List Byte := (List.range a.size).map fun k =>
      if a.scratch then tget 0 b.scratch (a.pa + k) else (draft k).getD (s.readPhys (a.pa + k))
    let poison : Prop := a.scratch = false ∧ ∃ k, k < a.size ∧ draft k = none ∧
      ((a.pa + k) / 64 ∈ s.poison ∨ paRegion (a.pa + k) = 1 ∧ (a.pa + k) / 128 ∉ s.filled)
    let fixed (e : Access) : Access := { e with stage := .fixed (s.accessBytes e).1 (s.accessBytes e).2 }
    let place := bankRouter (s.bankNumber d a.pa)
    let reply : Trip :=
      { plane := 1, ts := s.ticks % 2 ^ 24, tick := s.ticks, src := place, seq := s.fresh
        way := s.chart.way 1 0 place (s.coreRouter a.core) }
    let lease : Prop := a.covers = false ∧ a.scope = 0
    let served (i : Instr) : Prop := ∃ t, exec i s = .next t ∧
      t = { s with flight := s.flight.map (fun e => if e ∈ s.sharers a ∧ s.clear e = true then { fixed e with trip := some reply } else e)
                   fresh := s.fresh + 1, domains := t.domains, cores := t.cores, leases := t.leases, sigs := t.sigs, directory := t.directory, l2 := t.l2 } ∧
      (∀ r ∈ s.leases, s.ticks < r.expiry → r ∈ t.leases) ∧ (d ≠ home → d ∈ tget [] t.directory line) ∧
      (paRegion a.pa = 0 ∨ d ≠ home → t.l2Has d a.pa = true) ∧
      (s.sharers a = [a] → a.hint ≠ 1 → lease → ⟨d, line, s.ticks + g.regs.llen.toNat⟩ ∈ t.leases ∧
        ∃ e ∈ (t.core a.core).l1, e.line = line ∧ (a.pa / 64 % 2, some (s.ticks + g.regs.llen.toNat)) ∈ e.sectors) ∧
      (s.sharers a = [a] → a.hint ≠ 1 → a.covers = true → t.leases = s.leases ∧
        ∃ e ∈ (t.core a.core).l1, e.line = line ∧ (a.pa / 64 % 2, none) ∈ e.sectors) ∧
      (s.sharers a = [a] → a.hint = 1 → t.leases = s.leases ∧ t.cores = s.cores)
    (∀ e ∈ s.flight, e.id ∈ a.after → e.isFixed = true) →
      (∃ p, s.accessBytes a = (bytes, p) ∧ (p = true ↔ poison)) ∧
      (near → exec (.packetService a.id) s = .next { s with flight := s.flight.map fun e => if e.id = a.id then fixed e else e }) ∧
      (a.scratch = false → ¬ hit → serves → served (.packetService a.id) ∧ (lease → served (.leaseGrant a.id)))) ∧
  (∀ (s : State) (uid : Nat) (i : Issued) (c : Cohort) (d : BitVec 8) (n size : Nat) (sgn : Bool) (word pc : DWord),
    (s.issued.find? fun j => j.uid = uid) = some i → i.fin = .reply d n size sgn word pc → s.cohort? i.c = some c →
    let mine (l : Nat) := s.flight.filter fun a => a.uid = uid ∧ a.hasLane l = true
    (∀ a ∈ s.flight, a.uid = uid → (∀ t, a.trip = some t → t.way.length ≤ 1) ∧ ∃ bs, a.stage = .fixed bs false ∧
      ∀ op w r q ls, a.op = .atomic op w r q ls → bs.length = a.size * ls.length) →
    (∀ p ∈ c.pend, p.uid = uid → p.lanes ≠ 0#64) →
    -- the bytes that a lane receives, low address first
    let part (l : Nat) (a : Access) : List Byte :=
      match a.stage, a.op with
      | .fixed bs _, .atomic _ _ _ _ ls => (bs.drop (a.size * ls.findIdx fun p => p.1 == l)).take a.size
      | .fixed bs _, _ => bs
      | _, _ => []
    let raw (l : Nat) : Nat := leNat ((mine l).flatMap (part l))
    (sgn = true → ∀ l, raw l < 2 ^ (8 * size)) →
    let value (l : Nat) : Nat :=
      let v := raw l
      if sgn = true ∧ size < 4 then (asInt (8 * size) true v % 2 ^ 32).toNat else v
    ∃ f : Cohort → Cohort,
      exec (.loadReply uid) s = .next (({ s with flight := s.flight.filter fun a => a.uid ≠ uid }.modCohort i.c f).finishIssue uid) ∧
      f c = { c with pend := (f c).pend } ∧
      List.Forall₂ (fun p q : Pend =>
        q = { p with vals := q.vals } ∧ (p.uid ≠ uid → q = p) ∧
        (p.uid = uid → ∀ k, (regsOf d n)[k]? = some p.reg → ∀ l, p.lanes.getLsbD l = true →
          tget 0 q.vals l = BitVec.ofNat 32 (value l / 2 ^ (32 * k)))) c.pend (f c).pend) ∧
  (∀ (s : State) (a : Access), s.access? a.id = some a → s.sends a = true →
    let bank := bankRouter (s.bankNumber (s.bankDomain a) a.pa)
    let src := if a.op.fromCore then s.coreRouter a.core else bank
    let named (id : Nat) : DWord := match s.copies.find? fun o => o.id == id with
      | some o => if o.route = 0 then 0 else tget 0 (s.core o.core).routes o.route
      | none => 0
    let route : DWord := match a.op with | .claim id => named id | .fetch id => named id | _ => 0
    let trip : Trip :=
      { plane := 0, ts := s.ticks % 2 ^ 24, tick := s.ticks, src := src, seq := s.fresh, way := s.chart.way 0 route src bank }
    let point := if a.scope = 0 ∨ a.covers = true then 0 else 1 + s.bankDomain a
    let filling (e : Access) : Prop := e ∈ s.flight ∧ e.core = a.core ∧ e.op = .load ∧ e.stage = .issued ∧ e.miss.isSome = true
    let joins (m : Miss) : Prop := ∃ e, filling e ∧ e.pa / 128 = a.pa / 128 ∧ e.trip.isSome = true ∧ e.miss = some m ∧
      m.opened = true ∧ m.point = point ∧ s.cycle < m.since + 16
    let now (n : Nat) (f : Access → Access) (i : Instr) : Prop :=
      exec i s = .next { s with fresh := s.fresh + n, flight := s.flight.map fun e => if e.id = a.id then f e else e }
    (a.op ≠ .load → now 1 (fun e => { e with trip := some trip }) (.packetService a.id)) ∧
    (a.op = .load → (∃ m, joins m) →
      ∃ m, joins m ∧ now 0 (fun e => { e with miss := some m, trip := none, queued := false }) (.packetService a.id)) ∧
    (a.op = .load → (¬ ∃ m, joins m) →
      let room : Prop := Set.ncard { k | ∃ e m, filling e ∧ e.miss = some m ∧ m.id = k } < 128 ∧
        ∀ e ∈ s.flight, e.core = a.core → e.queued = true → e.stage = .issued → e.miss = none → a.id ≤ e.id
      (room → now 1 (fun e => { e with
        trip := some trip, queued := false, miss := some { id := s.fresh, since := s.cycle, point := point } }) (.packetService a.id)) ∧
      (¬ room → now 0 (fun e => { e with queued := true }) (.packetService a.id)))) ∧
  (∀ (s : State) (a : Access) (t : Trip), s.access? a.id = some a → a.trip = some t → 2 ≤ t.way.length →
    (a.stage = .issued → s.tripOf a = some t) → a.scratch = false → paRegion a.pa ≤ 1 → s.l1Hit a = false →
    let age (v : Trip) : Nat := (s.ticks % 2 ^ 24 + 2 ^ 24 - v.ts) % 2 ^ 24
    let index (v : Trip) : Nat := 48 * v.src.2 + v.src.1
    let first (u v : Trip) : Prop := age v < age u ∨ age u = age v ∧ (index u < index v ∨ index u = index v ∧ u.seq < v.seq)
    let waits : Prop := ∃ v ∈ s.trips, v.plane = t.plane ∧ v.way.take 2 = t.way.take 2 ∧ first v t
    (¬ waits → exec (.packetService a.id) s = .next { s with flight := s.flight.map fun e =>
      if e.id = a.id then { e with trip := e.trip.map fun u => { u with way := u.way.drop 1 } } else e }) ∧
    (waits → exec (.packetService a.id) s = .next s)) ∧
  (∀ (o : OpM) (s : State) (x : Ctx) (u : State),
    let addr (l : Nat) : DWord := x.at64 o 128 l
    let loads (l ln : Nat) : Prop := (∃ q, x.checkGlobal u .pref (addr l) 1 = .ok q ∧ q.pa / 128 = ln ∧ paRegion q.pa ≤ 1) ∧
      u.poisoned (128 * ln) = false ∧ u.poisoned (128 * ln + 64) = false ∧ u.lineFilled (128 * ln) = true
    let held (ln : Nat) : Prop := u.l1Holds x.c.core (128 * ln) = true ∧ u.l1Holds x.c.core (128 * ln + 64) = true
    let near : Bool := o.scope == 0
    let pages := x.lanes.map addr
    Issues (.pref o) s x u → (¬ x.Mapped u pages → ∃ t, exec (.pref o) s = .next t ∧ x.Suspends s t pages) ∧
     (x.Mapped u pages → ∃ (t : State) (ls lines : List Nat) (va : Nat → DWord) (as : List Access),
      x.Effect { x.fillTlb u ls addr with
        fresh := u.fresh + as.length, flight := u.flight ++ as } t .v x.ex [] .complete ∧
      exec (.pref o) s = .next (x.walked pages (t.settle x.r)) ∧
      (∀ ln ∈ lines, ∃ l ∈ ls, loads l ln ∧ va ln = addr l ∧ ∀ k ∈ ls, loads k ln → l ≤ k) ∧
      (∀ l, l ∈ ls ↔ x.ex.getLsbD l = true ∧ ∃ ln, loads l ln) ∧ lines.Nodup ∧
      (∀ ln, ln ∈ lines ↔ (∃ l ∈ ls, loads l ln) ∧ ¬ (near = true ∧ held ln)) ∧
      as = lines.mapIdx fun k ln =>
        { id := u.fresh + k, uid := 0, c := ⟨⟨0, 0⟩, 0⟩, core := x.c.core, lane := 0, scratch := false, va := va ln, pa := 128 * ln
          op := .pref near x.g.regs.llen.toNat x.g.part, size := 128, scope := o.scope.toNat, hint := o.hint.toNat, tags := x.tags u })) ∧
  (∀ (s : State) (a : Access) (near : Bool) (llen part : Nat),
    s.access? a.id = some a → a.op = .pref near llen part → s.canServe a = true → s.sends a = false → s.moves a = false →
    s.crowded a = false → a.scratch = false → a.pa % 128 = 0 → paRegion a.pa ≤ 1 → ((s.core a.core).l1.map (·.line)).Nodup →
    ∃ t, exec (.packetService a.id) s = .next t ∧ t.mem = s.mem ∧ (∀ e, e ∈ t.flight ↔ e ∈ s.flight ∧ e.id ≠ a.id) ∧
      (s.poisoned a.pa = false → s.poisoned (a.pa + 64) = false → s.lineFilled a.pa = true →
        let d := s.bankDomain a
        (near = false ∨ paRegion a.pa = 0 ∨ d ≠ paDomain a.pa → t.l2Has d a.pa = true) ∧
        (near = true → ∃ e ∈ (t.core a.core).l1, e.line = a.pa / 128 ∧ ∀ k, k < 2 →
          (k, if (∃ q ∈ (s.core a.core).l1, q.line = a.pa / 128 ∧ (k, none) ∈ q.sectors) then none else some (s.ticks + llen)) ∈ e.sectors)))

/-- R105, R204, R240-R242, R263, R397, R410. A write reaches its home bank when everything that it comes after is performed, and waits
there for the leases on its line, long ones revoked from the cores whose signatures hold a sector of it, and for visitor copies, to which
invalidations set out; when that is done the store is performed: its bytes stand
at its address, no other byte is changed, the sector's update count is 0, the line is in the bank and the directory names no visitor. A
draft changes no byte of memory, and a store to region 3 none at all; a draft of wider scope than block stays unperformed until it is
published (R263), and one that finds no draft way waits while the blocks that hold its set's ways, those of log 102 (the model's choice), take
checkpoints (R396). A write of the scratchpad keeps its place among those that a subscription forwards (R271, R336). -/
def Obligations.WritesArriveAndPerform : Prop :=
  (∀ (s : State) (a : Access),
    s.access? a.id = some a → a.op.writes = true → a.scratch = false → a.draft = false → a.stage = .issued →
    (∀ e ∈ s.flight, e.id ∈ a.after → e.isFixed = true) →
    let home := paDomain a.pa
    (2 ≤ paRegion a.pa ∨ (s.dom home).banks = .on) → s.travels a = false ∨ s.atBank a = true →
    (∀ c, a.op = .claim c → ¬ (paRegion a.pa = 1 ∧ s.recess = some (weightBank a.pa))) →
    (∀ e ∈ s.flight, e.scratch = false → e.pa / 128 = a.pa / 128 →
      (∀ t h vs, e.stage = .waiting t h vs → ∀ w ∈ h :: vs, w.domain = home → w.arrived = true → w.dropped = true) ∧
      (∀ bs p c, e.stage = .fixed bs p → e.op ≠ .claim c)) →
    let here (r : LeaseRec) : Prop := r ∈ s.leases ∧ r.domain = home ∧ r.line = a.pa / 128
    let place (d : Nat) := bankRouter (s.bankNumber d a.pa)
    let packet (src dst : Nat × Nat) : Trip :=
      { plane := 1, ts := s.ticks % 2 ^ 24, tick := s.ticks, src := src, seq := s.fresh, way := s.chart.way 1 0 src dst }
    ∃ t e long cores, exec (.writeArrival a.id) s = .next t ∧
      t = { s with domains := t.domains
                   fresh := s.fresh + 1
                   flight := s.flight.map fun y => if y.id = a.id then
                     { y with trip := none, stage := (.waiting s.ticks
                        { domain := home, arrived := true, till := e, revoking := long, revokes := cores }
                        ((tget [] s.directory (a.pa / 128)).map fun d => { domain := d, trip := some (packet (place home) (place d)) })) } else y } ∧
      (∀ r, here r → r.expiry ≤ e) ∧ (e = 0 ∨ ∃ r, here r ∧ r.expiry = e) ∧ (long = true ↔ s.ticks + 256 < e) ∧
      (∀ k v, (k, v) ∈ cores ↔ s.ticks + 256 < e ∧ v = packet (place home) (s.coreRouter k) ∧
        ∃ r ∈ s.sigs, r.core = k ∧ r.domain = home ∧ r.bank = s.bankIn home a.pa ∧
        (r.bit = sigBit a.pa ∨ r.bit = sigBit (a.pa + a.size - 1)) ∧ s.ticks / 16384 < r.epoch + 2 ∧ (s.core k).power ≠ .gated ∧ (s.core k).power ≠ .waking)) ∧
  (∀ (s : State) (a : Access) (b : Block),
    s.access? a.id = some a → (a.op = .store ∧ s.block? a.c.b = some b ∨ (∃ p, a.op = .host p) ∧ a.scratch = false ∧ a.draft = false) →
    a.bytes.length = a.size → Memory.wf s.mem = true → tableOk 0 s.counts = true → tableOk [] s.directory = true → tableOk 0 b.scratch = true →
    tableOk none b.drafts = true →
    let stored (p : Nat) : Option Byte := if a.pa ≤ p then a.bytes[p - a.pa]? else none
    let quiet : Prop := ∀ y ∈ s.blocks, ∀ c ∈ y.cohorts, ∀ p ∈ c.splits, ∀ h, p.hold = some h → ∀ k l, h.kind ≠ .waitm k l
    let done (t : State) : Prop :=
      exec (.writePerform a.id) s = .next t ∧ (∀ e ∈ t.flight, e ∈ s.flight ∧ e.id ≠ a.id) ∧
      ((∀ e ∈ s.flight, e.id ≠ a.id → e.uid ≠ a.uid) → ∀ i ∈ t.issued, i.uid = a.uid →
        a.draft = true ∧ a.scope ≠ 0 ∧ i.fin = .drafted)
    (a.scratch = false → a.draft = false → (∃ since w, a.stage = .waiting since w [] ∧ w.arrived = true ∧
        (w.till ≤ s.ticks ∨ w.revoking = true ∧ w.revokes = [] ∧ w.acks = [])) →
      ∃ t, done t ∧ t.leases = s.leases ∧ tget [] t.directory (a.pa / 128) = [] ∧
        (paRegion a.pa = 0 → t.l2Has (paDomain a.pa) a.pa = true) ∧ (paRegion a.pa = 3 → t.mem = s.mem) ∧
        (paRegion a.pa ≠ 3 → (∀ p, t.readMem p = (stored p).getD (s.readMem p)) ∧ tget 0 t.counts (a.pa / 64) = 0 ∧
          ∀ k, k ≠ a.pa / 64 → tget 0 t.counts k = tget 0 s.counts k)) ∧
    ((∀ e ∈ s.flight, e.id ∈ a.after → e.isFixed = true) → a.stage = .issued →
      (a.scratch = true → s.storesBefore a.c [a.lane] a.uid a.id a.offsets = false → s.overflows a.c.b a.offsets = false →
        ∃ t b', done t ∧ t.mem = s.mem ∧ t.block? a.c.b = some b' ∧
          ∀ p, tget 0 b'.scratch p = (stored p).getD (tget 0 b.scratch p)) ∧
      (a.scratch = true → s.storesBefore a.c [a.lane] a.uid a.id a.offsets = true ∨ s.overflows a.c.b a.offsets = true →
        a.lane < 64 → exec (.writePerform a.id) s = .next s) ∧
      (a.scratch = false → a.draft = true → s.wayFree a = false →
        exec (.writePerform a.id) s = .next ((s.wayOwners a).foldl (fun v r =>
          v.modBlock r fun y => { y with st := .checkpointing, forcer := none, exposed := false }) s)) ∧
      (a.scratch = false → a.draft = true → s.wayFree a = true → quiet →
        ∃ t b', done t ∧ t.mem = s.mem ∧ t.block? a.c.b = some b' ∧
          ∀ p, tget none b'.drafts p = (stored p).or (tget none b.drafts p)))) ∧
  -- the writes of other agents, and the requests that only take their line
  (∀ (s : State) (a : Access),
    s.access? a.id = some a → a.op.writes = true → a.scratch = false → a.draft = false → (∃ since w, a.stage = .waiting since w [] ∧
      w.arrived = true ∧ (w.till ≤ s.ticks ∨ w.revoking = true ∧ w.revokes = [] ∧ w.acks = [])) →
    let d : State := { s with directory := tput [] (a.pa / 128) [] s.directory }
    let does (t : State) : Prop := exec (.writePerform a.id) s = .next t
    (a.op = .afnar → does (d.performStore a)) ∧
    (∀ l, a.op = .edge l → ∃ t, does t ∧ t.mem = (d.performStore a).mem ∧ t.edgeReply = (d.performStore a).edgeReply ++
      (if ∃ e ∈ (d.performStore a).flight, e.op = .edge l ∧ e.uid = a.uid then [] else [(l, some [])])) ∧
    (∀ b, a.op = .publish b → does ((d.performStore a).finishSealed b)) ∧
    (∀ q, a.op = .tready q → does ((d.performStore a).rereadTiles q)) ∧
    (∀ id, a.op = .status id → (d.performStore a).grid? id = none → does (d.performStore a)) ∧
    (∀ id g, a.op = .status id → (d.performStore a).grid? id = some g →
      does (((d.performStore a).finishRetire g g.status).releaseAll.imaged s)) ∧
    (∀ o, a.op = .reg o → does (d.performStore a)) ∧
    (∀ c, a.op = .claim c → does (d.setAccess a.id fun x => { x with stage := .fixed [] false })) ∧
    (a.op = .evict → does { d with flight := s.flight.filter fun x => x.id ≠ a.id })) ∧
  (∀ (s : State) (a : Access), a.scratch = false → a.draft = false → paRegion a.pa ≠ 3 → Memory.wf s.mem = true → ∀ p,
    (s.performStore a).readMem p = ((if a.pa ≤ p then a.bytes[p - a.pa]? else none).getD (s.readMem p)))

/-- R196, R199-R201. ATOM and RED: the lanes that pass their checks go in groups of equal address, each one request with its lanes'
operands in ascending order, and the core's own L1 copy of the line goes; groups on the scratchpad go in ascending address order (R335). A
form that forces a checkpoint has taken it (R225): on the scratchpad one that may write a byte of a standing range, which a CAS whose
every compare fails does not (R334). That lanes of equal virtual address make a group, where R200 speaks of the same location, is the
model's choice (log 38). -/
def Obligations.AtomicsIssueTheirGroups : Prop :=
  ∀ (o : OpA) (s : State) (x : Ctx) (u : State) (good : Mask), tableOk {} u.cores = true →
    let code := fld o.m 7 4
    let scope := fld o.m 3 2
    let order := fld o.m 1 0
    let issues (i : Instr) (wide red scratch : Bool) : Prop :=
      let op := if wide then 0xC else code
      let size := if wide then 16 else if op = 1 ∨ op = 0xA ∨ op = 0xC then 8 else 4
      -- registers of operand b: a CAS has the compare value and the new value
      let regs := if wide then 8 else if op = 0xB ∨ op = 0xC then size / 2 else size / 4
      let addr (l : Nat) : DWord := if scratch then (x.rd o.a l).setWidth 64 else BitVec.ofNat 64 (x.rdN 2 o.a l)
      let chk (l : Nat) := if scratch then x.checkScratch (addr l).toNat size else x.checkGlobal u .atom (addr l) size
      let fs := x.fails addr chk
      let pas := (lanesOf good).map (paOf chk)
      let bytes := pas.flatMap fun p => (List.range size).map fun k => p + k
      let group (l : Nat) : List (Nat × Nat) := ((lanesOf good).filter fun k => addr k == addr l).map fun k => (k, x.rdN regs o.b k)
      let writing : List Nat := ((lanesOf good).filter fun l => u.mayWrite x.r.c.b (addr l).toNat size op (group l)).flatMap fun l =>
        (List.range size).map fun k => (addr l).toNat + k
      let force : Prop := if scratch then u.publishes x.r.c.b writing = true else scope ≠ 0
      let draft (l : Nat) : Bool := !scratch && x.g.ckpt && scope == 0 && decide (paOf chk l / 2 ^ 44 ≠ 3)
      let pages := (x.lanes.map addr).filter fun a => a.toNat % size == 0
      let ok (t : State) : State :=
        let v := x.after (t.settle x.r)
        if scratch then v else x.walked pages v
      let w := if scratch then u else x.fillTlb u (lanesOf good) addr
      let fin : Finish := if red then .performed ((encode i).headD 0) x.sp.pc true
        else .reply o.d (size / 4) size false ((encode i).headD 0) x.sp.pc
      Issues i s x u → (scratch = false → ¬ x.Mapped u pages → ∃ t, exec i s = .next t ∧ x.Suspends s t pages) ∧
        ((scratch = false → x.Mapped u pages) → x.Passes chk good → (x.sp.forced = true ∨ x.g.ckpt = false ∨ ¬ force) →
        (scratch = true → u.wouldOverflow x.r.c.b (bytes.map fun k => (k, 0)) = false) →
          (good = 0#64 → exec i s = .next (ok (x.raise u fs))) ∧
          (good ≠ 0#64 → ∃ (t v : State) (gs : List (List Nat)) (as : List Access) (cs : Cohort → Cohort),
            (x.only good).Effect w t .v good (if red then [] else outs o.d (size / 4) fun _ => 0) fin ∧
            -- the groups
            gs.flatten.Nodup ∧ (∀ l, l ∈ gs.flatten ↔ l ∈ lanesOf good) ∧ (∀ q ∈ gs, q ≠ [] ∧ q.Pairwise (· < ·)) ∧
            (gs.Pairwise fun p q => if scratch = true then (addr (p.headD 0)).toNat < (addr (q.headD 0)).toNat
              else p.headD 0 < q.headD 0) ∧
            (∀ q ∈ gs, ∀ l ∈ q, ∀ k, k ∈ q ↔ k ∈ lanesOf good ∧ addr k = addr l) ∧
            -- their requests
            as.map (fun a => { a with after := [] }) = gs.mapIdx (fun k q =>
              { id := t.fresh + k, uid := x.uid, c := x.r.c, core := x.c.core, lane := q.headD 0,
                op := .atomic op wide red (red && o.d == 1) (q.map fun l => (l, x.rdN regs o.b l)),
                scratch := scratch, va := addr (q.headD 0), pa := paOf chk (q.headD 0), size := size, scope := scope,
                draft := draft (q.headD 0), tags := x.tags u }) ∧
            -- what they come after, and what comes after them
            (∀ a ∈ as, ∀ l, a.hasLane l = true →
              (∀ e ∈ u.flight, e.c = x.r.c → e.hasLane l = true → e.isFixed = false →
                order = 2 ∨ order = 3 ∨ e.overlaps scratch a.pa size = true → e.id ∈ a.after) ∧
              (order = 1 ∨ order = 3 → ∃ q ∈ (cs x.c).orders, q.lanes.getLsbD l = true ∧ q.acq = [a.id])) ∧
            (∀ c, cs c = { c with orders := (cs c).orders }) ∧ (order = 0 ∨ order = 2 → cs = id) ∧
            v = { t.modCohort x.r.c cs with
              fresh := t.fresh + as.length, cores := v.cores
              flight := (if scratch then t else t.storeIssued x.c.core (pas.map (· / 128))).flight ++ as } ∧
            (scratch = true → v.cores = t.cores) ∧
            (scratch = false → (v.core x.c.core).l1 = (w.core x.c.core).l1.filter fun e => pas.all fun p => e.line != p / 128) ∧
            exec i s = .next (ok (x.raise v fs))))
    issues (.atomGlobal o) false false false ∧ issues (.atomScratchpad o) false false true ∧ issues (.atomCasB128 o) true false false ∧
    issues (.redGlobal o) false true false ∧ issues (.redScratchpad o) false true true

/-- R198-R204, R250. One group of an atomic is performed in one step: the lanes in order, each from the value that the one before left,
FADD by exact sums rounded once, `.SR` by RoundSR with Mix of address, count and seed; the reply holds the old values, the location
the last, and the sector's count is one higher. On a poisoned word nothing changes and the reply is poison. -/
def Obligations.AtomicGroupsPerform : Prop :=
  ∀ (s : State) (a : Access) (b : Block) (g : Grid) (op : Nat) (wide red sr : Bool) (ls : List (Nat × Nat)),
    s.access? a.id = some a → a.op = .atomic op wide red sr ls → s.block? a.c.b = some b → s.grid? a.c.b.grid = some g →
    Memory.wf s.mem = true → tableOk 0 s.counts = true → tableOk 0 b.scratch = true → tableOk none b.drafts = true →
    tableOk none b.draftCounts = true → ls ≠ [] → op < 16 → (∀ p ∈ ls, p.2 < 2 ^ (16 * a.size)) →
    (op ≠ 11 → op ≠ 12 → ∀ p ∈ ls, p.2 < 2 ^ (8 * a.size)) →
    (∀ y ∈ s.blocks, ∀ c ∈ y.cohorts, ∀ p ∈ c.splits, ∀ h, p.hold = some h → ∀ k l, h.kind ≠ .waitm k l) →
    let bits := 8 * a.size
    let sec := a.pa / 64
    let home : Prop := a.scratch = false ∧ a.draft = false
    let ready : Prop := (home ∧ ∃ since w, a.stage = .waiting since w [] ∧ w.arrived = true ∧
        (w.till ≤ s.ticks ∨ w.revoking = true ∧ w.revokes = [] ∧ w.acks = [])) ∨
      (¬ home ∧ a.stage = .issued ∧ (∀ e ∈ s.flight, e.id ∈ a.after → e.isFixed = true) ∧ (a.scratch = true ∨ s.wayFree a = true) ∧
        (a.scratch = true → s.storesBefore a.c ((List.range 64).filter a.hasLane) a.uid a.id a.offsets = false ∧
          s.overflows a.c.b a.offsets = false))
    let draft (k : Nat) : Option Byte := (tget none b.drafts k).or (s.sealedByte b.ref k)
    let now (k : Nat) : Byte := if a.scratch then tget 0 b.scratch k else (draft k).getD (s.readPhys k)
    let poison : Prop := a.scratch = false ∧ ∃ k, k < a.size ∧ draft (a.pa + k) = none ∧
      ((a.pa + k) / 64 ∈ s.poison ∨ paRegion (a.pa + k) = 1 ∧ (a.pa + k) / 128 ∉ s.filled)
    let m := leNat ((List.range a.size).map fun k => now (a.pa + k))
    let count := if a.draft then (tget none b.draftCounts sec).getD (tget 0 s.counts sec) else tget 0 s.counts sec
    let num (n : Nat) : FV := decodeF .f32 n
    let results (olds : List Nat) (fin : Nat) : Prop :=
      olds.length = ls.length ∧
      (op ≠ 0xD → (olds ++ [fin])[0]? = some m ∧ ∀ k v w l, (olds ++ [fin])[k]? = some v → (olds ++ [fin])[k + 1]? = some w →
        ls[k]? = some l → AtomValue op bits v l.2 w) ∧
      (op = 0xD → (∀ k v, olds[k]? = some v → (k = 0 → v = m) ∧
          (k ≠ 0 → SumOf (num m :: (ls.take k).map fun p => num p.2) v)) ∧
        (sr = true ∧ a.scratch = false → SumSR (num m :: ls.map fun p => num p.2)
          (mixOf (a.va &&& 0x7FFFFFFFFFFFF) count g.regs.seed.toNat) fin) ∧
        (¬ (sr = true ∧ a.scratch = false) → SumOf (num m :: ls.map fun p => num p.2) fin))
    let place := bankRouter (s.bankNumber (paDomain a.pa) a.pa)
    let reply : Option Trip :=
      if a.scratch then a.trip
      else if a.draft = true ∨ 1 < paRegion a.pa then none
      else some { plane := 1, ts := s.ticks % 2 ^ 24, tick := s.ticks, src := place, seq := s.fresh
                  way := s.chart.way 1 0 place (s.coreRouter a.core) }
    let put (fin p : Nat) : Option Byte := if a.pa ≤ p ∧ p < a.pa + a.size then some (BitVec.ofNat 8 (fin / 256 ^ (p - a.pa))) else none
    ready → count < 65536 → paRegion a.pa ≠ 3 → (op = 0xD ∨ op = 14 ∨ op = 15 → a.size = 4) → 
      (poison → ∃ t, exec (.writePerform a.id) s = .next t ∧ t.access? a.id = some { a with stage := .fixed [] true, trip := reply } ∧
        t.mem = s.mem ∧ t.counts = s.counts ∧ t.poison = s.poison ∧ t.blocks = s.blocks) ∧
      (¬ poison → ∃ t b' olds fin, exec (.writePerform a.id) s = .next t ∧ results olds fin ∧
        t.access? a.id = some { a with stage := .fixed (olds.flatMap (leBytes a.size)) false, trip := reply } ∧ t.block? a.c.b = some b' ∧
        (home → (∀ p, t.readMem p = (put fin p).getD (s.readMem p)) ∧
          ∀ k, tget 0 t.counts k = if k = sec then (count + 1) % 65536 else tget 0 s.counts k) ∧
        (a.scratch = true → t.mem = s.mem ∧ t.counts = s.counts ∧
          ∀ p, tget 0 b'.scratch p = (put fin p).getD (tget 0 b.scratch p)) ∧
        (a.scratch = false → a.draft = true → t.mem = s.mem ∧ t.counts = s.counts ∧
          (∀ p, tget none b'.drafts p = (put fin p).or (tget none b.drafts p)) ∧
          tget none b'.draftCounts sec = some ((count + 1) % 65536)))

/-! ### Ordering, barriers and queues (R205-R214, R235, R239-R249, R430) -/

/-- R235, R239-R242, R244, R245, R249, R358, R375. Events of the memory system: a fetch that misses asks for a walk; the walker takes up the
oldest waiting miss, with the base in force then, keeps at most 64 in progress, and reads its table lines one after another at their home
banks; a walk that has read them ends, fills the TLBs of every core that shares it and lets its waiters go on, and a TLBI meanwhile keeps
its translation out; revokes, acknowledgements and invalidations go as packets of plane 1, each port serving them by age, and a visitor
bank resolves its own leases before it drops the copy; leases end; an L2 mode changes at a context boundary; and a weight-store bank is in
recess during its window. That a mode change cleans every bank of the module, and drops the L1 copies of what the directories name, is the
model's choice (log 47). -/
def Obligations.MemorySystemEvents : Prop :=
  ∀ (s : State) (a : Access) (core domain part since : Nat) (h : BankWait) (vs : List BankWait),
    let staged (h' : BankWait) (vs' : List BankWait) (t : State) : Prop :=
      t.flight = s.flight.map fun e => if e.id = a.id then { e with stage := .waiting since h' vs' } else e
    let at' (k : Nat) (f : BankWait → BankWait) (w : BankWait) : BankWait := if w.domain = k then f w else w
    let line := a.pa / 128
    let epoch := s.ticks / 16384
    let inWindow (b : Nat) : Prop := 2048 * b ≤ s.ticks % 32768 ∧ s.ticks % 32768 < 2048 * b + 640
    let live (x : Option Nat) : Prop := ∀ e, x = some e → s.ticks + 8 < e
    -- a packet that is injected now, between the banks of the line and the cores, and the next step of one on its way
    let place (d : Nat) := bankRouter (s.bankNumber d a.pa)
    let packet (src dst : Nat × Nat) : Trip :=
      { plane := 1, ts := s.ticks % 2 ^ 24, tick := s.ticks, src := src, seq := s.fresh, way := s.chart.way 1 0 src dst }
    let there (v : Trip) : Prop := v.way.length ≤ 1
    let on (v : Trip) : Trip := { v with way := v.way.drop 1 }
    let moved (core : Nat) (v : Trip) (l : List (Nat × Trip)) := l.map fun q => if q.1 = core then (core, on v) else q
    (s.access? a.id = some a → (s.flight.map (·.id)).Nodup → a.stage = .waiting since h vs →
      (let d := s.coreDomain core
       ∀ w v, ((h :: vs).find? fun w => w.domain = d) = some w →
        ((w.revokes.find? fun q => q.1 = core) = some (core, v) → tableOk {} s.cores = true →
          (there v →
            let f (w : BankWait) : BankWait := { w with
              revokes := w.revokes.filter fun q => q.1 != core, acks := w.acks ++ [(core, packet (s.coreRouter core) (place d))] }
            ∃ t, exec (.revoke core a.id) s = .next t ∧ staged (at' d f h) (vs.map (at' d f)) t ∧
              t = { s with flight := t.flight, cores := t.cores, fresh := s.fresh + 1 } ∧ (∀ k, k ≠ core → t.core k = s.core k) ∧
              t.core core = { s.core core with l1 := (s.core core).l1.filter fun e => e.line != line }) ∧
          (¬ there v → s.portServes v = true →
            let f (w : BankWait) : BankWait := { w with revokes := moved core v w.revokes }
            ∃ t, exec (.revoke core a.id) s = .next t ∧ staged (at' d f h) (vs.map (at' d f)) t ∧ t = { s with flight := t.flight }) ∧
          (¬ there v → s.portServes v = false → exec (.revoke core a.id) s = .next s)) ∧
        ((w.acks.find? fun q => q.1 = core) = some (core, v) →
          (there v →
            let f (w : BankWait) : BankWait := { w with acks := w.acks.filter fun q => q.1 != core }
            ∃ t, exec (.revokeAck (.core core) a.id) s = .next t ∧ staged (at' d f h) (vs.map (at' d f)) t ∧
              t = { s with flight := t.flight }) ∧
          (¬ there v → s.portServes v = true →
            let f (w : BankWait) : BankWait := { w with acks := moved core v w.acks }
            ∃ t, exec (.revokeAck (.core core) a.id) s = .next t ∧ staged (at' d f h) (vs.map (at' d f)) t ∧
              t = { s with flight := t.flight }) ∧
          (¬ there v → s.portServes v = false → exec (.revokeAck (.core core) a.id) s = .next s))) ∧
      (∀ w v, (vs.find? fun w => w.domain = domain ∧ w.dropped = true) = some w → w.trip = some v →
        (there v → ∃ t, exec (.revokeAck (.banks domain) a.id) s = .next t ∧ t = { s with flight := t.flight } ∧
          staged h (vs.filter fun w => !(w.domain == domain && w.dropped)) t) ∧
        (¬ there v → s.portServes v = true → domain ≠ h.domain →
          ∃ t, exec (.revokeAck (.banks domain) a.id) s = .next t ∧ t = { s with flight := t.flight } ∧
            staged h (vs.map (at' domain fun w => { w with trip := w.trip.map on })) t) ∧
        (¬ there v → s.portServes v = false → exec (.revokeAck (.banks domain) a.id) s = .next s)) ∧
      (∀ w v, (vs.find? fun w => w.domain = domain) = some w → w.arrived = false → w.trip = some v →
        let here (r : LeaseRec) : Prop := r ∈ s.leases ∧ r.domain = domain ∧ r.line = line
        (there v → ∃ t e long cores, exec (.invalidation domain a.id) s = .next t ∧
          t = { s with flight := t.flight, domains := t.domains, fresh := s.fresh + 1 } ∧
          staged h (vs.map (at' domain fun _ =>
            { domain := domain, arrived := true, till := e, revoking := long, revokes := cores })) t ∧
          (∀ r, here r → r.expiry ≤ e) ∧ (e = 0 ∨ ∃ r, here r ∧ r.expiry = e) ∧ (long = true ↔ s.ticks + 256 < e) ∧
          (∀ k v, (k, v) ∈ cores ↔ s.ticks + 256 < e ∧ v = packet (place domain) (s.coreRouter k) ∧
            ∃ r ∈ s.sigs, r.core = k ∧ r.domain = domain ∧ r.bank = s.bankIn domain a.pa ∧
            (r.bit = sigBit a.pa ∨ r.bit = sigBit (a.pa + a.size - 1)) ∧ epoch < r.epoch + 2 ∧
            (s.core k).power ≠ .gated ∧ (s.core k).power ≠ .waking)) ∧
        (¬ there v → s.portServes v = true → ∃ t, exec (.invalidation domain a.id) s = .next t ∧ t = { s with flight := t.flight } ∧
          staged h (vs.map (at' domain fun w => { w with trip := w.trip.map on })) t) ∧
        (¬ there v → s.portServes v = false → exec (.invalidation domain a.id) s = .next s)) ∧
      (∀ w, (vs.find? fun w => w.domain = domain) = some w → w.arrived = true → w.dropped = false →
        (w.till ≤ s.ticks ∨ w.revoking = true ∧ w.revokes = [] ∧ w.acks = [] →
          ∃ t, exec (.invalidation domain a.id) s = .next t ∧ t = { s with flight := t.flight, l2 := t.l2, fresh := s.fresh + 1 } ∧
            staged h (vs.map (at' domain fun w =>
              { w with dropped := true, trip := some (packet (place domain) (place (paDomain a.pa))) })) t ∧
            (tableOk [] s.l2 = true → t.l2Has domain a.pa = false)) ∧
        (¬ (w.till ≤ s.ticks ∨ w.revoking = true ∧ w.revokes = [] ∧ w.acks = []) →
          exec (.invalidation domain a.id) s = .next s))) ∧
    (tableOk {} s.cores = true → ∃ t, exec .leaseExpiry s = .next t ∧ t = { s with cores := t.cores } ∧
      ∀ k, t.core k = { s.core k with l1 := (t.core k).l1 } ∧ ∀ ln sec x,
        (∃ e ∈ (t.core k).l1, e.line = ln ∧ (sec, x) ∈ e.sectors) ↔ live x ∧ ∃ e ∈ (s.core k).l1, e.line = ln ∧ (sec, x) ∈ e.sectors) ∧
    (∃ t, exec .epochStart s = .next t ∧ t = { s with sigs := t.sigs, leases := t.leases } ∧
      (∀ r, r ∈ t.sigs ↔ r ∈ s.sigs ∧ epoch < r.epoch + 2) ∧ (∀ r, r ∈ t.leases ↔ r ∈ s.leases ∧ s.ticks < r.expiry)) ∧
    (∀ m, (s.part part).l2req = some m → (∀ b ∈ s.blocks, b.st = .saved ∨ (s.gridOf b).part ≠ part) → tableOk {} s.parts = true →
      tableOk {} s.cores = true →
      let named (ln : Nat) : Prop := ln ∈ s.directory.map (·.1)
      ∃ t, exec (.l2ModeChange part) s = .next t ∧
        t = { s with directory := [], parts := t.parts, cores := t.cores, l2 := t.l2 } ∧
        (∀ k, k ≠ part → t.part k = s.part k) ∧ t.part part = { s.part part with l2mode := m, l2req := none } ∧
        (∀ k, t.core k = { s.core k with l1 := (t.core k).l1 } ∧ ∀ e, e ∈ (t.core k).l1 ↔ e ∈ (s.core k).l1 ∧ ¬ named e.line) ∧
        ∀ n, ∀ e ∈ tget [] t.l2 n, e.dirty = false ∧ (paDomain (128 * e.line) ≠ n / 16 → ¬ named e.line)) ∧
    (∀ b, b < 16 → inWindow b → exec .recessStart s = .next { s with recess := some b }) ∧
    (∀ b, s.recess = some b → exec .recessEnd s = .next (if 2048 * b ≤ s.ticks % 32768 ∧ s.ticks % 32768 < 2048 * b + 640 then s
      else { s with recess := none })) ∧
    (∀ q ∈ s.fetchMisses, ∃ t lead, exec (.pageWalk q) s = .next t ∧
      t = { s with fresh := s.fresh + 1, walks := s.walks ++ [{ id := s.fresh, req := q, lead := lead }] }) ∧
    (∀ (w : Walk) (ws us : List Walk), s.walks = ws ++ w :: us → w.started = false → w.failed = false → w.lead = none →
      (∀ q ∈ ws, s.coreDomain q.req.core = s.coreDomain w.req.core → q.started = true ∨ q.failed = true ∨ q.lead ≠ none) →
      (s.walks.filter fun q => s.coreDomain q.req.core == s.coreDomain w.req.core && !q.failed && q.lead.isNone && q.started).length < 64 →
      (∀ q ∈ ws ++ us, q.req ≠ w.req ∧ q.id ≠ w.id) → w.req ∉ s.fetchMisses →
      let begun : Walk := { w with started := true, ptb := ((s.grid? w.req.grid).map fun g => g.regs.ptb).getD 0 }
      ∃ t, exec (.pageWalk w.req) s = .next t ∧ t = { s with walks := ws ++ begun :: us, flight := t.flight, fresh := t.fresh } ∧
        match (s.readsOf begun)[w.done]? with
        | none => t.flight = s.flight ∧ t.fresh = s.fresh
        | some pa => t.fresh = s.fresh + 1 ∧ t.flight = s.flight ++
          [{ id := s.fresh, uid := 0, c := ⟨⟨0, 0⟩, 0⟩, core := w.req.core, lane := 0, op := .walk w.id, scratch := false, va := 0, pa := pa
             size := 8, scope := 3 }]) ∧
    -- a table line is served to a walk, which goes on to the next
    (∀ id, s.access? a.id = some a → a.op = .walk id → a.scratch = false → s.sends a = false → s.moves a = false → s.crowded a = false →
      s.canServe a = true → ∃ t, exec (.packetService a.id) s = .next t ∧ t.mem = s.mem ∧ (∀ e ∈ s.flight, e.id ≠ a.id → e ∈ t.flight) ∧
        t.walks = s.walks.map fun w => if w.id = id then { w with done := w.done + 1 } else w) ∧
    (∀ (w : Walk) (g : Grid) (e : TlbEntry), (s.walks.find? fun q => q.id = w.id) = some w → s.grid? w.req.grid = some g →
      let va := 32768 * w.req.va
      let shares (q : Walk) : Prop := q.id = w.id ∨ q.lead = some w.id
      let isOver (r : WalkReq) : Prop := ∃ q ∈ s.walks, shares q ∧ q.req = r
      let ended (t : State) : Prop := t.mem = s.mem ∧ ∀ r p h left, s.split? r = some p → p.hold = some h → h.kind = .walk left →
        ((∀ q ∈ left, ¬ isOver q) → t.split? r = some p) ∧
        ((∃ q ∈ left, isOver q) → ∃ rest, (∀ q, q ∈ rest ↔ q ∈ left ∧ ¬ isOver q) ∧
          t.split? r = some { p with hold := some { h with kind := .walk rest, since := s.cycle } })
      let read : Prop := (s.readsOf w).length ≤ w.done ∧ ∀ e ∈ s.flight, e.op ≠ .walk w.id
      (¬ (w.started = true ∧ w.failed = false ∧ read) → exec (.walkCompletion w.id) s = .next s) ∧
      (w.started = true → w.failed = false → read →
        (w.drop = true → ∃ t, exec (.walkCompletion w.id) s = .next t ∧ ended t ∧ (∀ q, q ∈ t.walks ↔ q ∈ s.walks ∧ ¬ shares q) ∧
          t.cores = s.cores ∧ t.tlb2 = s.tlb2) ∧
        (w.drop = false → s.walkFull (s.part g.part) w.ptb va = .ok e →
          ∃ t, exec (.walkCompletion w.id) s = .next t ∧ ended t ∧ (∀ q, q ∈ t.walks ↔ q ∈ s.walks ∧ ¬ shares q) ∧
            ∀ q ∈ s.walks, shares q → t.tlbFind q.req.core e.tag e.htag va = some e) ∧
        (∀ f, w.drop = false → s.walkFull (s.part g.part) w.ptb va = .error f →
          ∃ t, exec (.walkCompletion w.id) s = .next t ∧ ended t ∧ t.cores = s.cores ∧ t.tlb2 = s.tlb2 ∧
            ∃ f : Walk → Walk, t.walks = s.walks.map f ∧
              ∀ q, f q = { q with failed := (f q).failed } ∧ ((f q).failed = true ↔ q.failed = true ∨ shares q))))

/-- R205, R206, R214, R225. FENCE ends when the earlier accesses that it orders are performed, and until then its lanes' later
stores, atomics and copies (.REL) or all their later accesses (.ACQ) wait for these. WAITM holds its split with PC at the instruction and
sends a read for each lane's word; when a read is served, the lanes of its sector whose words meet the condition are done, and with the
last lane the split goes on behind the instruction. -/
def Obligations.FencesAndMemoryWaits : Prop :=
  (∀ (o : OpA) (s : State) (x : Ctx) (u : State),
    let rel : Prop := fld o.m 1 0 = 0 ∨ fld o.m 1 0 = 2
    let acq : Prop := fld o.m 1 0 = 0 ∨ fld o.m 1 0 = 1
    let early (l : Nat) (a : Access) : Prop := a ∈ u.flight ∧ a.c = x.r.c ∧ a.hasLane l = true ∧ a.isFixed = false
    let reads (l : Nat) (a : Access) : Prop := early l a ∧ a.op.isStore = false
    Issues (.fence o) s x u → (x.sp.forced = true ∨ x.g.ckpt = false ∨ ¬ (rel ∧ fld o.m 3 2 ≠ 0)) →
      ∃ t accs cs, x.Effect u t .v x.ex [] (.fence accs) ∧
        exec (.fence o) s = .next (x.after ((t.modCohort x.r.c cs).settle x.r)) ∧
        (∀ id, id ∈ accs ↔ ∃ l ∈ x.lanes, ∃ a, a.id = id ∧ (rel ∧ early l a ∨ acq ∧ reads l a)) ∧
        (∀ c : Cohort, cs c = { c with orders := (cs c).orders }) ∧
        (∀ l ∈ x.lanes, ∀ a, early l a → rel → ∃ q ∈ (cs x.c).orders, q.lanes.getLsbD l = true ∧ a.id ∈ q.rel) ∧
        (∀ l ∈ x.lanes, ∀ a, reads l a → acq → ∃ q ∈ (cs x.c).orders, q.lanes.getLsbD l = true ∧ a.id ∈ q.acq)) ∧
  (∀ (o : OpM) (s : State) (x : Ctx) (u : State) (good : Mask),
    let addr (l : Nat) : DWord := x.at64 o 4 l
    let chk (l : Nat) := x.checkGlobal u .ld (addr l) 4
    let fs := x.fails addr chk
    let pages := (x.lanes.map addr).filter fun a => a.toNat % 4 == 0
    let ok (t : State) : State := x.walked pages (t.settle x.r)
    Issues (.waitm o) s x u →
      (x.sp.mode ≠ .user → exec (.waitm o) s = .next ((x.raiseAll u 0x05).settle x.r)) ∧
      (x.sp.mode = .user → ¬ x.Mapped u pages → ∃ t, exec (.waitm o) s = .next t ∧ x.Suspends s t pages) ∧
      (x.sp.mode = .user → x.Mapped u pages → x.AllDone u → x.c.orders = [] → x.Passes chk good →
        (good = 0#64 → exec (.waitm o) s = .next (ok (x.raise u fs))) ∧
        (good ≠ 0#64 → ∃ t v,
          (x.only good).Effect (x.fillTlb u (lanesOf good) addr) t .v good [] .event ∧
          x.Launches (t.modSplit x.r fun p =>
            { p with hold := some ⟨.waitm o.hint.toNat ((lanesOf good).map fun l => (l, addr l, paOf chk l, x.rd o.d l)), x.uid, good, u.cycle⟩
                     pc := x.sp.pc }) v ((lanesOf good).map fun l =>
            { id := 0, uid := x.uid, c := x.r.c, core := x.c.core, lane := l, op := .watch, scratch := false, va := addr l, pa := paOf chk l
              size := 4, scope := 3, tags := x.tags u }) ∧
          exec (.waitm o) s = .next (ok (x.raise v fs))))) ∧
  (∀ (s : State) (a : Access) (b : Block) (r : SRef) (p : Split) (h : Hold) (cond : Nat) (left : List (Nat × DWord × Nat × Word)),
    s.access? a.id = some a → a.op = .watch → s.sends a = false → s.moves a = false → s.crowded a = false → s.canServe a = true →
    a.c = r.c → s.block? r.c.b = some b → s.split? r = some p → p.hold = some h → h.uid = a.uid → h.kind = .waitm cond left → p.lanes ≠ 0#64 →
    (s.allSplits.filter fun q => q.c == r.c && ((s.split? q).bind (·.hold)).map (·.uid) == some a.uid) = [r] →
    let draft (k : Nat) : Option Byte := (tget none b.drafts k).or (s.sealedByte b.ref k)
    let word (k : Nat) : Nat := leNat ((List.range 4).map fun i => (draft (k + i)).getD (s.readPhys (k + i)))
    let here (q : Nat × DWord × Nat × Word) : Prop := q ∈ left ∧ q.2.2.1 / 64 = a.pa / 64
    let meets (q : Nat × DWord × Nat × Word) : Prop :=
      let v := word q.2.2.1
      let c := q.2.2.2.toNat
      if cond = 0 then v ≠ c else if cond = 1 then v = c else c ≤ v
    (∀ q, here q → ∀ i, i < 4 → draft (q.2.2.1 + i) ≠ none ∨
      (q.2.2.1 + i) / 64 ∉ s.poison ∧ (paRegion (q.2.2.1 + i) = 1 → (q.2.2.1 + i) / 128 ∈ s.filled)) →
    ((∀ q ∈ left, here q ∧ meets q) → ∃ t u : State, exec (.packetService a.id) s = .next (u.release r 8) ∧ u = t.finishIssue a.uid ∧
      t.mem = s.mem ∧ t.issued = s.issued ∧ t.split? r = some { p with hold := some { h with kind := .waitm cond [] } }) ∧
    ((∃ q ∈ left, ¬ (here q ∧ meets q)) → ∃ (t : State) (left' : List (Nat × DWord × Nat × Word)), exec (.packetService a.id) s = .next t ∧ t.mem = s.mem ∧
      t.split? r = some { p with hold := some { h with kind := .waitm cond left' } } ∧ t.issued = s.issued ∧
      (∀ q, q ∈ left' ↔ q ∈ left ∧ ¬ (here q ∧ meets q))))

/-- R207-R209, R214, R430. BAR and CKPT: the executing threads arrive, the first arrival of a phase fixes its count, and the split is
held until the phase completes, which ends every hold on it and starts the next phase. An arrival that needs a barrier record when the
core's 32 are in use, or while others wait for one, waits for one; a checkpoint that is due comes first. A BAR with .SUB waits until the
open chunks of its cores can close (R336), and its phase completes when their packets are acknowledged (R337). That a pair block's
records count on its left core alone is the model's choice (log 17). -/
def Obligations.BarriersHoldUntilComplete : Prop :=
  ∀ (o : OpA) (s : State) (x : Ctx) (u : State),
    let used : Nat := ((u.blocks.filter fun b => b.core == x.b.core && b.st != .saved).map fun b =>
      (b.barriers.filter fun p => p.2.arrived != 0).length).sum
    let arrives (i : Instr) (id count : Nat) (sub : Bool) : Prop :=
      let r := tget {} x.b.barriers id
      let fixed := if r.arrived = 0 then (if count = 0 then none else some count) else r.fixed
      let n := r.arrived + population x.ex
      let held (t : State) (k : HoldKind) : State := t.modSplit x.r fun p => { p with hold := some ⟨k, x.uid, x.ex, u.cycle⟩ }
      let counted (t : State) : State :=
        let v := if sub then (held t (.bar id r.phase)).closeChunks x.b.cores else held t (.bar id r.phase)
        let r' : Barrier := { r with fixed := fixed, arrived := n, subBound := if sub || r.subBound.isSome then some v.fresh else none }
        v.modBlock x.r.c.b fun b => { b with barriers := tput {} id r' b.barriers }
      let full : Prop := match fixed with
        | some c => min c x.g.ntid ≤ n
        | none => x.g.ntid ≤ x.b.exited + n
      let acked (t : State) : Prop := (sub = true ∨ r.subBound.isSome = true) → ∀ p ∈ t.packets, t.fresh ≤ p.id ∨
        p.core ∉ x.b.cores ∧ ∀ q ∈ t.coreEntries x.b.cores, q.1 = p.core → q.2.id ≠ p.entry
      let due : Prop := id = 16 ∧ x.g.ckpt = true ∧ x.b.lastCk + x.g.regs.ckint.toNat ≤ u.ticks
      Issues i s x u → (x.sp.mode ≠ .user → exec i s = .next ((x.raiseAll u 0x05).settle x.r)) ∧
        (x.sp.mode = .user → x.AllDone u → sub = true → (∃ q ∈ u.coreEntries x.b.cores, q.2.chunk ≠ none ∧ 64 ≤ q.2.outstanding) →
          exec i s = .next { s with selected := s.selected.tail }) ∧
        (x.sp.mode = .user → x.AllDone u → (sub = true → ∀ q ∈ u.coreEntries x.b.cores, q.2.chunk = none ∨ q.2.outstanding < 64) →
          (r.arrived = 0 → (32 ≤ used ∨ ∃ w ∈ u.recordWaiters x.b.core, u.needsRecord w = true) → ∃ t, x.Effect u t .v x.ex [] .event ∧
            exec i s = .next ((held t (.barRecord id count sub)).settle x.r)) ∧
          (r.arrived ≠ 0 ∨ used < 32 → u.NoneHeld (fun k => ∃ a b c, k = .barRecord a b c) → tableOk {} x.b.barriers = true →
            (u.blocks.map (·.ref)).Nodup → (∀ b ∈ u.blocks, b.st = .resident → ∀ q ∈ b.barriers,
              (b.ref = x.r.c.b ∧ q.1 = id) ∨ b.phaseFull (u.ntidOf b) q.2 = false) →
            ∃ t, x.Effect u t .v x.ex [] .event ∧
              (¬ (full ∧ acked (counted t)) → exec i s = .next ((counted t).settle x.r)) ∧
              (full → acked (counted t) → x.b.st = .resident → due →
                exec i s = .next (((counted t).modBlock x.r.c.b fun b =>
                  { b with st := .checkpointing, forcer := none, exposed := false }).settle x.r)) ∧
              (full → acked (counted t) → x.b.st = .resident → ¬ due → 
                ∃ v b, exec i s = .next v ∧ v.block? x.r.c.b = some b ∧ tget {} b.barriers id = { phase := r.phase + 1 } ∧
                  v.mem = u.mem ∧ (∀ c ∈ b.cohorts, ∀ p ∈ c.splits, ∀ h, p.hold = some h → h.kind ≠ .bar id r.phase) ∧
                  ∀ j ∈ v.issued, j.uid ≠ x.uid)))
    arrives (.bar o) (fld o.m 3 0) (x.rd o.a (lowest x.ex)).toNat (o.m.getLsbD 4) ∧ arrives (.ckpt o) 16 0 false

/-- R210, R211, R214. BARB.INIT and BARB.ARRIVE change their lanes' objects in ascending lane order; an object that is armed with
nothing due completes. A count above 2^31 - 1 or a bad offset traps its lane. BARB.WAIT holds its split while an object's phase is
the value that its lane names. -/
def Obligations.ByteCountBarriers : Prop :=
  ∀ (o : OpA) (s : State) (x : Ctx) (u : State) (good : Mask) (m : Nat → Byte),
    let off (l : Nat) : Nat := (x.rd o.a l).toNat
    let before (p : Nat) : Byte := tget 0 x.b.scratch p
    let cause (counted : Bool) (l : Nat) : Option Nat :=
      if counted = true ∧ 2 ^ 31 ≤ (x.rd o.b l).toNat then some 5
      else if off l % 8 ≠ 0 then some 3
      else if inScratch x.g (off l) 8 = false then some 2
      else none
    let fs (counted : Bool) : List LaneFault := x.lanes.filterMap fun l => (cause counted l).map fun c => ⟨l, c, BitVec.ofNat 64 (off l), 0⟩
    let bytes := x.lanes.flatMap fun l => (List.range 8).map fun k => off l + k
    let passes (counted : Bool) : Prop := ∀ l, good.getLsbD l = true ↔ x.ex.getLsbD l = true ∧ cause counted l = none
    let changes (i : Instr) (init : Bool) : Prop :=
      Issues i s x u → x.AllDone u → x.c.orders = [] → u.storesBefore x.r.c x.lanes x.uid u.fresh bytes = false → passes true →
        tableOk 0 x.b.scratch = true →
        u.NoneHeld (fun k => ∃ q, k = .barb q) → u.wouldOverflow x.r.c.b (bytes.map fun k => (k, 0)) = false →
        (x.sp.forced = true ∨ x.g.ckpt = false ∨ u.publishes x.r.c.b bytes = false) →
        Runs (BarbNext init) before
          ((lanesOf good).map fun l => (off l, if init then ((x.rd o.b l).toNat : Int) else -((x.rd o.b l).toNat : Int))) m →
        (good = 0#64 → exec i s = .next (x.after ((x.raise u (fs true)).settle x.r))) ∧
        (good ≠ 0#64 → ∃ t v, (x.only good).Effect u t .v good [] .complete ∧ x.Writes t m v ∧
          exec i s = .next (x.after ((x.raise v (fs true)).settle x.r)))
    let left := (lanesOf good).filterMap fun l =>
      let q := (l, off l, (x.rd o.b l).getLsbD 0)
      if (BitVec.ofNat 8 (numberAt before (off l + 7) 1)).getLsbD 7 = q.2.2 then some q else none
    changes (.barbInit o) true ∧ changes (.barbArrive o) false ∧
    (Issues (.barbWait o) s x u →
      (x.sp.mode ≠ .user → exec (.barbWait o) s = .next ((x.raiseAll u 0x05).settle x.r)) ∧
      (x.sp.mode = .user → x.AllDone u → passes false →
        (good = 0#64 → exec (.barbWait o) s = .next ((x.raise u (fs false)).settle x.r)) ∧
        (good ≠ 0#64 → left = [] → ∃ t, (x.only good).Effect u t .v good [] .complete ∧
          exec (.barbWait o) s = .next ((x.raise t (fs false)).settle x.r)) ∧
        (good ≠ 0#64 → left ≠ [] → ∃ t, (x.only good).Effect u t .v good [] .event ∧
          exec (.barbWait o) s = .next ((x.raise (t.modSplit x.r fun p =>
            { p with hold := some ⟨.barb left, x.uid, good, u.cycle⟩ }) (fs false)).settle x.r))))

/-- R212-R214, R225. QPUSH, QPOP and QTRY: the lanes act on their queues one after another, each on the header and slot that the one
before left. A lane that finds its queue full, or empty, holds the split of a QPUSH or QPOP at the instruction; a QTRY clears its
predicate and keeps d there. A bad header traps its lane, with 0x05 first (log 97, the model's choice). A QPUSH or QPOP acts for as many
lanes, from the lowest on, as close no packet beyond the 64 that an entry may have outstanding; the others wait, and where that is every
lane it does not issue (R336). -/
def Obligations.QueuesPushAndPop : Prop :=
  ∀ (o : OpA) (s : State) (x : Ctx) (u : State) (n : Nat) (res : List QueueOut) (m : Nat → Byte),
    let args (push : Bool) : List (Nat × Nat × DWord) :=
      x.lanes.map fun l => (l, (x.rd o.a l).toNat, if push then BitVec.ofNat 64 (x.rdN 2 o.b l) else 0)
    let acts (push : Bool) := ((args push).take n).zip res
    let fs (push : Bool) : List LaneFault := (acts push).filterMap fun q =>
      match q.2 with | .faults c => some ⟨q.1.1, c, BitVec.ofNat 64 q.1.2.1, 0⟩ | _ => none
    let good (push : Bool) : Mask := x.ex &&& ~~~maskOf ((fs push).map (·.lane))
    let left (push : Bool) : List (Nat × Nat × DWord) := ((acts push).filter fun q => q.2 == .waits).map (·.1) ++ (args push).drop n
    let tooMany (push : Bool) (k : Nat) : Bool :=
      u.wouldOverflow x.r.c.b ((queueWrites x.g x.r.c.b push u ((args push).take k)).map fun q => (q, 0))
    let gets (push : Bool) (l v : Nat) : Prop := ∃ q ∈ acts push, q.1.1 = l ∧ q.2 = .done v
    let fits (i : Instr) (push : Bool) : Prop :=
      Issues i s x u ∧ x.AllDone u ∧ x.c.orders = [] ∧ tableOk 0 x.b.scratch = true ∧ u.NoneHeld (fun k => ∃ q, k = .barb q) ∧
      tooMany push n = false ∧ (x.sp.forced = true ∨ x.g.ckpt = false ∨ u.publishes x.r.c.b (queueTouched x u push o) = false) ∧
      n ≤ x.lanes.length ∧ res.length = n ∧ Runs (QueueNext x.g push) (fun p => tget 0 x.b.scratch p) (acts push) m
    let moves (i : Instr) (push : Bool) : Prop :=
      (Issues i s x u → x.sp.mode ≠ .user →
        exec i s = .next (x.after ((x.raiseAll u 0x05).settle x.r))) ∧
      (Issues i s x u → x.sp.mode = .user → (∀ k, 0 < k → k ≤ x.lanes.length → tooMany push k = true) →
        x.sp.forced = true ∨ x.g.ckpt = false ∨ u.publishes x.r.c.b (queueTouched x u push o) = false →
        exec i s = .next { s with selected := s.selected.tail }) ∧
      (fits i push → x.sp.mode = .user → 0 < n → (∀ k, n < k → k ≤ x.lanes.length → tooMany push k = true) →
        (good push = 0#64 → ∃ w, x.Writes u m w ∧ exec i s = .next (x.after ((x.raise w (fs push)).settle x.r))) ∧
        (good push ≠ 0#64 → ∃ w t vals, x.Writes u m w ∧
          (x.only (good push)).Effect w t .v (good push) (if push then [] else outs o.d 2 vals)
            (if left push = [] then .complete else .event) ∧
          (∀ l v, gets push l v → push = false → vals l = v) ∧
          exec i s = .next (x.after ((x.raise (if left push = [] then t else t.modSplit x.r fun p =>
            { p with hold := some ⟨.queue (left push), x.uid, good push, u.cycle⟩, pc := x.sp.pc }) (fs push)).settle x.r))))
    moves (.qpush o) true ∧ moves (.qpop o) false ∧
    (fits (.qtry o) false → n = x.lanes.length → u.storesBefore x.r.c x.lanes x.uid u.fresh (queueTouched x u false o) = false →
      (good false = 0#64 → ∃ w, x.Writes u m w ∧ exec (.qtry o) s = .next (x.after ((x.raise w (fs false)).settle x.r))) ∧
      (good false ≠ 0#64 → ∃ (w t : State) (d : Cohort), x.Writes u m w ∧
        t = { w.modCohort x.r.c (fun _ => d) with
          issued := w.issued ++ [⟨x.uid, x.r.c, x.r.split, good false, setFlag x.h, .complete⟩] } ∧
        d = { x.c with pend := d.pend, flags := d.flags } ∧ x.Owed .v d ∧
        (∀ f, d.flagCount f = x.c.flagCount f + if setFlag x.h = some f then 1 else 0) ∧
        (∀ l v, gets false l v → ∀ k r, (regsOf o.d 2)[k]? = some r → d.newest r l = BitVec.ofNat 32 (v / 2 ^ (32 * k))) ∧
        (∀ l, (good false).getLsbD l = true → fld o.m 2 0 ≠ 7 →
          ((∃ v, gets false l v) → d.newest (.prd (fld o.m 2 0)) l = 1) ∧
            ((¬ ∃ v, gets false l v) → d.newest (.prd (fld o.m 2 0)) l = 0)) ∧
        (∀ r l, ¬ ((∃ v, gets false l v) ∧ r ∈ regsOf o.d 2) → ¬ ((good false).getLsbD l = true ∧ r = .prd (fld o.m 2 0)) →
          d.newest r l = x.c.newest r l) ∧
        exec (.qtry o) s = .next (x.after ((x.raise t (fs false)).settle x.r))))

/-! ### Copy queues and handles (R45-R49, R215-R225) -/

/-- R45-R49, R215-R223, R225, R235, R373. COPY, FILL, TCOPY, TCOPY.PEER and QFENCE issue once, with the registers of the lowest executing
lane: after their checks the operation enters its queue and its handle is pending, and no byte has moved. A failed check traps the
executing lanes, the source's before the destination's. One whose first bytes lie in pages that miss both TLBs waits for their walks first
and has not issued. The model's choices among this: the order of FILL's checks and its XADDR (log 31), the 0x02 of a mask after the checks
of the source, with XADDR 0 (log 32), which byte of a side is its first (log 33), that the region checks come before the permission and
look at the guest physical address (log 83), and the order of a receiver's causes (log 98). -/
def Obligations.CopiesIssue : Prop :=
  ∀ (y : OpX1) (z : OpX4) (o : OpA) (s : State) (x : Ctx) (u : State),
    let low := lowest x.ex
    let calm : Prop := ∀ a ∈ u.flight, a.c = x.r.c → a.hasLane low = true → a.isFixed = true
    let opOf (p : OpA) (q : Nat) (m : Moves) : CopyOp :=
      { id := u.fresh, b := x.r.c.b, c := x.r.c.cohort, core := x.c.core, queue := q, scope := fld p.m 3 2, route := fld p.m 7 4,
        moves := m, mode := x.sp.mode }
    -- the operation is in its queue and handle `h` follows it
    let queued (i : Instr) (pages : List DWord) (op : CopyOp) (h : Option Nat) : Prop :=
      ∃ t, x.Effect u.bump t .v x.ex [] .complete ∧
        let v := match h with
          | some h => t.modCohort x.r.c fun c => { c with handles := tput .empty h (.pending u.fresh) c.handles }
          | none => t
        exec i s = .next (x.walked pages (x.after (({ v with copies := v.copies ++ [op] } : State).settle x.r)))
    let traps (i : Instr) (pages : List DWord) (c a gpa : Nat) : Prop :=
      exec i s = .next (x.walked pages (x.after ((x.raiseAll u c (BitVec.ofNat 64 a) gpa).settle x.r)))
    let issues (i : Instr) (pages : List DWord) : Prop := Issues i s x u ∧ calm ∧ x.Mapped u pages
    let waits (i : Instr) (pages : List DWord) : Prop :=
      Issues i s x u → ¬ x.Mapped u pages → ∃ t, exec i s = .next t ∧ x.Suspends s t pages
    -- the first bytes of an operation's global sides
    let firsts (m : Option Moves) : List DWord := (m.map Moves.firsts).getD []
    -- no checkpoint is due first (R225)
    let free (force : Prop) : Prop := x.sp.forced = true ∨ x.g.ckpt = false ∨ ¬ force
    -- a run of scratchpad bytes reaches into the other core of a pair block
    let across (d n : Nat) : Prop := x.b.coreOf d ≠ x.c.core ∨ x.b.coreOf (d + n - 1) ≠ x.c.core
    let side (p : OpA) (fill glob isDst : Bool) (a : Nat) := sideFault x u glob (fld p.m 3 2 == 3) fill isDst a
    let number (n : Nat) (c : BitVec 8) : Nat := x.rdN n c low
    let count : Nat := if fld y.w0 47 40 = 0xF0 then fld y.w0 39 0 else number 2 (BitVec.ofNat 8 (fld y.w0 47 40))
    -- the checks of R221 on a side
    (∀ (sys fill isDst : Bool) (a : Nat),
      let tr := u.xlate x.c.core x.g x.sp.mode (if isDst then .wr else .rd) (BitVec.ofNat 64 a)
      let f := sideFault x u true sys fill isDst a
      let region (pa : Nat) (ws : Bool) : Option Nat :=
        if paRegion pa = 3 ∨ (paRegion pa = 2 ∨ paRegion pa = 4) ∧ sys = false then some 2
        else if isDst = true ∧ fill = true then (if ws = true then none else some 2)
        else if isDst = true ∧ paRegion pa = 1 then some 0x0A else none
      (2 ^ 51 ≤ a → f = some { cause := 2 }) ∧
      (a < 2 ^ 51 →
        -- the address that the first stage gives, then the physical address
        (∀ p, tr = .ok p → f = ((region p.gpa p.ws).or (region p.pa p.ws)).map fun c => { cause := c }) ∧
        (∀ e, tr = .error e →
          (e.leaf ≠ none → f = some (match region e.gpa (paRegion e.gpa == 1) with
            | some c => { cause := c }
            | none => e)) ∧
          (e.leaf = none → f = some e))) ∧
      (sideFault x u false sys fill isDst a = none ↔ inScratch x.g a 1 = true)) ∧
    -- COPY
    (let toGlob : Bool := decide (fld y.op.m 1 0 ≤ 1)
     let fromGlob : Bool := decide (fld y.op.m 1 0 % 2 = 0)
     let dst := number (if toGlob then 2 else 1) y.op.a
     let src := number (if fromGlob then 2 else 1) y.op.b
     let pages : List DWord := if count = 0 ∨ 2 ^ 40 ≤ count then [] else
       (if fromGlob then [BitVec.ofNat 64 src] else []) ++ if toGlob then [BitVec.ofNat 64 dst] else []
     waits (.copy y) pages ∧ (issues (.copy y) pages →
      (2 ^ 40 ≤ count → traps (.copy y) pages 5 0 0) ∧
      (count = 0 → free (toGlob = true) → ∃ v c, exec (.copy y) s = .next v ∧ v.cohort? x.r.c = some c ∧ v.copies = u.copies ∧ v.mem = u.mem ∧
        tget .empty c.handles (fld y.op.d 3 0) = .resolved 0 false 0 0) ∧
      (0 < count → count < 2 ^ 40 →
        (∀ f, side y.op false fromGlob false src = some f → traps (.copy y) pages f.cause src f.gpa) ∧
        (∀ f, side y.op false fromGlob false src = none → side y.op false toGlob true dst = some f →
          traps (.copy y) pages f.cause dst f.gpa) ∧
        (side y.op false fromGlob false src = none → side y.op false toGlob true dst = none →
          free (toGlob = true ∨ across dst count) → queued (.copy y) pages
            (opOf y.op (fld y.op.d 6 4) (.runs toGlob fromGlob false false [⟨dst, some src, count⟩])) (some (fld y.op.d 3 0)))))) ∧
    -- FILL
    (let dst := number 2 y.op.a
     let src := number 2 y.op.b
     let pages : List DWord := if src % 4096 ≠ 0 ∨ dst % 4096 ≠ 0 ∨ count = 0 ∨ 2 ^ 40 ≤ count then [] else
       [BitVec.ofNat 64 src, BitVec.ofNat 64 dst]
     waits (.fill y) pages ∧ (issues (.fill y) pages → 2 ^ 40 ≤ count → traps (.fill y) pages 5 0 0) ∧
     (issues (.fill y) pages → count < 2 ^ 40 →
      (src % 4096 ≠ 0 → traps (.fill y) pages 3 src 0) ∧
      (src % 4096 = 0 → count = 0 ∨ side y.op true true false src = none → dst % 4096 ≠ 0 → traps (.fill y) pages 3 dst 0) ∧
      (src % 4096 = 0 → dst % 4096 = 0 → 0 < count →
        (∀ f, side y.op true true false src = some f → traps (.fill y) pages f.cause src f.gpa) ∧
        (∀ f, side y.op true true false src = none → side y.op true true true dst = some f → traps (.fill y) pages f.cause dst f.gpa)) ∧
      (src % 4096 = 0 → dst % 4096 = 0 → side y.op true true false src = none → side y.op true true true dst = none →
        (count % 4096 ≠ 0 → traps (.fill y) pages 3 0 0) ∧
        (count % 4096 = 0 → 0 < count → free True →
          let gone (k : Nat) : Prop := ∃ i p, i < count / 128 ∧ p.pa / 128 = k ∧
            u.copyXlate x.c.core x.g x.sp.mode true true true (dst + 128 * i) = .ok p
          ∃ (t v : State) (c : Cohort), x.Effect u.bump t .v x.ex [] .complete ∧
            exec (.fill y) s = .next (x.walked pages (x.after (v.settle x.r))) ∧ v.mem = u.mem ∧
            v.cohort? x.r.c = some c ∧ tget .empty c.handles (fld y.op.d 3 0) = .pending u.fresh ∧
            v.copies = u.copies ++ [opOf y.op (fld y.op.d 6 4) (.runs true true true false [⟨dst, some src, count⟩])] ∧
            (∀ k, k ∈ v.filled ↔ k ∈ u.filled ∧ ¬ gone k) ∧
            (∀ k e, e ∈ (v.core k).l1 → ¬ gone e.line) ∧
            -- no visitor copy of them is left, and of a line of the weight store none at its home bank either
            (∀ q ∈ v.l2, ∀ e ∈ q.2, gone e.line → paDomain (128 * e.line) = q.1 / 16 ∧ paRegion (128 * e.line) ≠ 1))))) ∧
    -- TCOPY
    (∀ r, substituted x z.w0 z.w1 z.w2 z.w3 = some r →
      let store : Bool := z.op.d.getLsbD 7
      let off := number 1 z.op.a
      let org (k : Nat) : Nat := number 2 z.op.b / 65536 ^ k % 65536
      let bits := recordBits r.format
      let wellFormed : Prop := r.format ≤ 0x0E ∧ (0 < r.ext.1 ∧ 0 < r.ext.2.1 ∧ 0 < r.ext.2.2.1 ∧ 0 < r.ext.2.2.2) ∧
        (0 < r.box.1 ∧ 0 < r.box.2.1 ∧ 0 < r.box.2.2.1 ∧ 0 < r.box.2.2.2) ∧
        (bits = 4 → r.ext.1 % 2 = 0 ∧ r.box.1 % 2 = 0 ∧ org 0 % 2 = 0)
      -- byte `p` of row (i1, i2, i3) of the box, as its destination and source
      let pair (d : Nat) (src : Option Nat) : Prop := ∃ p i1 i2 i3, p < r.box.1 * bits / 8 ∧ i1 < r.box.2.1 ∧ i2 < r.box.2.2.1 ∧
        i3 < r.box.2.2.2 ∧
        let pad := off + r.box.1 * (i1 + r.box.2.1 * (i2 + r.box.2.2.1 * i3)) * bits / 8 + p
        let place := r.base + org 0 * bits / 8 + r.stride1 * (org 1 + i1) + r.stride2 * (org 2 + i2) +
          r.stride2 * r.ext.2.2.1 * (org 3 + i3) + p
        let inside : Prop := org 0 + p * 8 / bits < r.ext.1 ∧ org 1 + i1 < r.ext.2.1 ∧ org 2 + i2 < r.ext.2.2.1 ∧
          org 3 + i3 < r.ext.2.2.2
        if store = true then inside ∧ d = place ∧ src = some pad
        else d = pad ∧ (inside ∧ src = some place ∨ ¬ inside ∧ r.fill = true ∧ src = none)
      let pages := firsts (tcopySides x z.op z.w0 z.w1 z.w2 z.w3)
      waits (.tcopy z) pages ∧ (issues (.tcopy z) pages →
        (¬ wellFormed → traps (.tcopy z) pages 5 0 0) ∧
        (wellFormed → r.stride1 % 16 ≠ 0 ∨ r.stride2 % 16 ≠ 0 → traps (.tcopy z) pages 3 0 0) ∧
        (wellFormed → r.stride1 % 16 = 0 → r.stride2 % 16 = 0 → off % 16 ≠ 0 → store = true → traps (.tcopy z) pages 3 off 0) ∧
        (wellFormed → r.stride1 % 16 = 0 → r.stride2 % 16 = 0 → off % 16 = 0 → ∃ rs : List Run,
          (∀ d src, pair d src ↔ ∃ q ∈ rs, ∃ k, k < q.n ∧ d = q.dst + k ∧ src = q.src.map (· + k)) ∧
          (rs.Pairwise fun p q => p.dst ≤ q.dst) ∧
          ((∀ a, rs.findSome? (·.src) = some a → side z.op false (!store) false a = none) →
            (∀ q, rs.head? = some q → side z.op false store true q.dst = none) →
            free (store = true ∨ ∃ q ∈ rs, across q.dst q.n) →
            queued (.tcopy z) pages (opOf z.op (fld z.op.d 6 4) (.runs store (!store) false (r.format == 0x0E) rs))
              (some (fld z.op.d 3 0))) ∧
          (∀ a f, rs.findSome? (·.src) = some a → side z.op false (!store) false a = some f → traps (.tcopy z) pages f.cause a f.gpa)))) ∧
    (substituted x z.w0 z.w1 z.w2 z.w3 = none → issues (.tcopy z) [] → traps (.tcopy z) [] 5 0 0) ∧
    (substituted x z.w0 z.w1 z.w2 z.w3 = none → issues (.tcopyPeer z) [] → traps (.tcopyPeer z) [] 5 0 0) ∧
    -- the peer form
    (∀ r rect, substituted x z.w0 z.w1 z.w2 z.w3 = some r → u.chart.rects[x.c.core / 65536]? = some rect →
      let spad : Bool := z.op.d.getLsbD 7
      let off := number 2 z.op.a % 2 ^ 32
      let bar := number 2 z.op.a / 2 ^ 32
      let mask := number 2 z.op.b
      let rs := r.runs (0, 0, 0, 0) off false
      let row (j : Nat) : Nat := x.c.core / 256 % 256 / 8 * 8 + j / 8
      let col (j : Nat) : Nat := x.c.core % 256 / 8 * 8 + j % 8
      let named (j : Nat) : Prop := j < 64 ∧ mask.testBit j = true
      let here (b : Block) (name : Nat) : Prop := b ∈ u.blocks ∧ b.ref.grid = x.g.id ∧ (b.core = name ∨ b.core2 = some name) ∧
        b.st ≠ .saved ∧ b.st ≠ .restoring
      let pages := firsts (peerSides x z.op z.w0 z.w1 z.w2 z.w3)
      waits (.tcopyPeer z) pages ∧
      (issues (.tcopyPeer z) pages → r.legal 0 = false ∨ spad = true ∧ 2 ^ 19 ≤ r.base → traps (.tcopyPeer z) pages 5 0 0) ∧
      (issues (.tcopyPeer z) pages → r.legal 0 = true → (spad = true → r.base < 2 ^ 19) → r.stride1 % 16 = 0 → r.stride2 % 16 = 0 →
      (∀ a, rs.findSome? (·.src) = some a → side z.op false (!spad) false a = none) →
        ((∃ j, named j ∧ ¬ (row j < rect.rows ∧ col j < rect.cols)) → traps (.tcopyPeer z) pages 2 0 0) ∧
        ((∀ j, named j → row j < rect.rows ∧ col j < rect.cols) → ∃ ds : List Dest,
          (free (∃ d ∈ ds, d.name ≠ x.c.core ∨ ∃ r b, d.block = some r ∧ u.block? r = some b ∧ ∃ q ∈ rs,
              b.coreOf q.dst ≠ x.c.core ∨ b.coreOf (q.dst + q.n - 1) ≠ x.c.core) →
            queued (.tcopyPeer z) pages
              { opOf z.op (fld z.op.d 6 4) (.peer (!spad) (r.format == 0x0E) rs bar ds) with
                box := r.box.1 * r.box.2.1 * r.box.2.2.1 * r.box.2.2.2 * recordBits r.format / 8 } (some (fld z.op.d 3 0))) ∧
          (ds.Pairwise fun p q => p.bit < q.bit) ∧ (∀ j, named j ↔ ∃ d ∈ ds, d.bit = j) ∧
          ∀ d ∈ ds, d.done = 0 ∧ d.trip = none ∧ d.name = x.c.core / 65536 * 65536 + row d.bit * 256 + col d.bit ∧
            (d.block = none ↔ ∀ b, ¬ here b d.name) ∧
            (∀ b, d.block = some b → (∃ k, here k d.name ∧ k.ref = b) ∧ ∀ k, here k d.name → b.block ≤ k.ref.block) ∧
            (d.code = some 2 ↔ d.block = none ∨ inScratch x.g bar 8 = false) ∧
            (d.code = some 3 ↔ d.block ≠ none ∧ inScratch x.g bar 8 = true ∧ (bar % 8 ≠ 0 ∨ off % 16 ≠ 0)) ∧
            (d.code = none ↔ d.block ≠ none ∧ inScratch x.g bar 8 = true ∧ bar % 8 = 0 ∧ off % 16 = 0)))) ∧
    -- QFENCE
    (Issues (.qfence o) s x u → x.sp.forced = false →
      queued (.qfence o) [] { opOf { o with m := 0 } 8 (.fence o.m.toNat) with scope := 0, route := 0 }
        (if o.d.getLsbD 4 = true then some (fld o.d 3 0) else none))

/-- R215, R219, R221, R223, R224, R235, R240, R247, R249, R252, R254. An operation whose turn it is delivers its bytes in order: each to its
destination, counted by %wptr and in the handle; it resolves with its last byte, or at the first that fails, and a QFENCE when what it
names has gone. A FILL lands a line at a time. A byte of the source in near DRAM or the weight store comes by a fetch of its line, which
the bank serves, or, poisoned or unfilled, marks as failed; a line that waits does not hold the fetch of the next back. A byte of the source
that the copy itself has overwritten may be read as it was before (R221), which is open. A byte for such memory waits until the home bank
gives the copy its line. A packet of a peer copy goes on its way to the receiver, where its bytes land and each takes one from the
receiver's barrier object. -/
def Obligations.CopiesDeliverAndResolve : Prop :=
  ∀ (s : State) (before : List CopyOp) (op : CopyOp) (g : Grid) (b : Block),
    Begins s before op → s.grid? op.b.grid = some g → s.block? op.b = some b → Memory.wf s.mem = true →
    tableOk 0 b.scratch = true → tableOk 0 b.wptr = true → s.NoneHeld (fun k => (∃ q, k = .barb q) ∨ ∃ c q, k = .waitm c q) →
    (∀ y ∈ s.blocks, ∀ c ∈ y.cohorts, tableOk .empty c.handles = true) → tableOk none op.olds = true → tableOk none op.ahead = true →
    tableOk 0 op.bad = true →
    let sys := op.scope == 3
    -- a global address of the copy, and the physical address behind it
    let place (q : State) (fill isDst : Bool) (a pa : Nat) : Prop := q.copyMiss op g isDst a = false ∧
      ∃ p, q.copyXlate op.core g op.mode sys fill isDst a (op.page isDst) = .ok p ∧ p.pa = pa
    -- the copy has begun the page of an address (R360)
    let begun (isDst : Bool) (a : Nat) : Prop := op.mode = .hypervisor ∨ ∃ e, op.page isDst = some e ∧ e.maps a = true
    -- the copy has not overwritten the byte `v` at a place of its source
    let still (place : Nat) (v : Byte) : Prop := tget none op.olds place = none ∨ tget none op.olds place = some v
    -- source byte `k`, at `src`, is at hand: it has come by a fetch, it lies in the scratchpad, or no source stands behind it
    let atHand (fromGlob : Bool) (k : Nat) (src : Option Nat) (v : Byte) : Prop :=
      tget none op.ahead k = some v ∨ tget none op.ahead k = none ∧ tget 0 op.bad k = 0 ∧
        ((∃ a, src = some a ∧ fromGlob = false ∧ inScratch g a 1 = true ∧ v = tget 0 b.scratch a ∧ still a v) ∨ src = none ∧ v = 0)
    -- source byte `k` is still to be fetched, from `pa`
    let missing (q : State) (k : Nat) (src : Option Nat) (pa : Nat) : Prop := tget none op.ahead k = none ∧ tget 0 op.bad k = 0 ∧
      ∃ a, src = some a ∧ place q false false a pa ∧ paRegion pa ≤ 1
    -- a fetch that brings it is under way
    let asked (t : State) (k : Nat) : Prop := ∃ f ∈ t.flight, f.op = .fetch op.id ∧ f.lane ≤ k ∧ k < f.lane + f.size
    -- the home bank has given the copy the line of a destination
    let dest (q : State) (fill : Bool) (a pa : Nat) : Prop := place q fill true a pa ∧ paRegion pa ≤ 1 ∧ q.claimed op.id pa = true
    -- neither side of a byte lies in the far tier, whose blocks move as a whole (R251)
    let near (q : State) (toGlob fromGlob fill : Bool) (d : Nat) (src : Option Nat) : Prop :=
      (toGlob = true → ∀ p, q.copyXlate op.core g op.mode sys fill true d (op.page true) = .ok p → paRegion p.pa ≠ 2) ∧
      (fromGlob = true → ∀ a p, src = some a → q.copyXlate op.core g op.mode sys false false a (op.page false) = .ok p → paRegion p.pa ≠ 2)
    -- no byte of memory changes, but where the image of a block that is saved, or being saved or checkpointed, follows it (R342)
    let awake : Prop := ∀ y ∈ s.blocks, y.st ≠ .saved ∧ y.st ≠ .restoring ∧ y.captured = false
    let same (t : State) : Prop := awake → t.mem = s.mem
    let counted (t : State) (n : Nat) : Prop := ∃ b', t.block? op.b = some b' ∧
      ∀ q, tget 0 b'.wptr q = tget 0 b.wptr q + if q = op.queue then n else 0
    -- what stands in the queue after `n` more bytes, or the resolved handle
    let goes (t : State) (total n : Nat) (kept : Option (Nat × Byte)) : Prop :=
      (op.done + n < total → ∃ f : CopyOp → CopyOp, (t.copies = s.copies.map fun o => if o.id = op.id then f o else o) ∧
        f op = { op with done := op.done + n, olds := (f op).olds, ahead := (f op).ahead, pages := (f op).pages } ∧
        (∀ k, tget none (f op).ahead k = if op.done ≤ k ∧ k < op.done + n then none else tget none op.ahead k) ∧
        ∀ p, tget none (f op).olds p = (tget none op.olds p).or (match kept with
            | some (q, w) => if p = q then some w else none
            | none => none)) ∧
      (op.done + n = total → Resolves s t op 0 false total 0)
    -- nothing is delivered
    let stays (t : State) : Prop := (awake → t.mem = s.mem ∧ t.blocks = s.blocks) ∧
      ∃ f : CopyOp → CopyOp, (t.copies = s.copies.map fun o => if o.id = op.id then f o else o) ∧ f op = { op with pages := (f op).pages }
    -- source byte `k` is read ahead, and nothing else is changed
    let readsOnly (units k : Nat) (v : Byte) : Prop := ∃ (t : State) (f : CopyOp → CopyOp),
      exec (.copyResolve op.id 0 units) s = .next t ∧ (awake → t.mem = s.mem ∧ t.blocks = s.blocks ∧ t.flight = s.flight) ∧
      (t.copies = s.copies.map fun o => if o.id = op.id then f o else o) ∧
      f op = { op with ahead := (f op).ahead, pages := (f op).pages } ∧
      ∀ j, tget none (f op).ahead j = if j = k then some v else tget none op.ahead j
    (∀ mask n m, op.moves = .fence mask → ∃ t, exec (.copyResolve op.id n m) s = .next t ∧ same t ∧ Resolves s t op 0 false 0 0) ∧
    (∀ toGlob fromGlob rs d src k, op.moves = .runs toGlob fromGlob false false rs →
      byteAt rs op.done = some (d, src, k) → op.done < runsTotal rs → near s toGlob fromGlob false d src →
      (∀ v, atHand fromGlob op.done src v →
        (toGlob = false → inScratch g d 1 = true →
          ∃ t b', exec (.copyResolve op.id 1 0) s = .next t ∧ same t ∧ t.block? op.b = some b' ∧
            (∀ p, tget 0 b'.scratch p = if p = d then v else tget 0 b.scratch p) ∧ counted t 1 ∧
            goes t (runsTotal rs) 1 (if fromGlob = true then none else some (d, tget 0 b.scratch d))) ∧
        (∀ pa, toGlob = true → dest s false d pa →
          ∃ t, exec (.copyResolve op.id 1 0) s = .next t ∧ (awake → (∀ p, t.readMem p = if p = pa then v else s.readMem p) ∧ t.leases = s.leases) ∧ counted t 1 ∧
            goes t (runsTotal rs) 1 (if fromGlob = true then some (pa, (s.seen b pa 1).1.headD 0) else none)) ∧
        -- the home bank has not given the line: it is asked for it (R240)
        (∀ pa, toGlob = true → place s false true d pa → paRegion pa ≤ 1 → s.claimed op.id pa = false →
          ∃ t, exec (.copyResolve op.id 1 0) s = .next t ∧ stays t ∧ ∃ f ∈ t.flight, f.op = .claim op.id ∧ f.pa / 128 = pa / 128)) ∧
      -- a source byte that is not there yet is fetched, and one whose fetch has failed ends the copy
      (∀ pa, fromGlob = true → missing s op.done src pa → ∃ t, exec (.copyResolve op.id 1 0) s = .next t ∧ stays t ∧ asked t op.done) ∧
      (∀ a, src = some a → tget none op.ahead op.done = none → tget 0 op.bad op.done ≠ 0 →
        ∃ t, exec (.copyResolve op.id 1 0) s = .next t ∧ same t ∧
          Resolves s t op (tget 0 op.bad op.done) false op.done (BitVec.ofNat 64 a)) ∧
      (∀ a f, tget none op.ahead op.done = none → tget 0 op.bad op.done = 0 → src = some a → fromGlob = true →
        s.copyMiss op g false a = false → s.copyXlate op.core g op.mode sys false false a (op.page false) = .error f →
        ∃ t, exec (.copyResolve op.id 1 0) s = .next t ∧ same t ∧
          Resolves s t op f.cause false op.done (BitVec.ofNat 64 a)) ∧
      (∀ v f, atHand fromGlob op.done src v → toGlob = true → s.copyMiss op g true d = false →
        s.copyXlate op.core g op.mode sys false true d (op.page true) = .error f →
        ∃ t, exec (.copyResolve op.id 1 0) s = .next t ∧ same t ∧
          Resolves s t op f.cause false op.done (BitVec.ofNat 64 d))) ∧
    -- a byte is read before its turn, or its fetch sets out, and a line that waits does not hold the next back
    (∀ fromGlob rs d src k n v,
      ((∃ toGlob fill, op.moves = .runs toGlob fromGlob fill false rs) ∨ ∃ bar ds, op.moves = .peer fromGlob false rs bar ds) →
      (∀ i, i < n → tget none op.ahead (op.done + i) ≠ none) → tget none op.ahead (op.done + n) = none →
      byteAt rs (op.done + n) = some (d, src, k) → op.done + n < runsTotal rs →
      (atHand fromGlob (op.done + n) src v → readsOnly (n + 1) (op.done + n) v) ∧
      (∀ pa, fromGlob = true → missing s (op.done + n) src pa →
        ∃ t, exec (.copyResolve op.id 0 (n + 1)) s = .next t ∧ stays t ∧ asked t (op.done + n)) ∧
      (∀ a pa pa' d' src' k', n = 0 → src = some a → fromGlob = true → missing s op.done src pa → begun false a →
        let m := op.done + 128 - a % 128
        byteAt rs m = some (d', src', k') → missing s m src' pa' → (∀ q, src' = some q → begun false q) →
          ∃ t, exec (.copyResolve op.id 0 2) s = .next t ∧ stays t ∧ asked t op.done ∧ asked t m)) ∧
    -- the bank serves a fetch, up to a byte that is poisoned or unfilled; what it brings comes to the copy
    (∀ (a : Access) (n : Nat) (w : Nat → Byte), s.access? a.id = some a → a.op = .fetch op.id → a.scratch = false →
      s.sends a = false → s.moves a = false → s.crowded a = false → s.canServe a = true → n ≤ a.size →
      (∀ k, k < n → s.seen b (a.pa + k) 1 = ([w k], false)) → (n < a.size → (s.seen b (a.pa + n) 1).2 = true) →
      let src := bankRouter (s.bankNumber (paDomain a.pa) a.pa)
      ∃ t, exec (.packetService a.id) s = .next t ∧ t.mem = s.mem ∧ t.copies = s.copies ∧
        t.access? a.id = some { a with
          stage := .fixed ((List.range n).map w) (decide (n < a.size))
          trip := some { plane := 1, ts := s.ticks % 2 ^ 24, tick := s.ticks, src := src, seq := s.fresh
                         way := s.chart.way 1 0 src (s.coreRouter a.core) } }) ∧
    (∀ (a : Access) (bytes : List Byte) (failed : Bool) (v : Trip), s.access? a.id = some a → a.op = .fetch op.id →
      a.stage = .fixed bytes failed → a.trip = some v → v.way.length ≤ 1 →
      (∀ k x, bytes[k]? = some x → still (a.pa + k) x) →
      ∃ (t : State) (f : CopyOp → CopyOp), exec (.packetService a.id) s = .next t ∧ t.mem = s.mem ∧ t.blocks = s.blocks ∧
        (∀ e, e ∈ t.flight ↔ e ∈ s.flight ∧ e.id ≠ a.id) ∧
        (t.copies = s.copies.map fun o => if o.id = op.id then f o else o) ∧
        f op = { op with ahead := (f op).ahead, bad := (f op).bad } ∧
        (∀ j, tget none (f op).ahead j = (tget none op.ahead j).or
          (if a.lane ≤ j ∧ op.done ≤ j then bytes[j - a.lane]? else none)) ∧
        ∀ j, tget 0 (f op).bad j = if failed = true ∧ j = a.lane + bytes.length then 7 else tget 0 op.bad j) ∧
    -- the home bank gives the copy a line, once its leases and visitor copies are resolved (R240, R242)
    (∀ (a : Access) (since : Nat) (home : BankWait), s.access? a.id = some a → a.op = .claim op.id → a.scratch = false → a.draft = false →
      a.stage = .waiting since home [] → home.resolved s.ticks = true →
      ∃ t, exec (.writePerform a.id) s = .next t ∧ t.claimed op.id a.pa = true ∧
        t = { s with flight := t.flight, directory := tput [] (a.pa / 128) [] s.directory }) ∧
    (∀ rs (w : Nat → Byte) pa, op.moves = .runs true true true false rs → op.done % 128 = 0 →
      op.done + 128 ≤ runsTotal rs → pa % 128 = 0 →
      (∀ k, k < 128 → tget none op.ahead (op.done + k) = some (w k)) →
      -- whatever stands in the line itself
      (∀ ms k, (∀ p, p < pa ∨ pa + 128 ≤ p → tget memDefault ms p = s.readMem p) → k < 128 →
        ∃ d src j, byteAt rs (op.done + k) = some (d, some src, j) ∧ begun true d ∧ begun false src ∧
          near { s with mem := ms } true true true d (some src) ∧ dest { s with mem := ms } true d (pa + k)) →
      ∃ t, exec (.fillLineLanded op.id) s = .next t ∧
        (awake → ∀ p, t.readMem p = if pa ≤ p ∧ p < pa + 128 then w (p - pa) else s.readMem p) ∧
        (∀ l, l ∈ t.filled ↔ l = pa / 128 ∨ l ∈ s.filled) ∧ counted t 128 ∧ goes t (runsTotal rs) 128 none) ∧
    -- a packet of a peer copy sets out on the copy's route, goes on to its next router, and is delivered
    (∀ fromGlob rs bar ds (dst : Dest) rb (blk : Block) src d k v,
      op.moves = .peer fromGlob false rs bar ds → dst ∈ ds → dst.block = some rb → dst.code = none → dst.done < runsTotal rs →
      (ds.map (·.bit)).Nodup → s.block? rb = some blk → byteAt rs dst.done = some (d, src, k) →
      let moved (f : Option Trip → Option Trip) (t : State) : Prop := (awake → t.mem = s.mem ∧ t.blocks = s.blocks) ∧
        ∃ o ∈ t.copies, o.id = op.id ∧ o.done = op.done ∧
          o.moves = .peer fromGlob false rs bar (ds.map fun e => if e.bit = dst.bit then { e with trip := f e.trip } else e)
      (dst.trip = none → near s false fromGlob false d src → atHand fromGlob dst.done src v →
        ∃ t, exec (.peerDelivery op.id dst.bit) s = .next t ∧ moved (fun _ => some
          { plane := 0, ts := s.ticks % 2 ^ 24, tick := s.ticks, src := s.coreRouter op.core, seq := s.fresh
            way := s.chart.way 0 (if op.route = 0 then 0 else tget 0 (s.core op.core).routes op.route) (s.coreRouter op.core)
              (s.coreRouter dst.name) }) t) ∧
      (∀ q, dst.trip = some q → 1 < q.way.length →
        (s.portServes q = true → ∃ t, exec (.peerDelivery op.id dst.bit) s = .next t ∧
          moved (fun o => o.map fun q => { q with way := q.way.drop 1 }) t) ∧
        (s.portServes q = false → ∃ t, exec (.peerDelivery op.id dst.bit) s = .next t ∧ same t ∧ t.copies = s.copies))) ∧
    (∀ fromGlob rs bar ds (dst : Dest) (q : Trip) rb (blk : Block) (bytes : List (Nat × Byte)) (m : Nat → Byte),
      op.moves = .peer fromGlob false rs bar ds → dst ∈ ds → dst.block = some rb → dst.code = none → dst.done < runsTotal rs →
      dst.trip = some q → q.way.length ≤ 1 →
      (ds.map (·.bit)).Nodup → s.block? rb = some blk → tableOk 0 blk.scratch = true → (rb ≠ op.b ∨ fromGlob = true) →
      bytes.length = min 512 (runsTotal rs - dst.done) → blk.log.length + bytes.length < 512 →
      (∀ k q, bytes[k]? = some q → ∃ src j, byteAt rs (dst.done + k) = some (q.1, src, j) ∧ inScratch g q.1 1 = true ∧
        near s false fromGlob false q.1 src ∧ atHand fromGlob (dst.done + k) src q.2) →
      Runs (fun m q m' => BarbNext false (withNumber m q.1 1 q.2.toNat) (bar, -1) m') (fun p => tget 0 blk.scratch p) bytes m →
      ∃ t blk', exec (.peerDelivery op.id dst.bit) s = .next t ∧ (g.ckpt = false ∨ rb = op.b → same t) ∧ t.block? rb = some blk' ∧
        (∀ p, tget 0 blk'.scratch p = m p) ∧
        ((∃ e ∈ ds, e.bit ≠ dst.bit ∧ e.code = none ∧ e.done < runsTotal rs) → ∃ o ∈ t.copies, o.id = op.id ∧
          o.moves = .peer fromGlob false rs bar
            (ds.map fun e => if e.bit = dst.bit then { e with done := e.done + bytes.length, trip := none } else e)) ∧
        ((∀ e ∈ ds, e.bit ≠ dst.bit → e.code = none ∧ e.done = runsTotal rs) → dst.done + bytes.length = runsTotal rs →
          Resolves s t op 0 false op.box 0))

/-- R215, R222. HTEST, HCANCEL and HMOV: an empty or resolved handle reads at once, a pending one holds its reader at the instruction
until it resolves; a cancelled copy leaves its queue with its count, and HMOV.H moves the handle's state. -/
def Obligations.HandleInstructions : Prop :=
  ∀ (o : OpA) (s : State) (x : Ctx) (u : State),
    let n := fld o.a 3 0
    let h := tget .empty x.c.handles n
    let pending : Prop := ∃ op, h = .pending op
    (Issues (.htest o) s x u → ∃ f : Nat → Bool, (∀ l, f l = true ↔ ¬ pending) ∧
      Gives (.htest o) s x u .v (outP (fld o.d 2 0) f)) ∧
    (Issues (.hcancel o) s x u →
      (¬ pending → Gives (.hcancel o) s x u .v []) ∧
      (∀ op, h = .pending op.id → op ∈ u.copies → (u.copies.map (·.id)).Nodup → (∀ mask, op.moves ≠ .fence mask) →
        op.b = x.r.c.b → (∀ y ∈ u.blocks, ∀ c ∈ y.cohorts, tableOk .empty c.handles = true) →
        ∃ t v, x.Effect u t .v x.ex [] .complete ∧ exec (.hcancel o) s = .next (v.settle x.r) ∧ v.mem = u.mem ∧
          Resolves t v op 0 true op.done 0)) ∧
    (Issues (.hmovH o) s x u →
      let m := fld o.d 3 0
      (m = n → Gives (.hmovH o) s x u .v []) ∧
      (m ≠ n → tableOk .empty x.c.handles = true → ∃ t f, x.Effect u t .v x.ex [] .complete ∧
        exec (.hmovH o) s = .next ((t.modCohort x.r.c f).settle x.r) ∧ (∀ c, f c = { c with handles := (f c).handles }) ∧
        ∀ c, c.handles = x.c.handles → ∀ k, tget .empty (f c).handles k =
          if k = n then .empty else if k = m then h else tget .empty x.c.handles k)) ∧
    (let status : Handle → Nat
       | .resolved c k _ _ => c % 256 + if k then 256 else 0
       | _ => 0x200
     let count : Handle → Nat
       | .resolved _ _ c _ => c
       | _ => 0
     let address : Handle → Nat
       | .resolved _ _ _ a => a.toNat
       | _ => 0
     let reads (i : Instr) (k : Nat) (v : Handle → Nat) : Prop :=
       (Issues i s x u → ¬ pending → Gives i s x u .v (outs o.d k fun _ => v h)) ∧
       (Issues i s x u → pending → ∃ t vals, x.Effect u t .v x.ex (outs o.d k vals) .event ∧
         exec i s = .next ((t.modSplit x.r fun p => { p with hold := some ⟨.handle n, x.uid, x.ex, u.cycle⟩, pc := x.sp.pc }).settle x.r)) ∧
       (∀ r rest c sp hd j, s.selected = r :: rest → s.cohort? r.c = some c → s.split? r = some sp → sp.hold = some hd →
         hd.kind = .handle j → (∀ op, tget .empty c.handles j ≠ .pending op) →
         ∃ f, exec i s = .next (((({ s with selected := rest } : State).modCohort r.c f).finishIssue hd.uid).release r 8) ∧
           Fills c (f c) hd.uid (regsOf o.d k) fun _ => v (tget .empty c.handles j))
     reads (.hmovS o) 1 status ∧ reads (.hmovC o) 2 count ∧ reads (.hmovA o) 2 address)

/-! ### Teams, the matrix arrays and accumulators (R282-R296, R314-R317) -/

/-- R284, R285, R287-R291, R314, R320. QBIND binds the cohort's quadrant, QFREE leaves the team, and an MMA or MMAS puts its fragments in
the cohort's latch entry and holds its split there; the fourth member assembles the team instruction, and members that differ end
the grid. While the entry is full another matrix instruction of the cohort is held. -/
def Obligations.MatrixInstructionsIssue : Prop :=
  ∀ (o : OpA) (s : State) (x : Ctx) (u : State),
    let cr := x.r.c
    let team (k : Nat) : Team := tget {} x.b.teams k
    -- mode and latch, for every matrix instruction; `ok` is what else R50 asks of it
    let issues (i : Instr) (ok : Prop) (p : Prop) : Prop :=
      Issues i s x u →
        (x.sp.mode ≠ .user ∨ ¬ ok → exec i s = .next ((x.raiseAll u 0x05).settle x.r)) ∧
        (x.sp.mode = .user → ok → x.c.latch.isSome = true → exec i s = .next (({ s with selected := s.selected.tail } : State).modSplit x.r
          fun p => { p with hold := some ⟨.latchFull, 0, x.ex, s.cycle⟩ })) ∧
        (x.sp.mode = .user → ok → x.c.latch = none → p)
    let n := fld o.m 3 0
    let bound (t : State) : State := t.modCohort cr fun c => { c with team := some n }
    let members := tput 0 x.c.quad x.c.id (team n).members
    let begun : Prop := ∃ q ∈ u.begun, q.b = cr.b ∧ ∃ m ∈ q.members, m.2.1 = cr.cohort
    issues (.qbind o)
      (x.c.team = none ∧ tget 0 (team n).members x.c.quad = 0 ∧ ((team n).members = [] ∨ (team n).core = x.c.core))
      (∃ t, x.Effect u t .v x.ex [] .event ∧
        let joined (binding : List Nat) : State :=
          let m : Team := { team n with members := members, core := x.c.core, binding := binding }
          (bound t).modBlock cr.b fun b => { b with teams := tput {} n m b.teams }
        let all := (team n).binding ++ [x.uid]
        (members.length ≠ 4 → exec (.qbind o) s = .next ((joined all).settle x.r)) ∧
        (members.length = 4 → exec (.qbind o) s = .next ((all.foldl State.finishIssue (joined [])).settle x.r))) ∧
    issues (.qfree o) True
      ((x.c.team = none → x.c.freeing = none → Gives (.qfree o) s x u .v []) ∧
       (x.c.team.isSome = true → x.c.freeing = none → begun → ∃ t, x.Effect u t .v x.ex [] .event ∧
         exec (.qfree o) s = .next ((t.modCohort cr fun c => { c with freeing := some x.uid }).settle x.r)) ∧
       (∀ k, x.c.team = some k → x.c.freeing = none → ¬ begun → ∃ t, x.Effect u t .v x.ex [] .complete ∧
         let ms := tput 0 x.c.quad 0 (team k).members
         let rest : Team := if ms = [] then {} else { team k with members := ms, assembled := none }
         let left := t.modBlock cr.b fun b => { b with teams := tput {} k rest b.teams }
         -- the last member leaves no holder behind, and ends the QBINDs that waited for a whole team (the model's choice, log 77)
         let ended := if ms = [] then (team k).binding.foldl State.finishIssue (left.modCore (team k).core fun c =>
           if c.arb.holder = some (cr.b, k) then { c with arb := { c.arb with holder := none } } else c) else left
         exec (.qfree o) s = .next ((ended.modCohort cr fun c => { c with team := none, freeing := none }).settle x.r))) ∧
    (let tile := fld o.d 4 0
     let record := x.rdN 2 o.m (lowest x.ex)
     let mma (i : Instr) (op ra rb : Nat) (sparse : Bool) : Prop :=
       let off := if record / 2 ^ 32 = 1 then record % 2 ^ 32 + 256 * x.c.quad else record % 2 ^ 32
       let z : Bool := !sparse && o.m.getLsbD 0
       -- a reformed cohort owns no tile (R282: the model's choice, log 71)
      issues i (x.c.team.isSome = true ∧ x.c.reformed = false ∧ tile < x.g.acc ∧ (sparse = true → record / 2 ^ 32 ≤ 1))
        (x.c.freeing = none → x.AllDone u → x.c.orders = [] →
          (sparse = true → off % 16 ≠ 0 → exec i s = .next ((x.raiseAll u 0x03 (BitVec.ofNat 64 off)).settle x.r)) ∧
          (sparse = true → off % 16 = 0 → inScratch x.g off 256 = false →
            exec i s = .next ((x.raiseAll u 0x02 (BitVec.ofNat 64 off)).settle x.r)) ∧
          (∀ k, x.c.team = some k → (sparse = true → off % 16 = 0 ∧ inScratch x.g off 256 = true) →
            ∃ (t : State) (e : Latch), x.Effect u t .v x.ex [] .event ∧
              (e.op = op ∧ e.z = z ∧ e.tile = tile ∧ e.exec = x.ex ∧ e.split = x.r.split ∧ e.uid = x.uid) ∧
              (∀ r l, l < 64 → tget 0 e.a (64 * r + l) =
                if r < ra ∧ l < 32 ∧ x.ex.getLsbD l = true then x.c.vreg (o.a.toNat + r) l else 0) ∧
              (∀ r l, l < 64 → tget 0 e.b (64 * r + l) =
                if r < rb ∧ l < 32 ∧ x.ex.getLsbD l = true then x.c.vreg (o.b.toNat + r) l else 0) ∧
              (sparse = true → ∀ r, r < 16 → e.rows[r]? = some (numberAt (fun p => tget 0 x.b.scratch p) (off + 16 * r) 16)) ∧
              let held := (t.modSplit x.r fun p => { p with hold := some ⟨.latch, x.uid, x.ex, u.cycle⟩, pc := x.sp.pc }).modCohort cr
                fun c => { c with latch := some e }
              -- the other members, and whether they have issued
              let full (m : Nat × Nat) (l : Latch) : Prop := m.2 ≠ x.c.id ∧ ∃ c, u.cohort? ⟨cr.b, m.2⟩ = some c ∧ c.latch = some l
              ((team k).members.length ≤ 3 ∨ (team k).members.length = 4 ∧
                  (∃ m ∈ (team k).members, m.2 ≠ x.c.id ∧ ∀ c, u.cohort? ⟨cr.b, m.2⟩ = some c → c.latch = none) →
                exec i s = .next (held.settle x.r)) ∧
              ((team k).members.length = 4 → (∃ m ∈ (team k).members, m.2 = x.c.id) →
                (∀ m ∈ (team k).members, m.2 ≠ x.c.id → ∃ l, full m l ∧ l.op = op ∧ l.z = z) →
                let m : Team := { team k with assembled := some u.cycle }
                exec i s = .next ((held.modBlock cr.b fun b => { b with teams := tput {} k m b.teams }).settle x.r)) ∧
              ((team k).members.length = 4 → (∃ m ∈ (team k).members, m.2 = x.c.id) →
                (∀ m ∈ (team k).members, m.2 ≠ x.c.id → ∃ l, full m l) →
                (∃ m ∈ (team k).members, ∃ l, full m l ∧ (l.op ≠ op ∨ l.z ≠ z)) → x.g.endedBy = none → x.g.st ≠ .retired →
                -- the ending takes effect with the cycle (R361)
                x.g.st ≠ .closing → ∃ v g, exec i s = .next v ∧ v.grid? x.r.c.b.grid = some g ∧ ∃ e ∈ g.endings, e.status = 0x05)))
     mma (.mmaBf16 o) 0 4 2 false ∧ mma (.mmaF16 o) 1 4 2 false ∧ mma (.mmaE4m3 o) 2 4 2 false ∧ mma (.mmaE5m2 o) 3 4 2 false ∧
     mma (.mmaE3m2 o) 4 4 2 false ∧ mma (.mmaE2m3 o) 5 4 2 false ∧ mma (.mmaE2m1 o) 6 4 2 false ∧ mma (.mmaE4m3Qn4 o) 7 8 2 false ∧
     mma (.mmaE2m1Qn4 o) 8 4 2 false ∧ mma (.mmasBf16 o) 9 4 4 true ∧ mma (.mmasF16 o) 10 4 4 true ∧ mma (.mmasE4m3 o) 11 4 4 true ∧
     mma (.mmasE5m2 o) 12 4 4 true ∧ mma (.mmasE2m1 o) 13 4 4 true)

/-- R153, R288-R292, R315, R317. A team instruction begins when its team holds the pass, or takes it where no team does, and retires
after its cycles: every element of the four tiles is then the exact sum of its old value and the products at which both elements are
present, rounded once. The pass leaves an idle holder for the team that has waited longest. -/
def Obligations.TeamInstructionsRun : Prop :=
  (∀ (s : State) (core n : Nat) (br : BRef) (b : Block) (g : Grid) (at_ : Nat) (ms : List (Nat × Nat × Latch)),
    let a := (s.core core).arb
    let cycles := (if ms.any fun m => m.1 == 0 && m.2.2.op == 7 then 32 else 16) *
      (if [0, 1, 2, 3].any fun q => decide (3 ≤ tget 0 (s.core core).columns q) then 2 else 1)
    let waits (h : BRef × Nat) : Prop := ∃ y ∈ s.blocks, y.ref = h.1 ∧ ∃ q ∈ y.teams, q.1 = h.2 ∧ q.2.core = core ∧ q.2.assembled.isSome = true
    s.block? br = some b → b.st = .resident → s.grid? br.grid = some g → g.st = .running → tableOk {} b.teams = true →
    (s.blocks.map (·.ref)).Nodup → (b.cohorts.map (·.id)).Nodup → tableOk {} s.cores = true →
    let t := tget {} b.teams n
    t.core = core → t.assembled = some at_ → t.members = [0, 1, 2, 3].map (fun q => (q, (ms.map (·.2.1)).getD q 0)) →
    (ms.map (·.1)) = [0, 1, 2, 3] → (∀ m ∈ ms, ∃ c, s.cohort? ⟨br, m.2.1⟩ = some c ∧ c.latch = some m.2.2) →
    (∀ q, q < 4 → s.grade core q ≠ 255) → (a.lastCost = 0 ∨ a.lastBegin + a.lastCost ≤ s.cycle) →
    (a.holder = some (br, n) ∧ (a.tenure < 256 ∨ ∀ h, waits h → h = (br, n)) ∧
        (a.handed = true → a.lastRetire + 4 ≤ s.cycle ∧ ∀ q ∈ s.begun, q.core ≠ core) ∨
      a.holder = none ∧ (∀ h, waits h → h = (br, n)) ∧
        (a.lastCost = 0 ∨ a.lastRetire + 4 ≤ s.cycle ∧ ∀ q ∈ s.begun, q.core ≠ core)) →
    ∃ v, exec (.teamInstructionBegin core) s = .next v ∧ v.mem = s.mem ∧
      v.begun = s.begun ++ [⟨core, br, n, s.cycle + cycles, ms⟩] ∧
      (v.core core).arb = { a with
        holder := some (br, n), tenure := (if a.holder = none then 0 else a.tenure) + 1, lastBegin := s.cycle, lastCost := cycles
        handed := false } ∧
      (∃ b', v.block? br = some b' ∧ tget {} b'.teams n = { t with assembled := none, count := t.count + 1 }) ∧
      ∀ m ∈ ms, ∃ c, v.cohort? ⟨br, m.2.1⟩ = some c ∧ c.latch = none ∧
        ∀ p ∈ c.splits, p.id = m.2.2.split → ∀ h, p.hold = some h → h.kind ≠ .latch) ∧
  (∀ (s : State) (q : Begun) (before : List Begun) (f : MmaForm),
    (∃ rest, s.begun = before ++ q :: rest) → (∀ y ∈ before, y.core = q.core → s.cycle < y.due) → q.due ≤ s.cycle →
    (q.members.map (·.1)) = [0, 1, 2, 3] → (q.members.map (·.2.1)).Nodup → (∀ m ∈ q.members, mmaForm m.2.2.op = f) →
    let ka := if f.sparse then f.k / 2 else f.k
    let code (regs : Sparse Word) (n z l e : Nat) : Nat :=
      ((List.range n).map fun k => (tget 0 regs (64 * k + l)).toNat * 2 ^ (32 * k)).sum / 2 ^ (z * e) % 2 ^ z
    -- the value of an A element, with its B row, and of a B element, where they are present
    let aElem (m : Latch) (i e : Nat) (v : FV) (k : Nat) : Prop :=
      let l := i + 16 * (e / (ka / 2))
      m.exec.getLsbD l = true ∧ v = f.a.value (code m.a f.ra f.za l (e % (ka / 2))) ∧
        k = if f.sparse then 4 * (e / 2) + m.rows.getD i 0 / 4 ^ e % 4 else e
    let bElem (k j : Nat) (v : FV) : Prop := ∃ m ∈ q.members, m.1 = j / 8 ∧
      let l := j % 8 + 8 * (k / (f.k / 4))
      m.2.2.exec.getLsbD l = true ∧ v = f.b.value (code m.2.2.b f.rb f.zb l (k % (f.k / 4)))
    ∃ v, exec (.teamInstructionRetire q.core) s = .next v ∧ v.mem = s.mem ∧ (∀ y ∈ v.begun, y ∈ s.begun ∧ y ≠ q) ∧
      (v.core q.core).arb.lastRetire = s.cycle ∧
      ∀ m ∈ q.members, ∀ c, s.cohort? ⟨q.b, m.2.1⟩ = some c → tableOk 0 c.tiles = true → ∃ c', v.cohort? ⟨q.b, m.2.1⟩ = some c' ∧
        (∀ k, k / 512 ≠ m.2.2.tile → tget 0 c'.tiles k = tget 0 c.tiles k) ∧ (∀ y ∈ v.issued, y.uid ≠ m.2.2.uid) ∧
        ∀ i j, i < 16 → j < 32 → ∃ (es : List Nat) (ps : List FV),
          es.Nodup ∧ (∀ e, e ∈ es ↔ e < ka ∧ ∃ a k b, aElem m.2.2 i e a k ∧ bElem k j b) ∧
          List.Forall₂ (fun e p => ∃ a k b, aElem m.2.2 i e a k ∧ bElem k j b ∧ a.Product b p) es ps ∧
          SumOf ((if m.2.2.z then .fin false 0 0 else decodeF .f32 (tget 0 c.tiles (512 * m.2.2.tile + 32 * i + j)).toNat) :: ps)
            (tget 0 c'.tiles (512 * m.2.2.tile + 32 * i + j)).toNat) ∧
  (∀ (s : State) (core : Nat) (h : BRef × Nat),
    let a := (s.core core).arb
    -- the teams that wait on the core: name, age of the request, slot of the member on quadrant 0
    let waits (w : BRef × Nat) (age slot : Nat) : Prop := w ≠ h ∧ ∃ y ∈ s.blocks, y.ref = w.1 ∧
      (y.st = .resident ∨ y.st = .checkpointing) ∧ (∃ g, s.grid? w.1.grid = some g ∧ g.st = .running) ∧ ∃ q ∈ y.teams, q.1 = w.2 ∧ q.2.core = core ∧ q.2.assembled = some age ∧
        slot = ((y.cohort? (tget 0 q.2.members 0)).map (·.slot)).getD 0
    a.holder = some h → (∀ y, s.block? h.1 = some y → (tget {} y.teams h.2).assembled = none) → (∀ q ∈ s.begun, q.core ≠ core) →
    a.lastRetire + 256 ≤ s.cycle →
      ((∀ w i j, ¬ waits w i j) → exec (.hallPassIdleExpiry core) s = .next s) ∧
      ((∃ w i j, waits w i j) → ∃ v w i j, exec (.hallPassIdleExpiry core) s = .next v ∧ waits w i j ∧
        (∀ w' i' j', waits w' i' j' → i < i' ∨ i = i' ∧ j ≤ j') ∧
        v = s.modCore core fun c => { c with arb := { a with holder := some w, tenure := 0, handed := a.lastCost != 0 } })) ∧
  (∀ c, c < 16 → (qn4FV c).rat = some (qn4Values.getD c 0))

/-- R157, R283, R293-R296. ACCZ, ACCLD, ACCST and SCACC on the tiles of the cohort, once no begun team instruction names them: zeros, four
rows from or to registers, and the scaled sum of two roundings. Other elements and other tiles keep their values. -/
def Obligations.AccumulatorTiles : Prop :=
  ∀ (o : OpA) (s : State) (x : Ctx) (u : State),
    let el (tiles : Sparse Word) (t i j : Nat) : Word := tget 0 tiles (512 * t + 32 * i + j)
    let free (t : Nat) : Prop := ∀ q ∈ u.begun, q.b = x.r.c.b → ∀ m ∈ q.members, m.2.1 = x.r.c.cohort → m.2.2.tile ≠ t
    -- the instruction leaves tile `t` so that `f i j` is its new element where `on i j`, with the results `os`
    let leaves (i : Instr) (t : Nat) (on : Nat → Nat → Prop) (f : Nat → Nat → Word → Prop) : Prop :=
      Issues i s x u → x.sp.mode = .user → x.c.latch = none → x.c.reformed = false → t < x.g.acc → free t → tableOk 0 x.c.tiles = true →
        ∃ v c, x.Effect u v .v x.ex [] .complete ∧
          exec i s = .next ((v.modCohort x.r.c fun d => { d with tiles := c }).settle x.r) ∧
          (∀ k, k / 512 ≠ t → tget 0 c k = tget 0 x.c.tiles k) ∧
          ∀ a b, a < 16 → b < 32 → (on a b → f a b (el c t a b)) ∧ (¬ on a b → el c t a b = el x.c.tiles t a b)
    let p := fld o.m 1 0
    let md := fld o.d 4 0
    let ms := fld o.m 4 0
    leaves (.accz o) md (fun _ _ => True) (fun _ _ w => w = 0) ∧
    leaves (.accld o) md (fun i j => i / 4 = p ∧ x.ex.getLsbD j = true) (fun i j w => w = x.c.vreg (o.a.toNat + i % 4) j) ∧
    (let t := fld o.a 4 0
     Issues (.accst o) s x u → x.sp.mode = .user → x.c.latch = none → x.c.reformed = false → t < x.g.acc → free t →
      let ls : Mask := x.ex &&& 0xFFFFFFFF#64
      ∃ v, x.Effect u v .v ls ((List.range 4).map fun i => (.vec (o.d.toNat + i), fun l => el x.c.tiles t (4 * p + i) l)) .complete ∧
        exec (.accst o) s = .next (v.settle x.r)) ∧
    (-- an exact scale: the whole register, E8M0, S9, super-scale and S9, or 1
     let scale (kind : Nat) (c : BitVec 8) (l : Nat) (v : FV) : Prop :=
       let w := (x.rd c l).toNat
       let e8 (n : Nat) (v : FV) : Prop := if n % 256 = 255 then v = .nan else v.sign = false ∧ v.rat = some ((2 : ℚ) ^ ((n % 256 : Int) - 127))
       let s9 (n : Nat) (v : FV) : Prop := if n / 2 % 256 = 255 then v = .nan
         else v.sign = false ∧ v.rat = some ((2 : ℚ) ^ ((n / 2 % 256 : Int) - 127) * (1 + (n % 2 : ℕ) / 2))
       if kind = 0 then v = decodeF .f32 w
       else if kind = 1 then e8 w v
       else if kind = 2 then s9 w v
       else if kind = 3 then ∃ b, s9 (x.rdN 2 c l / 2 ^ 32) b ∧ (decodeF .f32 (x.rdN 2 c l % 2 ^ 32)).Product b v
       else v.sign = false ∧ v.rat = some 1
     free ms → ms < x.g.acc → leaves (.scacc o) md (fun i j => x.ex.getLsbD i = true ∧ x.ex.getLsbD j = true) (fun i j w =>
       ∃ r c q1 q2 t, scale (if fld o.d 7 6 = 2 then 4 else fld o.d 7 6) o.a i r ∧ scale (fld o.m 7 5) o.b j c ∧
         (decodeF .f32 (el x.c.tiles ms i j).toNat).Product r q1 ∧ q1.Product c q2 ∧ Fmt.f32.Once false .rn q2 t ∧
         Fmt.f32.Sum false .rn (decodeF .f32 (el x.c.tiles md i j).toNat) (decodeF .f32 t) w.toNat))

/-! ### Subscriptions (R297-R302, R331-R344) -/

/-- R297, R298, R301, R302, R335-R337. SUBSCRIBE checks its fields and sends its request, UNSUB asks the publisher to end its entry, and
SUBSYNC closes the core's open chunks and holds its split until every packet of the core so far is acknowledged. Outside user mode
each is illegal. That a name of 2^24 or more is illegal is the model's choice (log 39). -/
def Obligations.SubscriptionInstructions : Prop :=
  ∀ (y : OpX2) (o : OpA) (s : State) (x : Ctx) (u : State),
    let cr := x.r.c
    let issues (i : Instr) (p : Prop) : Prop := Issues i s x u →
      (x.sp.mode ≠ .user → exec i s = .next ((x.raiseAll u 0x05).settle x.r)) ∧ (x.sp.mode = .user → p)
    issues (.subscribe y)
      (let name := (x.rd y.op.a (lowest x.ex)).toNat
       let localoff := fld y.w0 63 32
       let puboff := fld y.w0 31 0
       let n := fld y.w1 35 32
       let len := fld y.w1 31 0
       let bad : Prop := len < 64 ∨ 524288 < len ∨ len % 64 ≠ 0 ∨ fld y.w1 63 36 ≠ 0 ∨ 2 ^ 24 ≤ name ∨ (tget {} x.b.recs n).state ≠ 0
       let traps (c a : Nat) : Prop := exec (.subscribe y) s = .next ((x.raiseAll u c (BitVec.ofNat 64 a)).settle x.r)
       (bad → traps 5 0) ∧ (¬ bad → localoff % 64 ≠ 0 → traps 3 localoff) ∧
       (¬ bad → localoff % 64 = 0 → puboff % 64 ≠ 0 → traps 3 puboff) ∧
       (¬ bad → localoff % 64 = 0 → puboff % 64 = 0 → inScratch x.g localoff len = false → traps 2 localoff) ∧
       (¬ bad → localoff % 64 = 0 → puboff % 64 = 0 → inScratch x.g localoff len = true →
        ∃ t, x.Effect u.bump t .v x.ex [] .event ∧
          let q : SubReq := { id := u.fresh, sub := cr.b, c := cr.cohort, uid := x.uid, name := name, puboff := puboff
                              localoff := localoff, length := len, n := n }
          let r : SubRec := { localoff := localoff, length := len, state := 1, id := u.fresh }
          let v := t.modCohort cr fun c => { c with handles := tput .empty (fld y.op.d 3 0) (.pending u.fresh) c.handles }
          exec (.subscribe y) s = .next ((({ v with requests := v.requests ++ [q] } : State).modBlock cr.b fun b =>
            { b with recs := tput {} n r b.recs }).settle x.r))) ∧
    issues (.unsub o)
      (let n := fld o.m 3 0
       let r := tget {} x.b.recs n
       (r.state = 0 → Gives (.unsub o) s x u .v []) ∧
       (r.state = 1 → ∃ t, x.Effect u t .v x.ex [] .event ∧
         let r' : SubRec := { r with unsubs := r.unsubs ++ [x.uid] }
         exec (.unsub o) s = .next ((t.modBlock cr.b fun b => { b with recs := tput {} n r' b.recs }).settle x.r)) ∧
       (r.state = 2 → ∃ t, x.Effect u t .v x.ex [] .event ∧
         let m : Notice := { id := u.fresh, kind := .unsub x.uid, sub := cr.b, pub := ⟨x.g.id, r.pub⟩, n := n, rid := r.id }
         exec (.unsub o) s = .next (({ t with fresh := t.fresh + 1, notices := t.notices ++ [m] } : State).settle x.r))) ∧
    issues (.subsync o)
      (((∀ k e, ¬ u.EntryAt [x.c.core] k e) → Gives (.subsync o) s x u .v []) ∧
       -- a pair block's stores may have gone to the partner's half
       ((∃ k e, u.EntryAt [x.c.core] k e) → (∀ k e, u.EntryAt x.b.cores k e → e.chunk = none ∨ e.outstanding < 64) →
        (∀ a ∈ u.flight, a.scratch = true → a.core = x.c.core → a.op ≠ .load → a.isFixed = true) →
        let w := u.closeChunks x.b.cores
        let done : Prop := ∀ p ∈ w.packets, (p.core ∈ x.b.cores ∨ ∃ e, w.EntryAt x.b.cores p.core e ∧ e.id = p.entry) → w.fresh ≤ p.id
        (done → ∃ t, x.Effect w t .v x.ex [] .complete ∧ exec (.subsync o) s = .next (t.settle x.r)) ∧
        (¬ done → ∃ t, x.Effect w t .v x.ex [] .event ∧ exec (.subsync o) s = .next ((t.modSplit x.r fun p =>
          { p with hold := some ⟨.subsync x.b.cores w.fresh, x.uid, x.ex, u.cycle⟩ }).settle x.r))))

/-- R299-R301, R335-R344. A request that reaches its publisher makes an entry and takes the snapshot, or resolves with the spec's code;
the snapshot lands and the subscription stands; chunks close into packets, which are applied in sequence and acknowledged; and
absent, present and removal notices retarget or end entries. That the entry of a request that finds its subscriber saved, or begun to be
saved, names the image at once is the model's choice (log 79). -/
def Obligations.SubscriptionEvents : Prop :=
  (∀ (s : State) (q : SubReq) (g : Grid) (b : Block),
    (s.requests.find? fun r => r.id = q.id) = some q → q.entry = none → s.grid? q.sub.grid = some g →
    let here (k : Block) : Prop := k ∈ s.blocks ∧ k.ref.grid = q.sub.grid ∧ (k.core = q.name ∨ k.core2 = some q.name) ∧
      k.st ≠ .saved ∧ k.st ≠ .restoring
    -- no byte of memory changes, but where the image of a block stands there and follows it (R340-R344)
    let same (t : State) : Prop := s.NoImages → t.mem = s.mem
    let resolves (count addr : Nat) : Prop := ∃ t, exec (.subscribeRequest q.id) s = .next t ∧ same t ∧
      (∀ r, r ∈ t.requests ↔ r ∈ s.requests ∧ r.id ≠ q.id) ∧ (∀ i ∈ t.issued, i.uid ≠ q.uid) ∧
      (∀ k, s.block? q.sub = some k → ∃ k', t.block? q.sub = some k' ∧ (tableOk {} k.recs = true → tget {} k'.recs q.n = {})) ∧
      ∀ k c, s.cohort? ⟨q.sub, k⟩ = some c → ∃ d, t.cohort? ⟨q.sub, k⟩ = some d ∧ ∀ h,
        tget .empty c.handles h = .pending q.id → tget .empty d.handles h = .resolved 2 false count (BitVec.ofNat 64 addr)
    ((s.chart.site? q.name = none ∨ ∀ k, ¬ here k) → resolves 0 q.name) ∧
    (s.chart.site? q.name ≠ none → here b → s.block? b.ref = some b → (∀ k, here k → b.ref.block ≤ k.ref.block) →
      let left : Prop := q.puboff + q.length ≤ g.scratchBytes
      let right : Prop := g.pair = true ∧ 524288 ≤ q.puboff ∧ q.puboff + q.length ≤ 524288 + g.scratchBytes
      (¬ left → ¬ right → resolves 0 q.puboff) ∧
      (∀ core, (left ∧ core = b.core ∨ ¬ left ∧ right ∧ b.core2 = some core) →
        (16 ≤ (s.core core).subs.length → resolves 16 q.name) ∧
        ((s.core core).subs.length < 16 → ∃ t, exec (.subscribeRequest q.id) s = .next t ∧ same t ∧
          -- the packets for a subscriber that has begun to be saved go to its image (log 79)
          (∀ k, s.block? q.sub = some k → ∀ away : Bool,
            (away = true ↔ k.st = .saved ∨ k.st = .saving ∧ k.saveBegun = true) →
            let e : SubEntry := { id := s.fresh, pub := b.ref, puboff := q.puboff, length := q.length, sub := q.sub
                                  localoff := q.localoff, n := q.n, state := 1
                                  image := if away = true then k.image else 0, toImage := away }
            (t.core core).subs = (s.core core).subs ++ [e]) ∧
          (∃ r ∈ t.requests, r.id = q.id ∧ r.entry = some (core, s.fresh) ∧
            ∀ k, k < q.length → tget 0 r.bytes k = tget 0 b.scratch (q.puboff + k)))))) ∧
  (∀ (s : State) (q : SubReq) (b : Block) (core : Nat) (e : SubEntry),
    (s.requests.find? fun r => r.id = q.id) = some q → q.entry = some (core, e.id) → s.block? q.sub = some b →
    s.allEntries.filter (fun p => p.2.id == e.id) = [(core, e)] → s.allEntries.filter (fun p => p.2.serves e.pub q.sub q.n) = [(core, e)] →
    e.sub = q.sub → e.pub = ⟨q.sub.grid, (tget {} b.recs q.n).pub⟩ → tableOk 0 b.scratch = true → tableOk {} b.recs = true → tableOk {} s.cores = true → s.NoneHeld (fun k => ∃ l, k = .barb l) →
    ∃ t b', exec (.snapshotLanded q.id) s = .next t ∧ (s.NoImages → t.mem = s.mem) ∧ t.block? q.sub = some b' ∧
      (∀ p, tget 0 b'.scratch p = if q.localoff ≤ p ∧ p < q.localoff + q.length then tget 0 q.bytes (p - q.localoff)
        else tget 0 b.scratch p) ∧
      (tget {} b'.recs q.n).state = 2 ∧ (∀ i ∈ t.issued, i.uid ≠ q.uid) ∧
      (e.state = 1 → { e with state := 2 } ∈ (t.core core).subs) ∧
      ∀ k c, s.cohort? ⟨q.sub, k⟩ = some c → ∃ d, t.cohort? ⟨q.sub, k⟩ = some d ∧ ∀ h,
        tget .empty c.handles h = .pending q.id → tget .empty d.handles h = .resolved 0 false q.length 0) ∧
  (∀ (s : State), tableOk {} s.cores = true → (s.allEntries.map fun p => p.2.id).Nodup →
    ∃ t, exec .chunkClose s = .next t ∧ t = { s with cores := t.cores, packets := t.packets, fresh := t.fresh } ∧
      (∀ p ∈ s.packets, p ∈ t.packets) ∧
      ∀ core, ∀ e ∈ (s.core core).subs,
        -- 64 cycles have gone, or the publisher retires: nothing of it is under way
        (∀ k bytes c, e.chunk = some (k, bytes, c) → (c + 64 ≤ s.cycle ∨ s.blockBusy e.pub = false ∧
            ∃ y, s.block? e.pub = some y ∧ y.st = .resident ∧ s.ntidOf y ≤ y.exited) → e.outstanding < 64 →
          { e with chunk := none, seq := (e.seq + 1) % 65536, outstanding := e.outstanding + 1 } ∈ (t.core core).subs ∧
          ∃ p ∈ t.packets, s.fresh ≤ p.id ∧ p.core = core ∧ p.entry = e.id ∧ p.sub = e.sub ∧ p.n = e.n ∧ p.seq = e.seq ∧
            p.chunk = k ∧ p.bytes = bytes ∧ p.applied = false) ∧
        ((e.chunk = none ∨ 64 ≤ e.outstanding ∨ (∃ k bytes c, e.chunk = some (k, bytes, c) ∧ s.cycle < c + 64) ∧
            ∀ y, s.block? e.pub = some y → y.st = .resident → y.exited < s.ntidOf y) →
          e ∈ (t.core core).subs)) ∧
  (∀ (s : State) (p : Packet) (e : SubEntry) (b : Block),
    (s.packets.find? fun r => r.id = p.id) = some p → (∃ k, (s.allEntries.find? fun r => r.2.id = p.entry) = some (k, e)) →
    s.block? p.sub = some b → tableOk 0 b.scratch = true → tableOk {} b.recs = true → (p.bytes.map (·.1)).Nodup →
    s.NoneHeld (fun k => ∃ l, k = .barb l) → (s.blocks.map (·.ref)).Nodup →
    let r := tget {} b.recs p.n
    -- a core that is loading the block holds the packet (R343)
    (p.applied = false → p.arrived = false → b.st = .restoring → e.toImage = false → e.state ≠ 3 → exec (.updatePacket p.id) s =
      .next { s with packets := s.packets.map fun q => if q.id = p.id then { q with arrived := true } else q }) ∧
    (p.applied = false → r.state = 2 → (e.toImage = true ∨ b.st ≠ .saved ∧ b.st ≠ .restoring) → e.state ≠ 3 →
      (r.expect ≠ p.seq → exec (.updatePacket p.id) s = .next s) ∧
      (r.expect = p.seq → ∃ t b', exec (.updatePacket p.id) s = .next t ∧
        (s.NoImages → t.mem = s.mem) ∧ t.block? p.sub = some b' ∧
        (∀ v ∈ p.bytes, tget 0 b'.scratch (r.localoff + 64 * p.chunk + v.1) = v.2) ∧
        (∀ a, (∀ v ∈ p.bytes, a ≠ r.localoff + 64 * p.chunk + v.1) → tget 0 b'.scratch a = tget 0 b.scratch a) ∧
        tget {} b'.recs p.n = { r with expect := (r.expect + 1) % 65536 } ∧
        t.packets = s.packets.map fun q => if q.id = p.id then { q with applied := true } else q))) ∧
  (∀ (s : State) (p : Packet), (s.packets.find? fun r => r.id = p.id) = some p → p.applied = true → tableOk {} s.cores = true → s.allSplits.Nodup →
    ∃ t, exec (.updateAck p.id) s = .next t ∧ (s.NoImages → t.mem = s.mem) ∧ (∀ q ∈ t.packets, q ∈ s.packets ∧ q.id ≠ p.id) ∧
      (∀ b ∈ t.blocks, ∀ c ∈ b.cohorts, ∀ sp ∈ c.splits, ∀ h cores bound, sp.hold = some h → h.kind = .subsync cores bound →
        ∃ q ∈ s.packets, q.id ≠ p.id ∧ q.id < bound ∧ (q.core ∈ cores ∨ ∃ e, s.EntryAt cores q.core e ∧ e.id = q.entry)) ∧
      -- no chunk closes besides: no arrival with .SUB waits for a barrier record
      ((∀ k ∈ s.allEntries, k.2.ended = false) → s.NoneHeld (fun k => ∃ i n b, k = .barRecord i n b) → ∀ e ∈ (s.core p.core).subs,
        (if e.id = p.entry then { e with outstanding := e.outstanding - 1 } else e) ∈ (t.core p.core).subs ∨
          ∃ g ∈ t.grids, g.id = e.pub.grid ∧ g.st = .ended)) ∧
  (∀ (s : State) (m : Notice) (core : Nat) (e : SubEntry) (b : Block),
    (s.notices.find? fun r => r.id = m.id) = some m → m.acted = false → s.block? m.sub = some b → tableOk {} b.recs = true →
    s.allEntries.filter (fun p => p.2.serves m.pub m.sub m.n) = [(core, e)] → (s.allEntries.map fun p => p.2.id).Nodup →
    (∀ y, s.block? m.pub = some y → ∀ k ∈ y.entries, k.serves m.pub m.sub m.n = false) → tableOk {} s.cores = true →
    let entries (t : State) := t.allEntries.filter fun p => p.2.serves m.pub m.sub m.n
    let acted (t : State) : Prop := ∀ k ∈ t.notices, k.id = m.id → k.acted = true
    (m.kind = .absent → e.outstanding = 0 → e.chunk = none → ∃ t, exec (.absentNotice m.id) s = .next t ∧ acted t ∧
      entries t = [(core, { e with image := m.image, toImage := true })]) ∧
    (m.kind = .present → (∀ p ∈ s.packets, p.entry = e.id → (m.mark.getD s.fresh) ≤ p.id) →
      ∃ t, exec (.presentNotice m.id) s = .next t ∧ acted t ∧
        entries t = [(core, { e with image := 0, toImage := false, state := if e.state = 3 then 2 else e.state })]) ∧
    (m.kind = .present → (∃ p ∈ s.packets, p.entry = e.id ∧ p.id < m.mark.getD s.fresh) →
      ∃ t, exec (.presentNotice m.id) s = .next t ∧ entries t = [(core, { e with state := 3 })] ∧
        ∀ k ∈ t.notices, k.id = m.id → k.mark = some (m.mark.getD s.fresh)) ∧
    -- the record that the notice is about is free; one set up since under its number stays
    (m.kind = .removed → ∃ t b', exec (.removalNotice m.id) s = .next t ∧ acted t ∧ t.block? m.sub = some b' ∧
      let r := tget {} b.recs m.n
      tget {} b'.recs m.n = (if r.id = m.rid then {} else r) ∧ (r.id = m.rid → ∀ i ∈ t.issued, i.uid ∉ r.unsubs)) ∧
    (m.kind = .removal → ∃ t, exec (.removalNotice m.id) s = .next t ∧ acted t ∧ entries t = [] ∧ ∀ p ∈ t.packets, p.entry ≠ e.id) ∧
    (∀ uid, m.kind = .unsub uid → e.chunk = none →
      (0 < e.outstanding → ∃ t, exec (.removalNotice m.id) s = .next t ∧ acted t ∧
        entries t = [(core, { e with ended := true, waiters := e.waiters ++ [uid] })]) ∧
      (e.outstanding = 0 → e.sub = m.sub → ∃ t b', exec (.removalNotice m.id) s = .next t ∧ acted t ∧ entries t = [] ∧
        t.block? m.sub = some b' ∧ tget {} b'.recs m.n = {} ∧ ∀ i ∈ t.issued, i.uid ≠ uid ∧ i.uid ∉ e.waiters))) ∧
  -- an UNSUB that finds no entry, its publisher having retired, frees the record and lowers its flag
  (∀ (s : State) (m : Notice) (b : Block) (uid : Nat), (s.notices.find? fun r => r.id = m.id) = some m → m.acted = false →
    m.kind = .unsub uid → s.block? m.sub = some b → tableOk {} b.recs = true → s.entry? m.pub m.sub m.n = none →
    ∃ t b', exec (.removalNotice m.id) s = .next t ∧ (∀ k ∈ t.notices, k.id = m.id → k.acted = true) ∧ t.block? m.sub = some b' ∧
      ((tget {} b.recs m.n).id = m.rid → tget {} b'.recs m.n = {}) ∧ ∀ i ∈ t.issued, i.uid ≠ uid) ∧
  (∀ (s : State) (m : Notice), (s.notices.find? fun r => r.id = m.id) = some m →
    exec (.noticeAcknowledgement m.id) s = .next (if m.acted = true then { s with notices := s.notices.filter fun k => k.id ≠ m.id } else s))

/-! ### Launches (R164-R170, R176, R178, R303-R306, R412) -/

/-- R303-R306, R178, R235, R373. LAUNCH posts one child for each lane whose checks pass, in lane order, and each lane receives its child's
identifier; at depth 10 no child is posted, the lanes receive 0 and the handle resolves with 0x1B. TREADY puts a write of 1 to each lane's
flag in flight, behind the lane's unperformed accesses to its tile's range. Outside user mode both are illegal; each has taken its
checkpoint, or takes none, and its walks have ended. The model's choices: SPAREA is the registrar's (log 11), and the handle follows the
child of the lowest lane that posts one (log 41). -/
def Obligations.LaunchAndTreadyIssue : Prop :=
  ∀ (o : OpA) (s : State) (x : Ctx) (u : State) (good : Mask),
    let pair (c : BitVec 8) (l : Nat) : DWord := BitVec.ofNat 64 (x.rdN 2 c l)
    let ready (i : Instr) (pages : List DWord) : Prop :=
      Issues i s x u ∧ x.sp.mode = .user ∧ (x.sp.forced = true ∨ x.g.ckpt = false) ∧ x.Mapped u pages
    let waits (i : Instr) (pages : List DWord) : Prop :=
      Issues i s x u → x.sp.mode = .user → ¬ x.Mapped u pages → ∃ t, exec i s = .next t ∧ x.Suspends s t pages
    let ends (i : Instr) (pages : List DWord) (v : State) : Prop := exec i s = .next (x.walked pages (x.after (v.settle x.r)))
    -- LAUNCH
    (let chk (l : Nat) : Except XFault Phys :=
       match x.checkGlobal u .ld (pair o.a l) 64 with
       | .error f => .error f
       | .ok p => if (u.seen x.b p.pa 64).2 = true then .error { cause := 7 } else .ok p
     let named (l : Nat) : Option (Except XFault Phys) := if o.b = 0xF0 then none else some (x.checkGlobal u .ld (pair o.b l) 1)
     let fault (l : Nat) : Option LaneFault :=
       match chk l with
       | .error f => some ⟨l, f.cause, pair o.a l, f.gpa⟩
       | .ok _ =>
         match named l with
         | some (.error f) => some ⟨l, f.cause, pair o.b l, f.gpa⟩
         | _ => none
     let fs := x.lanes.filterMap fault
     let own := u.coreDomain x.c.core
     let home (l : Nat) : Nat :=
       match named l with
       | some (.ok p) => if p.pa / 2 ^ 44 ≤ 1 then p.pa / 2 ^ 36 % 256 else own
       | _ => own
     -- the task queue of that address (R178)
     let queue (l : Nat) : Nat :=
       match named l with
       | some (.ok p) => if p.pa / 2 ^ 44 ≤ 1 then (p.pa / 2 ^ 12 % 16) ^^^ (p.pa / 2 ^ 16 % 16) else 0
       | _ => 0
     let follow : Bool := o.m.getLsbD 4
     let words (l : Nat) : List DWord := (List.range 8).map fun k =>
       BitVec.ofNat 64 (numberAt (fun i => (u.seen x.b (paOf chk l) 64).1.getD i 0) (8 * k) 8)
     let pages : List DWord := ((x.lanes.map (pair o.a)).filter fun a => a.toNat % 64 == 0) ++
       if o.b = 0xF0 then [] else x.lanes.map (pair o.b)
     waits (.launch o) pages ∧
     ((∀ l, good.getLsbD l = true ↔ x.ex.getLsbD l = true ∧ fault l = none) → ready (.launch o) pages → x.AllDone u →
      (good = 0#64 → ends (.launch o) pages (x.raise u fs)) ∧
      (good ≠ 0#64 → x.g.depth ≠ 10 →
        ∃ (t : State) (area : Nat → DWord),
          (x.only good).Effect (if follow then u.bump else u) t .v good
            (outs o.d 2 fun l => u.lastLaunch + 1 + ((lanesOf good).filter fun k => k < l).length) .complete ∧
          let child (k l : Nat) : Grid :=
            { id := u.lastLaunch + 1 + k, poster := .grid x.g.id, record := words l, depth := x.g.depth + 1, parent := some x.g.id
              part := x.g.part, regs := { x.g.regs with sparea := area k }, target := some (home l), queue := queue l
              handleOp := if follow = true ∧ k = 0 then some u.fresh else none }
          let v : State := { t with grids := t.grids ++ (lanesOf good).mapIdx child, lastLaunch := u.lastLaunch + (lanesOf good).length
                                    draw := u.draw + (lanesOf good).length }
          let w := if follow then v.modCohort x.r.c fun c => { c with handles := tput .empty (fld o.m 3 0) (.pending u.fresh) c.handles }
            else v
          ends (.launch o) pages (x.raise w fs)) ∧
      (good ≠ 0#64 → x.g.depth = 10 →
        ∃ t v, (x.only good).Effect (if follow then u.bump else u) t .v good (outs o.d 2 fun _ => 0) .complete ∧
          v = { t with blocks := v.blocks, checkpoints := v.checkpoints } ∧ (follow = false → v = t) ∧
          (follow = true → ∃ c, v.cohort? x.r.c = some c ∧
            tget .empty c.handles (fld o.m 3 0) = .resolved 0x1B false 0 0) ∧
          ends (.launch o) pages (x.raise v fs)))) ∧
    -- TREADY
    (let addr (l : Nat) : DWord := pair o.a l + 16 + BitVec.ofNat 64 (4 * (x.rd o.b l).toNat)
     let chk (l : Nat) := x.checkGlobal u .st (addr l) 4
     let fs := x.fails addr chk
     let pas := (lanesOf good).map (paOf chk)
     let pages := (x.lanes.map addr).filter fun a => a.toNat % 4 == 0
     -- what a lane has under way in its tile's range
     let behind (a : Access) (id : Nat) : Prop :=
       let base := x.rdN 2 o.d a.lane
       let len := (x.rd o.m a.lane).toNat
       ∃ e ∈ u.flight, e.id = id ∧ e.uid ≠ x.uid ∧ e.c = x.r.c ∧ e.hasLane a.lane = true ∧ e.isFixed = false ∧ e.scratch = false ∧
         0 < len ∧ e.va.toNat < base + len ∧ base < e.va.toNat + e.size
     waits (.tready o) pages ∧ (x.Passes chk good → ready (.tready o) pages → tableOk {} u.cores = true →
      (good = 0#64 → ends (.tready o) pages (x.raise u fs)) ∧
      (good ≠ 0#64 → ∃ t v,
        (x.only good).Effect (x.fillTlb u (lanesOf good) addr) t .v good [] (.performed ((encode (.tready o)).headD 0) x.sp.pc false) ∧
        x.LaunchesBehind (t.storeIssued x.c.core (pas.map (· / 128))) v
          ((lanesOf good).map fun l =>
            { id := 0, uid := x.uid, c := x.r.c, core := x.c.core, lane := l, scratch := false, va := addr l, pa := paOf chk l, size := 4
              op := .tready (match u.regXlate x.g .rd 0 (x.rdN 2 o.a l) with | .ok p => some p.pa | .error _ => none)
              scope := 3, bytes := [1, 0, 0, 0], tags := x.tags u }) behind ∧
        v.mem = u.mem ∧ ends (.tready o) pages (x.raise v fs)))) ∧
    -- outside user mode
    (∀ i, i = .launch o ∨ i = .tready o → Issues i s x u → x.sp.mode ≠ .user →
      exec i s = .next (x.after ((x.raiseAll u 0x05).settle x.r)))

/-- R43, R44, R164-R170, R176, R408, R412. POST has one outcome of R412, once the banks serve the read of the port's template. A queued launch
whose stream's earlier ones have retired enters dispatch, once the banks serve the registrar's reads: the first check of R166 that fails
retires it with that status, and otherwise its grid waits for its producer or runs. What an empty core holds, and the ranges of a record
and of a descriptor, are as the spec says. The model's choices: an entry header that is illegal completes with 0x04 (log 42), the
partition of a port's launches is that of the PHPTB tag (log 50), and a child waits for every older child of its domain's queues that may
enter (log 74). What a queued launch does is stated where no image of a block stands in memory. -/
def Obligations.LaunchesEnterDispatch : Prop :=
  (∀ (d : DWord), descriptorOk d = true ↔ fld d 63 38 = 0 ∧ fld d 37 32 ≤ 32 ∧ fld d 26 25 ≠ 3 ∧ fld d 23 14 ≤ 512 ∧
    fld d 13 8 ≤ 48 ∧ 1 ≤ fld d 7 0 ∧ fld d 7 0 ≤ 24) ∧
  (∀ (g : Grid),
    let ext (n : Nat) : Prop := 1 ≤ n ∧ n ≤ 4096
    let x := fld (g.word 1) 31 0
    let y := fld (g.word 1) 47 32
    let z := fld (g.word 1) 63 48
    let a := fld (g.word 2) 15 0
    let b := fld (g.word 2) 31 16
    let c := fld (g.word 2) 47 32
    let kind := fld (g.word 0) 57 56
    let home := fld (g.word 0) 55 54
    recordOk g = true ↔ kind ≠ 3 ∧ home ≠ 3 ∧ x ≠ 0 ∧ y ≠ 0 ∧ z ≠ 0 ∧ x * y * z ≤ 2 ^ 32 ∧ fld (g.word 2) 63 57 = 0 ∧
      (kind ≠ 1 → fld (g.word 2) 56 48 = 0) ∧ ext a ∧ ext b ∧ ext c ∧ a * b * c ≤ (if g.desc.getLsbD 30 = true then 4096 else 2048) ∧
      (home = 0 → g.word 3 = 0) ∧ (home = 1 → (g.word 3).toNat ≤ 83) ∧ (home = 2 → fld (g.word 3) 63 51 = 0) ∧
      (kind = 0 → g.word 6 = 0)) ∧
  (∀ (g : Grid),
    let pair : Bool := g.desc.getLsbD 30
    let cs := List.range ((g.ntid + g.width - 1) / g.width)
    let on (right : Bool) (c : Nat) : Bool := right == (pair && decide (2048 ≤ g.width * c))
    fitsEmpty g = true ↔ g.scratchBytes ≤ 524288 ∧ ∃ r q, q < 4 ∧ (r = true → pair = true) ∧ ∀ right,
      (((cs.filter (on right)).map fun c => min g.width (g.ntid - g.width * c)).sum ≤ 2048) ∧
      ∀ k, k < 4 →
        let n := (cs.filter fun c => on right c && c % 4 == k).length + if right = r ∧ k = q then 1 else 0
        n ≤ 16 ∧ n * (g.vregs * g.width * 4) ≤ 262144 ∧ n * g.acc ≤ 32) ∧
  (∀ (p : Port) (full : Bool) (record : List DWord) (s : State),
    let i : Instr := .post p full record
    let r := s.portRegs p
    let stream := fld (record.getD 0 0) 63 58
    let load := (s.grids.filter fun g => g.poster = .port p ∧ g.stream = stream ∧ g.st = .queued).length
    let outcome (v : State) : Prop := exec i s = .next v
    (r.linkUp = true → 8 < record.length → outcome (s.modPort p fun r => { r with badtarget := true })) ∧
    (r.linkUp = true → record.length ≤ 8 →
      (s.bstate ≠ 0x0F → outcome (s.modPort p fun r => { r with refused := true })) ∧
      (s.bstate = 0x0F → record.length ≠ 8 → outcome (s.modPort p fun r => { r with partialPost := true }))) ∧
    (r.linkUp = true → record.length = 8 →
      (s.bstate = 0x0F → full = false → outcome (s.modPort p fun r => { r with partialPost := true })) ∧
      (s.bstate = 0x0F → full = true → 32 ≤ load → outcome (s.modPort p fun r => { r with drop := true })) ∧
      (s.bstate = 0x0F → full = true → load < 32 → r.pgrid.getLsbD 0 = true → s.bankReads (fld r.pgrid 47 6 * 64) = false → outcome s) ∧
      (s.bstate = 0x0F → full = true → load < 32 → (r.pgrid.getLsbD 0 = true → s.bankReads (fld r.pgrid 47 6 * 64) = true) →
        ∃ (t : State) (g : Grid),
        outcome t ∧ t.grids = s.grids ++ [g] ∧ t.lastLaunch = s.lastLaunch + 1 ∧ (t.portRegs p).lastid = s.lastLaunch + 1 ∧
        t.mem = s.mem ∧ t.blocks = s.blocks ∧
        g = { id := s.lastLaunch + 1, poster := .port p, record := record, part := fld r.phptb 63 48, regs := g.regs, early := g.early } ∧
        (tableOk {} s.parts = true → (t.part (fld r.phptb 63 48)).hptb = r.phptb) ∧
        let template := fld r.pgrid 47 6 * 64
        let word (k : Nat) : DWord := BitVec.ofNat 64 (s.read8 (template + 8 * k))
        let outside : Prop := r.pgrid.getLsbD 0 = true ∧ (template / 2 ^ 44 ≠ 0 ∨ s.admits template 64 = false)
        (g.early = some 2 ↔ outside) ∧
        (g.early = some 7 ↔ r.pgrid.getLsbD 0 = true ∧ ¬ outside ∧ template / 64 ∈ s.poison) ∧
        (r.pgrid.getLsbD 0 = false ∨ g.early.isSome = true → g.regs = { ptb := r.pptb, sparea := g.regs.sparea }) ∧
        (r.pgrid.getLsbD 0 = true → g.early = none → g.regs =
          { ptb := r.pptb, xvec := word 0 &&& 0x0007FFFFFFFFFC01, xdeleg := (word 1).setWidth 32 &&& 0x00080EFE
            llen := BitVec.ofNat 64 (min 16384 (max 64 (fld (word 2) 14 0))), ckint := (word 3).setWidth 32
            ckptr := word 4 &&& 0x0007FFFFFFFFF000, seed := (word 5).setWidth 32, sparea := g.regs.sparea })))) ∧
  (∀ (s : State) (g : Grid), s.grid? g.id = some g → g.st = .queued → Memory.wf s.mem = true →
    s.NoImages →
    let i : Instr := .dispatchEntry g.id
    -- an earlier launch of the stream has not retired, or an older child of the domain's task queues may enter as well (log 74)
    let behind (g : Grid) : Prop := ∃ h ∈ s.grids, h.poster = g.poster ∧ h.stream = g.stream ∧ h.id < g.id ∧ h.st ≠ .retired
    let later : Prop := g.parent ≠ none ∧ ∃ h ∈ s.grids, h.parent ≠ none ∧ h.st = .queued ∧ h.target = g.target ∧ h.id < g.id ∧ ¬ behind h
    (behind g ∨ later ∨ s.regReady (s.launchReads g) = false → exec i s = .next s) ∧
    -- no consumer waits for a grid that has retired, or for this one
    (¬ behind g → ¬ later → s.regReady (s.launchReads g) = true →
      (∀ h ∈ s.grids, h.st = .awaiting → h.depkind = 2 ∧ ∃ p, s.grid? (h.word 6).toNat = some p ∧ p.st ≠ .retired ∧ p.id ≠ g.id) →
      let fails (c : Nat) : Prop := ∃ t, exec i s = .next t ∧ Retires s t g c
      (∀ c, s.entryWord g g.entry = .error c → fails c) ∧
      (∀ w, s.entryWord g g.entry = .ok w →
        let entry : Prop := g.entry.toNat % 8 = 0 ∧ fld w 63 55 = 0x1FF ∧ w.getLsbD 18 = true ∧ fld w 54 47 ≠ 0 ∧ fld w 15 0 = 0
        (∀ c, g.early = some c → fails c) ∧
        (∀ c, g.early = none → s.manifest g = .error c → fails c) ∧
        (∀ m, g.early = none → s.manifest g = .ok m → ¬ entry → fails 4) ∧
        (∀ m d, g.early = none → s.manifest g = .ok m → entry → s.entryWord g (g.entry + 8) = .ok d →
          let h : Grid := { g with desc := d }
          let array : Prop := g.depkind = 1 ∧ ∃ v, s.regRead8 g ((g.word 6).toNat + 8) = .ok v ∧ v ≠ 0
          let good : Prop := recordOk h = true ∧ m ≠ none ∧ ¬ array ∧ descriptorOk d = true ∧ fitsEmpty h = true
          let producer (q : Grid → Prop) : Prop := g.depkind = 2 ∧ ∃ p, s.grid? (g.word 6).toNat = some p ∧ q p
          let filled : Prop := ∀ rs, m = some rs → ∀ r ∈ rs, r.2 ≠ 0 ∧ ∀ k, k < r.2 / 128 →
            ∃ p, s.regXlate g .rd 0 (r.1 + 128 * k) = .ok p ∧ p.ws = true ∧ p.pa / 128 ∈ s.filled
          let enters (f : Grid → Grid) : Prop := ∃ t, exec i s = .next t ∧
            t = { s.modGrid g.id fun x => f { x with age := s.ticks, desc := d, header := w, ranges := m.getD [], producer := s.arrayProducer g }
                  with domains := t.domains }
          -- the banks serve the look-up of its weights
          let looks : Prop := s.regReady (s.rangeReads { g with ranges := m.getD [] }) = true
          (¬ good → fails 5) ∧
          (good → producer (fun p => p.st ≠ .retired) ∨ ¬ looks → enters fun x => { x with st := .awaiting }) ∧
          (good → looks → producer (fun p => p.st = .retired ∧ p.status ≠ 0) → fails 0x1D) ∧
          (good → looks → ¬ producer (fun p => p.st ≠ .retired ∨ p.status ≠ 0) → ¬ filled → fails 0x19) ∧
          (good → looks → ¬ producer (fun p => p.st ≠ .retired ∨ p.status ≠ 0) → filled →
            (g.depkind ≠ 1 → enters fun x => { x with st := .running, waitFrom := some s.ticks }) ∧
            ∃ t e, exec i s = .next t ∧ t.mem = s.mem ∧ t.grid? g.id = some e ∧ e.st = .running ∧ e.age = s.ticks ∧ e.desc = d))))) ∧
  (∀ (s : State) (g : Grid) (pa : Nat), s.statusPlace g = some pa ↔
    ∃ p, s.regXlate g .wr 0 ((g.word 5).toNat / 4 * 4) = .ok p ∧ p.pa = pa ∧ p.ws = false ∧ pa / 2 ^ 44 = 0) ∧
  -- a producer that completes at its entry releases its consumers, which its status fails (R176)
  (∀ (s : State) (g h : Grid) (c : Nat), s.grid? g.id = some g → s.grid? h.id = some h → (s.grids.map (·.id)).Nodup → g.st = .queued →
    s.streamFree g = true → g.parent = none → s.entryWord g g.entry = .error c → c ≠ 0 → (g.word 5).toNat / 4 = 0 →
    s.regReady (s.launchReads g) = true → s.regReady (s.rangeReads h) = true → (∀ k ∈ s.grids, k.st = .awaiting → k.id = h.id) →
    h.st = .awaiting → h.depkind = 2 → (h.word 6).toNat = g.id → (h.word 5).toNat / 4 = 0 →
    ∃ t h', exec (.dispatchEntry g.id) s = .next t ∧ t.grid? h.id = some h' ∧ h'.st = .retired ∧ h'.status = 0x1D)

/-! ### Traps (R348-R352, R361, R372, R375-R379, R51) -/

/-- R348, R372, R376-R378, R382, R187, R320, R361, R427-R429. A trap of the lanes `ts` of a split is routed by its cause, the raising mode and XDELEG.
Routed to a mode whose vector slot may be entered, the lanes stand in a split of that mode just behind the slot's header, with a new frame
that records the trap; a ninth split makes the smallest user split spawn. Otherwise the grid ends with the cause as its status, and
the recorder holds the event; no later entry of the cohort takes place in that cycle. A grid that ends stops every block; an earlier ending
stands, and in one cohort that of the earlier cycle, and then of the lower lane. -/
def Obligations.TrapsAreEnteredOrEndTheGrid : Prop :=
  (∀ (s : State) (r : SRef) (ts : Mask) (t : Trap) (b : Block) (c : Cohort) (sp : Split) (g : Grid),
    s.block? r.c.b = some b → s.cohort? r.c = some c → s.split? r = some sp → s.grid? r.c.b.grid = some g → ts ≠ 0#64 →
    (c.pend.Pairwise fun p q => p.reg = q.reg → p.uid < q.uid) → (c.splits.map (·.id)).Nodup →
    (s.blocks.map (·.ref)).Nodup → (b.cohorts.map (·.id)).Nodup →
    let spent : Prop := ∃ e ∈ g.endings, e.key.2.1 = b.ref.block ∧ e.key.2.2.1 = c.slot
    let cause := if 3 ≤ sp.frames.length then 8 else t.cause
    -- XDELEG, XVEC and HVEC as they stood before a write of this cycle (R358, R382)
    let deleg := match g.vecWas with | some (k, w, _) => if k = s.cycle then w else g.regs.xdeleg | none => g.regs.xdeleg
    let xvec := match g.vecWas with | some (k, _, v) => if k = s.cycle then v else g.regs.xvec | none => g.regs.xvec
    let hvec := match (s.part g.part).hvecWas with
      | some (k, v) => if k = s.cycle then v else (s.part g.part).hvec
      | none => (s.part g.part).hvec
    let mode : Option Mode :=
      if cause = 8 ∨ t.team = true then none
      else if cause = 0x10 ∨ cause = 0x11 then some .supervisor
      else if cause = 0x12 ∨ sp.mode = .hypervisor then some .hypervisor
      else if cause = 0x13 then some (if deleg.getLsbD 19 = true then .supervisor else .hypervisor)
      else if deleg.getLsbD cause = true then some .supervisor else none
    let ends (code : Nat) : Prop := s.trapEntry r ts t =
      (s.record (s.coreDomain c.core) 3 c.core (g.id + 2 ^ 64 * code)).endGrid g.id (b.ref.block, c.slot, lowest ts) code
        (if t.team = true then c.team.map fun k => (k, c.quad) else none)
    (spent → s.trapEntry r ts t = s) ∧
    (¬ spent → mode = none → ends cause) ∧
    (∀ m, ¬ spent → mode = some m →
      let vec := if m = .hypervisor then hvec else xvec
      let slot : DWord := BitVec.ofNat 64 (fld vec 50 10 * 1024 + 16 * cause)
      let usable (w : DWord) : Prop := vec.getLsbD 0 = true ∧ s.codeWord c.core g m slot = .ok w ∧ fld w 63 55 = 0x1FF ∧
        fld w 54 47 ≠ 0 ∧ fld w 15 0 = 0 ∧ fld w 30 23 ≤ g.vregs ∧ w.getLsbD 18 = false
      ((∀ w, ¬ usable w) → ends cause) ∧
      (∀ w, usable w →
        let frame : Frame :=
          { pc := t.pc, cause := BitVec.ofNat 32 cause, inst0 := t.inst0, inst1 := t.inst1, len := BitVec.ofNat 32 t.len
            addr := t.addr, lanes := ts, prev := (match sp.mode with | .user => 0 | .supervisor => 1 | .hypervisor => 2)
            reconv := sp.reconv, join := sp.join, gpa := BitVec.ofNat 64 t.gpa, hdr := sp.header, entered := m }
        let n : Split :=
          { id := sp.id, lanes := ts, mode := m, reconv := 0, join := ts, frames := frame :: sp.frames, kbank := sp.kbank
            pc := slot + 8, header := slot, blkEnd := slot + BitVec.ofNat 64 (8 * (1 + fld w 54 47))
            blkReconv := if w.extractLsb' 31 16 = 0 then 0 else slot + BitVec.ofInt 64 (8 * (w.extractLsb' 31 16).toInt)
            dist := sp.dist, last := sp.last }
        -- the cohort afterwards: R35 applies, and its splits are `qs`
        let enters (u : State) (qs : List Split) : Prop := ∃ d, s.trapEntry r ts t = u.modCohort r.c (fun _ => d) ∧
          d = { c with vregs := d.vregs, sregs := d.sregs, preds := d.preds, pend := d.pend, splits := qs } ∧
          (∀ p ∈ d.pend, p.due = none ∨ p.lanes &&& ts = 0#64) ∧ ∀ k l, l < 64 → d.newest (.vec k) l = c.newest (.vec k) l
        let parts := (c.splits.map fun q => if q.id = sp.id then { q with lanes := q.lanes &&& ~~~ts } else q) ++ [{ n with id := s.fresh }]
        let cap := (s.part g.part).scap
        let live := (parts.filter fun q => q.spawn.isNone).length
        let may (q : Split) : Prop := q ∈ parts ∧ q.mode = .user ∧ q.spawn = none ∧ ∀ h k, q.hold = some h → h.kind ≠ .handle k
        (ts = sp.lanes → enters s (c.splits.map fun q => if q.id = sp.id then n else q)) ∧
        (ts ≠ sp.lanes → live ≤ cap → enters s.bump parts) ∧
        (ts ≠ sp.lanes → cap < live → (∀ q, ¬ may q) → ends 8) ∧
        (ts ≠ sp.lanes → cap < live → ∀ q, may q →
          (∀ k, may k → population q.lanes < population k.lanes ∨ k = q ∨
            population q.lanes = population k.lanes ∧ lowest k.lanes < lowest q.lanes) → (∀ k ∈ c.splits, k.id < s.fresh) →
          ∃ f : Split → Split, enters s.bump (parts.map fun k => if k.id = q.id then f k else k) ∧
            f q = { q with spawn := some true, hold := (f q).hold } ∧ ((f q).hold = q.hold ∨ (f q).hold = none))))) ∧
  (∀ (s : State) (d type core payload : Nat),
    let t := s.record d type core payload
    (s.frozen = true → t = s) ∧
    (s.frozen = false → t = { s with domains := t.domains } ∧ (t.dom d).events = (s.dom d).events + 1 ∧
      let all := (s.dom d).ring ++ [⟨s.ticks, type, decide (type = 9), d, core, payload⟩]
      (t.dom d).ring = all.drop (all.length - 4096))) ∧
  -- tick, block index, cohort slot, lowest lane (R429)
  (let earlier (j k : Nat × Nat × Nat × Nat) : Prop :=
     j.1 < k.1 ∨ j.1 = k.1 ∧ (j.2.1 < k.2.1 ∨ j.2.1 = k.2.1 ∧ (j.2.2.1 < k.2.2.1 ∨ j.2.2.1 = k.2.2.1 ∧ j.2.2.2 < k.2.2.2))
   -- an ending is raised: it joins those of its cycle
   (∀ (s : State) (g : Grid) (key : Nat × Nat × Nat) (status : Nat) (team : Option (Nat × Nat)), s.grid? g.id = some g →
    (s.grids.map (·.id)).Nodup →
    let t := s.endGrid g.id key status team
    -- endings of one cohort stand in the order of their cycles, and then of their lanes
    let at' : Nat × Nat × Nat × Nat := (s.ticks, key.1, key.2.1, 65 * s.cycle + key.2.2)
    let fixed : Prop := g.st = .retired ∨ g.st = .closing
    (fixed → t = s) ∧
    (∀ k, ¬ fixed → g.endedBy = some k → ¬ earlier at' k → t = s) ∧
    (∀ k, ¬ fixed → g.endedBy = some k → earlier at' k →
      t = s.modGrid g.id fun x => { x with status := status, endedBy := some at' }) ∧
    (¬ fixed → g.endedBy = none → t = s.modGrid g.id fun x => { x with endings := x.endings ++ [⟨at', status, team⟩] })) ∧
   -- with the cycle the grid ends: of a team's faults the one on the lowest quadrant stands (R320), and else the earliest
   (∀ (s : State) (g : Grid) (e : Ending), g ∈ s.grids → (s.grids.map (·.id)).Nodup → (∀ h ∈ s.grids, h.id ≠ g.id → h.endings = []) →
    let yields (d : Ending) : Prop := ∃ f ∈ g.endings, f.key.2.1 = d.key.2.1 ∧ ∃ u p q, d.team = some (u, q) ∧ f.team = some (u, p) ∧ p < q
    e ∈ g.endings → ¬ yields e → (∀ d ∈ g.endings, ¬ yields d → d = e ∨ earlier e.key d.key) →
    let t := s.tick
    t.cycle = s.cycle + 1 ∧
      t.grid? g.id = some { g with st := .ended, status := e.status, endedBy := some e.key, endings := [] } ∧ t.mem = s.mem ∧
      (∀ a ∈ s.flight, (∀ c, a.op ≠ .claim c ∧ a.op ≠ .fetch c) → a ∈ t.flight) ∧ (∀ a ∈ t.flight, a.op = .code ∨ a ∈ s.flight) ∧
      (∀ o, o ∈ t.copies ↔ o ∈ s.copies ∧ o.b.grid ≠ g.id) ∧ (∀ r, r ∈ t.selected ↔ r ∈ s.selected ∧ r.c.b.grid ≠ g.id) ∧
      (∀ h, h.id ≠ g.id → (h ∈ t.grids ↔ h ∈ s.grids)) ∧
      (∀ b ∈ s.blocks, b.ref.grid ≠ g.id → ∃ b' ∈ t.blocks, b' = { b with cohorts := b'.cohorts } ∧
        ∃ f : Cohort → Cohort, b'.cohorts = b.cohorts.map f ∧ ∀ c, f c = { c with readySince := (f c).readySince }) ∧
      (∀ b ∈ t.blocks, b.ref.grid = g.id → b.drafts = [] ∧ b.recs = [] ∧ ∀ c ∈ b.cohorts, c.latch = none) ∧
      (tableOk {} s.cores = true → ∀ k e, e ∈ (t.core k).subs ↔ e ∈ (s.core k).subs ∧ e.pub.grid ≠ g.id)))

/-- R348, R351, R352, R346, R51, R52, R372, R375. SYSC and HCALL trap past themselves, EBREAK and ILLEGAL at themselves, and a word
without an instruction raises 0x06 whatever its other fields hold; SYSC, HCALL and EBREAK are illegal in hypervisor mode. A word at
PC that does not translate, or an inline word, raises its fault for every lane of the split, with the instruction's address in XPC and the
word's in XADDR, which for an inline word is the model's choice (log 27). A call has taken its checkpoint, or takes none (R347). -/
def Obligations.CallsAndWordsThatTrap : Prop :=
  (∀ (o : OpC) (a : OpA) (s : State) (x : Ctx) (u : State),
    let trap (i : Instr) (cause : Nat) (pc : DWord) : Trap :=
      { cause := cause, pc := pc, inst0 := (encode i).headD 0, inst1 := u.wordOr0 x.c.core x.g x.sp.mode (x.sp.pc + 8) }
    let traps (i : Instr) (cause : Nat) (pc : DWord) : Prop := exec i s = .next ((u.trapEntry x.r x.ex (trap i cause pc)).settle x.r)
    let illegal (i : Instr) : Prop := exec i s = .next (x.after ((x.raiseAll u 0x05).settle x.r))
    let call (i : Instr) (cause : Nat) : Prop := Issues i s x u →
      (x.sp.mode = .hypervisor → illegal i) ∧
      (x.sp.mode ≠ .hypervisor → x.sp.forced = true ∨ x.g.ckpt = false →
        exec i s = .next (x.after ((u.trapEntry x.r x.ex (trap i cause (x.sp.pc + 8))).settle x.r))) ∧
      (x.sp.mode ≠ .hypervisor → x.sp.forced = false → x.g.ckpt = true → x.b.st = .resident → exec i s = .next (Asks s x (some x.r)))
    call (.sysc o) 0x10 ∧ call (.hcall o) 0x12 ∧
    (Issues (.ebreak a) s x u → (x.sp.mode = .hypervisor → exec (.ebreak a) s = .next ((x.raiseAll u 0x05).settle x.r)) ∧
      (x.sp.mode ≠ .hypervisor → traps (.ebreak a) 0x11 x.sp.pc)) ∧
    (Issues (.illegal a) s x u → traps (.illegal a) 0x05 x.sp.pc)) ∧
  (∀ (o : OpU) (s : State) (x : Ctx) (u : State), s.beginIssue (.unimplementedOpcode o) = .go x u →
    (x.ex = 0#64 → exec (.unimplementedOpcode o) s = .next (u.settle x.r)) ∧
    (x.ex ≠ 0#64 → exec (.unimplementedOpcode o) s = .next ((u.trapEntry x.r x.ex
      { cause := 6, pc := x.sp.pc, inst0 := (encode (.unimplementedOpcode o)).headD 0
        inst1 := u.wordOr0 x.c.core x.g x.sp.mode (x.sp.pc + 8) }).settle x.r))) ∧
  (∀ (u : State) (core : Nat) (g : Grid) (m : Mode) (a : DWord),
    (∀ f, u.codeWord core g m a = .error f → u.wordOr0 core g m a = 0) ∧
    (∀ w p, u.codeWord core g m a = .ok w → u.xlate core g m .ex a = .ok p →
      u.wordOr0 core g m a = if p.pa / 64 ∈ u.poison then 0 else w)) ∧
  (∀ (s : State) (r : SRef) (c : Cohort) (p : Split) (g : Grid),
    s.cohort? r.c = some c → s.split? r = some p → s.grid? r.c.b.grid = some g → p.hold = none → p.parked = none → g.st = .running →
    let u : State := if s.selected.head? = some r then { s with selected := s.selected.tail } else s
    let word (k : Nat) := s.codeWord c.core g p.mode (p.pc + BitVec.ofNat 64 (8 * k))
    -- a walk that ended without the translation is forgotten with the fault (R235)
    let faults (k : Nat) (f : XFault) : Prop :=
      let a := p.pc + BitVec.ofNat 64 (8 * k)
      let v : State := { u with walks := u.walks.filter fun w => !(w.failed && w.req == ⟨c.core, g.id, a.toNat / 32768⟩) }
      exec (.fetchFault r) s = .next (v.trapEntry r p.lanes { cause := f.cause, pc := p.pc, addr := a, gpa := f.gpa })
    (∀ f, word 0 = .error f → faults 0 f) ∧
    (∀ w, word 0 = .ok w → p.entering = true → exec (.fetchFault r) s = .next (u.enterBlock r)) ∧
    (∀ w, word 0 = .ok w → p.entering = false →
      (∀ k f, 0 < k → k ≤ inlineCount (fld w 63 55) → word k = .error f → (∀ j, j < k → ∃ v, word j = .ok v) → faults k f) ∧
      ((∀ j, j ≤ inlineCount (fld w 63 55) → ∃ v, word j = .ok v) → exec (.fetchFault r) s = .next u)))

/-! ### Privileged registers, returns, TLBI and GRIDEND (R349, R350, R353-R361) -/

/-- R353-R358, R346, R234, R237, R238, R245, R254. PREAD gives what the register map holds for the issuing mode, and PWRITE stores the
writable fields, in the innermost frame, the split's or thread's own bank, the grid, the partition or the core; user mode, a register of
a higher mode, and one that is read-only raise their causes, a read-only one before the check for under-gap (R50). The split that writes
is held until the instruction completes. The model's choices: XINST0, XINST1, XLANES and XJOIN count as read-only (log 25), and a
register of the grid, the partition or the core changes at the completion, everywhere at once, and traps of that cycle still go by the
old XDELEG (log 26). -/
def Obligations.PrivilegedRegistersReadAndWrite : Prop :=
  (∀ (s : State) (c : CRef) (n : Nat) (v : DWord) (hyper : Bool) (g : Grid), s.grid? c.b.grid = some g →
    let makes (t : State) : Prop := s.privWrite c n v hyper = t
    let grid (f : GridRegs → GridRegs) : Prop := makes (s.modGrid c.b.grid fun g => { g with regs := f g.regs })
    let inPart (f : Part → Part) : Prop := makes (s.modPart g.part f)
    -- what traps of this cycle go by (R382)
    let was := match g.vecWas with | some (k, w, _) => if k = s.cycle then w else g.regs.xdeleg | none => g.regs.xdeleg
    let wasVec := match g.vecWas with | some (k, _, v) => if k = s.cycle then v else g.regs.xvec | none => g.regs.xvec
    let vector (f : GridRegs → GridRegs) : Prop :=
      makes (s.modGrid c.b.grid fun g => { g with regs := f g.regs, vecWas := some (s.cycle, was, wasVec) })
    (n = 0x010 → (s.grids.map (·.id)).Nodup → vector fun r => { r with xvec := v &&& 0x0007FFFFFFFFFC01 }) ∧
    (n = 0x011 → ∃ t, makes t ∧ t = { s with grids := t.grids } ∧ (∀ h, h.id ≠ g.id → (h ∈ t.grids ↔ h ∈ s.grids)) ∧
      t.grid? g.id = some { g with
        vecWas := some (s.cycle, was, wasVec)
        regs := { g.regs with xdeleg := if hyper then v.setWidth 32 &&& 0x00080EFE
          else (v.setWidth 32 &&& 0x00000EFE) ||| (g.regs.xdeleg &&& 0x00080000) } }) ∧
    (n = 0x012 → inPart fun p => { p with
      hvec := v &&& 0x0007FFFFFFFFFC01
      hvecWas := some (s.cycle, match p.hvecWas with | some (k, w) => if k = s.cycle then w else p.hvec | none => p.hvec) }) ∧
    (n = 0x040 → grid fun r => { r with ptb := v &&& 0xFFFFFFFFFFFF8000 }) ∧
    (n = 0x041 → grid fun r => { r with llen := BitVec.ofNat 64 (min 16384 (max 64 (fld v 14 0))) }) ∧
    (n = 0x042 → grid fun r => { r with ckint := v.setWidth 32 }) ∧
    (n = 0x043 → grid fun r => { r with ckptr := v &&& 0x0007FFFFFFFFF000 }) ∧
    (n = 0x080 → inPart fun p => { p with hptb := v &&& 0xFFFFFFFFFFFF8001 }) ∧
    (n = 0x081 → inPart fun p => { p with l2req := some (v.getLsbD 0) }) ∧
    (n = 0x082 → inPart fun p => { p with scap := min 8 (max 2 (fld v 3 0)) }) ∧
    (∀ i, i < 14 → n = 0x090 + i → inPart fun p =>
      { p with ism := tput 0 i (if i % 2 = 0 then v else v &&& 0x00000000000FFFFF) p.ism }) ∧
    (∀ i k, 1 ≤ i → i ≤ 15 → n = 0x0C0 + i → s.cohort? c = some k → makes (s.modCore k.core fun d =>
      { d with routes := tput 0 i (v &&& 0x0000FFFFFFFFFFFF) d.routes }))) ∧
  ∀ (o : OpB) (s : State) (x : Ctx) (u : State),
    let n := fld o.imm 11 0
    let wide : Bool := o.imm.getLsbD 12
    let bank := if x.sp.mode = .hypervisor then 1 else 0
    let part := u.part x.g.part
    let regs := x.g.regs
    let above (m : Nat) : Prop := m = 0x00A ∨ m = 0x080
    (Issues (.pread o) s x u →
      (x.sp.mode = .user ∨ x.sp.mode = .supervisor ∧ above n → exec (.pread o) s = .next ((x.raiseAll u 0x02).settle x.r)) ∧
      (x.sp.mode ≠ .user → ¬ (x.sp.mode = .supervisor ∧ above n) →
        let gives (f : Nat → Nat) : Prop := Gives (.pread o) s x u .v (outs o.d (if wide then 2 else 1) f)
        let frame (f : Frame → Nat) : Prop := gives fun _ => match x.sp.frames with | q :: _ => f q | [] => 0
        (n = 0x000 → frame fun f => f.pc.toNat) ∧ (n = 0x001 → frame fun f => f.cause.toNat) ∧ (n = 0x002 → frame fun f => f.inst0.toNat) ∧
        (n = 0x003 → frame fun f => f.inst1.toNat) ∧ (n = 0x004 → frame fun f => f.len.toNat) ∧ (n = 0x005 → frame fun f => f.addr.toNat) ∧
        (n = 0x006 → frame fun f => f.lanes.toNat) ∧ (n = 0x007 → frame fun f => f.prev.toNat) ∧
        (n = 0x008 → frame fun f => f.reconv.toNat) ∧ (n = 0x009 → frame fun f => f.join.toNat) ∧ (n = 0x00A → frame fun f => f.gpa.toNat) ∧
        (n = 0x00B → gives fun _ => x.sp.frames.length) ∧ (n = 0x00C → frame fun f => f.hdr.toNat) ∧
        (n = 0x010 → gives fun _ => regs.xvec.toNat) ∧ (n = 0x011 → gives fun _ => regs.xdeleg.toNat) ∧
        (n = 0x012 → gives fun _ => part.hvec.toNat) ∧
        (∀ i, i < 8 → n = 0x020 + i → gives fun _ => (tget 0 x.sp.kbank (8 * bank + i)).toNat) ∧
        (∀ i, i < 4 → n = 0x028 + i → gives fun l => (tget 0 x.c.xregs (64 * (4 * bank + i) + l)).toNat) ∧
        (n = 0x040 → gives fun _ => regs.ptb.toNat) ∧ (n = 0x041 → gives fun _ => regs.llen.toNat) ∧
        (n = 0x042 → gives fun _ => regs.ckint.toNat) ∧ (n = 0x043 → gives fun _ => regs.ckptr.toNat) ∧
        (n = 0x044 → gives fun _ => regs.sparea.toNat) ∧ (n = 0x080 → gives fun _ => part.hptb.toNat) ∧
        (n = 0x081 → gives fun _ => (if part.l2mode then 1 else 0) + if part.l2req = none then 0 else 2) ∧
        (n = 0x082 → gives fun _ => part.scap) ∧ (∀ i, i < 14 → n = 0x090 + i → gives fun _ => (tget 0 part.ism i).toNat) ∧
        (∀ i, 1 ≤ i → i ≤ 15 → n = 0x0C0 + i → gives fun _ => (tget 0 (u.core x.c.core).routes i).toNat))) ∧
    (let low := lowest x.ex
      let v : DWord := if wide then BitVec.ofNat 64 (x.rdN 2 o.a low) else BitVec.ofNat 64 (x.rd o.a low).toNat
      let both : Prop := n = 0x000 ∨ n = 0x007 ∨ n = 0x00C ∨ n = 0x010 ∨ n = 0x011 ∨ (0x020 ≤ n ∧ n ≤ 0x02B) ∨ (0x040 ≤ n ∧ n ≤ 0x043) ∨
        (0x0C1 ≤ n ∧ n ≤ 0x0CF)
      let hyper : Prop := both ∨ n = 0x012 ∨ (0x080 ≤ n ∧ n ≤ 0x082) ∨ (0x090 ≤ n ∧ n ≤ 0x09D)
      let rank := match x.sp.mode with | .user => 0 | .supervisor => 1 | .hypervisor => 2
      let barred : Prop := x.sp.mode = .user ∨ x.sp.mode = .supervisor ∧ (above n ∨ hyper ∧ ¬ both)
      let fixed : Prop := ¬ barred ∧ ¬ hyper
      let tooHigh : Prop := ¬ barred ∧ n = 0x007 ∧ x.sp.frames ≠ [] ∧ rank < fld v 1 0
      let traps (c : Nat) : Prop := exec (.pwrite o) s = .next ((x.raiseAll u c).settle x.r)
      (s.beginIssue (.pwrite o) = .go x u → x.ex ≠ 0#64 → x.legal = true → fixed → traps 0x05) ∧
      (Issues (.pwrite o) s x u → barred ∨ tooHigh → traps 0x02) ∧
      (Issues (.pwrite o) s x u → ¬ barred → ¬ fixed → ¬ tooHigh →
        let holds (t : State) : State := (t.modSplit x.r fun p => { p with hold := some ⟨.pwrite, x.uid, x.ex, u.cycle⟩ }).settle x.r
        let writes (w : State → State) : Prop := ∃ t, x.Effect u t .v x.ex [] .complete ∧ exec (.pwrite o) s = .next (holds (w t))
        let frame (f : Frame → Frame) : Prop := writes fun t => t.modSplit x.r fun p =>
          { p with frames := match p.frames with | q :: qs => f q :: qs | [] => [] }
        (n = 0x000 → frame fun f => { f with pc := v &&& 0x0007FFFFFFFFFFFF }) ∧
        (n = 0x007 → frame fun f => { f with prev := BitVec.ofNat 32 (fld v 1 0) }) ∧
        (n = 0x00C → frame fun f => { f with hdr := v &&& 0x0007FFFFFFFFFFFF }) ∧
        (∀ i, i < 8 → n = 0x020 + i → writes fun t => t.modSplit x.r fun p =>
          { p with kbank := tput 0 (8 * bank + i) (v.setWidth 32) p.kbank }) ∧
        (∀ i, i < 4 → n = 0x028 + i → tableOk 0 x.c.xregs = true → ∃ f, (writes fun t => t.modCohort x.r.c fun c => { c with xregs := f }) ∧
          ∀ k l, l < 64 → tget 0 f (64 * k + l) =
            if k = 4 * bank + i ∧ x.ex.getLsbD l = true then x.rd o.a l else tget 0 x.c.xregs (64 * k + l)) ∧
        (n = 0x010 ∨ n = 0x011 ∨ n = 0x012 ∨ 0x040 ≤ n → ∃ t, x.Effect u t .v x.ex [] (.priv n v (decide (x.sp.mode = .hypervisor))) ∧
          exec (.pwrite o) s = .next (holds t))))

/-- R350, R184, R185, R35, R373, R375. SRET and HRET return the executing lanes to the mode, address, reconvergence and join that the
innermost frame holds, with the frames without it, in a split of their own where other lanes stay; a use in another mode is illegal, and
an XPC that cannot be fetched traps at the return. A return whose word at XPC is not at hand waits for it first, for the instruction
cache too (log 95, the model's choice). That a header register
which leads to no header gives a block without an end or a reconvergence header is the model's choice (log 21). -/
def Obligations.ReturnsRestoreTheSplit : Prop :=
  ∀ (o : OpA) (s : State) (x : Ctx) (u : State),
    let returns (i : Instr) (m : Mode) : Prop := Issues i s x u →
      (x.sp.mode ≠ m ∨ (∀ f ∈ x.sp.frames.head?, f.entered ≠ m) → exec i s = .next ((x.raiseAll u 0x05).settle x.r)) ∧
      (∀ f fs, x.sp.mode = m → x.sp.frames = f :: fs → f.entered = m →
        let old : Mode := if f.prev = 0 then .user else if f.prev = 1 then .supervisor else .hypervisor
        let word := u.codeWord x.c.core x.g old
        let odd : Prop := f.pc.toNat % 8 ≠ 0 ∨ 2 ^ 51 ≤ f.pc.toNat
        let pages : List DWord := if f.pc.toNat % 8 = 0 then [f.pc] else []
        let ends (v : State) : Prop := exec i s = .next (x.walked pages (v.settle x.r))
        (¬ x.Fetched old u pages → ∃ t p k, exec i s = .next t ∧ s.split? x.r = some p ∧
          t.split? x.r = some { p with hold := some ⟨k, 0, x.ex, s.cycle⟩ } ∧ ((∃ qs, k = .walk qs) ∨ ∃ ls, k = .code ls) ∧
          t.mem = s.mem ∧ t.issued = s.issued) ∧
        (x.Fetched old u pages → odd → ends (x.raiseAll u 0x04 f.pc)) ∧
        (∀ e, x.Fetched old u pages → ¬ odd → word f.pc = .error e → ends (x.raiseAll u e.cause f.pc e.gpa)) ∧
        (∀ w, x.Fetched old u pages → ¬ odd → word f.pc = .ok w → (x.c.pend.Pairwise fun p q => p.reg = q.reg → p.uid < q.uid) →
          let head : Bool := decide (fld w 63 55 = 0x1FF)
          let hdr := if head then f.pc else f.hdr
          let hw : Option DWord := match word hdr with | .ok h => if fld h 63 55 = 0x1FF then some h else none | .error _ => none
          let p : Split :=
            { x.sp with
              lanes := x.ex, mode := old, pc := f.pc, reconv := f.reconv, join := f.join, frames := fs, header := hdr
              blkEnd := (match hw with | some h => hdr + BitVec.ofNat 64 (8 * (1 + hdrLength h)) | none => 0)
              blkReconv := (match hw with | some h => reconvOf hdr h | none => 0)
              parked := none, hold := none, entering := head, passed := 0, starved := false, forced := false, spawn := none }
          -- the cohort afterwards is that of the effect with the splits `qs`; R35 applies
          let becomes (t v : State) (qs : List Split) : Prop := ∃ c d : Cohort, t.cohort? x.r.c = some c ∧ v = t.modCohort x.r.c (fun _ => d) ∧
            d = { c with vregs := d.vregs, sregs := d.sregs, preds := d.preds, pend := d.pend, splits := qs } ∧
            (∀ q ∈ d.pend, q.due = none ∨ q.lanes &&& x.ex = 0#64) ∧ ∀ k l, l < 64 → d.newest (.vec k) l = c.newest (.vec k) l
          ∃ t v, x.Effect u t .v x.ex [] .complete ∧
            (x.ex = x.sp.lanes → becomes t v (x.c.splits.map fun q => if q.id = x.r.split then p else q) ∧
              ends (if head then v.enterBlock x.r else v.settle x.r)) ∧
            (x.ex ≠ x.sp.lanes →
              let r : SRef := { x.r with split := u.fresh }
              becomes t v ((x.c.splits.map fun q => if q.id = x.r.split then { q with lanes := q.lanes &&& ~~~x.ex } else q) ++
                [{ p with id := u.fresh }]) ∧
              let w := v.bump.capSplits r x.ex 1
              ends (if head then w.enterBlock r else w.settle r))))
    returns (.sret o) .supervisor ∧ returns (.hret o) .hypervisor

/-- R359-R361, R346. TLBI removes from every TLB of the wafer the entries that its kind names, and ends when every access that they
translated, by the tags of its issue, is performed, every walk under their tags has ended, and every copy has left the pages it had begun
under them; until then its split is held. GRIDEND ends the grid with the code its operand holds, or with 0x18. In user mode both raise
0x02. The model's choices: TLBI removes these entries and no other (log 44), and it issues once no draft of its block is left (log 100). -/
def Obligations.TlbiAndGridend : Prop :=
  ∀ (o : OpA) (s : State) (x : Ctx) (u : State),
    let low := lowest x.ex
    (Issues (.tlbi o) s x u →
      let kind := fld o.m 1 0
      (∀ a ∈ u.flight, a.c = x.r.c → (∃ l, x.ex.getLsbD l = true ∧ a.hasLane l = true) → a.op.writes = true → a.isFixed = true) →
      (∀ b, u.block? x.r.c.b = some b → b.drafts = []) → (∀ a ∈ u.flight, a.op ≠ .publish x.r.c.b) →
      (x.sp.mode = .user ∨ x.sp.mode = .supervisor ∧ kind = 3 → exec (.tlbi o) s = .next ((x.raiseAll u 0x02).settle x.r)) ∧
      (x.sp.mode ≠ .user → ¬ (x.sp.mode = .supervisor ∧ kind = 3) → tableOk {} u.cores = true → tableOk [] u.tlb2 = true →
        let part := fld (u.part x.g.part).hptb 63 48
        let tag := if kind = 2 then (x.rd o.b low).toNat % 65536 else fld x.g.regs.ptb 63 48
        let va := x.rdN 2 o.a low
        let hit (e : TlbEntry) : Prop := e.htag = part ∧ (kind ≠ 3 → e.tag = tag) ∧
          (kind = 0 → va < 2 ^ 51 ∧ va / max 1 e.leaf = e.vbase / max 1 e.leaf)
        let gone (e : TlbEntry) : Prop := hit e ∧ ((∃ k, e ∈ (u.core k).tlb) ∨ ∃ k, e ∈ tget [] u.tlb2 k)
        let waits (a : Access) : Prop := a ∈ u.flight ∧ a.scratch = false ∧ a.isFixed = false ∧
          a.op.translated = true ∧ a.tags.2 = part ∧ (kind ≠ 3 → a.tags.1 = tag) ∧
          (kind = 0 → ∃ e, gone e ∧ e.vbase ≤ a.va.toNat ∧ a.va.toNat < e.vbase + e.size)
        -- walks in progress, and pages that copies have begun, under what is removed
        let walk (w : Walk) : Prop := w.started = true ∧ w.failed = false ∧ (u.tagsOf w.req.grid).2 = part ∧
          (kind = 3 ∨ fld w.ptb 63 48 = tag)
        ∃ (ids ws : List Nat) (pages : List (Nat × Nat)) (t v : State), (∀ k, k ∈ ids ↔ ∃ a, waits a ∧ a.id = k) ∧
          (∀ k, k ∈ ws ↔ ∃ w ∈ u.walks, walk w ∧ w.id = k) ∧
          (∀ q, q ∈ pages ↔ ∃ o ∈ u.copies, ∃ e, (o.pages.1 = some e ∨ o.pages.2 = some e) ∧ hit e ∧ q = (o.id, e.vbase)) ∧
          x.Effect u t .v x.ex [] (.shootdown ids pages ws) ∧
          v = { t with cores := v.cores, tlb2 := v.tlb2, walks := v.walks } ∧
          (∀ k, v.core k = { u.core k with tlb := (v.core k).tlb } ∧ ∀ e, e ∈ (v.core k).tlb ↔ e ∈ (u.core k).tlb ∧ ¬ hit e) ∧
          (∀ k e, e ∈ tget [] v.tlb2 k ↔ e ∈ tget [] u.tlb2 k ∧ ¬ hit e) ∧
          (v.walks.length = u.walks.length ∧ ∀ (k : Nat) (w : Walk), u.walks[k]? = some w →
            (walk w → v.walks[k]? = some { w with drop := true }) ∧ (¬ walk w → v.walks[k]? = some w)) ∧
          exec (.tlbi o) s =
            .next ((v.modSplit x.r fun p => { p with hold := some ⟨.tlbi, x.uid, x.ex, u.cycle⟩ }).settle x.r))) ∧
    (Issues (.gridend o) s x u →
      let c := (x.rd o.a low).toNat % 256
      let code : Prop := (1 ≤ c ∧ c ≤ 0x0B) ∨ (0x10 ≤ c ∧ c ≤ 0x13) ∨ (0x18 ≤ c ∧ c ≤ 0x1D)
      (x.sp.mode = .user → exec (.gridend o) s = .next ((x.raiseAll u 0x02).settle x.r)) ∧
      (x.sp.mode ≠ .user → ∃ t status, x.Effect u t .v x.ex [] .complete ∧ (code → status = c) ∧ (¬ code → status = 0x18) ∧
        exec (.gridend o) s = .next ((t.endGrid x.g.id (x.r.c.b.block, x.c.slot, low) status).settle x.r)))

/-! ### The issue stage, ends of instructions, spawning (R29, R99, R127, R179-R181, R187-R191) -/

/-- R29, R99, R127, R179-R181. A free quadrant chooses among its ready cohorts by priority, promotion, age and slot, and in the cohort
the starved or the most populous split, with a second one where both are of the vector-ALU class; promotion comes after 64 cycles,
starvation after eight choices, and a yield ends. An instruction whose latency is over, or that completes, lowers its flag. -/
def Obligations.IssueStageChoosesAndEnds : Prop :=
  ∀ (s : State), (s.blocks.map (·.ref)).Nodup → (∀ b ∈ s.blocks, (b.cohorts.map (·.id)).Nodup) →
    (∀ b ∈ s.blocks, ∀ c ∈ b.cohorts, (c.splits.map (·.id)).Nodup) →
    let ready (b : Block) (c : Cohort) (p : Split) : Bool := s.splitReady ⟨⟨b.ref, c.id⟩, p.id⟩
    let each (f : Block → Cohort → Split → Split) : State :=
      { s with blocks := s.blocks.map fun b => { b with cohorts := b.cohorts.map fun c => { c with splits := c.splits.map (f b c) } } }
    -- R179
    (∀ b ∈ s.blocks, ∀ c ∈ b.cohorts, ∀ p ∈ c.splits, ∀ i h g, s.fetched ⟨⟨b.ref, c.id⟩, p.id⟩ = .instr i h → s.grid? b.ref.grid = some g →
      (ready b c p = true ↔ g.st = .running ∧ (b.st = .resident ∨ b.st = .checkpointing ∧ p.forced = true) ∧ p.hold = none ∧
        p.spawn = none ∧ p.parked = none ∧ p.entering = false ∧ s.heldByPackets ⟨⟨b.ref, c.id⟩, p.id⟩ p = false ∧ (∀ f, f < 12 → h.wait.getLsbD f = true → c.flagCount f = 0) ∧
        p.last + max h.gap.toNat 1 ≤ s.cycle ∧ (h.set.toNat ≤ 11 → c.flagCount h.set.toNat < 63) ∧
        ∀ k, p.yieldUntil = some k → k ≤ s.cycle ∨ p.yieldFor = [])) ∧
    -- ISSUE_SELECT
    (∀ core quad,
      let k := s.core core
      let free : Prop := s.selected = [] ∧ tget 0 k.busy quad ≤ s.cycle ∧ tget 0 k.chose quad ≤ s.cycle ∧ k.power = .on
      let cand (b : Block) (c : Cohort) : Prop := b ∈ s.blocks ∧ b.st ≠ .saved ∧ b.st ≠ .restoring ∧ c ∈ b.cohorts ∧ c.core = core ∧
        c.quad = quad ∧ ∃ p ∈ c.splits, ready b c p = true
      let prio (b : Block) : Nat := ((s.grid? b.ref.grid).map fun g => fld (g.word 0) 53 51).getD 0
      let alu (b : Block) (c : Cohort) (p : Split) : Prop := ∃ i h, s.fetched ⟨⟨b.ref, c.id⟩, p.id⟩ = .instr i h ∧ cls i ≠ .v ∧
        ∀ d ∈ (shape i).dsts, isUni d.1 = false
      let more (p q : Split) : Prop := population q.lanes < population p.lanes ∨
        population p.lanes = population q.lanes ∧ lowest p.lanes ≤ lowest q.lanes
      (¬ free ∨ (∀ b c, ¬ cand b c) → exec (.issueSelect core quad) s = .next s) ∧
      (free → (∃ b c, cand b c) → ∃ t b c p, exec (.issueSelect core quad) s = .next t ∧ cand b c ∧ p ∈ c.splits ∧ ready b c p = true ∧
        t = { s with selected := t.selected, cores := t.cores, blocks := t.blocks } ∧
        (∀ b' c', cand b' c' → prio b' < prio b ∨ prio b' = prio b ∧ (c.promoted = true ∧ c'.promoted = false ∨
          c.promoted = c'.promoted ∧ (c.age < c'.age ∨ c.age = c'.age ∧ c.slot ≤ c'.slot))) ∧
        ((∃ q ∈ c.splits, ready b c q = true ∧ q.starved = true) → p.starved = true ∧
          ∀ q ∈ c.splits, ready b c q = true → q.starved = true → lowest p.lanes ≤ lowest q.lanes) ∧
        ((∀ q ∈ c.splits, ready b c q = true → q.starved = false) → ∀ q ∈ c.splits, ready b c q = true → more p q) ∧
        (let other (q : Split) : Prop := q ∈ c.splits ∧ ready b c q = true ∧ q.id ≠ p.id
         let one : Prop := t.selected = [⟨⟨b.ref, c.id⟩, p.id⟩]
         ((∀ q, ¬ other q) → one) ∧
         ((∃ q, other q) → ∃ q, other q ∧ (∀ r, other r → more q r) ∧
          (¬ (alu b c p ∧ alu b c q) → one) ∧
          -- the one with the lower lowest executing lane issues first (R382)
          (alu b c p ∧ alu b c q →
            let rp : SRef := ⟨⟨b.ref, c.id⟩, p.id⟩
            let rq : SRef := ⟨⟨b.ref, c.id⟩, q.id⟩
            t.selected = if s.firstLane rq < s.firstLane rp then [rq, rp] else [rp, rq]))) ∧
        (∀ g, s.grid? b.ref.grid = some g →
          tget 0 (t.core core).busy quad = s.cycle + (if g.desc.getLsbD 24 = true then 2 else 1) * max 1 (s.grade core quad)) ∧
        (∃ d, t.cohort? ⟨b.ref, c.id⟩ = some d ∧ d.promoted = false ∧ d.readySince = none ∧
          ∀ q ∈ d.splits, c.slot ∉ q.yieldFor ∧ ∃ q' ∈ c.splits, q'.id = q.id ∧ q.passed = q'.passed + if ready b c q' = true then 1 else 0))) ∧
    -- promotion, starvation, the end of a yield
    (exec .cohortPromotion s = .next { s with blocks := s.blocks.map fun b => { b with cohorts := b.cohorts.map fun c =>
      { c with promoted := c.promoted || (c.splits.any (ready b c) &&
          match c.readySince with | some k => decide (k + 64 ≤ s.cycle) | none => false) } } }) ∧
    (exec .splitStarvation s = .next (each fun b c p => { p with starved := p.starved || (decide (8 ≤ p.passed) && ready b c p) })) ∧
    (exec .yieldExpiry s = .next (each fun _ _ p => match p.yieldUntil with
      | some k => if k ≤ s.cycle ∨ p.yieldFor = [] then { p with yieldUntil := none, yieldFor := [] } else p
      | none => p)) ∧
    -- the ends of instructions
    (let past (i : Issued) : Bool := match i.fin with
       | .latency due => decide (due ≤ s.cycle)
       | .narrow due _ => decide (due ≤ s.cycle)
       | _ => false
     let sat (i : Issued) : Nat := match i.fin with | .narrow _ n => n | _ => 0
     (s.issued.map (·.uid)).Nodup → ∃ t, exec .classLatencyEnd s = .next t ∧ t = { s with issued := t.issued, blocks := t.blocks } ∧
      (∀ i, i ∈ t.issued ↔ i ∈ s.issued ∧ past i = false) ∧
      ∀ r c, s.cohort? r = some c → tableOk 0 c.flags = true → ∃ d, t.cohort? r = some d ∧
        let mine := s.issued.filter fun i => past i && decide (i.c = r)
        Cohort.Ends c d (mine.map (·.uid)) ∧
        (∀ f, d.flagCount f = c.flagCount f - (mine.filter fun i => i.flag = some f).length) ∧
        d.ovf.toNat = min 0xFFFFFFFF (c.ovf.toNat + (mine.map sat).sum)) ∧
    (∀ i, (s.issued.find? fun j => j.uid = i.uid) = some i →
      -- `t` is `v` with the instruction ended
      let ended (v t : State) : Prop := ∃ f : Cohort → Cohort,
        t = ({ v with issued := s.issued.filter fun j => j.uid ≠ i.uid } : State).modCohort i.c f ∧
        ∀ c, Cohort.Ends c (f c) [i.uid] ∧ (f c).ovf = c.ovf ∧
          (f c).flags = match i.flag with | some k => tput 0 k (c.flagCount k - 1) c.flags | none => c.flags
      let held (r : SRef) : Prop := r ∈ s.allSplits ∧ ∃ p h, s.split? r = some p ∧ p.hold = some h ∧ h.uid = i.uid ∧
        (h.kind = .pwrite ∨ h.kind = .tlbi)
      let ends (v : State) : Prop := ∃ t, ended v t ∧ ((∀ r, ¬ held r) → exec (.classVCompletion i.uid) s = .next t) ∧
        (∀ r, held r → (∀ q, held q → q = r) → s.allSplits.Nodup →
          exec (.classVCompletion i.uid) s = .next ((t.modSplit r fun p => { p with hold := none }).settle r))
      (i.fin = .complete → ends s) ∧ (∀ n v hyper, i.fin = .priv n v hyper → ends (s.privWrite i.c n v hyper)) ∧
      (∀ ids, i.fin = .fence ids → (∃ a ∈ s.flight, a.id ∈ ids ∧ a.isFixed = false) → exec (.classVCompletion i.uid) s = .next s) ∧
      (∀ ids, i.fin = .fence ids → (∀ a ∈ s.flight, a.id ∈ ids → a.isFixed = true) →
        ∃ t, ended s t ∧ exec (.classVCompletion i.uid) s = .next t) ∧
      -- a TLBI ends when the accesses, the walks and the pages of copies that used what it removed have ended (R360)
      (∀ ids pages ws, i.fin = .shootdown ids pages ws →
        let gone : Prop := (∀ a ∈ s.flight, a.id ∈ ids → a.isFixed = true) ∧ (∀ w ∈ s.walks, w.id ∈ ws → w.failed = true) ∧
          ∀ q ∈ pages, ∀ o ∈ s.copies, o.id = q.1 → ∀ e, o.pages.1 = some e ∨ o.pages.2 = some e → e.vbase ≠ q.2
        (gone → ends s) ∧ (¬ gone → exec (.classVCompletion i.uid) s = .next s)))

/-- R187-R191. A split that was chosen to spawn leaves once no class V result is owed to its lanes and the banks serve what the writing of
its records asks: each thread becomes a record of its block's former, with its registers in program order. The former makes a cohort
of W records of one key, or of fewer after 256 cycles, in ascending %tid, on the first quadrant with room or in the reserve. The
model's choices are that a split chosen in the middle of a block goes on at its PC (log 19), that the cohort ignores the spawn bit of its
header (log 43), that records under different headers are kept apart (log 75), that a pair block's cohort goes left first (log 76), that
an access in flight holds a split back (log 78), and the place of a record that overflows the buffer (log 80). -/
def Obligations.SplitsSpawnAndReform : Prop :=
  (∀ (s : State) (r : SRef) (c : Cohort) (p : Split) (g : Grid),
    s.cohort? r.c = some c → s.split? r = some p → s.grid? r.c.b.grid = some g →
    let owed : Prop := ∃ q ∈ c.pend, q.due = none ∧ q.landed = false ∧ q.lanes &&& p.lanes ≠ 0#64 ∧ ∀ n, q.reg ≠ .uni n
    -- an access of one of its threads is in flight (log 78)
    let busy : Prop := ∃ a ∈ s.flight, a.c = r.c ∧ ∃ l, l < 64 ∧ p.lanes.getLsbD l = true ∧ a.hasLane l = true
    let reads := s.spawnReads r
    (p.spawn = none ∨ p.hold.isSome = true ∨ owed ∨ busy ∨ s.regReady reads = false → exec (.spawn r) s = .next s) ∧
    (∀ all, p.spawn = some all → p.hold = none → ¬ owed → ¬ busy → s.regReady reads = true → (c.pend.Pairwise fun p q => p.reg = q.reg → p.uid < q.uid) →
      let live := match s.codeWord c.core g p.mode p.pc with | .ok w => fld w 30 23 | .error _ => g.vregs
      let count := if all then g.vregs else min live g.vregs
      ∃ (d : Cohort) (recs : List SpawnRec),
        exec (.spawn r) s =
          .next (freeCohort ((recs.foldl (State.storeRec r.c.b) ((s.touchAll reads).modCohort r.c fun _ => d)).remerge r.c) r.c) ∧
        d = { c with vregs := d.vregs, sregs := d.sregs, preds := d.preds, pend := d.pend, threads := c.threads &&& ~~~p.lanes
                     splits := c.splits.filter fun q => q.id ≠ p.id } ∧
        List.Forall₂ (fun l (q : SpawnRec) => q.tid = tget 0 c.tids l ∧ q.target = p.pc ∧ q.arrival = s.cycle ∧ q.core = c.core ∧ q.saved = count ∧
          q.midBlock = (if p.entering = true ∨ p.parked.isSome = true then none else some (p.header, p.reconv)) ∧
          (∀ k, k < 7 → q.preds[k]? = some (decide (c.newest (.prd k) l ≠ 0))) ∧
          ∀ k, tget 0 q.regs k = if k < count then c.newest (.vec k) l else 0) (lanesOf p.lanes) recs)) ∧
  -- a record goes to its core's buffer of 64 KiB, or, where that is full, to the context's spawn area, clear of the others there (R189)
  (∀ (s : State) (br : BRef) (q : SpawnRec) (g : Grid), s.grid? br.grid = some g →
    let size := 32 + 4 * q.saved
    let kept (b : Block) (p : SpawnRec) : Prop := b ∈ s.blocks ∧ b.st ≠ .saved ∧ p ∈ b.former
    (s.bufferUse q.core + size ≤ 65536 →
      s.storeRec br q = s.modBlock br fun b => { b with former := b.former ++ [{ q with place := none }] }) ∧
    (65536 < s.bufferUse q.core + size → ∃ o,
      s.storeRec br q = (s.areaWrite g none (g.regs.sparea.toNat + o) (q.bytes br.block)).modBlock br
        (fun b => { b with former := b.former ++ [{ q with place := some o }] }) ∧ (q.bytes br.block).length = size ∧
      ∀ b p h k, kept b p → s.grid? b.ref.grid = some h → h.part = g.part → h.regs.sparea = g.regs.sparea → p.place = some k →
        o + size ≤ k ∨ k + (32 + 4 * p.saved) ≤ o)) ∧
  (∀ (s : State) (br : BRef) (b : Block) (g : Grid) (target : Nat), s.block? br = some b → s.grid? br.grid = some g →
    (s.formTarget b = none → exec (.cohortFormation br target) s = .next s) ∧
    (∀ r rs core quad res, s.formTarget b = some (r, rs, core, quad, res) → r.target.toNat = target →
      let key := b.former.filter fun q => q.target = r.target ∧ q.midBlock = r.midBlock
      let room (k q : Nat) : Prop :=
        (s.quadUse s.blocks k q).1 + 1 ≤ 16 ∧ (s.quadUse s.blocks k q).2.1 + g.vregs * g.width * 4 ≤ 262144 ∧
          (s.quadUse s.blocks k q).2.2 + g.acc ≤ 32 ∧ threadsOn s.blocks k + rs.length ≤ 2048
      b.st = .resident ∧ g.st = .running ∧ r ∈ b.former ∧
      rs.length = min g.width key.length ∧ (g.width ≤ key.length ∨ ∀ q ∈ key, q.arrival + 256 ≤ s.cycle) ∧
      (∀ q ∈ rs, q ∈ key) ∧ (rs.Pairwise fun p q => p.tid ≤ q.tid) ∧ (∀ q ∈ key, q ∉ rs → ∀ p ∈ rs, p.tid ≤ q.tid) ∧
      (res = false → core ∈ b.core :: b.core2.toList ∧ quad < 4 ∧ room core quad ∧ (∀ q, q < quad → ¬ room core q) ∧
        (core ≠ b.core → ∀ q, q < 4 → ¬ room b.core q)) ∧
      (res = true → b.reserveQuad = some (core, quad) ∧ (∀ k ∈ b.core :: b.core2.toList, ∀ q, q < 4 → ¬ room k q) ∧
        ∀ c ∈ b.cohorts, c.reserve = false) ∧
      (rs.length ≤ 64 → ∃ (d : Cohort) (p : Split),
        let v := s.bump.modBlock br fun b =>
          { b with cohorts := b.cohorts ++ [d], nextCohort := b.nextCohort + 1, former := b.former.filter fun q => !rs.contains q }
        let sr : SRef := ⟨⟨br, b.nextCohort⟩, s.fresh⟩
        exec (.cohortFormation br target) s = .next (if r.midBlock.isSome = true then v.loadBounds sr
          else v.enterHeader sr true) ∧
        d = { id := b.nextCohort, core := core, slot := d.slot, quad := quad, age := s.ticks, threads := p.lanes, tids := d.tids
              vregs := d.vregs, preds := d.preds, splits := [p], reformed := true, reserve := res } ∧
        p = { id := s.fresh, pc := r.target, lanes := p.lanes, join := p.lanes
              header := (match r.midBlock with | some m => m.1 | none => r.target)
              reconv := (match r.midBlock with | some m => m.2 | none => 0), entering := r.midBlock.isNone
              joined := if r.midBlock.isNone = true then some false else none } ∧
        (∀ l, p.lanes.getLsbD l = decide (l < rs.length)) ∧
        (∀ l q, rs[l]? = some q → tget 0 d.tids l = q.tid ∧ (∀ k, k < 7 → (tget 0#64 d.preds k).getLsbD l = q.preds.getD k false) ∧
          ((q.regs.map (·.1)).Nodup → ∀ k, tget 0 d.vregs (64 * k + l) = tget 0 q.regs k)) ∧
        (∀ n, n < 16 → 4 * n + quad ∉ slotsUsed s.blocks core → (∀ m, m < n → 4 * m + quad ∈ slotsUsed s.blocks core) →
          d.slot = 4 * n + quad))))

/-! ### Power (R258, R425, R426) -/

/-- R258, R425, R426. A core without a block, and a bank group that nothing reaches while its domain's cores are gated, gate after PGIDLE
ticks, with their copies gone from the moment at which the gating begins (log 60, the model's choice, as is what idle time counts from,
log 48); a gated unit that is wanted waits in its domain's queue for one of eight inrush tokens, which the oldest
requests take, and wakes when its 2,000 ticks are over. A gating takes at most 1,000 ticks. -/
def Obligations.UnitsGateAndWake : Prop :=
  -- of the queue `q` of a domain the oldest take the free tokens, beside those already held, and wake
  let granted (s t : State) (d : Nat) (held : List (Nat × PowerUnit)) (q : List PowerUnit) : Prop :=
    let k := min (8 - held.length) q.length
    (t.dom d).wakes = q.drop k ∧ (t.dom d).tokens = held ++ (q.take k).map (fun u => (s.ticks + 2000, u)) ∧
      ∀ v ∈ (t.dom d).tokens, t.powerOf v.2 = .waking
  (∀ (s : State) (core : Nat),
    let due : Prop := s.pgidle ≠ 0 ∧ (s.core core).power = .on ∧ (s.chart.site? core).isSome = true ∧
      (∀ b ∈ s.blocks, core ∈ b.core :: b.core2.toList → b.st = .saved) ∧ (s.core core).idleSince.getD s.bootTick + s.pgidle ≤ s.ticks
    (¬ due → exec (.coreGate core) s = .next s) ∧
    (due → exec (.coreGate core) s = .next (s.modCore core fun c => { c with power := .gating (s.ticks + 1000), l1 := [], tlb := [] }))) ∧
  (∀ (s : State) (d : Nat),
    let due : Prop := s.pgidle ≠ 0 ∧ d < 84 ∧ (s.dom d).banks = .on ∧ s.banksWanted d = false ∧
      (s.dom d).banksIdle.getD s.bootTick + s.pgidle ≤ s.ticks ∧ ∀ k ∈ s.coreNames, s.coreDomain k = d → (s.core k).power = .gated
    (¬ due → exec (.bankGroupGate d) s = .next s) ∧
    -- the copies that the directory names of the domain's lines go, in the L1s and in the visitor ways, and so do the domain's banks' lines
    let gone (line : Nat) : Bool := decide (paDomain (128 * line) = d) && decide (tget [] s.directory line ≠ [])
    (due → ∃ v : State, v = { s with directory := v.directory, cores := v.cores, l2 := v.l2 } ∧
      exec (.bankGroupGate d) s = .next (v.modDom d fun x => { x with banks := .gating (s.ticks + 1000) }) ∧
      (tableOk [] s.directory = true →
        (∀ line, tget [] v.directory line =
          if paDomain (128 * line) = d then [] else (tget [] s.directory line).filter fun k => k ≠ d) ∧
        (tableOk {} s.cores = true →
          ∀ n, v.core n = { s.core n with l1 := (s.core n).l1.filter fun e => !gone e.line }) ∧
        (tableOk [] s.l2 = true → ∀ n, tget [] v.l2 n =
          if n / 16 = d then [] else (tget [] s.l2 n).filter fun e => !gone e.line)))) ∧
  (∀ (s : State) (d : Nat) (u : PowerUnit),
    let x := s.dom d
    let due : Prop := s.unitDomain u = d ∧ s.powerOf u = .gated ∧
      (s.wanted u = true ∧ u ∉ x.wakes ∨ x.wakes.head? = some u ∧ x.tokens.length < 8)
    (¬ due → exec (.wakeRequest d u) s = .next s) ∧
    (due → ∃ t, exec (.wakeRequest d u) s = .next t ∧ t = { s with cores := t.cores, domains := t.domains } ∧
      granted s t d x.tokens (if s.wanted u = true ∧ u ∉ x.wakes then x.wakes ++ [u] else x.wakes) ∧
      ∀ v, (∀ p ∈ (t.dom d).tokens, p.2 ≠ v) → t.powerOf v = s.powerOf v)) ∧
  (∀ (s : State) (u : PowerUnit),
    let d := s.unitDomain u
    let x := s.dom d
    ((∀ k, s.powerOf u ≠ .gating k) → exec (.gatingComplete u) s = .next s) ∧
    (∀ k, s.powerOf u = .gating k → ∃ t, exec (.gatingComplete u) s = .next t ∧ t = { s with cores := t.cores, domains := t.domains } ∧
      (s.wanted u = false → t.powerOf u = .gated ∧ (t.dom d).wakes = x.wakes ∧ (t.dom d).tokens = x.tokens) ∧
      (s.wanted u = true → granted s t d x.tokens (if u ∈ x.wakes then x.wakes else x.wakes ++ [u]) ∧
        ((∀ p ∈ (t.dom d).tokens, p.2 ≠ u) → t.powerOf u = .gated)))) ∧
  (∀ (s : State), tableOk {} s.cores = true → tableOk {} s.domains = true →
    (∀ d, ((s.dom d).tokens.map (·.2) ++ (s.dom d).wakes).Nodup ∧
      ∀ u ∈ (s.dom d).tokens.map (·.2) ++ (s.dom d).wakes, s.unitDomain u = d) →
    ∃ t, exec .inrushTokenRelease s = .next t ∧ t = { s with cores := t.cores, domains := t.domains } ∧ ∀ d,
      let x := s.dom d
      let past := x.tokens.filter fun p => p.1 ≤ s.ticks
      (past = [] → (t.dom d).wakes = x.wakes ∧ (t.dom d).tokens = x.tokens) ∧
      (past ≠ [] → granted s t d (x.tokens.filter fun p => s.ticks < p.1) x.wakes ∧
        ∀ p ∈ past, t.powerOf p.2 = .on ∧ ∀ n, p.2 = .core n → (t.core n).up = s.cycle))

/-! ### Ports, links, mailbox and boot (R4-R8, R273, R408-R424, R427) -/

/-- R273, R408-R411, R413-R417. What the control ports' reads and writes do, through the aperture and in the register block, with the
refusals that PSTAT records; the management semaphore and the settings that it guards; the failures of links and ports, and another
module's requests. A host write is in flight once its port has received it, after the port's earlier writes to
its bytes, and a read of the fence register is answered when none is left. The model's choices here: that only such a read waits for
earlier writes (log 14), that a read outside installed memory is zero and a bad target (log 53), how a write of some bytes of a register
merges (log 54), that a failed link or port is recorded in domain 0 (log 56), that an unfilled weight-store line reads as poison (log 57),
and that what a port reads of poisoned bytes is open (log 66). -/
def Obligations.PortsReadAndWrite : Prop :=
  ∀ (s : State) (p : Port),
    let r := s.portRegs p
    let up : Prop := r.linkUp = true
    let live : Prop := up ∧ s.bstate ≠ 0x80
    let own := if p = .a then 1 else 2
    let base := if p = .a then 0x10000 else 0x20000
    let next (i : Instr) (t : State) : Prop := exec i s = .next t
    let bad (i : Instr) : Prop := next i (s.modPort p fun q => { q with badtarget := true })
    let takes (limit off n : Nat) : Prop := 1 ≤ n ∧ n ≤ 64 ∧ off % 64 + n ≤ 64 ∧ off + n ≤ limit
    let marked (a : Nat) : Prop := a / 64 ∈ s.poison ∨ a / 2 ^ 44 = 1 ∧ a / 128 ∉ s.filled
    (¬ up → ∀ (b : Bool) (off len : Nat) (bs : List (Option Byte)) (v : DWord) (ws : List DWord),
      next (.hostRead p b off len) s ∧ next (.hostWrite p (.bar0 off) bs) s ∧ next (.hostWrite p (.bar2 off) bs) s ∧ next (.post p b ws) s ∧
        next (.pfence p) s ∧ next (.pstat p v) s ∧ next (.msemClaim p) s ∧ next (.msemRelease p) s ∧ next (.registerWrite p off v) s) ∧
    -- HOST_READ
    (∀ (bar0 : Bool) (off len : Nat), up →
      let i : Instr := .hostRead p bar0 off len
      let reply (bytes : List Byte) : Prop := next i (s.modPort p fun q => { q with reply := bytes, poisoned := false })
      let pa := r.pwin.toNat + off
      let inside : Prop := takes (if bar0 then 2 ^ 21 else 2 ^ 38) off len
      (¬ inside → next i (s.modPort p fun q => { q with reply := [], poisoned := false, badtarget := true })) ∧
      let fenced : Prop := ∃ q, (∃ e ∈ s.flight, e.op = .host q) ∧
        let at' := (if q = .a then 0x10000 else 0x20000) + 0x40
        off < at' + 8 ∧ at' < off + len
      (inside → bar0 = true → fenced → next i s) ∧
      (inside → bar0 = true → ¬ fenced → reply ((List.range len).map fun k =>
        if s.bstate = 0x80 ∧ ¬ (8 ≤ off + k ∧ off + k < 16) then 0 else s.mmioByte (off + k))) ∧
      (inside → bar0 = false → s.bstate = 0x80 → reply (List.replicate len 0)) ∧
      (inside → bar0 = false → s.bstate ≠ 0x80 → (1 < pa / 2 ^ 44 ∨ s.admits pa len = false) →
        next i (s.modPort p fun q => { q with reply := List.replicate len 0, poisoned := false, badtarget := true })) ∧
      (inside → bar0 = false → s.bstate ≠ 0x80 → pa / 2 ^ 44 ≤ 1 → s.admits pa len = true →
        (s.bankReads pa = false → next i s) ∧
        (s.bankReads pa = true → ∃ t, next i t ∧ t.mem = s.mem ∧ t.blocks = s.blocks ∧
          (t.portRegs p).badtarget = r.badtarget ∧ (t.portRegs p).reply.length = len ∧
          ((t.portRegs p).poisoned = true ↔ ∃ k, k < len ∧ marked (pa + k)) ∧
          ((t.portRegs p).poisoned = false → (t.portRegs p).reply = (List.range len).map fun k => s.readMem (pa + k))))) ∧
    -- HOST_WRITE through BAR2
    (∀ (off : Nat) (bytes : List (Option Byte)), live →
      let i : Instr := .hostWrite p (.bar2 off) bytes
      let pa := r.pwin.toNat + off
      let inside : Prop := takes (2 ^ 38) off bytes.length
      (¬ inside → bad i) ∧
      (inside → (pa / 2 ^ 44 ≠ 0 ∨ s.admits pa bytes.length = false) → bad i) ∧
      (inside → pa / 2 ^ 44 = 0 → s.admits pa bytes.length = true →
        ∃ as : List Access, next i { s with fresh := s.fresh + as.length, flight := s.flight ++ as } ∧
          (∀ k b, as[k]? = some b → b.id = s.fresh + k ∧ b.uid = b.id ∧ b.op = .host p ∧ b.stage = .issued ∧ b.scratch = false ∧
            b.draft = false ∧ b.size = b.bytes.length ∧
            (b.covers = true ↔ pa % 64 = 0 ∧ bytes.length = 64 ∧ ∀ v ∈ bytes, v ≠ none) ∧
            ∀ e, e ∈ b.after ↔ ∃ q ∈ s.flight, q.id = e ∧ q.op = .host p ∧ q.scratch = false ∧ q.pa < b.pa + b.size ∧ b.pa < q.pa + q.size) ∧
          (as.Pairwise fun b c => b.pa + b.size < c.pa) ∧
          (∀ a v, (∃ b ∈ as, b.pa ≤ a ∧ b.bytes[a - b.pa]? = some v) ↔ pa ≤ a ∧ bytes[a - pa]? = some (some v)))) ∧
    -- and through BAR0: POST, and the other registers, of which a write of some bytes keeps the others (log 54)
    (∀ (off : Nat) (bytes : List (Option Byte)), up →
      let i : Instr := .hostWrite p (.bar0 off) bytes
      let inside : Prop := takes (2 ^ 21) off bytes.length
      let post : Prop := base ≤ off ∧ off < base + 0x40
      let full : Prop := bytes.length = 64 ∧ ∀ v ∈ bytes, v ≠ none
      (¬ inside → bad i) ∧
      (inside → post → s.bstate ≠ 0x0F → next i (s.modPort p fun q => { q with refused := true })) ∧
      (inside → post → s.bstate = 0x0F → ¬ full → next i (s.modPort p fun q => { q with partialPost := true })) ∧
      (inside → post → s.bstate = 0x0F → full → ∀ ws : List DWord, ws.length = 8 →
        (∀ k, k < 8 → ws.getD k 0 = BitVec.ofNat 64 (numberAt (fun j => (bytes.getD j none).getD 0) (8 * k) 8)) →
        exec i s = exec (.post p true ws) s) ∧
      (inside → ¬ post → s.bstate = 0x80 → next i s) ∧
      (inside → ¬ post → s.bstate ≠ 0x80 → off / 8 = (off + bytes.length - 1) / 8 →
        let at' := off / 8 * 8
        ((∀ v ∈ bytes, v = none) → next i s) ∧
        (∀ v : DWord, (∃ v ∈ bytes, v ≠ none) → (at' = 0x30000 → off = at' ∧ bytes.getD 0 none ≠ none) →
          (∀ k, k < 8 → BitVec.ofNat 8 (v.toNat / 256 ^ k) = (if off ≤ at' + k then bytes.getD (at' + k - off) none else none).getD
            (if at' = base + 0x48 then 0 else s.mmioByte (at' + k))) →
          exec i s = exec (.registerWrite p at' v) s))) ∧
    -- registers
    (up → (∀ e ∈ s.flight, e.op ≠ .host p) →
      next (.pfence p) (s.modPort p fun q => { q with reply := List.replicate 8 0, poisoned := false })) ∧
    ((∃ e ∈ s.flight, e.op = .host p) → next (.pfence p) s) ∧
    (∀ (ones : DWord), live → next (.pstat p ones) (s.modPort p fun q =>
      { q with drop := q.drop && !ones.getLsbD 0, refused := q.refused && !ones.getLsbD 1, notowner := q.notowner && !ones.getLsbD 2
               partialPost := q.partialPost && !ones.getLsbD 3, badtarget := q.badtarget && !ones.getLsbD 4 })) ∧
    -- the management semaphore and its settings: port A's writes of a tick take effect before port B's
    (let early : Prop := ∃ m, s.managed = some m ∧ m.tick = s.ticks ∧ ∃ w ∈ m.writes, w.1 = .b
     let fresh : Prop := ∀ m, s.managed = some m → m.tick ≠ s.ticks
     let managed (i : Instr) (t : State) : Prop := (p = .b ∨ ¬ early) → ∃ m, next i { t with managed := m }
     let guarded (i : Instr) (t : State) : Prop :=
      managed i (if s.msem = own then t else s.modPort p fun q => { q with notowner := true })
     let setting (off : Nat) : Prop := off = 0 ∨ off = 0x10 ∨ (∃ w, w < 16 ∧ off = 0x100 + 8 * w) ∨ ∃ l, l < 32 ∧ off = 0x200 + 8 * l
     (live → managed (.msemClaim p) (if s.msem = 0 then { s with msem := own } else s) ∧
      managed (.msemRelease p) (if s.msem = own then { s with msem := 0 } else s)) ∧
     (∀ v : DWord, live → managed (.registerWrite p 0 v) (if fld v 1 0 = own ∧ s.msem = 0 then { s with msem := own }
      else if fld v 1 0 = 0 ∧ s.msem = own then { s with msem := 0 } else s)) ∧
     (∀ v : DWord, live → guarded (.registerWrite p 0x10 v) { s with pgidle := fld v 31 0 } ∧
      (∀ w, w < 16 → guarded (.registerWrite p (0x100 + 8 * w) v) { s with ewin := tput 0 w (v &&& 0x80FF0000FFFFFFFF) s.ewin }) ∧
      (∀ l, l < 32 → guarded (.registerWrite p (0x200 + 8 * l) v) { s with ein := tput 0 l (v &&& 0xC0FFFFFF00FFFFFF) s.ein })) ∧
     (∀ (o1 o2 : Nat) (v1 v2 : DWord), s.portA.linkUp = true → s.portB.linkUp = true → s.bstate ≠ 0x80 → fresh → setting o1 → setting o2 →
      ∃ b u a w, exec (.registerWrite .b o2 v2) s = .next b ∧ exec (.registerWrite .a o1 v1) b = .next u ∧
        exec (.registerWrite .a o1 v1) s = .next a ∧ exec (.registerWrite .b o2 v2) a = .next w ∧
        { u with managed := none } = { w with managed := none })) ∧
    (next (.portLinkDown p) (let t := s.modPort p fun q => { q with linkUp := false }
      if s.msem = own then { t with msem := 0, managed := none } else t)) ∧
    (∀ (off : Nat) (v : DWord), live → off % 8 = 0 → off < 2 ^ 21 →
      let i : Instr := .registerWrite p off v
      let sets (f : PortRegs → PortRegs) : Prop := next i (s.modPort p f)
      (off = base + 0x48 → exec i s = exec (.pstat p v) s) ∧
      (base ≤ off → off < base + 0x40 → (s.bstate ≠ 0x0F → sets fun q => { q with refused := true }) ∧
        (s.bstate = 0x0F → sets fun q => { q with partialPost := true })) ∧
      (off = base + 0x50 → sets fun q => { q with pptb := v &&& 0xFFFFFFFFFFFF8000 }) ∧
      (off = base + 0x58 → sets fun q => { q with phptb := v &&& 0xFFFFFFFFFFFF8001 }) ∧
      (off = base + 0x60 → sets fun q => { q with pwin := v &&& 0x0000FFC000000000 }) ∧
      (off = base + 0x70 → sets fun q => { q with pgrid := v &&& 0x0000FFFFFFFFFFC1 }) ∧
      (off = 0x30000 → fld v 7 0 = 1 → exec i s = exec (.readRecorder p (fld v 15 8)) s) ∧
      (off = 0x30010 → next i { s with mailbox := { s.mailbox with buffer := fld v 47 12 * 4096 } }) ∧
      (∀ n, n < 8 → off = 0x30040 + 8 * n → s.mailbox.nonce.length = 64 → ∃ bs, next i { s with mailbox := { s.mailbox with nonce := bs } } ∧
        bs.length = 64 ∧ ∀ k, k < 64 → bs.getD k 0 =
          if 8 * n ≤ k ∧ k < 8 * n + 8 then BitVec.ofNat 8 (v.toNat / 256 ^ (k - 8 * n)) else s.mailbox.nonce.getD k 0) ∧
      (off = 8 ∨ off = base + 0x40 ∨ off = base + 0x68 ∨ off = 0x30008 ∨ 0x100000 ≤ off ∨
        (0x10000 ≤ off ∧ off < 0x30000 ∧ ¬ (base ≤ off ∧ off < base + 0x78)) → next i s)) ∧
    -- links and ports that fail
    (∀ n, (16 ≤ n ∨ n ∈ s.cxlDown → next (.cxlPortFailure n) s) ∧
      (n < 16 → n ∉ s.cxlDown → ∃ t, next (.cxlPortFailure n) t ∧ t = { s with cxlDown := t.cxlDown, domains := t.domains } ∧
        (∀ k, k ∈ t.cxlDown ↔ k = n ∨ k ∈ s.cxlDown) ∧
        (s.frozen = false → (t.dom 0).ring.getLast? = some ⟨s.ticks, 8, false, 0, 0xFFFFFF, n⟩)) ∧
      (32 ≤ n ∨ n ∈ s.linksDown → next (.edgeLinkDown n) s) ∧
      (n < 32 → n ∉ s.linksDown → ∃ t, next (.edgeLinkDown n) t ∧ t.mem = s.mem ∧ (∀ k, k ∈ t.linksDown ↔ k = n ∨ k ∈ s.linksDown) ∧
        (s.frozen = false → (t.dom 0).ring.getLast? = some ⟨s.ticks, 8, false, 0, 0xFFFFFF, n⟩) ∧
        let cut (o : CopyOp) (a : Nat) : Prop := o ∈ s.copies ∧ s.begins o = true ∧ s.crossing o n = some a
        (∀ o, o ∈ t.copies ↔ o ∈ s.copies ∧ ∀ q a, cut q a → q.id ≠ o.id) ∧
        ((s.copies.map (·.id)).Nodup → ∀ q a, cut q a → ∀ k c, s.cohort? ⟨q.b, k⟩ = some c → ∃ d, t.cohort? ⟨q.b, k⟩ = some d ∧ ∀ h,
          tget .empty c.handles h = .pending q.id → tget .empty d.handles h = .resolved 7 false q.done (BitVec.ofNat 64 a)))) ∧
    -- INBOUND_REQUEST
    (∀ (link addr len : Nat) (data : Option (List Byte)),
      let i : Instr := .inboundRequest link addr len data
      let w := tget 0 s.ein link
      let n := match data with | some bs => bs.length | none => len
      let ok : Prop := w.getLsbD (if data = none then 63 else 62) = true ∧ 1 ≤ n ∧ fld w 23 0 ≤ addr / 2 ^ 24 ∧
        (addr + n - 1) / 2 ^ 24 < fld w 55 32 ∧ addr / 2 ^ 44 ≤ (if data = none then 1 else 0) ∧ s.admits addr n = true
      (link ∈ s.linksDown ∨ 32 ≤ link ∨ s.bstate = 0x80 ∨ s.stopped = true → next i s) ∧
      (link ∉ s.linksDown → link < 32 → s.bstate ≠ 0x80 → s.stopped = false →
        (¬ ok → next i { s with edgeReply := s.edgeReply ++ [(link, none)] }) ∧
        -- a read waits until the banks of all its bytes are ready
        (ok → data = none →
          ((∃ k, k < n ∧ s.bankReads (addr + k) = false) → next i s) ∧
          ((∀ k, k < n → s.bankReads (addr + k) = true) →
            ∃ t, next i t ∧ t.mem = s.mem ∧ t.edgeReply = s.edgeReply ++ [(link, some ((List.range n).map fun k =>
              if (addr + k) / 64 ∈ s.poison ∨ (addr + k) / 2 ^ 44 = 1 ∧ (addr + k) / 128 ∉ s.filled then none
              else some (s.readMem (addr + k))))])) ∧
        -- of a write, the bytes in a sector are performed at once where its line is free, no packet stands at its bank that the bank could
        -- take up, and no earlier write of the link to them is on its way; the others are on theirs, and the reply comes when all are performed
        (ok → addr / 64 = (addr + n - 1) / 64 ∨ (∀ k, k < n → s.NoPacketAt (addr + k)) → ∀ bs, data = some bs →
          let mine (q : Access) : Prop := q ∈ s.flight ∧ q.op = .edge link ∧ q.scratch = false
          let now (a : Nat) : Prop := s.lineFree a = true ∧ s.bankQuiet a = true ∧ ∀ q, mine q →
            q.pa + q.size ≤ max addr (a / 64 * 64) ∨ min (addr + n) (a / 64 * 64 + 64) ≤ q.pa
          (Memory.wf s.mem = true → ∃ t, next i t ∧ ∀ a, (addr ≤ a → a < addr + n → now a → t.readMem a = bs.getD (a - addr) 0) ∧
            (¬ (addr ≤ a ∧ a < addr + n ∧ now a) → t.readMem a = s.readMem a)) ∧
          ((∀ k, k < n → now (addr + k)) → (∀ q ∈ s.flight, q.op = .edge link → q.uid ≠ s.fresh) →
            ∃ t, next i t ∧ t.edgeReply = s.edgeReply ++ [(link, some [])]) ∧
          ((∀ k, k < n → ¬ now (addr + k)) →
            ∃ as : List Access, next i { s with fresh := s.fresh + 1 + as.length, flight := s.flight ++ as } ∧
              (∀ k b, as[k]? = some b → b.id = s.fresh + 1 + k ∧ b.uid = s.fresh ∧ b.op = .edge link ∧ b.stage = .issued ∧
                b.scratch = false ∧ b.draft = false ∧ b.size = b.bytes.length ∧ (b.pa + b.size - 1) / 64 = b.pa / 64 ∧
                (b.covers = true ↔ b.pa % 64 = 0 ∧ b.size = 64) ∧
                ∀ e, e ∈ b.after ↔ ∃ q, mine q ∧ q.id = e ∧ q.pa < b.pa + b.size ∧ b.pa < q.pa + q.size) ∧
              ∀ a v, (∃ b ∈ as, b.pa ≤ a ∧ b.bytes[a - b.pa]? = some v) ↔ addr ≤ a ∧ bs[a - addr]? = some v))))

/-- R4-R8, R256, R410, R418-R424, R427, R428. A reset starts the boot, whose steps set BSTAT.state one by one as far as the firmware slots
and the defect map copies allow: the report card and the chart are those of the roll call, DRAM and recorders keep what they held, and
wafer time never goes back. The mailbox takes a command when it is not busy, of two in one tick port A's, or answers 3; the result stands
in the buffer when the command is done. A fatal event freezes every recorder and stops the module. The model's choices: the bytes of a
recorder entry (log 5), the defect map of the module (log 6), the free digests and keys (log 7), when Afnar fixes a result (log 55), and
what else a reset keeps (log 59). -/
def Obligations.BootMailboxAndFatalEvents : Prop :=
  (∀ (s : State), ∃ t, exec .reset s = .next t ∧ t.bstate = 0x01 ∧ t.stopped = false ∧
    t.grids = [] ∧ t.blocks = [] ∧ t.cores = [] ∧ t.flight = [] ∧ t.msem = 0 ∧ t.portA = {} ∧ t.portB = {} ∧ t.lastLaunch = 0 ∧
    t.frozen = s.frozen ∧ (tableOk {} s.domains = true → ∀ d, (t.dom d).ring = (s.dom d).ring ∧ (t.dom d).events = (s.dom d).events) ∧
    (s.nv.supplyLost = false → t.ticks = s.ticks ∧ t.mem = s.mem) ∧
    (s.nv.supplyLost = true → ∀ d ∈ s.domains, ∀ e ∈ d.2.ring, e.time < t.ticks)) ∧
  -- the steps of the boot
  (∀ (s : State), s.agenda = [] → s.selected = [] → s.flight = [] → s.mailbox.status ≠ 1 → s.stopped = false → s.bstate < 0x0F →
    let t : State := { s with draw := s.draw + 1 }
    step s = .next t.bootStep ∨ step s = .next t.clock) ∧
  (∀ (s : State),
    let t := s.bootStep
    let slot := s.nv.slots.take 2
    let maps := s.nv.maps.take 2
    let rejected := (maps.findIdx? (·.1)).getD 2
    (s.bstate = 0x01 → t.mem = s.mem ∧ t.domains = s.domains ∧ t.nv.boots = s.nv.boots + 1 ∧
      (slot.any id = false → t.bstate = 0x80) ∧
      (slot.any id = true → t.bstate = 0x02 ∧ t.fwslot = (if slot.head? = some true then 0 else 1))) ∧
    (s.bstate = 0x02 → t.mem = s.mem ∧ t.nv = s.nv ∧ t.fwslot = s.fwslot ∧
      (s.frozen = false → (t.dom 0).events = (s.dom 0).events + rejected ∧
        (0 < rejected → (t.dom 0).ring.getLast? = some ⟨s.ticks, 7, false, 0, 0xFFFFFF, rejected - 1⟩)) ∧
      (maps.any (·.1) = false → t.bstate = 0x81 ∧ t.chart = s.chart) ∧
      (maps.any (·.1) = true → t.bstate = 0x03 ∧ t.mapcopy = rejected)) ∧
    (s.bstate = 0x03 → ∀ m, (maps.find? (·.1)) = some (true, m) → t.bstate = 0x04 ∧ t.mapcopy = s.mapcopy ∧
      t.chart.rects = rollCall 255 (enabledRows m) ∧ t.chart.gcores = (t.chart.rects.map fun q => q.rows * q.cols).sum ∧
      t.chart.gsram = (1984 * t.chart.gcores + 2048 * (1344 - t.chart.banks.length)) / 1024 ∧
      t.chart.gbisect = bisection t.chart.detours ∧ t.chart.gdetour = longestDetour t.chart.detours ∧
      (let c := t.chart
       c.grade = if 5248 ≤ c.gcores ∧ 45000 ≤ c.gbisect ∧ c.gdetour ≤ 2 then 1
         else if 5120 ≤ c.gcores ∧ 44000 ≤ c.gbisect ∧ c.gdetour ≤ 4 then 2
         else if 4864 ≤ c.gcores ∧ 40000 ≤ c.gbisect ∧ c.gdetour ≤ 6 then 3 else 0) ∧
      (Memory.wf s.mem = true → ∀ a, t.readMem a =
        if a < (chartBytes t.chart).length then (chartBytes t.chart).getD a 0 else s.readMem a)) ∧
    (s.bstate = 0x04 → t = { s with bstate := 0x0F }) ∧
    (0x04 < s.bstate → t = s)) ∧
  (∀ (s : State) (domain code : Nat), ∃ t, exec (.fatalEvent domain code) s = .next t ∧
    t = { s with domains := t.domains, frozen := true, stopped := true, bstate := 0x82 } ∧
    (s.frozen = false → (t.dom domain).ring.getLast? = some ⟨s.ticks, 9, true, domain, 0xFFFFFF, code⟩ ∧
      (t.dom domain).events = (s.dom domain).events + 1) ∧ (s.frozen = true → t.domains = s.domains)) ∧
  (∀ (s : State) (result : List Byte),
    let m := s.mailbox
    let ready : Prop := m.status = 1 ∧ (∀ e ∈ s.flight, e.op ≠ .afnar) ∧ ∀ q, m.taken = some q → q.2 < s.ticks
    let thawed : Bool := if m.cmd = 3 then false else s.frozen
    (¬ ready → exec .afnarCommandDone s = .next s) ∧
    -- the writes of the result have all been performed: done
    (ready → m.writing = true → exec .afnarCommandDone s =
      .next { s with mailbox := { m with status := 2, writing := false }, frozen := thawed, draw := s.draw + 1 }) ∧
    (ready → m.writing = false →
      (m.cmd = 1 ∧ m.domain < 84 ∧ result = s.recorderBytes m.domain) ∨ (m.cmd = 2 ∧ result = s.report) ∨ (m.cmd = 3 ∧ result = []) ∨
        (m.cmd = 4 ∧ result = (List.range 2592).map Config.identityKey ++ Config.certificate) →
      let inside (a : Nat) : Prop := m.target ≤ a ∧ a < m.target + result.length
      -- where every line is free, and no packet stands at its bank, the result is written and the command done
      (Memory.wf s.mem = true → (∀ a, inside a → s.lineFree a = true ∧ s.NoPacketAt a) → ∃ t, exec .afnarCommandDone s = .next t ∧
        t.mailbox = { m with status := 2, writing := false } ∧ t.frozen = thawed ∧
        ∀ a, t.readMem a = if inside a then result.getD (a - m.target) 0 else s.readMem a) ∧
      -- else the bytes of free lines are written now
      (m.target % 64 = 0 → Memory.wf s.mem = true → (∀ a, inside a → s.NoPacketAt a) → ∃ t, exec .afnarCommandDone s = .next t ∧ ∀ a,
        (inside a → s.lineFree a = true → t.readMem a = result.getD (a - m.target) 0) ∧
        (¬ (inside a ∧ s.lineFree a = true) → t.readMem a = s.readMem a)) ∧
      -- where none is free, every write is on its way
      (m.target % 64 = 0 → result ≠ [] → (∀ a, inside a → s.lineFree a = false) →
        ∃ as : List Access, exec .afnarCommandDone s =
          .next { s with fresh := s.fresh + as.length, flight := s.flight ++ as, mailbox := { m with writing := true } } ∧
          (∀ k b, as[k]? = some b → b.id = s.fresh + k ∧ b.op = .afnar ∧ b.stage = .issued ∧ b.scratch = false ∧ b.draft = false ∧
            b.scope = 3 ∧ b.size = b.bytes.length ∧ b.pa = m.target + 64 * k ∧ b.size ≤ 64 ∧ b.after = []) ∧
          ∀ a v, (∃ b ∈ as, b.pa ≤ a ∧ b.bytes[a - b.pa]? = some v) ↔ m.target ≤ a ∧ result[a - m.target]? = some v))) ∧
  (∀ (s : State) (p : Port) (domain : Nat),
    let own := if p = .a then 1 else 2
    let live : Prop := (s.portRegs p).linkUp = true ∧ s.bstate ≠ 0x80
    let taken : Prop := if p = .a then s.mailbox.status ≠ 1 ∨ s.mailbox.taken = some (.b, s.ticks)
      else s.mailbox.status ≠ 1 ∧ s.mailbox.taken ≠ some (.a, s.ticks)
    let runs (i : Instr) (dom cmd : Nat) (known : Prop) (result : List Byte) (gives : State → List Byte) : Prop :=
      let m : Mailbox := { s.mailbox with domain := dom, cmd := cmd, target := s.mailbox.buffer, taken := some (p, s.ticks) }
      let fits : Prop := result = [] ∨ m.buffer / 2 ^ 44 = 0 ∧ s.admits m.buffer result.length = true
      (¬ live ∨ ¬ taken → cmd ≠ 3 ∨ s.msem = own → exec i s = .next s) ∧
      (live → taken → ¬ (known ∧ fits) → cmd ≠ 3 → exec i s = .next { s with mailbox := { m with status := 3 } }) ∧
      (live → taken → known → fits → cmd ≠ 3 ∨ s.msem = own → exec i s = .next { s with mailbox := { m with status := 1 } }) ∧
      -- it completes: in any later state that holds the command, Afnar's writes not hindered, the result comes to stand in the buffer
      (live → taken → known → fits → cmd ≠ 3 ∨ s.msem = own → s.mailbox.writing = false →
        ∃ t, exec i s = .next t ∧ t.mailbox = { m with status := 1 } ∧
          ∀ u : State, u.mailbox = t.mailbox → t.ticks < u.ticks → (∀ e ∈ u.flight, e.op ≠ .afnar) → Memory.wf u.mem = true →
            let inside (a : Nat) : Prop := m.buffer ≤ a ∧ a < m.buffer + (gives u).length
            (∀ a, inside a → u.lineFree a = true ∧ u.NoPacketAt a) → ∃ v, exec .afnarCommandDone u = .next v ∧
              v.mailbox = { m with status := 2, writing := false } ∧ v.frozen = (if cmd = 3 then false else u.frozen) ∧
              ∀ a, v.readMem a = if inside a then (gives u).getD (a - m.buffer) 0 else u.readMem a)
    (live → s.msem ≠ own → exec (.unfreeze p) s = .next (s.modPort p fun q => { q with notowner := true })) ∧
    runs (.readRecorder p domain) (domain % 256) 1 (domain % 256 < 84) (s.recorderBytes (domain % 256))
      (fun u => u.recorderBytes (domain % 256)) ∧
    runs (.attestationReport p) s.mailbox.domain 2 True s.report (fun u => u.report) ∧
    runs (.unfreeze p) s.mailbox.domain 3 True [] (fun _ => []) ∧
    (let key := (List.range 2592).map Config.identityKey ++ Config.certificate
     runs (.identityPublicKey p) s.mailbox.domain 4 True key (fun _ => key))) ∧
  (∀ (s : State) (d : Nat),
    let x := s.dom d
    let b := s.recorderBytes d
    let long (off n : Nat) : Nat := numberAt (fun k => b.getD k 0) off n
    x.ring.length ≤ 4096 → x.events < 2 ^ 64 →
      b.length = 131136 ∧ long 0 4 = x.events % 4096 ∧ b.getD 4 0 = (if s.frozen then 1 else 0) ∧ long 8 8 = x.events ∧
      ∀ k e, x.ring[k]? = some e → e.time < 2 ^ 64 → e.type < 256 → e.domain < 256 → e.core < 2 ^ 32 → e.payload < 2 ^ 128 →
        let o := 64 + 32 * k
        long o 8 = e.time ∧ long (o + 8) 1 = e.type ∧ long (o + 9) 1 = (if e.fatal then 1 else 0) ∧ long (o + 10) 1 = e.domain ∧
          long (o + 12) 4 = e.core ∧ long (o + 16) 16 = e.payload) ∧
  (∀ (s : State), s.mailbox.nonce.length = 64 →
    let b := s.report
    let long (off n : Nat) : Nat := numberAt (fun k => b.getD k 0) off n
    b.length = 4883 ∧ long 0 8 = 1 ∧ (∀ k, k < 64 → b.getD (8 + k) 0 = s.mailbox.nonce.getD k 0 ∧
      b.getD (72 + k) 0 = Config.firmwareDigest s.fwslot k ∧ b.getD (136 + k) 0 = Config.mapDigest s.mapcopy k) ∧
    long 0xC8 4 = s.chart.gcores % 2 ^ 32 ∧ long 0xCC 4 = s.chart.gbisect % 2 ^ 32 ∧ long 0xD0 4 = s.chart.gsram % 2 ^ 32 ∧
    long 0xD4 4 = s.chart.gdetour % 2 ^ 32 ∧ long 0xD8 8 = (s.bstate + s.chart.grade * 2 ^ 10 + s.fwslot * 2 ^ 12 + s.mapcopy * 2 ^ 13) % 2 ^ 64 ∧
    long 0xE0 8 = s.ticks % 2 ^ 64 ∧ long 0xE8 8 = s.nv.boots % 2 ^ 64)

/-! ### Placement, pre-emption, rescue, retirement (R98, R161-R164, R170-R178, R183, R193, R194, R393) -/

/-- R161-R164, R171-R173, R175, R178, R183, R393. A new block fits on a core, or a pair, when every limit holds with its cohorts and its
reserve, which takes the lowest such quadrant. The core is that of R172. Of the pending blocks the first that fits goes first; it starts
with zeros, as the state of R183; a grid with a saved block that no core can take ends with 0x1A; and a core is marked for the oldest
pending block of a priority once it has waited 10,000 ticks. A core of a pair is marked with its left core. The model's choices: that a
grade of 255 marks a failed array however it came there (log 64), the order of pending blocks at equal age (log 67), and that a core
marked for an older block is not a core with room (log 73). -/
def Obligations.BlocksArePlaced : Prop :=
  let before (g h : Grid) : Prop := h.prio < g.prio ∨ h.prio = g.prio ∧ (g.age < h.age ∨ g.age = h.age ∧ g.id ≤ h.id)
  let right (g : Grid) (c : Nat) : Bool := g.pair && decide (2048 ≤ g.width * c)
  let cohorts (g : Grid) : Nat := (g.ntid + g.width - 1) / g.width
  let threads (g : Grid) (c : Nat) : Nat := min g.width (g.ntid - g.width * c)
  let index (p : Pending) : Nat := match p.saved with | some b => b.ref.block | none => p.grid.next
  let since (p : Pending) : Option Nat := match p.saved with | some b => b.waitSince | none => p.grid.waitFrom
  -- R163, R164: the fit of a new block
  (∀ (s : State) (core k : Nat), s.pairOf core = some k ↔
    ∃ r, s.chart.rects[core / 65536]? = some r ∧ core % 2 = 0 ∧ core % 256 + 1 < r.cols ∧ k = core + 1) ∧
  (∀ (s : State) (bs : List Block) (g : Grid) (core : Nat),
    let ok (k : Nat) (side : Bool) (res : Option Nat) : Prop :=
      let cs := (List.range (cohorts g)).filter fun c => right g c == side
      threadsOn bs k + (cs.map (threads g)).sum ≤ 2048 ∧ s.scratchOn bs k + g.scratchBytes ≤ 524288 ∧
        (g.acc = 0 ∨ s.arrayFailed k = false) ∧
        ∀ q, q < 4 →
          let n := (cs.filter fun c => c % 4 == q).length + if res = some q then 1 else 0
          (s.quadUse bs k q).1 + n ≤ 16 ∧ (s.quadUse bs k q).2.1 + n * (g.vregs * g.width * 4) ≤ 262144 ∧
            (s.quadUse bs k q).2.2 + n * g.acc ≤ 32
    let least (p : Nat → Prop) (q : Nat) : Prop := q < 4 ∧ p q ∧ ∀ k, k < q → ¬ p k
    let f := s.fitPending bs ⟨g, none⟩ core
    (g.pair = false → (f = none ↔ ∀ q, q < 4 → ¬ ok core false (some q)) ∧
      ∀ q, least (fun q => ok core false (some q)) q → f = some ⟨none, (core, q), threadsOn bs core, []⟩) ∧
    (g.pair = true → s.pairOf core = none → f = none) ∧
    (∀ k, g.pair = true → s.pairOf core = some k →
      let onLeft (q : Nat) : Prop := ok core false (some q) ∧ ok k true none
      let onRight (q : Nat) : Prop := ok core false none ∧ ok k true (some q)
      (∀ q, least onLeft q → f = some ⟨some k, (core, q), threadsOn bs core, []⟩) ∧
      (∀ q, (∀ p, p < 4 → ¬ onLeft p) → least onRight q → f = some ⟨some k, (k, q), threadsOn bs core, []⟩) ∧
      ((∀ p, p < 4 → ¬ onLeft p ∧ ¬ onRight p) → f = none))) ∧
  -- R172, R173, R178: the core
  (∀ (s : State) (g : Grid),
    (g.hrmode = 0 → s.targetOf g = g.target) ∧ (g.hrmode = 1 → s.targetOf g = some (g.word 3).toNat) ∧
    (g.hrmode = 2 →
      let a := fld (g.word 3) 50 0
      match s.walkFull (s.part g.part) g.regs.ptb a with
      | .ok e =>
        let pa := e.place a
        s.targetOf g = if pa / 2 ^ 44 ≤ 1 then some (pa / 2 ^ 36 % 256) else none
      | .error _ => s.targetOf g = none)) ∧
  (∀ (s : State) (bs : List Block) (p : Pending),
    let span (g : Grid) (c : Nat) : List Nat := c :: if g.pair then (s.pairOf c).toList else []
    -- the mark of a grid bars the block: it stands for an older one, or a rescue keeps the core for another
    let bars (g : Grid) (m : Mark) : Prop :=
      (g.id = p.grid.id → index p ≠ m.block ∧
        (m.kept = true ∨ ∃ q ∈ (s.pendingOf g).takeWhile fun q => index q != index p, index q = m.block)) ∧
      (g.id ≠ p.grid.id → m.kept = true ∨ before g p.grid)
    let may (k : Nat) (f : Fit) : Prop := k ∈ s.coreNames ∧ s.fitPending bs p k = some f ∧
      ∀ g ∈ s.grids, ∀ m, g.st = .running → g.mark = some m → bars g m → ∀ c ∈ span g m.core, c ∉ span p.grid k
    let kept (k : Nat) (f : Fit) : Prop := (∃ g m, s.grid? p.grid.id = some g ∧ g.mark = some m ∧ m.kept = true ∧ m.block = index p ∧
      m.core = k) ∧ s.fitPending bs p k = some f
    let weight (k : Nat) : ℚ := 1 / (([0, 1, 2, 3].map (s.grade k)).foldl max 1 : Nat)
    let room (d : Nat) : ℚ := ((s.coreNames.filter fun k =>
      decide (s.coreDomain k = d) && !s.markedFor p k && (s.fitPending bs p k).isSome).map weight).sum
    let hop (d e : Nat) : Nat := 4 * ((d / 12 - e / 12) + (e / 12 - d / 12) + ((d % 12 - e % 12) + (e % 12 - d % 12)))
    (∀ k f, kept k f → s.coreFor bs p = some (k, f)) ∧
    ((∀ k f, ¬ kept k f) → (s.coreFor bs p = none ↔ ∀ k f, ¬ may k f) ∧
    ∀ k f, s.coreFor bs p = some (k, f) → may k f ∧ ∀ k' f', may k' f' →
      let d := s.coreDomain k
      let e := s.coreDomain k'
      let roomier : Prop := room e < room d ∨ room e = room d ∧ d ≤ e
      (match s.targetOf p.grid with
       | some t => d = t ∨ e ≠ t ∧ (hop t d < hop t e ∨ hop t d = hop t e ∧ roomier)
       | none => roomier) ∧
      (e = d → weight k' < weight k ∨ weight k' = weight k ∧ (f.threads < f'.threads ∨ f.threads = f'.threads ∧ k ≤ k')))) ∧
  -- R171, R174, R175, R177: the order of pending blocks
  (∀ (s : State) (p : Pending), p ∈ s.pendingAll ↔ p.grid ∈ s.grids ∧ p ∈ s.pendingOf p.grid) ∧
  (∀ (s : State) (g : Grid),
    let saved (b : Block) : Prop := b ∈ s.blocks ∧ b.ref.grid = g.id ∧ b.st = .saved
    (g.st ≠ .running → s.pendingOf g = []) ∧
    -- the pre-empted blocks in the order of their saves, the next undispatched block, the rescued block that was saved first (R195)
    (g.st = .running → ∃ (pre res : List Block) (mid : List Pending),
      s.pendingOf g = pre.map (fun b => ⟨g, some b⟩) ++ mid ++ (res.take 1).map (fun b => ⟨g, some b⟩) ∧
      (let next : Prop := g.next < g.blockCount ∧ (g.depkind = 1 → g.tiles = true) ∧ s.producerFailed g = false
       (next → mid = [⟨g, none⟩]) ∧ (¬ next → mid = [])) ∧
      (∀ b, (b ∈ pre ↔ saved b ∧ b.rescued = false) ∧ (b ∈ res ↔ saved b ∧ b.rescued = true)) ∧
      pre.Pairwise (fun b c => b.saveOrder ≤ c.saveOrder) ∧ res.Pairwise fun b c => b.saveOrder ≤ c.saveOrder)) ∧
  (∀ (s : State), s.pendingAll.Pairwise fun p q => before p.grid q.grid) ∧
  (∀ (s : State), (s.choosePlacement = none ↔ ∀ q ∈ s.pendingAll, s.coreFor s.blocks q = none) ∧
    ∀ p k f, s.choosePlacement = some (p, k, f) → p ∈ s.pendingAll ∧ s.coreFor s.blocks p = some (k, f) ∧
      (∃ as bs, s.pendingAll = as ++ p :: bs ∧ ∀ q ∈ as, s.coreFor s.blocks q = none) ∧
      ∀ q ∈ s.pendingAll, (s.coreFor s.blocks q).isSome = true → before p.grid q.grid) ∧
  -- BLOCK_PLACEMENT
  (∀ (s : State),
    (s.incompatible = none → s.choosePlacement = none → exec .blockPlacement s = .next s) ∧
    -- the banks do not serve yet what the placing reads
    (∀ p c, s.incompatible = none → s.choosePlacement = some (p, c) → s.regReady (s.placeReads p) = false →
      exec .blockPlacement s = .next s) ∧
    (s.incompatible = none ↔ ∀ b ∈ s.blocks, ∀ g, s.grid? b.ref.grid = some g → b.st = .saved → g.st = .running →
      g.endings = [] → ∃ k ∈ s.coreNames, (s.fitPending [] ⟨g, some b⟩ k).isSome = true) ∧
    -- its ending closes with the cycle (R361)
    (∀ b g, s.incompatible = some b → s.grid? b.ref.grid = some g → g.endedBy = none → ∃ t,
      exec .blockPlacement s = .next t ∧ t.mem = s.mem ∧ t.blocks = s.blocks ∧
      t.grid? g.id = some { g with endings := g.endings ++ [⟨(s.ticks, b.ref.block, 0, 65 * s.cycle), 0x1A, none⟩] }) ∧
    (∀ p k f, s.incompatible = none → s.choosePlacement = some (p, k, f) → s.regReady (s.placeReads p) = true →
      (p.saved.isSome = true → exec .blockPlacement s = .next s) ∧
      (p.saved = none → (s.grids.map (·.id)).Nodup → ∃ (t : State) (b : Block) (h : Grid),
        let g := p.grid
        let w := g.header
        exec .blockPlacement s = .next t ∧
        t = { s with blocks := s.blocks ++ [b], fresh := t.fresh, grids := t.grids, cores := t.cores, domains := t.domains
                     flight := t.flight } ∧
        -- the flags of the next block are read at once, or asked for (R177)
        (t.flight = s.flight ∧ t.fresh = s.fresh + cohorts g ∨ g.depkind = 1 ∧ ∃ a, t.flight = s.flight ++ [a] ∧ a.op = .tiles g.id) ∧
        t.grids = (s.grids.map fun x => if x.id = g.id then h else x) ∧
        h = { g with next := g.next + 1, mark := if g.mark.map (·.block) = some g.next then none else g.mark
                     tiles := h.tiles, waitFrom := if h.tiles = true then some s.ticks else g.waitFrom } ∧
        (g.depkind ≠ 1 → h.tiles = false) ∧
        b = { ref := ⟨g.id, g.next⟩, core := k, core2 := f.right, cohorts := b.cohorts, reserveQuad := some f.reserve
              ckSlot := b.ckSlot, nextCohort := cohorts g + 1 } ∧
        (let used (j : Nat) : Prop := ∃ c ∈ s.blocks, c.ref.grid = g.id ∧ c.ckSlot = j
         ¬ used b.ckSlot ∧ ∀ j, j < b.ckSlot → used j) ∧
        b.cohorts.length = cohorts g ∧
        (∀ c, c < cohorts g → ∃ (d : Cohort) (sp : Split), b.cohorts[c]? = some d ∧
          d = { id := c + 1, core := if right g c = true then f.right.getD k else k, slot := d.slot, quad := c % 4, age := s.ticks
                threads := sp.lanes, tids := d.tids, splits := [sp] } ∧
          (∀ l, sp.lanes.getLsbD l = decide (l < threads g c)) ∧ (∀ l, l < threads g c → tget 0 d.tids l = g.width * c + l) ∧
          sp = { id := s.fresh + c, pc := g.entry + 16, lanes := sp.lanes, join := sp.lanes, header := g.entry
                 reconv := reconvOf g.entry w, blkEnd := g.entry + BitVec.ofNat 64 (8 * (1 + fld w 54 47)), blkReconv := reconvOf g.entry w } ∧
          (let taken (j : Nat) : Prop := 4 * j + c % 4 ∈ slotsUsed s.blocks d.core ∨
             ∃ e ∈ b.cohorts.take c, e.core = d.core ∧ e.slot = 4 * j + c % 4
           ∀ m, m < 16 → ¬ taken m → (∀ j, j < m → taken j) → d.slot = 4 * m + c % 4)) ∧
        (tableOk {} s.cores = true → tableOk {} s.domains = true → ∀ n ∈ k :: f.right.toList, (t.core n).idleSince = none ∧
          ((s.core n).power = .gated → .core n ∈ (t.dom (s.coreDomain n)).wakes))))) ∧
  -- PLACEMENT_MARK
  (∀ (s : State) (g : Grid), s.grid? g.id = some g → (s.grids.map (·.id)).Nodup →
    let high := s.blocks.filter fun b => decide (g.prio < (s.gridOf b).prio)
    let oldest (p : Pending) : Prop := ∃ as bs, s.pendingAll = as ++ p :: bs ∧ p.grid.prio = g.prio ∧ ∀ q ∈ as, q.grid.prio ≠ g.prio
    let due (p : Pending) : Prop := p.grid.id = g.id ∧ (∃ k, since p = some k ∧ k + 10000 ≤ s.ticks) ∧
      ∀ m, g.mark = some m → m.block ≠ index p ∧ m.kept = false
    ((∀ p, oldest p → ¬ due p) → exec (.placementMark g.id) s = .next s) ∧
    (∀ p, oldest p → due p → exec (.placementMark g.id) s = .next (match s.coreFor high p with
      | some c => s.modGrid g.id fun x => { x with mark := some ⟨c.1, index p, false⟩ }
      | none => s)))

/-- R174, R193, R194, R314. Pre-emption saves, for the first pending block that fits nowhere, resident blocks of lower priority on one
core, lowest priority first and youngest first: the shortest prefix of that order that makes room (log 72, the model's choice). A grid that has been stuck for 100,000 ticks has its longest-waiting block saved,
with others of that core until the oldest pending block of it and its descendants fits, and the core is kept for that block. -/
def Obligations.BlocksArePreemptedAndRescued : Prop :=
  let saves (s : State) (rs : List BRef) (why : Option Nat) (t : State) : Prop :=
    t = { s with fresh := s.fresh + rs.length, blocks := t.blocks } ∧
    List.Forall₂ (fun (b c : Block) =>
      if b.ref ∈ rs ∧ b.st = .resident then
        c = { b with st := .saving, saveOrder := s.fresh + rs.idxOf b.ref, rescued := decide (why = some b.ref.grid), settledCk := false
                     image := 0 }
      else c = b) s.blocks t.blocks
  let cores (b : Block) : List Nat := b.core :: b.core2.toList
  let without (bs : List Block) (rs : List BRef) : List Block := bs.filter fun b => b.ref ∉ rs
  -- PREEMPTION
  (∀ (s : State),
    let first (a b : Block) : Prop :=
      let g := s.gridOf a
      let h := s.gridOf b
      g.prio < h.prio ∨ g.prio = h.prio ∧ (h.age < g.age ∨ h.age = g.age ∧ (h.id < g.id ∨ g.id = h.id ∧ b.ref.block < a.ref.block))
    let staying := s.blocks.filter fun b => b.st ≠ .saving
    let open' (p : Pending) : Prop := p ∈ s.pendingAll ∧ s.coreFor s.blocks p = none ∧ s.coreFor staying p = none
    -- the blocks that may go from a core for a pending block, in their order
    let ordered (p : Pending) (k : Nat) (cands : List Block) : Prop := cands.Pairwise (fun a b => ¬ first b a) ∧
      ∀ b, b ∈ cands ↔ b ∈ s.blocks ∧ b.st = .resident ∧ (s.gridOf b).prio < p.grid.prio ∧
        ∃ c ∈ cores b, c = k ∨ p.grid.pair = true ∧ s.pairOf k = some c
    let room (p : Pending) (k : Nat) (cands : List Block) (m : Nat) : Bool :=
      (s.fitPending (without staying ((cands.take m).map (·.ref))) p k).isSome
    (s.preempts = none → exec .preemption s = .next s ∧
      ((s.blocks.map (·.ref)).Nodup → (∀ b ∈ s.blocks, ∃ g, s.grid? b.ref.grid = some g) → ∀ p k cands, open' p → k ∈ s.coreNames →
        s.markedFor p k = false → ordered p k cands → cands.Nodup → ∀ m, 0 < m → m ≤ cands.length → room p k cands m = false)) ∧
    (∀ p k f, s.preempts = some (p, k, f) → open' p ∧ k ∈ s.coreNames ∧ (∃ t, saves s f.saves none t ∧ exec .preemption s = .next t) ∧
      ∃ (cands : List Block) (n : Nat), ordered p k cands ∧ 0 < n ∧ n ≤ cands.length ∧ f.saves = (cands.take n).map (·.ref) ∧
        room p k cands n = true ∧ ∀ m, 0 < m → m < n → room p k cands m = false)) ∧
  -- R193, R194, R314
  (∀ (k : HoldKind), k.blocks = true ↔ (∃ i p, k = .bar i p) ∨ (∃ i n sub, k = .barRecord i n sub) ∨ (∃ l, k = .barb l) ∨
    (∃ l, k = .queue l) ∨ (∃ l n, k = .waitm l n) ∨ (∃ h, k = .handle h) ∨ (∃ e l, k = .subsync e l) ∨ k = .latch ∨ k = .latchFull) ∧
  (∀ (s : State) (b : Block),
    -- a QPUSH or QPOP that could act, and that packets alone hold back, waits for none (R336)
    let waits (c : Cohort) (p : Split) : Prop := ∃ h, p.hold = some h ∧ h.kind.blocks = true ∧
      ∀ left, h.kind = .queue left → s.queueMoves (s.gridOf b) b ⟨⟨b.ref, c.id⟩, p.id⟩ left = false
    s.waiting b = true ↔ b.st = .resident ∧ b.former = [] ∧ b.cohorts ≠ [] ∧
      ∀ c ∈ b.cohorts, (∀ p ∈ c.splits, waits c p ∨ p.parked.isSome = true) ∧ ∃ p ∈ c.splits, waits c p) ∧
  (∀ (s : State) (g : Grid),
    let mine (b : Block) : Prop := b ∈ s.blocks ∧ b.ref.grid = g.id ∧ (b.st = .resident ∨ b.st = .checkpointing)
    s.stuck g = true ↔ (∃ b, mine b) ∧ (∀ b, mine b → s.waiting b = true) ∧ ∃ h ∈ s.grids, s.descends g.id 10 h.id = true ∧
      (h.st = .queued ∨ h.st = .awaiting ∨ h.st = .running ∧
        (h.next < h.blockCount ∨ ∃ b ∈ s.blocks, b.ref.grid = h.id ∧ b.st = .saved))) ∧
  -- DEADLOCK_RESCUE
  (∀ (s : State) (g : Grid), s.grid? g.id = some g →
    let due : Prop := (∃ k, g.stuckSince = some k ∧ k + 100000 ≤ s.ticks) ∧ s.stuck g = true
    let mine (b : Block) : Prop := b ∈ s.blocks ∧ b.ref.grid = g.id ∧ s.waiting b = true
    let v := s.modGrid g.id fun x => { x with stuckSince := some s.ticks }
    (¬ due → exec (.deadlockRescue g.id) s = .next s) ∧
    (due → ∃ t, exec (.deadlockRescue g.id) s = .next t ∧ ∃ (b : Block) (rest : List BRef) (u : State), mine b ∧
      (∀ c, mine c → b.waitSince.getD 0 ≤ c.waitSince.getD 0) ∧ saves v (b.ref :: rest) (some g.id) u ∧
      let may (c : Block) : Prop := c ∈ s.blocks ∧ (mine c ∧ (∃ k ∈ cores c, k ∈ cores b) ∨
        c.ref.grid ≠ g.id ∧ c.st = .resident ∧ (∃ k ∈ cores c, k ∈ cores b) ∧ (s.gridOf c).prio ≤ g.prio)
      (∀ r ∈ rest, ∃ c, may c ∧ c.ref = r) ∧
      -- the block that is to be placed: the oldest pending one that no rescue saved, or else the oldest
      let near := v.pendingAll.filter fun p => v.descends g.id 10 p.grid.id
      let rescued (p : Pending) : Prop := ∃ c, p.saved = some c ∧ c.rescued = true
      let target (p : Pending) : Prop := ∃ as bs, near = as ++ p :: bs ∧ (∀ q ∈ as, rescued q) ∧
        (rescued p → as = [] ∧ ∀ q ∈ near, rescued q)
      let index (p : Pending) : Nat := match p.saved with | some c => c.ref.block | none => p.grid.next
      let fits (rs : List BRef) (p : Pending) : Bool := (v.fitPending (without s.blocks rs) p b.core).isSome
      (near = [] → rest = [] ∧ t = u) ∧
      (near ≠ [] → ∃ p, target p ∧ t = u.modGrid p.grid.id (fun x => { x with mark := some ⟨b.core, index p, true⟩ }) ∧
        (∀ m, m < rest.length → fits (b.ref :: rest.take m) p = false) ∧
        (fits (b.ref :: rest) p = true ∨ ∀ c, may c → c.ref ∈ b.ref :: rest))))

/-- R98, R170, R176, R177, R339, R396. A block retires when its threads have exited, its accesses, copies and subscription updates are
performed and, with checkpointing on, its last checkpoint is committed; it leaves its cores, and barriers settle. A grid retires when its
blocks and its children have; its status word is written, and grids whose producers have retired go on or retire in their turn. -/
def Obligations.BlocksAndGridsRetire : Prop :=
  (∀ (s : State) (br : BRef) (b : Block) (g : Grid), s.block? br = some b → s.grid? br.grid = some g →
    let ready : Prop := match g.st with
      | .running => b.st = .resident ∧ g.ntid ≤ b.exited ∧ (∀ a ∈ s.flight, a.c.b ≠ br) ∧ (∀ o ∈ s.copies, o.b ≠ br) ∧
          (∀ i ∈ s.issued, i.c.b ≠ br) ∧ (∀ q ∈ s.begun, q.b ≠ br) ∧ (∀ q ∈ s.requests, q.sub ≠ br) ∧
          (g.ckpt = true → b.settledCk = true) ∧ ∀ e ∈ s.allEntries, e.2.pub = br → e.2.outstanding = 0 ∧ e.2.chunk = none
      | .ended => b.st ≠ .saving ∧ b.st ≠ .restoring ∧ (∀ a ∈ s.flight, a.c.b = br → a.op ≠ .load ∧ ∀ op wide red sr ls, a.op ≠ .atomic op wide red sr ls) ∧
          (∀ q ∈ s.begun, q.b ≠ br) ∧ ∀ i ∈ s.issued, i.c.b = br → ∀ n v hyper, i.fin ≠ .priv n v hyper
      | _ => False
    (¬ ready → exec (.blockRetire br) s = .next s) ∧
    (ready → ∃ t : State, exec (.blockRetire br) s = .next t.settleAll ∧
      -- where no barrier is in use and no arrival waits for a record, nothing settles
      ((∀ c ∈ s.blocks, c.barriers = []) → s.NoneHeld (fun k => ∃ i n sub, k = .barRecord i n sub) → t.settleAll = t) ∧
      t = { s with blocks := t.blocks, issued := s.issued.filter fun i => i.c.b ≠ br, selected := s.selected.filter fun r => r.c.b ≠ br
                   checkpoints := s.checkpoints.filter fun c => c.ref ≠ br, grids := t.grids, notices := t.notices, packets := t.packets
                   cores := t.cores, fresh := t.fresh } ∧
      (∀ c ∈ t.blocks, c.ref ≠ br) ∧ t.blocks.map (·.ref) = (s.blocks.map (·.ref)).filter (fun r => r ≠ br) ∧
      t.grids = (s.grids.map fun x => if x.id = br.grid then { x with retiredBlocks := x.retiredBlocks + 1 } else x) ∧
      (g.st = .running → ∀ r ∈ b.recs, r.2.state = 2 →
        ∃ m ∈ t.notices, m.kind = .removal ∧ m.sub = br ∧ m.pub = ⟨br.grid, r.2.pub⟩ ∧ m.n = r.1) ∧
      (g.st = .running → ∀ e ∈ s.allEntries, e.2.pub = br →
        ∃ m ∈ t.notices, m.kind = .removed ∧ m.sub = e.2.sub ∧ m.pub = br ∧ m.n = e.2.n) ∧
      (tableOk {} s.cores = true → ∀ k ∈ b.core :: b.core2.toList,
        (∀ c ∈ t.blocks, k ∈ c.core :: c.core2.toList → c.st = .saved) → (t.core k).idleSince = some s.ticks))) ∧
  (∀ (s : State) (g : Grid), s.grid? g.id = some g → Memory.wf s.mem = true →
    let done : Prop := (∀ b ∈ s.blocks, b.ref.grid ≠ g.id) ∧
      (∀ a ∈ s.flight, a.c.b.grid ≠ g.id ∧ ∀ b, a.op = .publish b → b.grid ≠ g.id) ∧
      (∀ h ∈ s.grids, h.parent = some g.id → h.st = .retired) ∧
      (g.st = .ended ∨ g.st = .running ∧ (g.blockCount ≤ g.next ∨ s.producerFailed g = true))
    let served : Prop := s.regReady (s.statusReads g) = true
    (¬ (done ∧ served) → (s.blocks.map (·.ref)).Nodup → exec (.gridRetire g.id) s = .next s) ∧
    (done → served → ∃ v, Retires s v g (if g.st = .running ∧ s.producerFailed g = true then 0x1D else g.status) ∧
      exec (.gridRetire g.id) s = .next (v.releaseAll.imaged s) ∧ (s.NoImages → v.releaseAll.imaged s = v.releaseAll))) ∧
  -- consumers whose producers have retired, one after the other
  (∀ (s : State), s.releaseAll = s.releaseConsumers s.grids.length) ∧
  (∀ (s : State) (n : Nat),
    -- its producer has retired, and the banks serve the look-up of its weights
    let free (h : Grid) : Prop := h.st = .awaiting ∧ (h.depkind = 2 → ∀ p, s.grid? (h.word 6).toNat = some p → p.st = .retired) ∧
      s.regReady (s.rangeReads h) = true
    ((∀ h ∈ s.grids, ¬ free h) → s.releaseConsumers n = s) ∧
    ∀ pre h post, s.grids = pre ++ h :: post → (∀ q ∈ pre, ¬ free q) → free h →
      s.releaseConsumers (n + 1) = ((s.touchAll (s.rangeReads h)).release2 h).releaseConsumers n) ∧
  (∀ (s : State) (g : Grid), s.grid? g.id = some g → Memory.wf s.mem = true →
    let failed : Prop := g.depkind = 2 ∧ ∃ p, s.grid? (g.word 6).toNat = some p ∧ p.status ≠ 0
    let started := s.modGrid g.id fun x => { x with st := .running, waitFrom := some s.ticks }
    (failed → Retires s (s.release2 g) g 0x1D) ∧
    (¬ failed → s.weightsReady g = false → Retires s (s.release2 g) g 0x19) ∧
    (¬ failed → s.weightsReady g = true → s.release2 g = (if g.depkind = 1 then started.askTiles g.id else started))) ∧
  (∀ (s : State) (g : Grid), s.producerFailed g = true ↔ g.depkind = 1 ∧ ∃ id p, g.producer = some id ∧ s.grid? id = some p ∧ p.status ≠ 0 ∧ (p.st = .ended ∨ p.st = .closing ∨ p.st = .retired))

/-! ### Saves, restores, checkpoints, errors (R225, R388-R404) -/

/-- R388-R395, R318, R331, R332, R340-R344, R164. A save goes on when the block has settled, and its own checkpoint is committed: its publishers hear
that it leaves, its image is captured when they have answered, and its core is free when the image is written; what had begun is in the
image, and what waits for the latch or in a WAITM is undone, and its teams give up the pass. A restore installs the block on its core, with
its entries and its spawn records, where the records of its image are ones that their tables admit, and it goes on when its publishers
have answered and the packets held for it are applied. What reaches a saved block is written into its image. The image's address is the
registrar's choice (log 11, the model's), and a record's word that the registrar cannot read passes (log 81, the model's choice). -/
def Obligations.BlocksAreSavedAndRestored : Prop :=
  -- what has settled, where nothing of the block waits for a draft way
  (∀ (s : State) (b : Block), s.block? b.ref = some b → (∀ a ∈ s.flight, s.wayless a = false) →
    (s.settled b.ref = true ↔ (∀ a ∈ s.flight, a.c.b ≠ b.ref) ∧ (∀ q ∈ s.begun, q.b = b.ref → q.members = []) ∧
      (∀ r ∈ s.selected, r.c.b ≠ b.ref) ∧ (∀ i ∈ s.issued, i.c.b = b.ref → i.fin = .event ∨ i.fin = .drafted ∨ i.fin = .sealed) ∧
      ∀ c ∈ b.cohorts, ∀ p ∈ c.splits, ∀ h, p.hold = some h → (∀ l, h.kind ≠ .walk l) ∧ ∀ l, h.kind ≠ .code l) ∧
    s.settledAll b.ref = s.settled b.ref) ∧
  -- a notice of a kind for each of the block's records that a publisher serves, in `t`
  (let tells (s t : State) (b : Block) (served : State) (kind : NoticeKind) (image : DWord) : Prop := ∃ ns, t.notices = s.notices ++ ns ∧
    List.Forall₂ (fun (r : Nat × SubRec) (m : Notice) =>
      m = { id := m.id, kind := kind, sub := b.ref, pub := ⟨b.ref.grid, r.2.pub⟩, n := r.1, image := image })
      (b.recs.filter fun r => r.2.state ≠ 0 ∧ (served.entry? ⟨b.ref.grid, r.2.pub⟩ b.ref r.1).isSome = true) ns
  ∀ (s : State) (b : Block) (g : Grid), s.block? b.ref = some b → s.grid? b.ref.grid = some g →
    let flagOf (n : Nat) : Option Nat := (s.issued.find? fun i => i.uid = n).bind (·.flag)
    -- a cohort as an image records it
    let captured (c d : Cohort) : Prop :=
      d = { c with vregs := d.vregs, sregs := d.sregs, preds := d.preds, pend := d.pend, flags := d.flags, splits := d.splits
                   latch := none, readySince := none, promoted := false } ∧
      d.splits = (c.splits.map fun p =>
        { p with hold := if p.abandoned.isSome = true ∨ p.unissued = true then none else p.hold, forced := false }) ∧
      -- every result that has come is in its register
      (∀ p ∈ d.pend, p.due = none ∧ p.landed = false ∨ p.lanes = 0#64) ∧
      ((c.pend.Pairwise fun p q => p.reg = q.reg → p.uid < q.uid) → ∀ k l, l < 64 → d.newest (.vec k) l = c.newest (.vec k) l) ∧
      (tableOk 0 c.flags = true → ∀ f, d.flagCount f =
        c.flagCount f - ((c.splits.filterMap Split.abandoned).filter fun n => flagOf n = some f).length)
    let entries : List SubEntry := (s.allEntries.filter fun e => e.2.pub = b.ref).map (·.2)
    -- SAVE
    (let ready : Prop := b.st = .saving ∧ b.saveBegun = false ∧ (g.ckpt = false ∨ b.settledCk = true ∨ b.rollback = true ∨ g.st ≠ .running) ∧
       (if b.rollback = true then s.settled b.ref = true else s.settledAll b.ref = true)
     (¬ ready → exec (.save b.ref) s = .next s) ∧
     (ready → ∃ (t : State) (image : DWord), exec (.save b.ref) s = .next t ∧ image.toNat % 4096 = 0 ∧ image.toNat < 2 ^ 51 ∧
      t = { s.modBlock b.ref (fun x => { x with saveBegun := true, image := image }) with
            draw := s.draw + 1, cores := t.cores, packets := t.packets, notices := t.notices, fresh := t.fresh } ∧
      tells s t b s .absent image ∧
      (tableOk {} s.cores = true → (s.allEntries.map (·.2.id)).Nodup → ∀ e ∈ s.allEntries, e.2.pub = b.ref → e.2.outstanding < 64 →
        ∀ k vs z, e.2.chunk = some (k, vs, z) → ∃ p ∈ t.packets, p.entry = e.2.id ∧ p.chunk = k ∧ p.bytes = vs ∧ p.seq = e.2.seq ∧
          p.sub = e.2.sub))) ∧
    -- SAVE_COMPLETE: the image is captured once the block has exchanged its notices and its scratchpad copies have read their sources
    (let done : Prop := b.st = .saving ∧ b.saveBegun = true ∧ s.settled b.ref = true ∧ (∀ a ∈ s.flight, a.op ≠ .publish b.ref) ∧
       (∀ m ∈ s.notices, m.sub = b.ref → m.kind ≠ .absent) ∧ ∀ e ∈ entries, e.outstanding = 0 ∧ e.chunk = none
     let now : Prop := s.regReady (s.saveReads b) = true ∧ ∀ o ∈ s.copies, o.b = b.ref → o.gathered = true
     let i : Instr := .saveComplete b.ref
     (¬ done ∨ b.captured = false ∧ ¬ now ∨ b.captured = true ∧ (∃ a ∈ s.flight, a.op = .reg (some b.ref)) → exec i s = .next s) ∧
     (done → b.captured = true → (∀ a ∈ s.flight, a.op ≠ .reg (some b.ref)) → exec i s = .next (s.endSave b)) ∧
     (done → b.captured = false → now → ∃ c : Block,
      c = { b with captured := true, entries := entries, cohorts := c.cohorts
                   teams := b.teams.map fun t => (t.1, { t.2 with assembled := none }) } ∧ List.Forall₂ captured b.cohorts c.cohorts ∧
      let u := (s.touchAll (s.saveReads b)).modBlock b.ref fun x => { x with captured := true }
      let f := imageFields u g c 1
      let v := (imageWords (imageTable f.1) b.image.toNat f.2).foldl (fun t w => match t.regXlate g .rd 16 w.1 with
        | .ok p => t.regWrite (some b.ref) p.pa w.2
        | .error _ => t) u
      exec i s = .next (if v.writing b.ref = true then v else v.endSave b)) ∧
     -- the core is free
     (∃ (c : Block) (v : State),
      c = { b with st := .saved, entries := entries, saveBegun := false, captured := false, waitSince := some s.ticks, cohorts := c.cohorts
                   teams := b.teams.map fun t => (t.1, { t.2 with assembled := none })
                   drafts := if b.rollback = true then [] else b.drafts, draftCounts := if b.rollback = true then [] else b.draftCounts } ∧
      List.Forall₂ captured b.cohorts c.cohorts ∧
      v = { s with blocks := s.blocks.map fun x => if x.ref = b.ref then c else x
                   flight := s.flight.filter fun a => a.c.b ≠ b.ref
                   issued := s.issued.filter fun i => (∀ k ∈ b.cohorts, ∀ p ∈ k.splits, p.abandoned ≠ some i.uid) ∧
                     (b.rollback = true → i.uid ∉ s.stalledUids b.ref)
                   cores := v.cores } ∧
      (tableOk {} s.cores = true → ∀ k, v.core k = { s.core k with subs := (s.core k).subs.filter fun e => e.pub ≠ b.ref }) ∧
      s.endSave b = ((b.core :: b.core2.toList).foldl State.vacate (v.dropPass b)).settleAll)) ∧
    -- RESTORE
    ((∀ p k f x, s.placement = some (p, k, f) → p.saved = some x → x.ref ≠ b.ref) → exec (.restore b.ref) s = .next s) ∧
    (∀ p k f, s.placement = some (p, k, f) → p.saved = some b → ∃ (t : State) (c : Block), exec (.restore b.ref) s = .next t ∧
      let home (n : Nat) : Nat := if b.core2 = some n then f.right.getD k else k
      -- no record and no split is to go to the former, and the cap of the split table takes every cohort as it is
      let plain : Prop := b.former = [] ∧ ∀ x ∈ b.cohorts, x.threads ≠ 0#64 ∧
        (x.splits.filter fun q => q.spawn.isNone).length ≤ (s.part p.grid.part).scap ∧
        ∀ q ∈ x.splits, q.spawn.isSome = true → q.hold.isSome = true
      t.block? b.ref = some c ∧
      (plain → s.imageOk p.grid b = true →
        t = { s with blocks := (s.blocks.map fun x => if x.ref = b.ref then c else x), cores := t.cores, domains := t.domains
                     grids := s.grids.map (fun x => if x.id = b.ref.grid then
                       { x with mark := if x.mark.map (·.block) = some b.ref.block then none else x.mark } else x)
                     notices := t.notices, fresh := t.fresh }) ∧
      (plain → s.imageOk p.grid b = false → g.st = .running → g.endedBy = none → ∃ h, t.grid? g.id = some h ∧
        h.endings = g.endings ++ [⟨(s.ticks, b.ref.block, 0, 65 * s.cycle), 5, none⟩]) ∧
      (plain → c = { b with st := .restoring, core := k, core2 := f.right, reserveQuad := some f.reserve, entries := [], rescued := false
                            waitSince := none, cohorts := c.cohorts
                            teams := b.teams.map fun t => (t.1, { t.2 with core := home t.2.core }) } ∧
        List.Forall₂ (fun (x y : Cohort) => y = { x with core := home x.core, slot := y.slot }) b.cohorts c.cohorts) ∧
      (∃ more, List.Forall₂ (fun (x y : SpawnRec) => y = { x with core := home x.core, place := y.place }) b.former (c.former.take more)) ∧
      (tableOk {} s.cores = true → ∀ n, (t.core n).subs = (s.core n).subs ++
        b.entries.filter fun e => (if e.puboff < 524288 then k else f.right.getD k) = n) ∧
      tells s t b t .present 0) ∧
    -- RESTORE_COMPLETE
    (let back : Prop := b.st = .restoring ∧ (∀ m ∈ s.notices, m.sub = b.ref → m.kind ≠ .present) ∧
       ∀ a ∈ s.flight, a.op ≠ .reg (some b.ref)
     let u := s.modBlock b.ref fun x => { x with st := .resident }
     (¬ back → exec (.restoreComplete b.ref) s = .next s) ∧
     let v := if b.rollback = true then u.rollbackBlock b b.damaged else b.cohorts.foldl (fun t c => t.remerge ⟨b.ref, c.id⟩) u
     (back → exec (.restoreComplete b.ref) s = .next (v.applyHeld b.ref v.packets.length).settleAll))) ∧
  -- packets held while the block was loaded (R343)
  (∀ (s : State) (br : BRef) (n : Nat),
    let next (p : Packet) : Prop := p.sub = br ∧ p.arrived = true ∧ s.inSequence p = true
    ((∀ p ∈ s.packets, ¬ next p) → s.applyHeld br n = s) ∧
    ∀ pre p post, s.packets = pre ++ p :: post → (∀ q ∈ pre, ¬ next q) → next p →
      s.applyHeld br (n + 1) = (s.applyPacket p).applyHeld br n) ∧
  -- the pass (R318)
  (∀ (s : State) (b : Block), s.dropPass b = { s with cores := (s.dropPass b).cores } ∧
    (tableOk {} s.cores = true → ∀ k,
      (k ∈ b.core :: b.core2.toList → (s.core k).arb.holder.map (·.1) = some b.ref → (s.dropPass b).core k =
        { s.core k with arb := { (s.core k).arb with holder := none, tenure := 0 } }) ∧
      (k ∉ b.core :: b.core2.toList ∨ (s.core k).arb.holder.map (·.1) ≠ some b.ref → (s.dropPass b).core k = s.core k))) ∧
  -- records that their tables admit (R331, R332)
  (∀ (s : State) (g : Grid) (b : Block),
    let word (o w : Nat) : Prop := s.regRead8 g (b.image.toNat + o) = .ok w
    s.imageOk g b = true ↔ ∀ i, i < 16 →
      (∀ w0 w2 w3, word (0x300 + 32 * i) w0 → word (0x310 + 32 * i) w2 → word (0x318 + 32 * i) w3 →
        w2 / 2 ^ 51 = 0 ∧ w3 % 2 ^ 32 = 0 ∧ w3 / 2 ^ 32 % 16 ≤ 3 ∧ w3 / 2 ^ 40 % 256 = 0 ∧
        (w3 / 2 ^ 32 % 16 ≠ 0 → 64 ≤ w0 / 2 ^ 32 ∧ w0 / 2 ^ 32 ≤ 524288 ∧ w0 / 2 ^ 32 % 64 = 0)) ∧
      ∀ w1, word (0x508 + 16 * i) w1 → w1 / 2 ^ 32 % 4 ≠ 3 ∧ w1 / 2 ^ 34 % 2 ^ 14 = 0) ∧
  -- what reaches a block whose image stands in memory is written into that image (R340-R343)
  (∀ (s t : State), s.NoImages → t.imaged s = t) ∧
  (∀ (s t : State) (a b : Block) (g : Grid) (k : Nat),
    let old := imageTable (imageFields s g a 1).1
    let new := imageTable (imageFields { s with copies := t.copies } g b 1).1
    t.blocks = [b] → s.block? b.ref = some a → s.grid? b.ref.grid = some g → a.st = .saved ∨ a.st = .restoring → b.st = a.st →
    (∀ j, tget 0 old j ≠ tget 0 new j ↔ j = k) →
      t.imaged s = match t.regXlate g .rd 0 (b.image.toNat + k) with
        | .ok p => t.regWrite (some b.ref) p.pa [tget 0 new k]
        | .error _ => t) ∧
  -- R391, R392: the image and its words
  (∀ (s : State) (g : Grid) (b : Block) (kind : Nat),
    let f := imageFields s g b kind
    let at64 (off n : Nat) : Nat := numberAt (fun a => tget 0 (imageTable f.1) a) off n
    kind = 1 ∨ kind = 2 →
      at64 0 8 = 1 + 256 * kind + (if b.rollback = true then 65536 else 0) ∧ at64 8 8 = b.ref.grid % 2 ^ 64 ∧
      at64 0x10 4 = b.ref.block % 2 ^ 32 ∧ at64 0x14 4 = b.cohorts.length % 2 ^ 32 ∧ at64 0x18 4 = b.former.length % 2 ^ 32 ∧
      at64 0x1C 4 = (b.core :: b.core2.toList).length ∧ at64 0x20 8 = g.desc.toNat ∧ at64 0x28 8 = s.ticks % 2 ^ 64 ∧
      at64 0x30 8 = b.seq % 2 ^ 64 ∧ at64 0x38 8 = b.lastCk % 2 ^ 64 ∧
      ((∀ w ∈ b.wptr, w.1 < 8) → (∀ k ∈ b.barriers, k.1 < 17) → (∀ k ∈ b.teams, k.1 < 16) → (∀ k ∈ b.recs, k.1 < 16) →
        tableOk 0 b.scratch = true →
        (∀ q ∈ b.scratch, q.1 < g.scratchBytes ∨ b.core2.isSome = true ∧ 524288 ≤ q.1 ∧ q.1 < 524288 + g.scratchBytes) →
        ∀ p, p < g.scratchBytes → p < 524288 → tget 0 (imageTable f.1) (0x1000 + p) = tget 0 b.scratch p)) ∧
  (∀ (tab : Sparse Byte) (va len : Nat), (imageWords tab va len).length = len / 8 ∧ ∀ k, k < len / 8 →
    (imageWords tab va len)[k]? = some (va + 8 * k, (List.range 8).map fun i => tget 0 tab (8 * k + i))) ∧
  -- a write of the registrar, at once or on its way
  (∀ (s : State) (owner : Option BRef) (pa : Nat) (vs : List Byte), Memory.wf s.mem = true →
    let t := s.regWrite owner pa vs
    let now : Prop := s.lineFree pa = true ∧ s.bankQuiet pa = true ∧ ∀ a ∈ s.flight, (∃ o, a.op = .reg o) → a.scratch = false →
      a.pa + a.size ≤ pa ∨ pa + vs.length ≤ a.pa
    (now → ∀ a, t.readMem a = if pa ≤ a ∧ a < pa + vs.length then vs.getD (a - pa) 0 else s.readMem a) ∧
    (¬ now → t.mem = s.mem ∧ ∃ a, t.flight = s.flight ++ [a] ∧ a.op = .reg owner ∧ a.pa = pa ∧ a.bytes = vs ∧ a.size = vs.length))

/-- R263, R345, R396-R404, R321, R322, R250. A checkpoint waits until the block has settled and its copies are performed; it writes the
copy that does not hold the latest commit, and commits it with the write of its number when the others are performed; then the drafts set
out for their home banks; when the last is written, CKPT's phase completes or the forcing instruction may issue, and a second commit
follows it. A core-state error rolls the block back to the latest copy that stands in memory, or to its start, replays its receive log,
ends the subscriptions set up since and sends the others a fresh snapshot; it ends the grid without checkpointing or where the effect is
exposed. Arrays, memory, caches and TLBs have their own consequences. The model's choices: that a subscription that a rollback ends is
gone at once (log 99), and what %wptr, barrier records and the record of a damaged entry without a block are then (log 101). -/
def Obligations.CheckpointsAndErrors : Prop :=
  (∀ (s : State) (b : Block) (g : Grid), s.block? b.ref = some b → s.grid? b.ref.grid = some g →
    -- CHECKPOINT
    let i : Instr := .checkpoint b.ref
    let unwritten (s : State) : Prop := ∃ a ∈ s.flight, a.op = .publish b.ref
    let ready : Prop := g.st = .running ∧
      (b.st = .checkpointing ∨ b.st = .saving ∧ g.ckpt = true ∧ b.settledCk = false ∧ b.rollback = false) ∧
      (b.publishing = true → ¬ unwritten s) ∧
      (b.publishing = false → (∀ a ∈ s.flight, a.op ≠ .reg (some b.ref)) ∧ s.regReady (s.ckReads b) = true ∧ s.settled b.ref = true ∧
        -- what waits for a draft way waits for drafts of the block to be published
        (s.settledAll b.ref = true ∨ b.drafts ≠ []) ∧
        (b.exposed = true ∨ ∀ o ∈ s.copies, o.b ≠ b.ref) ∧ ∀ c ∈ b.cohorts, ∀ p ∈ c.splits, p.forced = false)
    let k := (b.core :: b.core2.toList).length
    let z := (0x2000 + 4 * g.width * g.vregs + 2048 * g.acc + 4095) / 4096 * 4096
    let q := (0x1000 + g.scratchBytes * k + min g.ntid (64 * k) * z + g.ntid * (32 + 4 * g.vregs) + 4095) / 4096 * 4096
    let addr := g.regs.ckptr.toNat + b.ckSlot * (2 * q + 65536) + (b.seq + 1) % 2 * q
    let fails (t : State) (c : Nat) : State :=
      (t.record (t.coreDomain b.core) 6 b.core (g.id + 2 ^ 64 * c)).endGrid g.id (b.ref.block, 0, 0) c
    -- step 3 from `t`: the write of the copy's number, and when that is performed the commit, after which `r` comes
    let commits (t : State) (r : State × Bool) : Prop :=
      match (if t.ckSeq g b (b.seq + 1) = some (b.seq + 1) then .ok t else t.ckWrite g b.ref [(addr + 0x30, leBytes 8 (b.seq + 1))]) with
      | .error (e : XFault) => r = (fails t e.cause, false)
      | .ok u => (u.writing b.ref = true → r = (u, false)) ∧ (u.writing b.ref = false → ∀ x, u.block? b.ref = some x → ∃ c : Block,
          c = { x with seq := b.seq + 1, log := [], drafts := [], draftCounts := [], mark := u.fresh, captured := false, held := c.held
                       wayless := u.passedOver b.ref, cohorts := c.cohorts, teams := c.teams, entries := c.entries } ∧
          c.entries = (u.allEntries.filter fun e => e.2.pub = b.ref).map (·.2) ∧
          List.Forall₂ (fun (x y : Cohort) => y.id = x.id ∧ y.threads = x.threads ∧ y.handles = x.handles ∧ y.tiles = x.tiles ∧
            y.xregs = x.xregs ∧ (y.splits.map fun p => (p.id, p.pc, p.lanes, p.mode, p.frames)) =
              (x.splits.map fun p => (p.id, p.pc, p.lanes, p.mode, p.frames)) ∧
            ((x.pend.Pairwise fun p q => p.reg = q.reg → p.uid < q.uid) → ∀ n l, l < 64 → y.newest (.vec n) l = x.newest (.vec n) l))
            x.cohorts c.cohorts ∧
          r = (({ u with checkpoints := u.checkpoints ++ [c] } : State).modBlock b.ref fun y =>
            { y with seq := y.seq + 1, log := [], mark := u.fresh, captured := false }, true))
    (¬ ready → exec i s = .next s) ∧
    (ready → b.publishing = true → exec i s = .next ((s.modBlock b.ref fun x => { x with publishing := false }).afterPublish b)) ∧
    (ready → b.publishing = false → b.saveBegun = false → ∃ (r : State × Bool),
      r = s.commitBlock b ∧
      (b.captured = true → commits s r) ∧
      (b.captured = false →
        let u := ({ s.touchAll (s.ckReads b) with checkpoints := s.checkpoints.filter fun c => c.ref ≠ b.ref ∨ c.seq = b.seq } : State).modBlock
          b.ref fun x => { x with captured := true, lastCk := s.ticks }
        ∃ x : Block, u.block? b.ref = some x ∧
        let c : Block := { captureBlock u x with entries := u.entriesOf b.ref, seq := b.seq + 1 }
        let f := imageFields u g c 2
        match u.ckWrite g b.ref ((imageWords (imageTable f.1) addr f.2).filter fun w => w.1 ≠ addr + 0x30) with
        | .error e => r = (fails s e.cause, false)
        | .ok v => (v.writing b.ref = true → r = (v, false)) ∧ (v.writing b.ref = false → commits v r)) ∧
      (r.2 = false → exec i s = .next r.1) ∧
      (r.2 = true → b.exposed = true → exec i s = .next (r.1.modBlock b.ref fun x => { x with st := .resident, exposed := false }).settleAll) ∧
      (r.2 = true → b.exposed = false →
        let p := r.1.publish b
        (¬ unwritten p → exec i s = .next ((p.finishSealed b.ref).afterPublish b)) ∧
        (unwritten p → exec i s = .next (p.modBlock b.ref fun x => { x with publishing := true })))) ∧
    -- UNCORRECTABLE_ERROR in a block's state
    (∀ kind, (s.blocks.map (·.ref)).Nodup →
      let e : Instr := .uncorrectableError (.block b.ref kind)
      let key := (s.ticks, b.ref.block, 0, 65 * s.cycle)
      -- its grid runs, or has ended in this tick
      let counts : Prop := g.st = .running ∨ g.st = .ended ∧ g.endedBy.map (·.1) = some s.ticks
      (¬ counts → exec e s = .next s) ∧
      (counts → g.ckpt = false ∨ b.exposed = true → ∃ t h, exec e s = .next t ∧ t.mem = s.mem ∧ t.blocks = s.blocks ∧ t.grid? g.id = some h ∧
        (g.endedBy = none → h = { g with endings := g.endings ++ [⟨key, 0x1C, none⟩] }) ∧
        ∀ k, g.endedBy = some k → h = if endsBefore key k = true then { g with status := 0x1C, endedBy := some key } else g) ∧
      (counts → g.ckpt = true → b.exposed = false →
        (b.st = .resident ∨ b.st = .checkpointing → exec e s = .next ((s.rollbackBlock b kind).imaged s)) ∧
        -- of several errors while it is saved or restored the first one's kind stays
        (b.st ≠ .resident → b.st ≠ .checkpointing → exec e s = .next ((s.modBlock b.ref fun x => if x.rollback = true then x else
          { x with rollback := true, damaged := kind, captured := x.captured && x.saveBegun }).imaged s)))) ∧
    -- R402
    (∀ was kind, (s.latestCopy g b = some was ∨ s.latestCopy g b = none ∧
          was = { ref := b.ref, core := b.core, core2 := b.core2, nextCohort := was.cohorts.length + 1
                  cohorts := formCohorts { s with blocks := s.blocks.filter fun x => x.ref ≠ b.ref } g b.core b.core2 g.header }) →
      let v := s.record (s.coreDomain b.core) 5 b.core (kind + 2 ^ 64 * was.seq)
      let placed (k : Nat) : Nat := if was.core2 = some k then b.core2.getD b.core else b.core
      -- operations that are taken back
      let undone (n : Nat) : Bool := s.copies.any fun o => o.id == n && o.b == b.ref && decide (was.mark ≤ o.id)
      let u : State := { v with
        blocks := s.blocks.map fun x => if x.ref = b.ref then
          { was with st := .resident, core := b.core, core2 := b.core2, reserveQuad := b.reserveQuad, ckSlot := b.ckSlot
                     cohorts := was.cohorts.map fun c => { c with core := placed c.core }
                     teams := was.teams.map fun t => (t.1, { t.2 with core := placed t.2.core })
                     log := b.log, recs := b.recs, entries := [], drafts := [], draftCounts := [], forcer := none, exposed := false
                     former := [], publishing := false, captured := false, rollback := false, damaged := 0, held := [], wayless := []
                     saveOrder := b.saveOrder, image := b.image } else x
        flight := (s.flight.filter fun a => a.c.b != b.ref && (match a.op with
          | .claim n => !undone n
          | .fetch n => !undone n
          | _ => true)) ++ was.wayless
        -- a begun team instruction still retires (step 1)
        begun := s.begun.map fun q => if q.b = b.ref then { q with members := [] } else q
        issued := (s.issued.filter fun i => i.c.b ≠ b.ref) ++ was.held
        selected := s.selected.filter fun r => r.c.b ≠ b.ref
        copies := s.copies.filter fun o => o.b ≠ b.ref ∨ o.id < was.mark
        checkpoints := s.checkpoints.filter fun c => c.ref ≠ b.ref ∨ c.seq ≤ was.seq
        fresh := s.fresh + 128 }
      let w := was.former.foldl (fun s r => s.storeRec b.ref { r with core := placed r.core }) u
      let x := (((w.dropPass b).replay b).resubscribe b was).finishSealed b.ref
      let y := (x.allEntries.filter fun e => e.2.pub = b.ref ∧ e.2.state ≠ 0).foldl (fun s e => s.resnap e.2) x
      let t := y.settleEntries.wakeSubsync.settleAll
      s.rollbackBlock b kind = if g.acc ≠ 0 ∧ ∃ k ∈ b.core :: b.core2.toList, t.arrayFailed k = true then t.requestSaves [b.ref] none
        else t)) ∧
  -- the copy that counts is that of the memory (R399)
  (∀ (s : State) (g : Grid) (b c : Block),
    let a := ckAddress g b c.seq
    (s.copyStands g b c = true ↔ c.ref = b.ref ∧ s.ckSeq g b c.seq = some c.seq ∧ s.ckField g a 8 8 = b.ref.grid ∧
      s.ckField g a 0x10 4 = b.ref.block) ∧
    (s.latestCopy g b = none ↔ ∀ d ∈ s.checkpoints, s.copyStands g b d = false) ∧
    (∀ d, s.latestCopy g b = some d → ∃ e ∈ s.checkpoints, d = s.loadCopy g b e ∧ s.copyStands g b e = true ∧
      ∀ e' ∈ s.checkpoints, s.copyStands g b e' = true → e'.seq ≤ e.seq) ∧
    let d := s.loadCopy g b c
    d = { c with wptr := d.wptr, scratch := d.scratch, cohorts := d.cohorts } ∧
    (∀ n, n < 8 → tget 0 d.wptr n = s.ckField g a (0x40 + 8 * n) 8) ∧
    (∀ n, n < g.scratchBytes → n < 524288 → g.scratchBytes ≤ 524288 →
      tget 0 d.scratch n = BitVec.ofNat 8 (s.ckField g a (0x1000 + n) 1)) ∧
    (∀ off n, s.ckField g a off n = match s.ckXlate g (a + off / 8 * 8) with
      | .ok p => numberAt s.readPhys p.pa 8 / 2 ^ (8 * (off % 8)) % 2 ^ (8 * n)
      | .error _ => 0)) ∧
  (∀ (s : State) (g : Grid) (br : BRef) (ws : List (Nat × List Byte)) (w : Nat × List Byte),
    s.ckWrite g br [] = .ok s ∧
    (s.ckWrite g br (ws ++ [w]) = match s.ckWrite g br ws with
      | .error e => .error e
      | .ok t => match t.ckXlate g w.1 with
        | .error e => .error e
        | .ok p => .ok (t.regWrite (some br) p.pa w.2)) ∧
    -- the checks of a supervisor store
    s.ckXlate g w.1 = match s.regXlate g .wr 16 w.1 with
      | .error e => .error e
      | .ok p => if p.ws = true then .error { cause := 0x0A } else if p.pa / 2 ^ 44 = 2 ∨ p.pa / 2 ^ 44 = 4 then .error { cause := 2 }
        else .ok p) ∧
  -- the receive log (R400)
  (∀ (s : State) (b : Block), (b.log = [] → s.replay b = s) ∧ ∀ es (e : LogEntry), b.log = es ++ [e] →
    let t := s.replay { b with log := es }
    let ws : List (Nat × Byte) := (List.range 64).filterMap fun i => if e.mask.testBit i then some (e.off + i, e.bytes.getD i 0) else none
    s.replay b = (t.scratchWrite b.ref ws false).barbAdd b.ref e.bar false (-(e.counted : Int)) ∧
    ∀ x, t.block? b.ref = some x → tableOk 0 x.scratch = true → t.NoneHeld (fun k => ∃ l, k = .barb l) →
      ∃ y, (s.replay b).block? b.ref = some y ∧
        -- outside the object that counts them
        ∀ p, p < e.bar ∨ e.bar + 8 ≤ p → tget 0 y.scratch p =
          if e.off ≤ p ∧ p < e.off + 64 ∧ e.mask.testBit (p - e.off) = true then e.bytes.getD (p - e.off) 0 else tget 0 x.scratch p) ∧
  -- subscriptions of the block, as subscriber and as publisher (R345)
  (∀ (s : State) (b was : Block), (b.recs = [] → s.resubscribe b was = s) ∧ ∀ rs n (r : SubRec), b.recs = rs ++ [(n, r)] →
    let t := s.resubscribe { b with recs := rs } was
    let stood : Prop := (tget {} was.recs n).state ≠ 0 ∧ (tget {} was.recs n).id = r.id
    (r.state = 0 → s.resubscribe b was = t) ∧
    (r.state ≠ 0 → ¬ stood → s.resubscribe b was = t.cutSubscription b.ref n) ∧
    (r.state ≠ 0 → stood → s.resubscribe b was = match t.entry? ⟨b.ref.grid, r.pub⟩ b.ref n with
      | some e => if r.state = 2 then t.resnap e else t
      | none => t)) ∧
  (∀ (s : State) (sub : BRef) (n : Nat) (b : Block), s.block? sub = some b → tableOk {} b.recs = true →
    let t := s.cutSubscription sub n
    let pub : BRef := ⟨sub.grid, (tget {} b.recs n).pub⟩
    (∃ c, t.block? sub = some c ∧ tget {} c.recs n = {}) ∧ (∀ q ∈ t.requests, q.sub = sub → q.n ≠ n) ∧
    ((s.allEntries.filter fun p => p.2.serves pub sub n).length ≤ 1 →
      (∀ y, s.block? pub = some y → ∀ e ∈ y.entries, e.serves pub sub n = false) → tableOk {} s.cores = true → t.entry? pub sub n = none)) ∧
  (∀ (s : State) (e : SubEntry) (core : Nat) (p y : Block), s.block? e.pub = some p → s.block? e.sub = some y →
    s.allEntries.filter (fun q => q.2.serves e.pub e.sub e.n) = [(core, e)] → tableOk {} s.cores = true → tableOk 0 y.scratch = true →
    tableOk {} y.recs = true → s.NoneHeld (fun k => ∃ l, k = .barb l) →
    let t := s.resnap e
    (∀ q ∈ t.packets, q ∈ s.packets ∧ q.entry ≠ e.id) ∧ { e with chunk := none, outstanding := 0 } ∈ (t.core core).subs ∧
    ∃ z, t.block? e.sub = some z ∧ (tget {} z.recs e.n).expect = e.seq ∧ ∀ a, tget 0 z.scratch a =
      if e.localoff ≤ a ∧ a < e.localoff + e.length then tget 0 p.scratch (e.puboff + (a - e.localoff)) else tget 0 y.scratch a) ∧
  (∀ (s : State) (br : BRef), ((∃ a ∈ s.flight, a.op = .publish br) ∨ ∀ i ∈ s.issued, i.c.b = br → i.fin ≠ .sealed) →
    s.finishSealed br = s) ∧
  -- step 4 of R398: the drafts set out, in no order among themselves
  (∀ (s : State) (b : Block), tableOk none b.drafts = true → ∃ (as : List Access) (f : Block → Block),
    s.publish b = ({ s with fresh := s.fresh + 1 + as.length, flight := s.flight ++ as
                            issued := s.issued.map fun i => if i.c.b = b.ref ∧ i.fin = .drafted then { i with fin := .sealed } else i
                            } : State).modBlock b.ref f ∧
    (∀ x, f x = { x with drafts := [], draftCounts := [] }) ∧
    (∀ a ∈ as, a.op = .publish b.ref ∧ a.uid = s.fresh ∧ a.stage = .issued ∧ a.scratch = false ∧ a.draft = false ∧ a.scope = 3 ∧
      a.size = a.bytes.length ∧ (a.pa + a.size - 1) / 8 = a.pa / 8 ∧ 0 < a.size ∧
      ∀ e, e ∈ a.after ↔ ∃ q ∈ s.flight, q.op = .publish b.ref ∧ q.scratch = false ∧ q.id = e ∧ q.pa < a.pa + a.size ∧ a.pa < q.pa + q.size) ∧
    (as.Pairwise fun p q => p.pa + p.size ≤ q.pa) ∧
    ∀ x v, (∃ a ∈ as, a.pa ≤ x ∧ a.bytes[x - a.pa]? = some v) ↔ tget none b.drafts x = some v) ∧
  -- step 5 of R398
  (∀ (s : State) (b : Block), (s.settledAll b.ref = false → s.afterPublish b = s) ∧ (s.settledAll b.ref = true →
    (b.st = .saving → s.afterPublish b = s.modBlock b.ref fun x => { x with settledCk := true }) ∧
    (b.st ≠ .saving →
      (∀ r, b.forcer = some r → s.afterPublish b = if (s.split? r).isSome then s.modSplit r fun x => { x with forced := true }
        else s.modBlock b.ref fun x => { x with st := .resident, forcer := none }) ∧
      (b.forcer = none →
        let n := s.modBlock b.ref fun x => { x with st := .resident, settledCk := decide (s.ntidOf b ≤ x.exited) }
        s.afterPublish b =
          (if b.phaseFull (n.ntidOf b) (tget {} b.barriers 16) = true then n.finishPhase b.ref 16 else n).settleAll)))) ∧
  -- errors elsewhere (R401, R404)
  (∀ (s : State) (core : Nat) (columns : List (Nat × Nat)),
    (∀ kind, exec (.uncorrectableError (.orphan core kind)) s = .next (s.record (s.coreDomain core) 5 core kind)) ∧
    exec (.uncorrectableError (.l1Tags core)) s = .next (s.modCore core fun c => { c with l1 := [] }) ∧
    (∀ line, exec (.uncorrectableError (.l1Line core line)) s =
      .next (s.modCore core fun c => { c with l1 := c.l1.filter fun e => e.line ≠ line })) ∧
    (∀ line, exec (.uncorrectableError (.codeLine core line)) s =
      .next (s.modCore core fun c => { c with code := c.code.filter fun l => l ≠ line })) ∧
    (∀ n, exec (.uncorrectableError (.tlbEntry core false n)) s = .next (s.modCore core fun c => { c with tlb := c.tlb.eraseIdx n }) ∧
      ∃ t, exec (.uncorrectableError (.tlbEntry core true n)) s = .next { s with tlb2 := t } ∧ (tableOk [] s.tlb2 = true →
        ∀ d, tget [] t d = if d = s.coreDomain core then (tget [] s.tlb2 d).eraseIdx n else tget [] s.tlb2 d)) ∧
    -- columns of quadrants' arrays: each is retired once, in ascending order
    (let i : Instr := .uncorrectableError (.residue core columns)
     (s.begun.find? (fun b => b.core = core) = none → exec i s = .next s) ∧
     (∀ q, s.begun.find? (fun b => b.core = core) = some q → ∃ cs : List (Nat × Nat),
       cs.Pairwise (fun a b => a.1 < b.1 ∨ a.1 = b.1 ∧ a.2 < b.2) ∧ (∀ c, c ∈ cs ↔ c ∈ columns) ∧
       exec i s = .next (((cs.foldl (fun (s : State) c => s.retireColumn core c.1 c.2)
         { s with begun := s.begun.filter fun b => b ≠ q }).damageBlock q.b 0).imaged s)))) ∧
  (∀ (s : State) (core quad column : Nat), (s.chart.site? core).isSome = true → tableOk {} s.cores = true →
    tableOk 0 (s.core core).columns = true →
    let n := tget 0 (s.core core).columns quad + 1
    let t := s.retireColumn core quad column
    tget 0 (t.core core).columns quad = n ∧
      t.grade core quad = if n = 3 then min (2 * s.grade core quad) 254 else if n = 19 then 255 else s.grade core quad) ∧
  (∀ (s : State) (pa : Nat), ∃ ks, exec (.uncorrectableError (.memory pa)) s = .next { s with poison := ks } ∧ ∀ k, k ∈ ks ↔
    k ∈ s.poison ∨ if pa / 2 ^ 44 = 1 then k / 2 = pa / 128 else k = pa / 64)

end
end

