-- ==== Sys2Proof/Laws/State.lean ====
section
/-! SUPPORT. What each update of the state leaves in each field, one lemma per field per update. -/

namespace Sys2Proof.Machine

/-! ### bump -/

@[simp] theorem State.bump_cycle (s : State) : (s.bump).cycle = s.cycle := rfl
@[simp] theorem State.bump_wbase (s : State) : (s.bump).wbase = s.wbase := rfl
@[simp] theorem State.bump_fresh (s : State) : (s.bump).fresh = s.fresh + 1 := rfl
@[simp] theorem State.bump_draw (s : State) : (s.bump).draw = s.draw := rfl
@[simp] theorem State.bump_agenda (s : State) : (s.bump).agenda = s.agenda := rfl
@[simp] theorem State.bump_selected (s : State) : (s.bump).selected = s.selected := rfl
@[simp] theorem State.bump_grids (s : State) : (s.bump).grids = s.grids := rfl
@[simp] theorem State.bump_blocks (s : State) : (s.bump).blocks = s.blocks := rfl
@[simp] theorem State.bump_parts (s : State) : (s.bump).parts = s.parts := rfl
@[simp] theorem State.bump_cores (s : State) : (s.bump).cores = s.cores := rfl
@[simp] theorem State.bump_domains (s : State) : (s.bump).domains = s.domains := rfl
@[simp] theorem State.bump_mem (s : State) : (s.bump).mem = s.mem := rfl
@[simp] theorem State.bump_poison (s : State) : (s.bump).poison = s.poison := rfl
@[simp] theorem State.bump_filled (s : State) : (s.bump).filled = s.filled := rfl
@[simp] theorem State.bump_counts (s : State) : (s.bump).counts = s.counts := rfl
@[simp] theorem State.bump_flight (s : State) : (s.bump).flight = s.flight := rfl
@[simp] theorem State.bump_issued (s : State) : (s.bump).issued = s.issued := rfl
@[simp] theorem State.bump_copies (s : State) : (s.bump).copies = s.copies := rfl
@[simp] theorem State.bump_requests (s : State) : (s.bump).requests = s.requests := rfl
@[simp] theorem State.bump_packets (s : State) : (s.bump).packets = s.packets := rfl
@[simp] theorem State.bump_notices (s : State) : (s.bump).notices = s.notices := rfl
@[simp] theorem State.bump_walks (s : State) : (s.bump).walks = s.walks := rfl
@[simp] theorem State.bump_begun (s : State) : (s.bump).begun = s.begun := rfl
@[simp] theorem State.bump_l2 (s : State) : (s.bump).l2 = s.l2 := rfl
@[simp] theorem State.bump_tlb2 (s : State) : (s.bump).tlb2 = s.tlb2 := rfl
@[simp] theorem State.bump_leases (s : State) : (s.bump).leases = s.leases := rfl
@[simp] theorem State.bump_sigs (s : State) : (s.bump).sigs = s.sigs := rfl
@[simp] theorem State.bump_directory (s : State) : (s.bump).directory = s.directory := rfl
@[simp] theorem State.bump_checkpoints (s : State) : (s.bump).checkpoints = s.checkpoints := rfl
@[simp] theorem State.bump_lastLaunch (s : State) : (s.bump).lastLaunch = s.lastLaunch := rfl
@[simp] theorem State.bump_portA (s : State) : (s.bump).portA = s.portA := rfl
@[simp] theorem State.bump_portB (s : State) : (s.bump).portB = s.portB := rfl
@[simp] theorem State.bump_msem (s : State) : (s.bump).msem = s.msem := rfl
@[simp] theorem State.bump_managed (s : State) : (s.bump).managed = s.managed := rfl
@[simp] theorem State.bump_bstate (s : State) : (s.bump).bstate = s.bstate := rfl
@[simp] theorem State.bump_fwslot (s : State) : (s.bump).fwslot = s.fwslot := rfl
@[simp] theorem State.bump_mapcopy (s : State) : (s.bump).mapcopy = s.mapcopy := rfl
@[simp] theorem State.bump_pgidle (s : State) : (s.bump).pgidle = s.pgidle := rfl
@[simp] theorem State.bump_bootTick (s : State) : (s.bump).bootTick = s.bootTick := rfl
@[simp] theorem State.bump_ewin (s : State) : (s.bump).ewin = s.ewin := rfl
@[simp] theorem State.bump_ein (s : State) : (s.bump).ein = s.ein := rfl
@[simp] theorem State.bump_linksDown (s : State) : (s.bump).linksDown = s.linksDown := rfl
@[simp] theorem State.bump_recess (s : State) : (s.bump).recess = s.recess := rfl
@[simp] theorem State.bump_cxlDown (s : State) : (s.bump).cxlDown = s.cxlDown := rfl
@[simp] theorem State.bump_mailbox (s : State) : (s.bump).mailbox = s.mailbox := rfl
@[simp] theorem State.bump_frozen (s : State) : (s.bump).frozen = s.frozen := rfl
@[simp] theorem State.bump_stopped (s : State) : (s.bump).stopped = s.stopped := rfl
@[simp] theorem State.bump_chart (s : State) : (s.bump).chart = s.chart := rfl
@[simp] theorem State.bump_nv (s : State) : (s.bump).nv = s.nv := rfl
@[simp] theorem State.bump_edgeReply (s : State) : (s.bump).edgeReply = s.edgeReply := rfl
@[simp] theorem State.bump_remoteOut (s : State) : (s.bump).remoteOut = s.remoteOut := rfl

/-! ### modGrid -/

@[simp] theorem State.modGrid_cycle (s : State) (g : Nat) (f : Grid → Grid) : (s.modGrid g f).cycle = s.cycle := rfl
@[simp] theorem State.modGrid_wbase (s : State) (g : Nat) (f : Grid → Grid) : (s.modGrid g f).wbase = s.wbase := rfl
@[simp] theorem State.modGrid_fresh (s : State) (g : Nat) (f : Grid → Grid) : (s.modGrid g f).fresh = s.fresh := rfl
@[simp] theorem State.modGrid_draw (s : State) (g : Nat) (f : Grid → Grid) : (s.modGrid g f).draw = s.draw := rfl
@[simp] theorem State.modGrid_agenda (s : State) (g : Nat) (f : Grid → Grid) : (s.modGrid g f).agenda = s.agenda := rfl
@[simp] theorem State.modGrid_selected (s : State) (g : Nat) (f : Grid → Grid) : (s.modGrid g f).selected = s.selected := rfl
@[simp] theorem State.modGrid_grids (s : State) (g : Nat) (f : Grid → Grid) : (s.modGrid g f).grids = s.grids.map fun x => if x.id == g then f x else x := rfl
@[simp] theorem State.modGrid_blocks (s : State) (g : Nat) (f : Grid → Grid) : (s.modGrid g f).blocks = s.blocks := rfl
@[simp] theorem State.modGrid_parts (s : State) (g : Nat) (f : Grid → Grid) : (s.modGrid g f).parts = s.parts := rfl
@[simp] theorem State.modGrid_cores (s : State) (g : Nat) (f : Grid → Grid) : (s.modGrid g f).cores = s.cores := rfl
@[simp] theorem State.modGrid_domains (s : State) (g : Nat) (f : Grid → Grid) : (s.modGrid g f).domains = s.domains := rfl
@[simp] theorem State.modGrid_mem (s : State) (g : Nat) (f : Grid → Grid) : (s.modGrid g f).mem = s.mem := rfl
@[simp] theorem State.modGrid_poison (s : State) (g : Nat) (f : Grid → Grid) : (s.modGrid g f).poison = s.poison := rfl
@[simp] theorem State.modGrid_filled (s : State) (g : Nat) (f : Grid → Grid) : (s.modGrid g f).filled = s.filled := rfl
@[simp] theorem State.modGrid_counts (s : State) (g : Nat) (f : Grid → Grid) : (s.modGrid g f).counts = s.counts := rfl
@[simp] theorem State.modGrid_flight (s : State) (g : Nat) (f : Grid → Grid) : (s.modGrid g f).flight = s.flight := rfl
@[simp] theorem State.modGrid_issued (s : State) (g : Nat) (f : Grid → Grid) : (s.modGrid g f).issued = s.issued := rfl
@[simp] theorem State.modGrid_copies (s : State) (g : Nat) (f : Grid → Grid) : (s.modGrid g f).copies = s.copies := rfl
@[simp] theorem State.modGrid_requests (s : State) (g : Nat) (f : Grid → Grid) : (s.modGrid g f).requests = s.requests := rfl
@[simp] theorem State.modGrid_packets (s : State) (g : Nat) (f : Grid → Grid) : (s.modGrid g f).packets = s.packets := rfl
@[simp] theorem State.modGrid_notices (s : State) (g : Nat) (f : Grid → Grid) : (s.modGrid g f).notices = s.notices := rfl
@[simp] theorem State.modGrid_walks (s : State) (g : Nat) (f : Grid → Grid) : (s.modGrid g f).walks = s.walks := rfl
@[simp] theorem State.modGrid_begun (s : State) (g : Nat) (f : Grid → Grid) : (s.modGrid g f).begun = s.begun := rfl
@[simp] theorem State.modGrid_l2 (s : State) (g : Nat) (f : Grid → Grid) : (s.modGrid g f).l2 = s.l2 := rfl
@[simp] theorem State.modGrid_tlb2 (s : State) (g : Nat) (f : Grid → Grid) : (s.modGrid g f).tlb2 = s.tlb2 := rfl
@[simp] theorem State.modGrid_leases (s : State) (g : Nat) (f : Grid → Grid) : (s.modGrid g f).leases = s.leases := rfl
@[simp] theorem State.modGrid_sigs (s : State) (g : Nat) (f : Grid → Grid) : (s.modGrid g f).sigs = s.sigs := rfl
@[simp] theorem State.modGrid_directory (s : State) (g : Nat) (f : Grid → Grid) : (s.modGrid g f).directory = s.directory := rfl
@[simp] theorem State.modGrid_checkpoints (s : State) (g : Nat) (f : Grid → Grid) : (s.modGrid g f).checkpoints = s.checkpoints := rfl
@[simp] theorem State.modGrid_lastLaunch (s : State) (g : Nat) (f : Grid → Grid) : (s.modGrid g f).lastLaunch = s.lastLaunch := rfl
@[simp] theorem State.modGrid_portA (s : State) (g : Nat) (f : Grid → Grid) : (s.modGrid g f).portA = s.portA := rfl
@[simp] theorem State.modGrid_portB (s : State) (g : Nat) (f : Grid → Grid) : (s.modGrid g f).portB = s.portB := rfl
@[simp] theorem State.modGrid_msem (s : State) (g : Nat) (f : Grid → Grid) : (s.modGrid g f).msem = s.msem := rfl
@[simp] theorem State.modGrid_managed (s : State) (g : Nat) (f : Grid → Grid) : (s.modGrid g f).managed = s.managed := rfl
@[simp] theorem State.modGrid_bstate (s : State) (g : Nat) (f : Grid → Grid) : (s.modGrid g f).bstate = s.bstate := rfl
@[simp] theorem State.modGrid_fwslot (s : State) (g : Nat) (f : Grid → Grid) : (s.modGrid g f).fwslot = s.fwslot := rfl
@[simp] theorem State.modGrid_mapcopy (s : State) (g : Nat) (f : Grid → Grid) : (s.modGrid g f).mapcopy = s.mapcopy := rfl
@[simp] theorem State.modGrid_pgidle (s : State) (g : Nat) (f : Grid → Grid) : (s.modGrid g f).pgidle = s.pgidle := rfl
@[simp] theorem State.modGrid_bootTick (s : State) (g : Nat) (f : Grid → Grid) : (s.modGrid g f).bootTick = s.bootTick := rfl
@[simp] theorem State.modGrid_ewin (s : State) (g : Nat) (f : Grid → Grid) : (s.modGrid g f).ewin = s.ewin := rfl
@[simp] theorem State.modGrid_ein (s : State) (g : Nat) (f : Grid → Grid) : (s.modGrid g f).ein = s.ein := rfl
@[simp] theorem State.modGrid_linksDown (s : State) (g : Nat) (f : Grid → Grid) : (s.modGrid g f).linksDown = s.linksDown := rfl
@[simp] theorem State.modGrid_recess (s : State) (g : Nat) (f : Grid → Grid) : (s.modGrid g f).recess = s.recess := rfl
@[simp] theorem State.modGrid_cxlDown (s : State) (g : Nat) (f : Grid → Grid) : (s.modGrid g f).cxlDown = s.cxlDown := rfl
@[simp] theorem State.modGrid_mailbox (s : State) (g : Nat) (f : Grid → Grid) : (s.modGrid g f).mailbox = s.mailbox := rfl
@[simp] theorem State.modGrid_frozen (s : State) (g : Nat) (f : Grid → Grid) : (s.modGrid g f).frozen = s.frozen := rfl
@[simp] theorem State.modGrid_stopped (s : State) (g : Nat) (f : Grid → Grid) : (s.modGrid g f).stopped = s.stopped := rfl
@[simp] theorem State.modGrid_chart (s : State) (g : Nat) (f : Grid → Grid) : (s.modGrid g f).chart = s.chart := rfl
@[simp] theorem State.modGrid_nv (s : State) (g : Nat) (f : Grid → Grid) : (s.modGrid g f).nv = s.nv := rfl
@[simp] theorem State.modGrid_edgeReply (s : State) (g : Nat) (f : Grid → Grid) : (s.modGrid g f).edgeReply = s.edgeReply := rfl
@[simp] theorem State.modGrid_remoteOut (s : State) (g : Nat) (f : Grid → Grid) : (s.modGrid g f).remoteOut = s.remoteOut := rfl

/-! ### modBlock -/

@[simp] theorem State.modBlock_cycle (s : State) (b : BRef) (f : Block → Block) : (s.modBlock b f).cycle = s.cycle := rfl
@[simp] theorem State.modBlock_wbase (s : State) (b : BRef) (f : Block → Block) : (s.modBlock b f).wbase = s.wbase := rfl
@[simp] theorem State.modBlock_fresh (s : State) (b : BRef) (f : Block → Block) : (s.modBlock b f).fresh = s.fresh := rfl
@[simp] theorem State.modBlock_draw (s : State) (b : BRef) (f : Block → Block) : (s.modBlock b f).draw = s.draw := rfl
@[simp] theorem State.modBlock_agenda (s : State) (b : BRef) (f : Block → Block) : (s.modBlock b f).agenda = s.agenda := rfl
@[simp] theorem State.modBlock_selected (s : State) (b : BRef) (f : Block → Block) : (s.modBlock b f).selected = s.selected := rfl
@[simp] theorem State.modBlock_grids (s : State) (b : BRef) (f : Block → Block) : (s.modBlock b f).grids = s.grids := rfl
@[simp] theorem State.modBlock_blocks (s : State) (b : BRef) (f : Block → Block) : (s.modBlock b f).blocks = s.blocks.map fun x => if x.ref == b then f x else x := rfl
@[simp] theorem State.modBlock_parts (s : State) (b : BRef) (f : Block → Block) : (s.modBlock b f).parts = s.parts := rfl
@[simp] theorem State.modBlock_cores (s : State) (b : BRef) (f : Block → Block) : (s.modBlock b f).cores = s.cores := rfl
@[simp] theorem State.modBlock_domains (s : State) (b : BRef) (f : Block → Block) : (s.modBlock b f).domains = s.domains := rfl
@[simp] theorem State.modBlock_mem (s : State) (b : BRef) (f : Block → Block) : (s.modBlock b f).mem = s.mem := rfl
@[simp] theorem State.modBlock_poison (s : State) (b : BRef) (f : Block → Block) : (s.modBlock b f).poison = s.poison := rfl
@[simp] theorem State.modBlock_filled (s : State) (b : BRef) (f : Block → Block) : (s.modBlock b f).filled = s.filled := rfl
@[simp] theorem State.modBlock_counts (s : State) (b : BRef) (f : Block → Block) : (s.modBlock b f).counts = s.counts := rfl
@[simp] theorem State.modBlock_flight (s : State) (b : BRef) (f : Block → Block) : (s.modBlock b f).flight = s.flight := rfl
@[simp] theorem State.modBlock_issued (s : State) (b : BRef) (f : Block → Block) : (s.modBlock b f).issued = s.issued := rfl
@[simp] theorem State.modBlock_copies (s : State) (b : BRef) (f : Block → Block) : (s.modBlock b f).copies = s.copies := rfl
@[simp] theorem State.modBlock_requests (s : State) (b : BRef) (f : Block → Block) : (s.modBlock b f).requests = s.requests := rfl
@[simp] theorem State.modBlock_packets (s : State) (b : BRef) (f : Block → Block) : (s.modBlock b f).packets = s.packets := rfl
@[simp] theorem State.modBlock_notices (s : State) (b : BRef) (f : Block → Block) : (s.modBlock b f).notices = s.notices := rfl
@[simp] theorem State.modBlock_walks (s : State) (b : BRef) (f : Block → Block) : (s.modBlock b f).walks = s.walks := rfl
@[simp] theorem State.modBlock_begun (s : State) (b : BRef) (f : Block → Block) : (s.modBlock b f).begun = s.begun := rfl
@[simp] theorem State.modBlock_l2 (s : State) (b : BRef) (f : Block → Block) : (s.modBlock b f).l2 = s.l2 := rfl
@[simp] theorem State.modBlock_tlb2 (s : State) (b : BRef) (f : Block → Block) : (s.modBlock b f).tlb2 = s.tlb2 := rfl
@[simp] theorem State.modBlock_leases (s : State) (b : BRef) (f : Block → Block) : (s.modBlock b f).leases = s.leases := rfl
@[simp] theorem State.modBlock_sigs (s : State) (b : BRef) (f : Block → Block) : (s.modBlock b f).sigs = s.sigs := rfl
@[simp] theorem State.modBlock_directory (s : State) (b : BRef) (f : Block → Block) : (s.modBlock b f).directory = s.directory := rfl
@[simp] theorem State.modBlock_checkpoints (s : State) (b : BRef) (f : Block → Block) : (s.modBlock b f).checkpoints = s.checkpoints := rfl
@[simp] theorem State.modBlock_lastLaunch (s : State) (b : BRef) (f : Block → Block) : (s.modBlock b f).lastLaunch = s.lastLaunch := rfl
@[simp] theorem State.modBlock_portA (s : State) (b : BRef) (f : Block → Block) : (s.modBlock b f).portA = s.portA := rfl
@[simp] theorem State.modBlock_portB (s : State) (b : BRef) (f : Block → Block) : (s.modBlock b f).portB = s.portB := rfl
@[simp] theorem State.modBlock_msem (s : State) (b : BRef) (f : Block → Block) : (s.modBlock b f).msem = s.msem := rfl
@[simp] theorem State.modBlock_managed (s : State) (b : BRef) (f : Block → Block) : (s.modBlock b f).managed = s.managed := rfl
@[simp] theorem State.modBlock_bstate (s : State) (b : BRef) (f : Block → Block) : (s.modBlock b f).bstate = s.bstate := rfl
@[simp] theorem State.modBlock_fwslot (s : State) (b : BRef) (f : Block → Block) : (s.modBlock b f).fwslot = s.fwslot := rfl
@[simp] theorem State.modBlock_mapcopy (s : State) (b : BRef) (f : Block → Block) : (s.modBlock b f).mapcopy = s.mapcopy := rfl
@[simp] theorem State.modBlock_pgidle (s : State) (b : BRef) (f : Block → Block) : (s.modBlock b f).pgidle = s.pgidle := rfl
@[simp] theorem State.modBlock_bootTick (s : State) (b : BRef) (f : Block → Block) : (s.modBlock b f).bootTick = s.bootTick := rfl
@[simp] theorem State.modBlock_ewin (s : State) (b : BRef) (f : Block → Block) : (s.modBlock b f).ewin = s.ewin := rfl
@[simp] theorem State.modBlock_ein (s : State) (b : BRef) (f : Block → Block) : (s.modBlock b f).ein = s.ein := rfl
@[simp] theorem State.modBlock_linksDown (s : State) (b : BRef) (f : Block → Block) : (s.modBlock b f).linksDown = s.linksDown := rfl
@[simp] theorem State.modBlock_recess (s : State) (b : BRef) (f : Block → Block) : (s.modBlock b f).recess = s.recess := rfl
@[simp] theorem State.modBlock_cxlDown (s : State) (b : BRef) (f : Block → Block) : (s.modBlock b f).cxlDown = s.cxlDown := rfl
@[simp] theorem State.modBlock_mailbox (s : State) (b : BRef) (f : Block → Block) : (s.modBlock b f).mailbox = s.mailbox := rfl
@[simp] theorem State.modBlock_frozen (s : State) (b : BRef) (f : Block → Block) : (s.modBlock b f).frozen = s.frozen := rfl
@[simp] theorem State.modBlock_stopped (s : State) (b : BRef) (f : Block → Block) : (s.modBlock b f).stopped = s.stopped := rfl
@[simp] theorem State.modBlock_chart (s : State) (b : BRef) (f : Block → Block) : (s.modBlock b f).chart = s.chart := rfl
@[simp] theorem State.modBlock_nv (s : State) (b : BRef) (f : Block → Block) : (s.modBlock b f).nv = s.nv := rfl
@[simp] theorem State.modBlock_edgeReply (s : State) (b : BRef) (f : Block → Block) : (s.modBlock b f).edgeReply = s.edgeReply := rfl
@[simp] theorem State.modBlock_remoteOut (s : State) (b : BRef) (f : Block → Block) : (s.modBlock b f).remoteOut = s.remoteOut := rfl

/-! ### modCohort -/

@[simp] theorem State.modCohort_cycle (s : State) (c : CRef) (f : Cohort → Cohort) : (s.modCohort c f).cycle = s.cycle := rfl
@[simp] theorem State.modCohort_wbase (s : State) (c : CRef) (f : Cohort → Cohort) : (s.modCohort c f).wbase = s.wbase := rfl
@[simp] theorem State.modCohort_fresh (s : State) (c : CRef) (f : Cohort → Cohort) : (s.modCohort c f).fresh = s.fresh := rfl
@[simp] theorem State.modCohort_draw (s : State) (c : CRef) (f : Cohort → Cohort) : (s.modCohort c f).draw = s.draw := rfl
@[simp] theorem State.modCohort_agenda (s : State) (c : CRef) (f : Cohort → Cohort) : (s.modCohort c f).agenda = s.agenda := rfl
@[simp] theorem State.modCohort_selected (s : State) (c : CRef) (f : Cohort → Cohort) : (s.modCohort c f).selected = s.selected := rfl
@[simp] theorem State.modCohort_grids (s : State) (c : CRef) (f : Cohort → Cohort) : (s.modCohort c f).grids = s.grids := rfl
@[simp] theorem State.modCohort_blocks (s : State) (c : CRef) (f : Cohort → Cohort) : (s.modCohort c f).blocks = s.blocks.map fun x => if x.ref == c.b then x.modCohort c.cohort f else x := rfl
@[simp] theorem State.modCohort_parts (s : State) (c : CRef) (f : Cohort → Cohort) : (s.modCohort c f).parts = s.parts := rfl
@[simp] theorem State.modCohort_cores (s : State) (c : CRef) (f : Cohort → Cohort) : (s.modCohort c f).cores = s.cores := rfl
@[simp] theorem State.modCohort_domains (s : State) (c : CRef) (f : Cohort → Cohort) : (s.modCohort c f).domains = s.domains := rfl
@[simp] theorem State.modCohort_mem (s : State) (c : CRef) (f : Cohort → Cohort) : (s.modCohort c f).mem = s.mem := rfl
@[simp] theorem State.modCohort_poison (s : State) (c : CRef) (f : Cohort → Cohort) : (s.modCohort c f).poison = s.poison := rfl
@[simp] theorem State.modCohort_filled (s : State) (c : CRef) (f : Cohort → Cohort) : (s.modCohort c f).filled = s.filled := rfl
@[simp] theorem State.modCohort_counts (s : State) (c : CRef) (f : Cohort → Cohort) : (s.modCohort c f).counts = s.counts := rfl
@[simp] theorem State.modCohort_flight (s : State) (c : CRef) (f : Cohort → Cohort) : (s.modCohort c f).flight = s.flight := rfl
@[simp] theorem State.modCohort_issued (s : State) (c : CRef) (f : Cohort → Cohort) : (s.modCohort c f).issued = s.issued := rfl
@[simp] theorem State.modCohort_copies (s : State) (c : CRef) (f : Cohort → Cohort) : (s.modCohort c f).copies = s.copies := rfl
@[simp] theorem State.modCohort_requests (s : State) (c : CRef) (f : Cohort → Cohort) : (s.modCohort c f).requests = s.requests := rfl
@[simp] theorem State.modCohort_packets (s : State) (c : CRef) (f : Cohort → Cohort) : (s.modCohort c f).packets = s.packets := rfl
@[simp] theorem State.modCohort_notices (s : State) (c : CRef) (f : Cohort → Cohort) : (s.modCohort c f).notices = s.notices := rfl
@[simp] theorem State.modCohort_walks (s : State) (c : CRef) (f : Cohort → Cohort) : (s.modCohort c f).walks = s.walks := rfl
@[simp] theorem State.modCohort_begun (s : State) (c : CRef) (f : Cohort → Cohort) : (s.modCohort c f).begun = s.begun := rfl
@[simp] theorem State.modCohort_l2 (s : State) (c : CRef) (f : Cohort → Cohort) : (s.modCohort c f).l2 = s.l2 := rfl
@[simp] theorem State.modCohort_tlb2 (s : State) (c : CRef) (f : Cohort → Cohort) : (s.modCohort c f).tlb2 = s.tlb2 := rfl
@[simp] theorem State.modCohort_leases (s : State) (c : CRef) (f : Cohort → Cohort) : (s.modCohort c f).leases = s.leases := rfl
@[simp] theorem State.modCohort_sigs (s : State) (c : CRef) (f : Cohort → Cohort) : (s.modCohort c f).sigs = s.sigs := rfl
@[simp] theorem State.modCohort_directory (s : State) (c : CRef) (f : Cohort → Cohort) : (s.modCohort c f).directory = s.directory := rfl
@[simp] theorem State.modCohort_checkpoints (s : State) (c : CRef) (f : Cohort → Cohort) : (s.modCohort c f).checkpoints = s.checkpoints := rfl
@[simp] theorem State.modCohort_lastLaunch (s : State) (c : CRef) (f : Cohort → Cohort) : (s.modCohort c f).lastLaunch = s.lastLaunch := rfl
@[simp] theorem State.modCohort_portA (s : State) (c : CRef) (f : Cohort → Cohort) : (s.modCohort c f).portA = s.portA := rfl
@[simp] theorem State.modCohort_portB (s : State) (c : CRef) (f : Cohort → Cohort) : (s.modCohort c f).portB = s.portB := rfl
@[simp] theorem State.modCohort_msem (s : State) (c : CRef) (f : Cohort → Cohort) : (s.modCohort c f).msem = s.msem := rfl
@[simp] theorem State.modCohort_managed (s : State) (c : CRef) (f : Cohort → Cohort) : (s.modCohort c f).managed = s.managed := rfl
@[simp] theorem State.modCohort_bstate (s : State) (c : CRef) (f : Cohort → Cohort) : (s.modCohort c f).bstate = s.bstate := rfl
@[simp] theorem State.modCohort_fwslot (s : State) (c : CRef) (f : Cohort → Cohort) : (s.modCohort c f).fwslot = s.fwslot := rfl
@[simp] theorem State.modCohort_mapcopy (s : State) (c : CRef) (f : Cohort → Cohort) : (s.modCohort c f).mapcopy = s.mapcopy := rfl
@[simp] theorem State.modCohort_pgidle (s : State) (c : CRef) (f : Cohort → Cohort) : (s.modCohort c f).pgidle = s.pgidle := rfl
@[simp] theorem State.modCohort_bootTick (s : State) (c : CRef) (f : Cohort → Cohort) : (s.modCohort c f).bootTick = s.bootTick := rfl
@[simp] theorem State.modCohort_ewin (s : State) (c : CRef) (f : Cohort → Cohort) : (s.modCohort c f).ewin = s.ewin := rfl
@[simp] theorem State.modCohort_ein (s : State) (c : CRef) (f : Cohort → Cohort) : (s.modCohort c f).ein = s.ein := rfl
@[simp] theorem State.modCohort_linksDown (s : State) (c : CRef) (f : Cohort → Cohort) : (s.modCohort c f).linksDown = s.linksDown := rfl
@[simp] theorem State.modCohort_recess (s : State) (c : CRef) (f : Cohort → Cohort) : (s.modCohort c f).recess = s.recess := rfl
@[simp] theorem State.modCohort_cxlDown (s : State) (c : CRef) (f : Cohort → Cohort) : (s.modCohort c f).cxlDown = s.cxlDown := rfl
@[simp] theorem State.modCohort_mailbox (s : State) (c : CRef) (f : Cohort → Cohort) : (s.modCohort c f).mailbox = s.mailbox := rfl
@[simp] theorem State.modCohort_frozen (s : State) (c : CRef) (f : Cohort → Cohort) : (s.modCohort c f).frozen = s.frozen := rfl
@[simp] theorem State.modCohort_stopped (s : State) (c : CRef) (f : Cohort → Cohort) : (s.modCohort c f).stopped = s.stopped := rfl
@[simp] theorem State.modCohort_chart (s : State) (c : CRef) (f : Cohort → Cohort) : (s.modCohort c f).chart = s.chart := rfl
@[simp] theorem State.modCohort_nv (s : State) (c : CRef) (f : Cohort → Cohort) : (s.modCohort c f).nv = s.nv := rfl
@[simp] theorem State.modCohort_edgeReply (s : State) (c : CRef) (f : Cohort → Cohort) : (s.modCohort c f).edgeReply = s.edgeReply := rfl
@[simp] theorem State.modCohort_remoteOut (s : State) (c : CRef) (f : Cohort → Cohort) : (s.modCohort c f).remoteOut = s.remoteOut := rfl

/-! ### modSplit -/

@[simp] theorem State.modSplit_cycle (s : State) (r : SRef) (f : Split → Split) : (s.modSplit r f).cycle = s.cycle := rfl
@[simp] theorem State.modSplit_wbase (s : State) (r : SRef) (f : Split → Split) : (s.modSplit r f).wbase = s.wbase := rfl
@[simp] theorem State.modSplit_fresh (s : State) (r : SRef) (f : Split → Split) : (s.modSplit r f).fresh = s.fresh := rfl
@[simp] theorem State.modSplit_draw (s : State) (r : SRef) (f : Split → Split) : (s.modSplit r f).draw = s.draw := rfl
@[simp] theorem State.modSplit_agenda (s : State) (r : SRef) (f : Split → Split) : (s.modSplit r f).agenda = s.agenda := rfl
@[simp] theorem State.modSplit_selected (s : State) (r : SRef) (f : Split → Split) : (s.modSplit r f).selected = s.selected := rfl
@[simp] theorem State.modSplit_grids (s : State) (r : SRef) (f : Split → Split) : (s.modSplit r f).grids = s.grids := rfl
@[simp] theorem State.modSplit_blocks (s : State) (r : SRef) (f : Split → Split) : (s.modSplit r f).blocks = s.blocks.map fun x => if x.ref == r.c.b then x.modCohort r.c.cohort (fun c => c.modSplit r.split f) else x := rfl
@[simp] theorem State.modSplit_parts (s : State) (r : SRef) (f : Split → Split) : (s.modSplit r f).parts = s.parts := rfl
@[simp] theorem State.modSplit_cores (s : State) (r : SRef) (f : Split → Split) : (s.modSplit r f).cores = s.cores := rfl
@[simp] theorem State.modSplit_domains (s : State) (r : SRef) (f : Split → Split) : (s.modSplit r f).domains = s.domains := rfl
@[simp] theorem State.modSplit_mem (s : State) (r : SRef) (f : Split → Split) : (s.modSplit r f).mem = s.mem := rfl
@[simp] theorem State.modSplit_poison (s : State) (r : SRef) (f : Split → Split) : (s.modSplit r f).poison = s.poison := rfl
@[simp] theorem State.modSplit_filled (s : State) (r : SRef) (f : Split → Split) : (s.modSplit r f).filled = s.filled := rfl
@[simp] theorem State.modSplit_counts (s : State) (r : SRef) (f : Split → Split) : (s.modSplit r f).counts = s.counts := rfl
@[simp] theorem State.modSplit_flight (s : State) (r : SRef) (f : Split → Split) : (s.modSplit r f).flight = s.flight := rfl
@[simp] theorem State.modSplit_issued (s : State) (r : SRef) (f : Split → Split) : (s.modSplit r f).issued = s.issued := rfl
@[simp] theorem State.modSplit_copies (s : State) (r : SRef) (f : Split → Split) : (s.modSplit r f).copies = s.copies := rfl
@[simp] theorem State.modSplit_requests (s : State) (r : SRef) (f : Split → Split) : (s.modSplit r f).requests = s.requests := rfl
@[simp] theorem State.modSplit_packets (s : State) (r : SRef) (f : Split → Split) : (s.modSplit r f).packets = s.packets := rfl
@[simp] theorem State.modSplit_notices (s : State) (r : SRef) (f : Split → Split) : (s.modSplit r f).notices = s.notices := rfl
@[simp] theorem State.modSplit_walks (s : State) (r : SRef) (f : Split → Split) : (s.modSplit r f).walks = s.walks := rfl
@[simp] theorem State.modSplit_begun (s : State) (r : SRef) (f : Split → Split) : (s.modSplit r f).begun = s.begun := rfl
@[simp] theorem State.modSplit_l2 (s : State) (r : SRef) (f : Split → Split) : (s.modSplit r f).l2 = s.l2 := rfl
@[simp] theorem State.modSplit_tlb2 (s : State) (r : SRef) (f : Split → Split) : (s.modSplit r f).tlb2 = s.tlb2 := rfl
@[simp] theorem State.modSplit_leases (s : State) (r : SRef) (f : Split → Split) : (s.modSplit r f).leases = s.leases := rfl
@[simp] theorem State.modSplit_sigs (s : State) (r : SRef) (f : Split → Split) : (s.modSplit r f).sigs = s.sigs := rfl
@[simp] theorem State.modSplit_directory (s : State) (r : SRef) (f : Split → Split) : (s.modSplit r f).directory = s.directory := rfl
@[simp] theorem State.modSplit_checkpoints (s : State) (r : SRef) (f : Split → Split) : (s.modSplit r f).checkpoints = s.checkpoints := rfl
@[simp] theorem State.modSplit_lastLaunch (s : State) (r : SRef) (f : Split → Split) : (s.modSplit r f).lastLaunch = s.lastLaunch := rfl
@[simp] theorem State.modSplit_portA (s : State) (r : SRef) (f : Split → Split) : (s.modSplit r f).portA = s.portA := rfl
@[simp] theorem State.modSplit_portB (s : State) (r : SRef) (f : Split → Split) : (s.modSplit r f).portB = s.portB := rfl
@[simp] theorem State.modSplit_msem (s : State) (r : SRef) (f : Split → Split) : (s.modSplit r f).msem = s.msem := rfl
@[simp] theorem State.modSplit_managed (s : State) (r : SRef) (f : Split → Split) : (s.modSplit r f).managed = s.managed := rfl
@[simp] theorem State.modSplit_bstate (s : State) (r : SRef) (f : Split → Split) : (s.modSplit r f).bstate = s.bstate := rfl
@[simp] theorem State.modSplit_fwslot (s : State) (r : SRef) (f : Split → Split) : (s.modSplit r f).fwslot = s.fwslot := rfl
@[simp] theorem State.modSplit_mapcopy (s : State) (r : SRef) (f : Split → Split) : (s.modSplit r f).mapcopy = s.mapcopy := rfl
@[simp] theorem State.modSplit_pgidle (s : State) (r : SRef) (f : Split → Split) : (s.modSplit r f).pgidle = s.pgidle := rfl
@[simp] theorem State.modSplit_bootTick (s : State) (r : SRef) (f : Split → Split) : (s.modSplit r f).bootTick = s.bootTick := rfl
@[simp] theorem State.modSplit_ewin (s : State) (r : SRef) (f : Split → Split) : (s.modSplit r f).ewin = s.ewin := rfl
@[simp] theorem State.modSplit_ein (s : State) (r : SRef) (f : Split → Split) : (s.modSplit r f).ein = s.ein := rfl
@[simp] theorem State.modSplit_linksDown (s : State) (r : SRef) (f : Split → Split) : (s.modSplit r f).linksDown = s.linksDown := rfl
@[simp] theorem State.modSplit_recess (s : State) (r : SRef) (f : Split → Split) : (s.modSplit r f).recess = s.recess := rfl
@[simp] theorem State.modSplit_cxlDown (s : State) (r : SRef) (f : Split → Split) : (s.modSplit r f).cxlDown = s.cxlDown := rfl
@[simp] theorem State.modSplit_mailbox (s : State) (r : SRef) (f : Split → Split) : (s.modSplit r f).mailbox = s.mailbox := rfl
@[simp] theorem State.modSplit_frozen (s : State) (r : SRef) (f : Split → Split) : (s.modSplit r f).frozen = s.frozen := rfl
@[simp] theorem State.modSplit_stopped (s : State) (r : SRef) (f : Split → Split) : (s.modSplit r f).stopped = s.stopped := rfl
@[simp] theorem State.modSplit_chart (s : State) (r : SRef) (f : Split → Split) : (s.modSplit r f).chart = s.chart := rfl
@[simp] theorem State.modSplit_nv (s : State) (r : SRef) (f : Split → Split) : (s.modSplit r f).nv = s.nv := rfl
@[simp] theorem State.modSplit_edgeReply (s : State) (r : SRef) (f : Split → Split) : (s.modSplit r f).edgeReply = s.edgeReply := rfl
@[simp] theorem State.modSplit_remoteOut (s : State) (r : SRef) (f : Split → Split) : (s.modSplit r f).remoteOut = s.remoteOut := rfl

/-! ### modCore -/

@[simp] theorem State.modCore_cycle (s : State) (n : Nat) (f : Core → Core) : (s.modCore n f).cycle = s.cycle := rfl
@[simp] theorem State.modCore_wbase (s : State) (n : Nat) (f : Core → Core) : (s.modCore n f).wbase = s.wbase := rfl
@[simp] theorem State.modCore_fresh (s : State) (n : Nat) (f : Core → Core) : (s.modCore n f).fresh = s.fresh := rfl
@[simp] theorem State.modCore_draw (s : State) (n : Nat) (f : Core → Core) : (s.modCore n f).draw = s.draw := rfl
@[simp] theorem State.modCore_agenda (s : State) (n : Nat) (f : Core → Core) : (s.modCore n f).agenda = s.agenda := rfl
@[simp] theorem State.modCore_selected (s : State) (n : Nat) (f : Core → Core) : (s.modCore n f).selected = s.selected := rfl
@[simp] theorem State.modCore_grids (s : State) (n : Nat) (f : Core → Core) : (s.modCore n f).grids = s.grids := rfl
@[simp] theorem State.modCore_blocks (s : State) (n : Nat) (f : Core → Core) : (s.modCore n f).blocks = s.blocks := rfl
@[simp] theorem State.modCore_parts (s : State) (n : Nat) (f : Core → Core) : (s.modCore n f).parts = s.parts := rfl
@[simp] theorem State.modCore_cores (s : State) (n : Nat) (f : Core → Core) : (s.modCore n f).cores = tput {} n (f (s.core n)) s.cores := rfl
@[simp] theorem State.modCore_domains (s : State) (n : Nat) (f : Core → Core) : (s.modCore n f).domains = s.domains := rfl
@[simp] theorem State.modCore_mem (s : State) (n : Nat) (f : Core → Core) : (s.modCore n f).mem = s.mem := rfl
@[simp] theorem State.modCore_poison (s : State) (n : Nat) (f : Core → Core) : (s.modCore n f).poison = s.poison := rfl
@[simp] theorem State.modCore_filled (s : State) (n : Nat) (f : Core → Core) : (s.modCore n f).filled = s.filled := rfl
@[simp] theorem State.modCore_counts (s : State) (n : Nat) (f : Core → Core) : (s.modCore n f).counts = s.counts := rfl
@[simp] theorem State.modCore_flight (s : State) (n : Nat) (f : Core → Core) : (s.modCore n f).flight = s.flight := rfl
@[simp] theorem State.modCore_issued (s : State) (n : Nat) (f : Core → Core) : (s.modCore n f).issued = s.issued := rfl
@[simp] theorem State.modCore_copies (s : State) (n : Nat) (f : Core → Core) : (s.modCore n f).copies = s.copies := rfl
@[simp] theorem State.modCore_requests (s : State) (n : Nat) (f : Core → Core) : (s.modCore n f).requests = s.requests := rfl
@[simp] theorem State.modCore_packets (s : State) (n : Nat) (f : Core → Core) : (s.modCore n f).packets = s.packets := rfl
@[simp] theorem State.modCore_notices (s : State) (n : Nat) (f : Core → Core) : (s.modCore n f).notices = s.notices := rfl
@[simp] theorem State.modCore_walks (s : State) (n : Nat) (f : Core → Core) : (s.modCore n f).walks = s.walks := rfl
@[simp] theorem State.modCore_begun (s : State) (n : Nat) (f : Core → Core) : (s.modCore n f).begun = s.begun := rfl
@[simp] theorem State.modCore_l2 (s : State) (n : Nat) (f : Core → Core) : (s.modCore n f).l2 = s.l2 := rfl
@[simp] theorem State.modCore_tlb2 (s : State) (n : Nat) (f : Core → Core) : (s.modCore n f).tlb2 = s.tlb2 := rfl
@[simp] theorem State.modCore_leases (s : State) (n : Nat) (f : Core → Core) : (s.modCore n f).leases = s.leases := rfl
@[simp] theorem State.modCore_sigs (s : State) (n : Nat) (f : Core → Core) : (s.modCore n f).sigs = s.sigs := rfl
@[simp] theorem State.modCore_directory (s : State) (n : Nat) (f : Core → Core) : (s.modCore n f).directory = s.directory := rfl
@[simp] theorem State.modCore_checkpoints (s : State) (n : Nat) (f : Core → Core) : (s.modCore n f).checkpoints = s.checkpoints := rfl
@[simp] theorem State.modCore_lastLaunch (s : State) (n : Nat) (f : Core → Core) : (s.modCore n f).lastLaunch = s.lastLaunch := rfl
@[simp] theorem State.modCore_portA (s : State) (n : Nat) (f : Core → Core) : (s.modCore n f).portA = s.portA := rfl
@[simp] theorem State.modCore_portB (s : State) (n : Nat) (f : Core → Core) : (s.modCore n f).portB = s.portB := rfl
@[simp] theorem State.modCore_msem (s : State) (n : Nat) (f : Core → Core) : (s.modCore n f).msem = s.msem := rfl
@[simp] theorem State.modCore_managed (s : State) (n : Nat) (f : Core → Core) : (s.modCore n f).managed = s.managed := rfl
@[simp] theorem State.modCore_bstate (s : State) (n : Nat) (f : Core → Core) : (s.modCore n f).bstate = s.bstate := rfl
@[simp] theorem State.modCore_fwslot (s : State) (n : Nat) (f : Core → Core) : (s.modCore n f).fwslot = s.fwslot := rfl
@[simp] theorem State.modCore_mapcopy (s : State) (n : Nat) (f : Core → Core) : (s.modCore n f).mapcopy = s.mapcopy := rfl
@[simp] theorem State.modCore_pgidle (s : State) (n : Nat) (f : Core → Core) : (s.modCore n f).pgidle = s.pgidle := rfl
@[simp] theorem State.modCore_bootTick (s : State) (n : Nat) (f : Core → Core) : (s.modCore n f).bootTick = s.bootTick := rfl
@[simp] theorem State.modCore_ewin (s : State) (n : Nat) (f : Core → Core) : (s.modCore n f).ewin = s.ewin := rfl
@[simp] theorem State.modCore_ein (s : State) (n : Nat) (f : Core → Core) : (s.modCore n f).ein = s.ein := rfl
@[simp] theorem State.modCore_linksDown (s : State) (n : Nat) (f : Core → Core) : (s.modCore n f).linksDown = s.linksDown := rfl
@[simp] theorem State.modCore_recess (s : State) (n : Nat) (f : Core → Core) : (s.modCore n f).recess = s.recess := rfl
@[simp] theorem State.modCore_cxlDown (s : State) (n : Nat) (f : Core → Core) : (s.modCore n f).cxlDown = s.cxlDown := rfl
@[simp] theorem State.modCore_mailbox (s : State) (n : Nat) (f : Core → Core) : (s.modCore n f).mailbox = s.mailbox := rfl
@[simp] theorem State.modCore_frozen (s : State) (n : Nat) (f : Core → Core) : (s.modCore n f).frozen = s.frozen := rfl
@[simp] theorem State.modCore_stopped (s : State) (n : Nat) (f : Core → Core) : (s.modCore n f).stopped = s.stopped := rfl
@[simp] theorem State.modCore_chart (s : State) (n : Nat) (f : Core → Core) : (s.modCore n f).chart = s.chart := rfl
@[simp] theorem State.modCore_nv (s : State) (n : Nat) (f : Core → Core) : (s.modCore n f).nv = s.nv := rfl
@[simp] theorem State.modCore_edgeReply (s : State) (n : Nat) (f : Core → Core) : (s.modCore n f).edgeReply = s.edgeReply := rfl
@[simp] theorem State.modCore_remoteOut (s : State) (n : Nat) (f : Core → Core) : (s.modCore n f).remoteOut = s.remoteOut := rfl

/-! ### modPart -/

@[simp] theorem State.modPart_cycle (s : State) (p : Nat) (f : Part → Part) : (s.modPart p f).cycle = s.cycle := rfl
@[simp] theorem State.modPart_wbase (s : State) (p : Nat) (f : Part → Part) : (s.modPart p f).wbase = s.wbase := rfl
@[simp] theorem State.modPart_fresh (s : State) (p : Nat) (f : Part → Part) : (s.modPart p f).fresh = s.fresh := rfl
@[simp] theorem State.modPart_draw (s : State) (p : Nat) (f : Part → Part) : (s.modPart p f).draw = s.draw := rfl
@[simp] theorem State.modPart_agenda (s : State) (p : Nat) (f : Part → Part) : (s.modPart p f).agenda = s.agenda := rfl
@[simp] theorem State.modPart_selected (s : State) (p : Nat) (f : Part → Part) : (s.modPart p f).selected = s.selected := rfl
@[simp] theorem State.modPart_grids (s : State) (p : Nat) (f : Part → Part) : (s.modPart p f).grids = s.grids := rfl
@[simp] theorem State.modPart_blocks (s : State) (p : Nat) (f : Part → Part) : (s.modPart p f).blocks = s.blocks := rfl
@[simp] theorem State.modPart_parts (s : State) (p : Nat) (f : Part → Part) : (s.modPart p f).parts = tput {} p (f (s.part p)) s.parts := rfl
@[simp] theorem State.modPart_cores (s : State) (p : Nat) (f : Part → Part) : (s.modPart p f).cores = s.cores := rfl
@[simp] theorem State.modPart_domains (s : State) (p : Nat) (f : Part → Part) : (s.modPart p f).domains = s.domains := rfl
@[simp] theorem State.modPart_mem (s : State) (p : Nat) (f : Part → Part) : (s.modPart p f).mem = s.mem := rfl
@[simp] theorem State.modPart_poison (s : State) (p : Nat) (f : Part → Part) : (s.modPart p f).poison = s.poison := rfl
@[simp] theorem State.modPart_filled (s : State) (p : Nat) (f : Part → Part) : (s.modPart p f).filled = s.filled := rfl
@[simp] theorem State.modPart_counts (s : State) (p : Nat) (f : Part → Part) : (s.modPart p f).counts = s.counts := rfl
@[simp] theorem State.modPart_flight (s : State) (p : Nat) (f : Part → Part) : (s.modPart p f).flight = s.flight := rfl
@[simp] theorem State.modPart_issued (s : State) (p : Nat) (f : Part → Part) : (s.modPart p f).issued = s.issued := rfl
@[simp] theorem State.modPart_copies (s : State) (p : Nat) (f : Part → Part) : (s.modPart p f).copies = s.copies := rfl
@[simp] theorem State.modPart_requests (s : State) (p : Nat) (f : Part → Part) : (s.modPart p f).requests = s.requests := rfl
@[simp] theorem State.modPart_packets (s : State) (p : Nat) (f : Part → Part) : (s.modPart p f).packets = s.packets := rfl
@[simp] theorem State.modPart_notices (s : State) (p : Nat) (f : Part → Part) : (s.modPart p f).notices = s.notices := rfl
@[simp] theorem State.modPart_walks (s : State) (p : Nat) (f : Part → Part) : (s.modPart p f).walks = s.walks := rfl
@[simp] theorem State.modPart_begun (s : State) (p : Nat) (f : Part → Part) : (s.modPart p f).begun = s.begun := rfl
@[simp] theorem State.modPart_l2 (s : State) (p : Nat) (f : Part → Part) : (s.modPart p f).l2 = s.l2 := rfl
@[simp] theorem State.modPart_tlb2 (s : State) (p : Nat) (f : Part → Part) : (s.modPart p f).tlb2 = s.tlb2 := rfl
@[simp] theorem State.modPart_leases (s : State) (p : Nat) (f : Part → Part) : (s.modPart p f).leases = s.leases := rfl
@[simp] theorem State.modPart_sigs (s : State) (p : Nat) (f : Part → Part) : (s.modPart p f).sigs = s.sigs := rfl
@[simp] theorem State.modPart_directory (s : State) (p : Nat) (f : Part → Part) : (s.modPart p f).directory = s.directory := rfl
@[simp] theorem State.modPart_checkpoints (s : State) (p : Nat) (f : Part → Part) : (s.modPart p f).checkpoints = s.checkpoints := rfl
@[simp] theorem State.modPart_lastLaunch (s : State) (p : Nat) (f : Part → Part) : (s.modPart p f).lastLaunch = s.lastLaunch := rfl
@[simp] theorem State.modPart_portA (s : State) (p : Nat) (f : Part → Part) : (s.modPart p f).portA = s.portA := rfl
@[simp] theorem State.modPart_portB (s : State) (p : Nat) (f : Part → Part) : (s.modPart p f).portB = s.portB := rfl
@[simp] theorem State.modPart_msem (s : State) (p : Nat) (f : Part → Part) : (s.modPart p f).msem = s.msem := rfl
@[simp] theorem State.modPart_managed (s : State) (p : Nat) (f : Part → Part) : (s.modPart p f).managed = s.managed := rfl
@[simp] theorem State.modPart_bstate (s : State) (p : Nat) (f : Part → Part) : (s.modPart p f).bstate = s.bstate := rfl
@[simp] theorem State.modPart_fwslot (s : State) (p : Nat) (f : Part → Part) : (s.modPart p f).fwslot = s.fwslot := rfl
@[simp] theorem State.modPart_mapcopy (s : State) (p : Nat) (f : Part → Part) : (s.modPart p f).mapcopy = s.mapcopy := rfl
@[simp] theorem State.modPart_pgidle (s : State) (p : Nat) (f : Part → Part) : (s.modPart p f).pgidle = s.pgidle := rfl
@[simp] theorem State.modPart_bootTick (s : State) (p : Nat) (f : Part → Part) : (s.modPart p f).bootTick = s.bootTick := rfl
@[simp] theorem State.modPart_ewin (s : State) (p : Nat) (f : Part → Part) : (s.modPart p f).ewin = s.ewin := rfl
@[simp] theorem State.modPart_ein (s : State) (p : Nat) (f : Part → Part) : (s.modPart p f).ein = s.ein := rfl
@[simp] theorem State.modPart_linksDown (s : State) (p : Nat) (f : Part → Part) : (s.modPart p f).linksDown = s.linksDown := rfl
@[simp] theorem State.modPart_recess (s : State) (p : Nat) (f : Part → Part) : (s.modPart p f).recess = s.recess := rfl
@[simp] theorem State.modPart_cxlDown (s : State) (p : Nat) (f : Part → Part) : (s.modPart p f).cxlDown = s.cxlDown := rfl
@[simp] theorem State.modPart_mailbox (s : State) (p : Nat) (f : Part → Part) : (s.modPart p f).mailbox = s.mailbox := rfl
@[simp] theorem State.modPart_frozen (s : State) (p : Nat) (f : Part → Part) : (s.modPart p f).frozen = s.frozen := rfl
@[simp] theorem State.modPart_stopped (s : State) (p : Nat) (f : Part → Part) : (s.modPart p f).stopped = s.stopped := rfl
@[simp] theorem State.modPart_chart (s : State) (p : Nat) (f : Part → Part) : (s.modPart p f).chart = s.chart := rfl
@[simp] theorem State.modPart_nv (s : State) (p : Nat) (f : Part → Part) : (s.modPart p f).nv = s.nv := rfl
@[simp] theorem State.modPart_edgeReply (s : State) (p : Nat) (f : Part → Part) : (s.modPart p f).edgeReply = s.edgeReply := rfl
@[simp] theorem State.modPart_remoteOut (s : State) (p : Nat) (f : Part → Part) : (s.modPart p f).remoteOut = s.remoteOut := rfl

/-! ### modDom -/

@[simp] theorem State.modDom_cycle (s : State) (d : Nat) (f : Domain → Domain) : (s.modDom d f).cycle = s.cycle := rfl
@[simp] theorem State.modDom_wbase (s : State) (d : Nat) (f : Domain → Domain) : (s.modDom d f).wbase = s.wbase := rfl
@[simp] theorem State.modDom_fresh (s : State) (d : Nat) (f : Domain → Domain) : (s.modDom d f).fresh = s.fresh := rfl
@[simp] theorem State.modDom_draw (s : State) (d : Nat) (f : Domain → Domain) : (s.modDom d f).draw = s.draw := rfl
@[simp] theorem State.modDom_agenda (s : State) (d : Nat) (f : Domain → Domain) : (s.modDom d f).agenda = s.agenda := rfl
@[simp] theorem State.modDom_selected (s : State) (d : Nat) (f : Domain → Domain) : (s.modDom d f).selected = s.selected := rfl
@[simp] theorem State.modDom_grids (s : State) (d : Nat) (f : Domain → Domain) : (s.modDom d f).grids = s.grids := rfl
@[simp] theorem State.modDom_blocks (s : State) (d : Nat) (f : Domain → Domain) : (s.modDom d f).blocks = s.blocks := rfl
@[simp] theorem State.modDom_parts (s : State) (d : Nat) (f : Domain → Domain) : (s.modDom d f).parts = s.parts := rfl
@[simp] theorem State.modDom_cores (s : State) (d : Nat) (f : Domain → Domain) : (s.modDom d f).cores = s.cores := rfl
@[simp] theorem State.modDom_domains (s : State) (d : Nat) (f : Domain → Domain) : (s.modDom d f).domains = tput {} d (f (s.dom d)) s.domains := rfl
@[simp] theorem State.modDom_mem (s : State) (d : Nat) (f : Domain → Domain) : (s.modDom d f).mem = s.mem := rfl
@[simp] theorem State.modDom_poison (s : State) (d : Nat) (f : Domain → Domain) : (s.modDom d f).poison = s.poison := rfl
@[simp] theorem State.modDom_filled (s : State) (d : Nat) (f : Domain → Domain) : (s.modDom d f).filled = s.filled := rfl
@[simp] theorem State.modDom_counts (s : State) (d : Nat) (f : Domain → Domain) : (s.modDom d f).counts = s.counts := rfl
@[simp] theorem State.modDom_flight (s : State) (d : Nat) (f : Domain → Domain) : (s.modDom d f).flight = s.flight := rfl
@[simp] theorem State.modDom_issued (s : State) (d : Nat) (f : Domain → Domain) : (s.modDom d f).issued = s.issued := rfl
@[simp] theorem State.modDom_copies (s : State) (d : Nat) (f : Domain → Domain) : (s.modDom d f).copies = s.copies := rfl
@[simp] theorem State.modDom_requests (s : State) (d : Nat) (f : Domain → Domain) : (s.modDom d f).requests = s.requests := rfl
@[simp] theorem State.modDom_packets (s : State) (d : Nat) (f : Domain → Domain) : (s.modDom d f).packets = s.packets := rfl
@[simp] theorem State.modDom_notices (s : State) (d : Nat) (f : Domain → Domain) : (s.modDom d f).notices = s.notices := rfl
@[simp] theorem State.modDom_walks (s : State) (d : Nat) (f : Domain → Domain) : (s.modDom d f).walks = s.walks := rfl
@[simp] theorem State.modDom_begun (s : State) (d : Nat) (f : Domain → Domain) : (s.modDom d f).begun = s.begun := rfl
@[simp] theorem State.modDom_l2 (s : State) (d : Nat) (f : Domain → Domain) : (s.modDom d f).l2 = s.l2 := rfl
@[simp] theorem State.modDom_tlb2 (s : State) (d : Nat) (f : Domain → Domain) : (s.modDom d f).tlb2 = s.tlb2 := rfl
@[simp] theorem State.modDom_leases (s : State) (d : Nat) (f : Domain → Domain) : (s.modDom d f).leases = s.leases := rfl
@[simp] theorem State.modDom_sigs (s : State) (d : Nat) (f : Domain → Domain) : (s.modDom d f).sigs = s.sigs := rfl
@[simp] theorem State.modDom_directory (s : State) (d : Nat) (f : Domain → Domain) : (s.modDom d f).directory = s.directory := rfl
@[simp] theorem State.modDom_checkpoints (s : State) (d : Nat) (f : Domain → Domain) : (s.modDom d f).checkpoints = s.checkpoints := rfl
@[simp] theorem State.modDom_lastLaunch (s : State) (d : Nat) (f : Domain → Domain) : (s.modDom d f).lastLaunch = s.lastLaunch := rfl
@[simp] theorem State.modDom_portA (s : State) (d : Nat) (f : Domain → Domain) : (s.modDom d f).portA = s.portA := rfl
@[simp] theorem State.modDom_portB (s : State) (d : Nat) (f : Domain → Domain) : (s.modDom d f).portB = s.portB := rfl
@[simp] theorem State.modDom_msem (s : State) (d : Nat) (f : Domain → Domain) : (s.modDom d f).msem = s.msem := rfl
@[simp] theorem State.modDom_managed (s : State) (d : Nat) (f : Domain → Domain) : (s.modDom d f).managed = s.managed := rfl
@[simp] theorem State.modDom_bstate (s : State) (d : Nat) (f : Domain → Domain) : (s.modDom d f).bstate = s.bstate := rfl
@[simp] theorem State.modDom_fwslot (s : State) (d : Nat) (f : Domain → Domain) : (s.modDom d f).fwslot = s.fwslot := rfl
@[simp] theorem State.modDom_mapcopy (s : State) (d : Nat) (f : Domain → Domain) : (s.modDom d f).mapcopy = s.mapcopy := rfl
@[simp] theorem State.modDom_pgidle (s : State) (d : Nat) (f : Domain → Domain) : (s.modDom d f).pgidle = s.pgidle := rfl
@[simp] theorem State.modDom_bootTick (s : State) (d : Nat) (f : Domain → Domain) : (s.modDom d f).bootTick = s.bootTick := rfl
@[simp] theorem State.modDom_ewin (s : State) (d : Nat) (f : Domain → Domain) : (s.modDom d f).ewin = s.ewin := rfl
@[simp] theorem State.modDom_ein (s : State) (d : Nat) (f : Domain → Domain) : (s.modDom d f).ein = s.ein := rfl
@[simp] theorem State.modDom_linksDown (s : State) (d : Nat) (f : Domain → Domain) : (s.modDom d f).linksDown = s.linksDown := rfl
@[simp] theorem State.modDom_recess (s : State) (d : Nat) (f : Domain → Domain) : (s.modDom d f).recess = s.recess := rfl
@[simp] theorem State.modDom_cxlDown (s : State) (d : Nat) (f : Domain → Domain) : (s.modDom d f).cxlDown = s.cxlDown := rfl
@[simp] theorem State.modDom_mailbox (s : State) (d : Nat) (f : Domain → Domain) : (s.modDom d f).mailbox = s.mailbox := rfl
@[simp] theorem State.modDom_frozen (s : State) (d : Nat) (f : Domain → Domain) : (s.modDom d f).frozen = s.frozen := rfl
@[simp] theorem State.modDom_stopped (s : State) (d : Nat) (f : Domain → Domain) : (s.modDom d f).stopped = s.stopped := rfl
@[simp] theorem State.modDom_chart (s : State) (d : Nat) (f : Domain → Domain) : (s.modDom d f).chart = s.chart := rfl
@[simp] theorem State.modDom_nv (s : State) (d : Nat) (f : Domain → Domain) : (s.modDom d f).nv = s.nv := rfl
@[simp] theorem State.modDom_edgeReply (s : State) (d : Nat) (f : Domain → Domain) : (s.modDom d f).edgeReply = s.edgeReply := rfl
@[simp] theorem State.modDom_remoteOut (s : State) (d : Nat) (f : Domain → Domain) : (s.modDom d f).remoteOut = s.remoteOut := rfl

/-! ### writeMem -/

@[simp] theorem State.writeMem_cycle (s : State) (pa : Nat) (v : Byte) : (s.writeMem pa v).cycle = s.cycle := rfl
@[simp] theorem State.writeMem_wbase (s : State) (pa : Nat) (v : Byte) : (s.writeMem pa v).wbase = s.wbase := rfl
@[simp] theorem State.writeMem_fresh (s : State) (pa : Nat) (v : Byte) : (s.writeMem pa v).fresh = s.fresh := rfl
@[simp] theorem State.writeMem_draw (s : State) (pa : Nat) (v : Byte) : (s.writeMem pa v).draw = s.draw := rfl
@[simp] theorem State.writeMem_agenda (s : State) (pa : Nat) (v : Byte) : (s.writeMem pa v).agenda = s.agenda := rfl
@[simp] theorem State.writeMem_selected (s : State) (pa : Nat) (v : Byte) : (s.writeMem pa v).selected = s.selected := rfl
@[simp] theorem State.writeMem_grids (s : State) (pa : Nat) (v : Byte) : (s.writeMem pa v).grids = s.grids := rfl
@[simp] theorem State.writeMem_blocks (s : State) (pa : Nat) (v : Byte) : (s.writeMem pa v).blocks = s.blocks := rfl
@[simp] theorem State.writeMem_parts (s : State) (pa : Nat) (v : Byte) : (s.writeMem pa v).parts = s.parts := rfl
@[simp] theorem State.writeMem_cores (s : State) (pa : Nat) (v : Byte) : (s.writeMem pa v).cores = s.cores := rfl
@[simp] theorem State.writeMem_domains (s : State) (pa : Nat) (v : Byte) : (s.writeMem pa v).domains = s.domains := rfl
@[simp] theorem State.writeMem_mem (s : State) (pa : Nat) (v : Byte) : (s.writeMem pa v).mem = tput memDefault pa v s.mem := rfl
@[simp] theorem State.writeMem_poison (s : State) (pa : Nat) (v : Byte) : (s.writeMem pa v).poison = s.poison := rfl
@[simp] theorem State.writeMem_filled (s : State) (pa : Nat) (v : Byte) : (s.writeMem pa v).filled = s.filled := rfl
@[simp] theorem State.writeMem_counts (s : State) (pa : Nat) (v : Byte) : (s.writeMem pa v).counts = s.counts := rfl
@[simp] theorem State.writeMem_flight (s : State) (pa : Nat) (v : Byte) : (s.writeMem pa v).flight = s.flight := rfl
@[simp] theorem State.writeMem_issued (s : State) (pa : Nat) (v : Byte) : (s.writeMem pa v).issued = s.issued := rfl
@[simp] theorem State.writeMem_copies (s : State) (pa : Nat) (v : Byte) : (s.writeMem pa v).copies = s.copies := rfl
@[simp] theorem State.writeMem_requests (s : State) (pa : Nat) (v : Byte) : (s.writeMem pa v).requests = s.requests := rfl
@[simp] theorem State.writeMem_packets (s : State) (pa : Nat) (v : Byte) : (s.writeMem pa v).packets = s.packets := rfl
@[simp] theorem State.writeMem_notices (s : State) (pa : Nat) (v : Byte) : (s.writeMem pa v).notices = s.notices := rfl
@[simp] theorem State.writeMem_walks (s : State) (pa : Nat) (v : Byte) : (s.writeMem pa v).walks = s.walks := rfl
@[simp] theorem State.writeMem_begun (s : State) (pa : Nat) (v : Byte) : (s.writeMem pa v).begun = s.begun := rfl
@[simp] theorem State.writeMem_l2 (s : State) (pa : Nat) (v : Byte) : (s.writeMem pa v).l2 = s.l2 := rfl
@[simp] theorem State.writeMem_tlb2 (s : State) (pa : Nat) (v : Byte) : (s.writeMem pa v).tlb2 = s.tlb2 := rfl
@[simp] theorem State.writeMem_leases (s : State) (pa : Nat) (v : Byte) : (s.writeMem pa v).leases = s.leases := rfl
@[simp] theorem State.writeMem_sigs (s : State) (pa : Nat) (v : Byte) : (s.writeMem pa v).sigs = s.sigs := rfl
@[simp] theorem State.writeMem_directory (s : State) (pa : Nat) (v : Byte) : (s.writeMem pa v).directory = s.directory := rfl
@[simp] theorem State.writeMem_checkpoints (s : State) (pa : Nat) (v : Byte) : (s.writeMem pa v).checkpoints = s.checkpoints := rfl
@[simp] theorem State.writeMem_lastLaunch (s : State) (pa : Nat) (v : Byte) : (s.writeMem pa v).lastLaunch = s.lastLaunch := rfl
@[simp] theorem State.writeMem_portA (s : State) (pa : Nat) (v : Byte) : (s.writeMem pa v).portA = s.portA := rfl
@[simp] theorem State.writeMem_portB (s : State) (pa : Nat) (v : Byte) : (s.writeMem pa v).portB = s.portB := rfl
@[simp] theorem State.writeMem_msem (s : State) (pa : Nat) (v : Byte) : (s.writeMem pa v).msem = s.msem := rfl
@[simp] theorem State.writeMem_managed (s : State) (pa : Nat) (v : Byte) : (s.writeMem pa v).managed = s.managed := rfl
@[simp] theorem State.writeMem_bstate (s : State) (pa : Nat) (v : Byte) : (s.writeMem pa v).bstate = s.bstate := rfl
@[simp] theorem State.writeMem_fwslot (s : State) (pa : Nat) (v : Byte) : (s.writeMem pa v).fwslot = s.fwslot := rfl
@[simp] theorem State.writeMem_mapcopy (s : State) (pa : Nat) (v : Byte) : (s.writeMem pa v).mapcopy = s.mapcopy := rfl
@[simp] theorem State.writeMem_pgidle (s : State) (pa : Nat) (v : Byte) : (s.writeMem pa v).pgidle = s.pgidle := rfl
@[simp] theorem State.writeMem_bootTick (s : State) (pa : Nat) (v : Byte) : (s.writeMem pa v).bootTick = s.bootTick := rfl
@[simp] theorem State.writeMem_ewin (s : State) (pa : Nat) (v : Byte) : (s.writeMem pa v).ewin = s.ewin := rfl
@[simp] theorem State.writeMem_ein (s : State) (pa : Nat) (v : Byte) : (s.writeMem pa v).ein = s.ein := rfl
@[simp] theorem State.writeMem_linksDown (s : State) (pa : Nat) (v : Byte) : (s.writeMem pa v).linksDown = s.linksDown := rfl
@[simp] theorem State.writeMem_recess (s : State) (pa : Nat) (v : Byte) : (s.writeMem pa v).recess = s.recess := rfl
@[simp] theorem State.writeMem_cxlDown (s : State) (pa : Nat) (v : Byte) : (s.writeMem pa v).cxlDown = s.cxlDown := rfl
@[simp] theorem State.writeMem_mailbox (s : State) (pa : Nat) (v : Byte) : (s.writeMem pa v).mailbox = s.mailbox := rfl
@[simp] theorem State.writeMem_frozen (s : State) (pa : Nat) (v : Byte) : (s.writeMem pa v).frozen = s.frozen := rfl
@[simp] theorem State.writeMem_stopped (s : State) (pa : Nat) (v : Byte) : (s.writeMem pa v).stopped = s.stopped := rfl
@[simp] theorem State.writeMem_chart (s : State) (pa : Nat) (v : Byte) : (s.writeMem pa v).chart = s.chart := rfl
@[simp] theorem State.writeMem_nv (s : State) (pa : Nat) (v : Byte) : (s.writeMem pa v).nv = s.nv := rfl
@[simp] theorem State.writeMem_edgeReply (s : State) (pa : Nat) (v : Byte) : (s.writeMem pa v).edgeReply = s.edgeReply := rfl
@[simp] theorem State.writeMem_remoteOut (s : State) (pa : Nat) (v : Byte) : (s.writeMem pa v).remoteOut = s.remoteOut := rfl

/-! ### writeRun -/

@[simp] theorem State.writeRun_cycle (s : State) (pa : Nat) (vs : List Byte) : (s.writeRun pa vs).cycle = s.cycle := rfl
@[simp] theorem State.writeRun_wbase (s : State) (pa : Nat) (vs : List Byte) : (s.writeRun pa vs).wbase = s.wbase := rfl
@[simp] theorem State.writeRun_fresh (s : State) (pa : Nat) (vs : List Byte) : (s.writeRun pa vs).fresh = s.fresh := rfl
@[simp] theorem State.writeRun_draw (s : State) (pa : Nat) (vs : List Byte) : (s.writeRun pa vs).draw = s.draw := rfl
@[simp] theorem State.writeRun_agenda (s : State) (pa : Nat) (vs : List Byte) : (s.writeRun pa vs).agenda = s.agenda := rfl
@[simp] theorem State.writeRun_selected (s : State) (pa : Nat) (vs : List Byte) : (s.writeRun pa vs).selected = s.selected := rfl
@[simp] theorem State.writeRun_grids (s : State) (pa : Nat) (vs : List Byte) : (s.writeRun pa vs).grids = s.grids := rfl
@[simp] theorem State.writeRun_blocks (s : State) (pa : Nat) (vs : List Byte) : (s.writeRun pa vs).blocks = s.blocks := rfl
@[simp] theorem State.writeRun_parts (s : State) (pa : Nat) (vs : List Byte) : (s.writeRun pa vs).parts = s.parts := rfl
@[simp] theorem State.writeRun_cores (s : State) (pa : Nat) (vs : List Byte) : (s.writeRun pa vs).cores = s.cores := rfl
@[simp] theorem State.writeRun_domains (s : State) (pa : Nat) (vs : List Byte) : (s.writeRun pa vs).domains = s.domains := rfl
@[simp] theorem State.writeRun_mem (s : State) (pa : Nat) (vs : List Byte) : (s.writeRun pa vs).mem = tputs memDefault (vs.mapIdx fun i v => (pa + i, v)) s.mem := rfl
@[simp] theorem State.writeRun_poison (s : State) (pa : Nat) (vs : List Byte) : (s.writeRun pa vs).poison = s.poison := rfl
@[simp] theorem State.writeRun_filled (s : State) (pa : Nat) (vs : List Byte) : (s.writeRun pa vs).filled = s.filled := rfl
@[simp] theorem State.writeRun_counts (s : State) (pa : Nat) (vs : List Byte) : (s.writeRun pa vs).counts = s.counts := rfl
@[simp] theorem State.writeRun_flight (s : State) (pa : Nat) (vs : List Byte) : (s.writeRun pa vs).flight = s.flight := rfl
@[simp] theorem State.writeRun_issued (s : State) (pa : Nat) (vs : List Byte) : (s.writeRun pa vs).issued = s.issued := rfl
@[simp] theorem State.writeRun_copies (s : State) (pa : Nat) (vs : List Byte) : (s.writeRun pa vs).copies = s.copies := rfl
@[simp] theorem State.writeRun_requests (s : State) (pa : Nat) (vs : List Byte) : (s.writeRun pa vs).requests = s.requests := rfl
@[simp] theorem State.writeRun_packets (s : State) (pa : Nat) (vs : List Byte) : (s.writeRun pa vs).packets = s.packets := rfl
@[simp] theorem State.writeRun_notices (s : State) (pa : Nat) (vs : List Byte) : (s.writeRun pa vs).notices = s.notices := rfl
@[simp] theorem State.writeRun_walks (s : State) (pa : Nat) (vs : List Byte) : (s.writeRun pa vs).walks = s.walks := rfl
@[simp] theorem State.writeRun_begun (s : State) (pa : Nat) (vs : List Byte) : (s.writeRun pa vs).begun = s.begun := rfl
@[simp] theorem State.writeRun_l2 (s : State) (pa : Nat) (vs : List Byte) : (s.writeRun pa vs).l2 = s.l2 := rfl
@[simp] theorem State.writeRun_tlb2 (s : State) (pa : Nat) (vs : List Byte) : (s.writeRun pa vs).tlb2 = s.tlb2 := rfl
@[simp] theorem State.writeRun_leases (s : State) (pa : Nat) (vs : List Byte) : (s.writeRun pa vs).leases = s.leases := rfl
@[simp] theorem State.writeRun_sigs (s : State) (pa : Nat) (vs : List Byte) : (s.writeRun pa vs).sigs = s.sigs := rfl
@[simp] theorem State.writeRun_directory (s : State) (pa : Nat) (vs : List Byte) : (s.writeRun pa vs).directory = s.directory := rfl
@[simp] theorem State.writeRun_checkpoints (s : State) (pa : Nat) (vs : List Byte) : (s.writeRun pa vs).checkpoints = s.checkpoints := rfl
@[simp] theorem State.writeRun_lastLaunch (s : State) (pa : Nat) (vs : List Byte) : (s.writeRun pa vs).lastLaunch = s.lastLaunch := rfl
@[simp] theorem State.writeRun_portA (s : State) (pa : Nat) (vs : List Byte) : (s.writeRun pa vs).portA = s.portA := rfl
@[simp] theorem State.writeRun_portB (s : State) (pa : Nat) (vs : List Byte) : (s.writeRun pa vs).portB = s.portB := rfl
@[simp] theorem State.writeRun_msem (s : State) (pa : Nat) (vs : List Byte) : (s.writeRun pa vs).msem = s.msem := rfl
@[simp] theorem State.writeRun_managed (s : State) (pa : Nat) (vs : List Byte) : (s.writeRun pa vs).managed = s.managed := rfl
@[simp] theorem State.writeRun_bstate (s : State) (pa : Nat) (vs : List Byte) : (s.writeRun pa vs).bstate = s.bstate := rfl
@[simp] theorem State.writeRun_fwslot (s : State) (pa : Nat) (vs : List Byte) : (s.writeRun pa vs).fwslot = s.fwslot := rfl
@[simp] theorem State.writeRun_mapcopy (s : State) (pa : Nat) (vs : List Byte) : (s.writeRun pa vs).mapcopy = s.mapcopy := rfl
@[simp] theorem State.writeRun_pgidle (s : State) (pa : Nat) (vs : List Byte) : (s.writeRun pa vs).pgidle = s.pgidle := rfl
@[simp] theorem State.writeRun_bootTick (s : State) (pa : Nat) (vs : List Byte) : (s.writeRun pa vs).bootTick = s.bootTick := rfl
@[simp] theorem State.writeRun_ewin (s : State) (pa : Nat) (vs : List Byte) : (s.writeRun pa vs).ewin = s.ewin := rfl
@[simp] theorem State.writeRun_ein (s : State) (pa : Nat) (vs : List Byte) : (s.writeRun pa vs).ein = s.ein := rfl
@[simp] theorem State.writeRun_linksDown (s : State) (pa : Nat) (vs : List Byte) : (s.writeRun pa vs).linksDown = s.linksDown := rfl
@[simp] theorem State.writeRun_recess (s : State) (pa : Nat) (vs : List Byte) : (s.writeRun pa vs).recess = s.recess := rfl
@[simp] theorem State.writeRun_cxlDown (s : State) (pa : Nat) (vs : List Byte) : (s.writeRun pa vs).cxlDown = s.cxlDown := rfl
@[simp] theorem State.writeRun_mailbox (s : State) (pa : Nat) (vs : List Byte) : (s.writeRun pa vs).mailbox = s.mailbox := rfl
@[simp] theorem State.writeRun_frozen (s : State) (pa : Nat) (vs : List Byte) : (s.writeRun pa vs).frozen = s.frozen := rfl
@[simp] theorem State.writeRun_stopped (s : State) (pa : Nat) (vs : List Byte) : (s.writeRun pa vs).stopped = s.stopped := rfl
@[simp] theorem State.writeRun_chart (s : State) (pa : Nat) (vs : List Byte) : (s.writeRun pa vs).chart = s.chart := rfl
@[simp] theorem State.writeRun_nv (s : State) (pa : Nat) (vs : List Byte) : (s.writeRun pa vs).nv = s.nv := rfl
@[simp] theorem State.writeRun_edgeReply (s : State) (pa : Nat) (vs : List Byte) : (s.writeRun pa vs).edgeReply = s.edgeReply := rfl
@[simp] theorem State.writeRun_remoteOut (s : State) (pa : Nat) (vs : List Byte) : (s.writeRun pa vs).remoteOut = s.remoteOut := rfl

/-! ### modPort -/

@[simp] theorem State.modPort_cycle (s : State) (p : Port) (f : PortRegs → PortRegs) : (s.modPort p f).cycle = s.cycle := by
  cases p <;> rfl
@[simp] theorem State.modPort_wbase (s : State) (p : Port) (f : PortRegs → PortRegs) : (s.modPort p f).wbase = s.wbase := by
  cases p <;> rfl
@[simp] theorem State.modPort_fresh (s : State) (p : Port) (f : PortRegs → PortRegs) : (s.modPort p f).fresh = s.fresh := by
  cases p <;> rfl
@[simp] theorem State.modPort_draw (s : State) (p : Port) (f : PortRegs → PortRegs) : (s.modPort p f).draw = s.draw := by
  cases p <;> rfl
@[simp] theorem State.modPort_agenda (s : State) (p : Port) (f : PortRegs → PortRegs) : (s.modPort p f).agenda = s.agenda := by
  cases p <;> rfl
@[simp] theorem State.modPort_selected (s : State) (p : Port) (f : PortRegs → PortRegs) : (s.modPort p f).selected = s.selected := by
  cases p <;> rfl
@[simp] theorem State.modPort_grids (s : State) (p : Port) (f : PortRegs → PortRegs) : (s.modPort p f).grids = s.grids := by
  cases p <;> rfl
@[simp] theorem State.modPort_blocks (s : State) (p : Port) (f : PortRegs → PortRegs) : (s.modPort p f).blocks = s.blocks := by
  cases p <;> rfl
@[simp] theorem State.modPort_parts (s : State) (p : Port) (f : PortRegs → PortRegs) : (s.modPort p f).parts = s.parts := by
  cases p <;> rfl
@[simp] theorem State.modPort_cores (s : State) (p : Port) (f : PortRegs → PortRegs) : (s.modPort p f).cores = s.cores := by
  cases p <;> rfl
@[simp] theorem State.modPort_domains (s : State) (p : Port) (f : PortRegs → PortRegs) : (s.modPort p f).domains = s.domains := by
  cases p <;> rfl
@[simp] theorem State.modPort_mem (s : State) (p : Port) (f : PortRegs → PortRegs) : (s.modPort p f).mem = s.mem := by
  cases p <;> rfl
@[simp] theorem State.modPort_poison (s : State) (p : Port) (f : PortRegs → PortRegs) : (s.modPort p f).poison = s.poison := by
  cases p <;> rfl
@[simp] theorem State.modPort_filled (s : State) (p : Port) (f : PortRegs → PortRegs) : (s.modPort p f).filled = s.filled := by
  cases p <;> rfl
@[simp] theorem State.modPort_counts (s : State) (p : Port) (f : PortRegs → PortRegs) : (s.modPort p f).counts = s.counts := by
  cases p <;> rfl
@[simp] theorem State.modPort_flight (s : State) (p : Port) (f : PortRegs → PortRegs) : (s.modPort p f).flight = s.flight := by
  cases p <;> rfl
@[simp] theorem State.modPort_issued (s : State) (p : Port) (f : PortRegs → PortRegs) : (s.modPort p f).issued = s.issued := by
  cases p <;> rfl
@[simp] theorem State.modPort_copies (s : State) (p : Port) (f : PortRegs → PortRegs) : (s.modPort p f).copies = s.copies := by
  cases p <;> rfl
@[simp] theorem State.modPort_requests (s : State) (p : Port) (f : PortRegs → PortRegs) : (s.modPort p f).requests = s.requests := by
  cases p <;> rfl
@[simp] theorem State.modPort_packets (s : State) (p : Port) (f : PortRegs → PortRegs) : (s.modPort p f).packets = s.packets := by
  cases p <;> rfl
@[simp] theorem State.modPort_notices (s : State) (p : Port) (f : PortRegs → PortRegs) : (s.modPort p f).notices = s.notices := by
  cases p <;> rfl
@[simp] theorem State.modPort_walks (s : State) (p : Port) (f : PortRegs → PortRegs) : (s.modPort p f).walks = s.walks := by
  cases p <;> rfl
@[simp] theorem State.modPort_begun (s : State) (p : Port) (f : PortRegs → PortRegs) : (s.modPort p f).begun = s.begun := by
  cases p <;> rfl
@[simp] theorem State.modPort_l2 (s : State) (p : Port) (f : PortRegs → PortRegs) : (s.modPort p f).l2 = s.l2 := by
  cases p <;> rfl
@[simp] theorem State.modPort_tlb2 (s : State) (p : Port) (f : PortRegs → PortRegs) : (s.modPort p f).tlb2 = s.tlb2 := by
  cases p <;> rfl
@[simp] theorem State.modPort_leases (s : State) (p : Port) (f : PortRegs → PortRegs) : (s.modPort p f).leases = s.leases := by
  cases p <;> rfl
@[simp] theorem State.modPort_sigs (s : State) (p : Port) (f : PortRegs → PortRegs) : (s.modPort p f).sigs = s.sigs := by
  cases p <;> rfl
@[simp] theorem State.modPort_directory (s : State) (p : Port) (f : PortRegs → PortRegs) : (s.modPort p f).directory = s.directory := by
  cases p <;> rfl
@[simp] theorem State.modPort_checkpoints (s : State) (p : Port) (f : PortRegs → PortRegs) : (s.modPort p f).checkpoints = s.checkpoints := by
  cases p <;> rfl
@[simp] theorem State.modPort_lastLaunch (s : State) (p : Port) (f : PortRegs → PortRegs) : (s.modPort p f).lastLaunch = s.lastLaunch := by
  cases p <;> rfl
@[simp] theorem State.modPort_msem (s : State) (p : Port) (f : PortRegs → PortRegs) : (s.modPort p f).msem = s.msem := by
  cases p <;> rfl
@[simp] theorem State.modPort_managed (s : State) (p : Port) (f : PortRegs → PortRegs) : (s.modPort p f).managed = s.managed := by
  cases p <;> rfl
@[simp] theorem State.modPort_bstate (s : State) (p : Port) (f : PortRegs → PortRegs) : (s.modPort p f).bstate = s.bstate := by
  cases p <;> rfl
@[simp] theorem State.modPort_fwslot (s : State) (p : Port) (f : PortRegs → PortRegs) : (s.modPort p f).fwslot = s.fwslot := by
  cases p <;> rfl
@[simp] theorem State.modPort_mapcopy (s : State) (p : Port) (f : PortRegs → PortRegs) : (s.modPort p f).mapcopy = s.mapcopy := by
  cases p <;> rfl
@[simp] theorem State.modPort_pgidle (s : State) (p : Port) (f : PortRegs → PortRegs) : (s.modPort p f).pgidle = s.pgidle := by
  cases p <;> rfl
@[simp] theorem State.modPort_bootTick (s : State) (p : Port) (f : PortRegs → PortRegs) : (s.modPort p f).bootTick = s.bootTick := by
  cases p <;> rfl
@[simp] theorem State.modPort_ewin (s : State) (p : Port) (f : PortRegs → PortRegs) : (s.modPort p f).ewin = s.ewin := by
  cases p <;> rfl
@[simp] theorem State.modPort_ein (s : State) (p : Port) (f : PortRegs → PortRegs) : (s.modPort p f).ein = s.ein := by
  cases p <;> rfl
@[simp] theorem State.modPort_linksDown (s : State) (p : Port) (f : PortRegs → PortRegs) : (s.modPort p f).linksDown = s.linksDown := by
  cases p <;> rfl
@[simp] theorem State.modPort_recess (s : State) (p : Port) (f : PortRegs → PortRegs) : (s.modPort p f).recess = s.recess := by
  cases p <;> rfl
@[simp] theorem State.modPort_cxlDown (s : State) (p : Port) (f : PortRegs → PortRegs) : (s.modPort p f).cxlDown = s.cxlDown := by
  cases p <;> rfl
@[simp] theorem State.modPort_mailbox (s : State) (p : Port) (f : PortRegs → PortRegs) : (s.modPort p f).mailbox = s.mailbox := by
  cases p <;> rfl
@[simp] theorem State.modPort_frozen (s : State) (p : Port) (f : PortRegs → PortRegs) : (s.modPort p f).frozen = s.frozen := by
  cases p <;> rfl
@[simp] theorem State.modPort_stopped (s : State) (p : Port) (f : PortRegs → PortRegs) : (s.modPort p f).stopped = s.stopped := by
  cases p <;> rfl
@[simp] theorem State.modPort_chart (s : State) (p : Port) (f : PortRegs → PortRegs) : (s.modPort p f).chart = s.chart := by
  cases p <;> rfl
@[simp] theorem State.modPort_nv (s : State) (p : Port) (f : PortRegs → PortRegs) : (s.modPort p f).nv = s.nv := by
  cases p <;> rfl
@[simp] theorem State.modPort_edgeReply (s : State) (p : Port) (f : PortRegs → PortRegs) : (s.modPort p f).edgeReply = s.edgeReply := by
  cases p <;> rfl
@[simp] theorem State.modPort_remoteOut (s : State) (p : Port) (f : PortRegs → PortRegs) : (s.modPort p f).remoteOut = s.remoteOut := by
  cases p <;> rfl

/-! ### record -/

@[simp] theorem State.record_cycle (s : State) (d ty core pay : Nat) : (s.record d ty core pay).cycle = s.cycle := by
  unfold State.record; split <;> rfl
@[simp] theorem State.record_wbase (s : State) (d ty core pay : Nat) : (s.record d ty core pay).wbase = s.wbase := by
  unfold State.record; split <;> rfl
@[simp] theorem State.record_fresh (s : State) (d ty core pay : Nat) : (s.record d ty core pay).fresh = s.fresh := by
  unfold State.record; split <;> rfl
@[simp] theorem State.record_draw (s : State) (d ty core pay : Nat) : (s.record d ty core pay).draw = s.draw := by
  unfold State.record; split <;> rfl
@[simp] theorem State.record_agenda (s : State) (d ty core pay : Nat) : (s.record d ty core pay).agenda = s.agenda := by
  unfold State.record; split <;> rfl
@[simp] theorem State.record_selected (s : State) (d ty core pay : Nat) : (s.record d ty core pay).selected = s.selected := by
  unfold State.record; split <;> rfl
@[simp] theorem State.record_grids (s : State) (d ty core pay : Nat) : (s.record d ty core pay).grids = s.grids := by
  unfold State.record; split <;> rfl
@[simp] theorem State.record_blocks (s : State) (d ty core pay : Nat) : (s.record d ty core pay).blocks = s.blocks := by
  unfold State.record; split <;> rfl
@[simp] theorem State.record_parts (s : State) (d ty core pay : Nat) : (s.record d ty core pay).parts = s.parts := by
  unfold State.record; split <;> rfl
@[simp] theorem State.record_cores (s : State) (d ty core pay : Nat) : (s.record d ty core pay).cores = s.cores := by
  unfold State.record; split <;> rfl
@[simp] theorem State.record_mem (s : State) (d ty core pay : Nat) : (s.record d ty core pay).mem = s.mem := by
  unfold State.record; split <;> rfl
@[simp] theorem State.record_poison (s : State) (d ty core pay : Nat) : (s.record d ty core pay).poison = s.poison := by
  unfold State.record; split <;> rfl
@[simp] theorem State.record_filled (s : State) (d ty core pay : Nat) : (s.record d ty core pay).filled = s.filled := by
  unfold State.record; split <;> rfl
@[simp] theorem State.record_counts (s : State) (d ty core pay : Nat) : (s.record d ty core pay).counts = s.counts := by
  unfold State.record; split <;> rfl
@[simp] theorem State.record_flight (s : State) (d ty core pay : Nat) : (s.record d ty core pay).flight = s.flight := by
  unfold State.record; split <;> rfl
@[simp] theorem State.record_issued (s : State) (d ty core pay : Nat) : (s.record d ty core pay).issued = s.issued := by
  unfold State.record; split <;> rfl
@[simp] theorem State.record_copies (s : State) (d ty core pay : Nat) : (s.record d ty core pay).copies = s.copies := by
  unfold State.record; split <;> rfl
@[simp] theorem State.record_requests (s : State) (d ty core pay : Nat) : (s.record d ty core pay).requests = s.requests := by
  unfold State.record; split <;> rfl
@[simp] theorem State.record_packets (s : State) (d ty core pay : Nat) : (s.record d ty core pay).packets = s.packets := by
  unfold State.record; split <;> rfl
@[simp] theorem State.record_notices (s : State) (d ty core pay : Nat) : (s.record d ty core pay).notices = s.notices := by
  unfold State.record; split <;> rfl
@[simp] theorem State.record_walks (s : State) (d ty core pay : Nat) : (s.record d ty core pay).walks = s.walks := by
  unfold State.record; split <;> rfl
@[simp] theorem State.record_begun (s : State) (d ty core pay : Nat) : (s.record d ty core pay).begun = s.begun := by
  unfold State.record; split <;> rfl
@[simp] theorem State.record_l2 (s : State) (d ty core pay : Nat) : (s.record d ty core pay).l2 = s.l2 := by
  unfold State.record; split <;> rfl
@[simp] theorem State.record_tlb2 (s : State) (d ty core pay : Nat) : (s.record d ty core pay).tlb2 = s.tlb2 := by
  unfold State.record; split <;> rfl
@[simp] theorem State.record_leases (s : State) (d ty core pay : Nat) : (s.record d ty core pay).leases = s.leases := by
  unfold State.record; split <;> rfl
@[simp] theorem State.record_sigs (s : State) (d ty core pay : Nat) : (s.record d ty core pay).sigs = s.sigs := by
  unfold State.record; split <;> rfl
@[simp] theorem State.record_directory (s : State) (d ty core pay : Nat) : (s.record d ty core pay).directory = s.directory := by
  unfold State.record; split <;> rfl
@[simp] theorem State.record_checkpoints (s : State) (d ty core pay : Nat) : (s.record d ty core pay).checkpoints = s.checkpoints := by
  unfold State.record; split <;> rfl
@[simp] theorem State.record_lastLaunch (s : State) (d ty core pay : Nat) : (s.record d ty core pay).lastLaunch = s.lastLaunch := by
  unfold State.record; split <;> rfl
@[simp] theorem State.record_portA (s : State) (d ty core pay : Nat) : (s.record d ty core pay).portA = s.portA := by
  unfold State.record; split <;> rfl
@[simp] theorem State.record_portB (s : State) (d ty core pay : Nat) : (s.record d ty core pay).portB = s.portB := by
  unfold State.record; split <;> rfl
@[simp] theorem State.record_msem (s : State) (d ty core pay : Nat) : (s.record d ty core pay).msem = s.msem := by
  unfold State.record; split <;> rfl
@[simp] theorem State.record_managed (s : State) (d ty core pay : Nat) : (s.record d ty core pay).managed = s.managed := by
  unfold State.record; split <;> rfl
@[simp] theorem State.record_bstate (s : State) (d ty core pay : Nat) : (s.record d ty core pay).bstate = s.bstate := by
  unfold State.record; split <;> rfl
@[simp] theorem State.record_fwslot (s : State) (d ty core pay : Nat) : (s.record d ty core pay).fwslot = s.fwslot := by
  unfold State.record; split <;> rfl
@[simp] theorem State.record_mapcopy (s : State) (d ty core pay : Nat) : (s.record d ty core pay).mapcopy = s.mapcopy := by
  unfold State.record; split <;> rfl
@[simp] theorem State.record_pgidle (s : State) (d ty core pay : Nat) : (s.record d ty core pay).pgidle = s.pgidle := by
  unfold State.record; split <;> rfl
@[simp] theorem State.record_bootTick (s : State) (d ty core pay : Nat) : (s.record d ty core pay).bootTick = s.bootTick := by
  unfold State.record; split <;> rfl
@[simp] theorem State.record_ewin (s : State) (d ty core pay : Nat) : (s.record d ty core pay).ewin = s.ewin := by
  unfold State.record; split <;> rfl
@[simp] theorem State.record_ein (s : State) (d ty core pay : Nat) : (s.record d ty core pay).ein = s.ein := by
  unfold State.record; split <;> rfl
@[simp] theorem State.record_linksDown (s : State) (d ty core pay : Nat) : (s.record d ty core pay).linksDown = s.linksDown := by
  unfold State.record; split <;> rfl
@[simp] theorem State.record_recess (s : State) (d ty core pay : Nat) : (s.record d ty core pay).recess = s.recess := by
  unfold State.record; split <;> rfl
@[simp] theorem State.record_cxlDown (s : State) (d ty core pay : Nat) : (s.record d ty core pay).cxlDown = s.cxlDown := by
  unfold State.record; split <;> rfl
@[simp] theorem State.record_mailbox (s : State) (d ty core pay : Nat) : (s.record d ty core pay).mailbox = s.mailbox := by
  unfold State.record; split <;> rfl
@[simp] theorem State.record_frozen (s : State) (d ty core pay : Nat) : (s.record d ty core pay).frozen = s.frozen := by
  unfold State.record; split <;> rfl
@[simp] theorem State.record_stopped (s : State) (d ty core pay : Nat) : (s.record d ty core pay).stopped = s.stopped := by
  unfold State.record; split <;> rfl
@[simp] theorem State.record_chart (s : State) (d ty core pay : Nat) : (s.record d ty core pay).chart = s.chart := by
  unfold State.record; split <;> rfl
@[simp] theorem State.record_nv (s : State) (d ty core pay : Nat) : (s.record d ty core pay).nv = s.nv := by
  unfold State.record; split <;> rfl
@[simp] theorem State.record_edgeReply (s : State) (d ty core pay : Nat) : (s.record d ty core pay).edgeReply = s.edgeReply := by
  unfold State.record; split <;> rfl
@[simp] theorem State.record_remoteOut (s : State) (d ty core pay : Nat) : (s.record d ty core pay).remoteOut = s.remoteOut := by
  unfold State.record; split <;> rfl

/-! ### Cohorts -/

@[simp] theorem Cohort.modSplit_id (c : Cohort) (p : Nat) (f : Split → Split) : (c.modSplit p f).id = c.id := rfl
@[simp] theorem Cohort.modSplit_core (c : Cohort) (p : Nat) (f : Split → Split) : (c.modSplit p f).core = c.core := rfl
@[simp] theorem Cohort.modSplit_slot (c : Cohort) (p : Nat) (f : Split → Split) : (c.modSplit p f).slot = c.slot := rfl
@[simp] theorem Cohort.modSplit_quad (c : Cohort) (p : Nat) (f : Split → Split) : (c.modSplit p f).quad = c.quad := rfl
@[simp] theorem Cohort.modSplit_age (c : Cohort) (p : Nat) (f : Split → Split) : (c.modSplit p f).age = c.age := rfl
@[simp] theorem Cohort.modSplit_threads (c : Cohort) (p : Nat) (f : Split → Split) : (c.modSplit p f).threads = c.threads := rfl
@[simp] theorem Cohort.modSplit_tids (c : Cohort) (p : Nat) (f : Split → Split) : (c.modSplit p f).tids = c.tids := rfl
@[simp] theorem Cohort.modSplit_vregs (c : Cohort) (p : Nat) (f : Split → Split) : (c.modSplit p f).vregs = c.vregs := rfl
@[simp] theorem Cohort.modSplit_sregs (c : Cohort) (p : Nat) (f : Split → Split) : (c.modSplit p f).sregs = c.sregs := rfl
@[simp] theorem Cohort.modSplit_preds (c : Cohort) (p : Nat) (f : Split → Split) : (c.modSplit p f).preds = c.preds := rfl
@[simp] theorem Cohort.modSplit_flags (c : Cohort) (p : Nat) (f : Split → Split) : (c.modSplit p f).flags = c.flags := rfl
@[simp] theorem Cohort.modSplit_ovf (c : Cohort) (p : Nat) (f : Split → Split) : (c.modSplit p f).ovf = c.ovf := rfl
@[simp] theorem Cohort.modSplit_handles (c : Cohort) (p : Nat) (f : Split → Split) : (c.modSplit p f).handles = c.handles := rfl
@[simp] theorem Cohort.modSplit_splits (c : Cohort) (p : Nat) (f : Split → Split) : (c.modSplit p f).splits = c.splits.map fun x => if x.id == p then f x else x := rfl
@[simp] theorem Cohort.modSplit_xregs (c : Cohort) (p : Nat) (f : Split → Split) : (c.modSplit p f).xregs = c.xregs := rfl
@[simp] theorem Cohort.modSplit_tiles (c : Cohort) (p : Nat) (f : Split → Split) : (c.modSplit p f).tiles = c.tiles := rfl
@[simp] theorem Cohort.modSplit_team (c : Cohort) (p : Nat) (f : Split → Split) : (c.modSplit p f).team = c.team := rfl
@[simp] theorem Cohort.modSplit_latch (c : Cohort) (p : Nat) (f : Split → Split) : (c.modSplit p f).latch = c.latch := rfl
@[simp] theorem Cohort.modSplit_freeing (c : Cohort) (p : Nat) (f : Split → Split) : (c.modSplit p f).freeing = c.freeing := rfl
@[simp] theorem Cohort.modSplit_reformed (c : Cohort) (p : Nat) (f : Split → Split) : (c.modSplit p f).reformed = c.reformed := rfl
@[simp] theorem Cohort.modSplit_reserve (c : Cohort) (p : Nat) (f : Split → Split) : (c.modSplit p f).reserve = c.reserve := rfl
@[simp] theorem Cohort.modSplit_pend (c : Cohort) (p : Nat) (f : Split → Split) : (c.modSplit p f).pend = c.pend := rfl
@[simp] theorem Cohort.modSplit_orders (c : Cohort) (p : Nat) (f : Split → Split) : (c.modSplit p f).orders = c.orders := rfl
@[simp] theorem Cohort.modSplit_readySince (c : Cohort) (p : Nat) (f : Split → Split) : (c.modSplit p f).readySince = c.readySince := rfl
@[simp] theorem Cohort.modSplit_promoted (c : Cohort) (p : Nat) (f : Split → Split) : (c.modSplit p f).promoted = c.promoted := rfl
@[simp] theorem Cohort.flagUp_id (c : Cohort) (f : Nat) : (c.flagUp f).id = c.id := rfl
@[simp] theorem Cohort.flagUp_core (c : Cohort) (f : Nat) : (c.flagUp f).core = c.core := rfl
@[simp] theorem Cohort.flagUp_slot (c : Cohort) (f : Nat) : (c.flagUp f).slot = c.slot := rfl
@[simp] theorem Cohort.flagUp_quad (c : Cohort) (f : Nat) : (c.flagUp f).quad = c.quad := rfl
@[simp] theorem Cohort.flagUp_age (c : Cohort) (f : Nat) : (c.flagUp f).age = c.age := rfl
@[simp] theorem Cohort.flagUp_threads (c : Cohort) (f : Nat) : (c.flagUp f).threads = c.threads := rfl
@[simp] theorem Cohort.flagUp_tids (c : Cohort) (f : Nat) : (c.flagUp f).tids = c.tids := rfl
@[simp] theorem Cohort.flagUp_vregs (c : Cohort) (f : Nat) : (c.flagUp f).vregs = c.vregs := rfl
@[simp] theorem Cohort.flagUp_sregs (c : Cohort) (f : Nat) : (c.flagUp f).sregs = c.sregs := rfl
@[simp] theorem Cohort.flagUp_preds (c : Cohort) (f : Nat) : (c.flagUp f).preds = c.preds := rfl
@[simp] theorem Cohort.flagUp_flags (c : Cohort) (f : Nat) : (c.flagUp f).flags = tput 0 f (c.flagCount f + 1) c.flags := rfl
@[simp] theorem Cohort.flagUp_ovf (c : Cohort) (f : Nat) : (c.flagUp f).ovf = c.ovf := rfl
@[simp] theorem Cohort.flagUp_handles (c : Cohort) (f : Nat) : (c.flagUp f).handles = c.handles := rfl
@[simp] theorem Cohort.flagUp_splits (c : Cohort) (f : Nat) : (c.flagUp f).splits = c.splits := rfl
@[simp] theorem Cohort.flagUp_xregs (c : Cohort) (f : Nat) : (c.flagUp f).xregs = c.xregs := rfl
@[simp] theorem Cohort.flagUp_tiles (c : Cohort) (f : Nat) : (c.flagUp f).tiles = c.tiles := rfl
@[simp] theorem Cohort.flagUp_team (c : Cohort) (f : Nat) : (c.flagUp f).team = c.team := rfl
@[simp] theorem Cohort.flagUp_latch (c : Cohort) (f : Nat) : (c.flagUp f).latch = c.latch := rfl
@[simp] theorem Cohort.flagUp_freeing (c : Cohort) (f : Nat) : (c.flagUp f).freeing = c.freeing := rfl
@[simp] theorem Cohort.flagUp_reformed (c : Cohort) (f : Nat) : (c.flagUp f).reformed = c.reformed := rfl
@[simp] theorem Cohort.flagUp_reserve (c : Cohort) (f : Nat) : (c.flagUp f).reserve = c.reserve := rfl
@[simp] theorem Cohort.flagUp_pend (c : Cohort) (f : Nat) : (c.flagUp f).pend = c.pend := rfl
@[simp] theorem Cohort.flagUp_orders (c : Cohort) (f : Nat) : (c.flagUp f).orders = c.orders := rfl
@[simp] theorem Cohort.flagUp_readySince (c : Cohort) (f : Nat) : (c.flagUp f).readySince = c.readySince := rfl
@[simp] theorem Cohort.flagUp_promoted (c : Cohort) (f : Nat) : (c.flagUp f).promoted = c.promoted := rfl
@[simp] theorem Cohort.flagDown_id (c : Cohort) (f : Nat) : (c.flagDown f).id = c.id := rfl
@[simp] theorem Cohort.flagDown_core (c : Cohort) (f : Nat) : (c.flagDown f).core = c.core := rfl
@[simp] theorem Cohort.flagDown_slot (c : Cohort) (f : Nat) : (c.flagDown f).slot = c.slot := rfl
@[simp] theorem Cohort.flagDown_quad (c : Cohort) (f : Nat) : (c.flagDown f).quad = c.quad := rfl
@[simp] theorem Cohort.flagDown_age (c : Cohort) (f : Nat) : (c.flagDown f).age = c.age := rfl
@[simp] theorem Cohort.flagDown_threads (c : Cohort) (f : Nat) : (c.flagDown f).threads = c.threads := rfl
@[simp] theorem Cohort.flagDown_tids (c : Cohort) (f : Nat) : (c.flagDown f).tids = c.tids := rfl
@[simp] theorem Cohort.flagDown_vregs (c : Cohort) (f : Nat) : (c.flagDown f).vregs = c.vregs := rfl
@[simp] theorem Cohort.flagDown_sregs (c : Cohort) (f : Nat) : (c.flagDown f).sregs = c.sregs := rfl
@[simp] theorem Cohort.flagDown_preds (c : Cohort) (f : Nat) : (c.flagDown f).preds = c.preds := rfl
@[simp] theorem Cohort.flagDown_flags (c : Cohort) (f : Nat) : (c.flagDown f).flags = tput 0 f (c.flagCount f - 1) c.flags := rfl
@[simp] theorem Cohort.flagDown_ovf (c : Cohort) (f : Nat) : (c.flagDown f).ovf = c.ovf := rfl
@[simp] theorem Cohort.flagDown_handles (c : Cohort) (f : Nat) : (c.flagDown f).handles = c.handles := rfl
@[simp] theorem Cohort.flagDown_splits (c : Cohort) (f : Nat) : (c.flagDown f).splits = c.splits := rfl
@[simp] theorem Cohort.flagDown_xregs (c : Cohort) (f : Nat) : (c.flagDown f).xregs = c.xregs := rfl
@[simp] theorem Cohort.flagDown_tiles (c : Cohort) (f : Nat) : (c.flagDown f).tiles = c.tiles := rfl
@[simp] theorem Cohort.flagDown_team (c : Cohort) (f : Nat) : (c.flagDown f).team = c.team := rfl
@[simp] theorem Cohort.flagDown_latch (c : Cohort) (f : Nat) : (c.flagDown f).latch = c.latch := rfl
@[simp] theorem Cohort.flagDown_freeing (c : Cohort) (f : Nat) : (c.flagDown f).freeing = c.freeing := rfl
@[simp] theorem Cohort.flagDown_reformed (c : Cohort) (f : Nat) : (c.flagDown f).reformed = c.reformed := rfl
@[simp] theorem Cohort.flagDown_reserve (c : Cohort) (f : Nat) : (c.flagDown f).reserve = c.reserve := rfl
@[simp] theorem Cohort.flagDown_pend (c : Cohort) (f : Nat) : (c.flagDown f).pend = c.pend := rfl
@[simp] theorem Cohort.flagDown_orders (c : Cohort) (f : Nat) : (c.flagDown f).orders = c.orders := rfl
@[simp] theorem Cohort.flagDown_readySince (c : Cohort) (f : Nat) : (c.flagDown f).readySince = c.readySince := rfl
@[simp] theorem Cohort.flagDown_promoted (c : Cohort) (f : Nat) : (c.flagDown f).promoted = c.promoted := rfl
@[simp] theorem Cohort.put_id (c : Cohort) (r : Reg) (l : Nat) (v : Word) : (c.put r l v).id = c.id := by
  unfold Cohort.put; split <;> (try split) <;> rfl
@[simp] theorem Cohort.put_core (c : Cohort) (r : Reg) (l : Nat) (v : Word) : (c.put r l v).core = c.core := by
  unfold Cohort.put; split <;> (try split) <;> rfl
@[simp] theorem Cohort.put_slot (c : Cohort) (r : Reg) (l : Nat) (v : Word) : (c.put r l v).slot = c.slot := by
  unfold Cohort.put; split <;> (try split) <;> rfl
@[simp] theorem Cohort.put_quad (c : Cohort) (r : Reg) (l : Nat) (v : Word) : (c.put r l v).quad = c.quad := by
  unfold Cohort.put; split <;> (try split) <;> rfl
@[simp] theorem Cohort.put_age (c : Cohort) (r : Reg) (l : Nat) (v : Word) : (c.put r l v).age = c.age := by
  unfold Cohort.put; split <;> (try split) <;> rfl
@[simp] theorem Cohort.put_threads (c : Cohort) (r : Reg) (l : Nat) (v : Word) : (c.put r l v).threads = c.threads := by
  unfold Cohort.put; split <;> (try split) <;> rfl
@[simp] theorem Cohort.put_tids (c : Cohort) (r : Reg) (l : Nat) (v : Word) : (c.put r l v).tids = c.tids := by
  unfold Cohort.put; split <;> (try split) <;> rfl
@[simp] theorem Cohort.put_flags (c : Cohort) (r : Reg) (l : Nat) (v : Word) : (c.put r l v).flags = c.flags := by
  unfold Cohort.put; split <;> (try split) <;> rfl
@[simp] theorem Cohort.put_ovf (c : Cohort) (r : Reg) (l : Nat) (v : Word) : (c.put r l v).ovf = c.ovf := by
  unfold Cohort.put; split <;> (try split) <;> rfl
@[simp] theorem Cohort.put_handles (c : Cohort) (r : Reg) (l : Nat) (v : Word) : (c.put r l v).handles = c.handles := by
  unfold Cohort.put; split <;> (try split) <;> rfl
@[simp] theorem Cohort.put_splits (c : Cohort) (r : Reg) (l : Nat) (v : Word) : (c.put r l v).splits = c.splits := by
  unfold Cohort.put; split <;> (try split) <;> rfl
@[simp] theorem Cohort.put_xregs (c : Cohort) (r : Reg) (l : Nat) (v : Word) : (c.put r l v).xregs = c.xregs := by
  unfold Cohort.put; split <;> (try split) <;> rfl
@[simp] theorem Cohort.put_tiles (c : Cohort) (r : Reg) (l : Nat) (v : Word) : (c.put r l v).tiles = c.tiles := by
  unfold Cohort.put; split <;> (try split) <;> rfl
@[simp] theorem Cohort.put_team (c : Cohort) (r : Reg) (l : Nat) (v : Word) : (c.put r l v).team = c.team := by
  unfold Cohort.put; split <;> (try split) <;> rfl
@[simp] theorem Cohort.put_latch (c : Cohort) (r : Reg) (l : Nat) (v : Word) : (c.put r l v).latch = c.latch := by
  unfold Cohort.put; split <;> (try split) <;> rfl
@[simp] theorem Cohort.put_freeing (c : Cohort) (r : Reg) (l : Nat) (v : Word) : (c.put r l v).freeing = c.freeing := by
  unfold Cohort.put; split <;> (try split) <;> rfl
@[simp] theorem Cohort.put_reformed (c : Cohort) (r : Reg) (l : Nat) (v : Word) : (c.put r l v).reformed = c.reformed := by
  unfold Cohort.put; split <;> (try split) <;> rfl
@[simp] theorem Cohort.put_reserve (c : Cohort) (r : Reg) (l : Nat) (v : Word) : (c.put r l v).reserve = c.reserve := by
  unfold Cohort.put; split <;> (try split) <;> rfl
@[simp] theorem Cohort.put_pend (c : Cohort) (r : Reg) (l : Nat) (v : Word) : (c.put r l v).pend = c.pend := by
  unfold Cohort.put; split <;> (try split) <;> rfl
@[simp] theorem Cohort.put_orders (c : Cohort) (r : Reg) (l : Nat) (v : Word) : (c.put r l v).orders = c.orders := by
  unfold Cohort.put; split <;> (try split) <;> rfl
@[simp] theorem Cohort.put_readySince (c : Cohort) (r : Reg) (l : Nat) (v : Word) : (c.put r l v).readySince = c.readySince := by
  unfold Cohort.put; split <;> (try split) <;> rfl
@[simp] theorem Cohort.put_promoted (c : Cohort) (r : Reg) (l : Nat) (v : Word) : (c.put r l v).promoted = c.promoted := by
  unfold Cohort.put; split <;> (try split) <;> rfl

/-! ### Blocks -/

@[simp] theorem Block.modCohort_ref (b : Block) (c : Nat) (f : Cohort → Cohort) : (b.modCohort c f).ref = b.ref := rfl
@[simp] theorem Block.modCohort_core (b : Block) (c : Nat) (f : Cohort → Cohort) : (b.modCohort c f).core = b.core := rfl
@[simp] theorem Block.modCohort_core2 (b : Block) (c : Nat) (f : Cohort → Cohort) : (b.modCohort c f).core2 = b.core2 := rfl
@[simp] theorem Block.modCohort_st (b : Block) (c : Nat) (f : Cohort → Cohort) : (b.modCohort c f).st = b.st := rfl
@[simp] theorem Block.modCohort_cohorts (b : Block) (c : Nat) (f : Cohort → Cohort) : (b.modCohort c f).cohorts = b.cohorts.map fun x => if x.id == c then f x else x := rfl
@[simp] theorem Block.modCohort_scratch (b : Block) (c : Nat) (f : Cohort → Cohort) : (b.modCohort c f).scratch = b.scratch := rfl
@[simp] theorem Block.modCohort_wptr (b : Block) (c : Nat) (f : Cohort → Cohort) : (b.modCohort c f).wptr = b.wptr := rfl
@[simp] theorem Block.modCohort_barriers (b : Block) (c : Nat) (f : Cohort → Cohort) : (b.modCohort c f).barriers = b.barriers := rfl
@[simp] theorem Block.modCohort_teams (b : Block) (c : Nat) (f : Cohort → Cohort) : (b.modCohort c f).teams = b.teams := rfl
@[simp] theorem Block.modCohort_recs (b : Block) (c : Nat) (f : Cohort → Cohort) : (b.modCohort c f).recs = b.recs := rfl
@[simp] theorem Block.modCohort_entries (b : Block) (c : Nat) (f : Cohort → Cohort) : (b.modCohort c f).entries = b.entries := rfl
@[simp] theorem Block.modCohort_former (b : Block) (c : Nat) (f : Cohort → Cohort) : (b.modCohort c f).former = b.former := rfl
@[simp] theorem Block.modCohort_exited (b : Block) (c : Nat) (f : Cohort → Cohort) : (b.modCohort c f).exited = b.exited := rfl
@[simp] theorem Block.modCohort_reserveQuad (b : Block) (c : Nat) (f : Cohort → Cohort) : (b.modCohort c f).reserveQuad = b.reserveQuad := rfl
@[simp] theorem Block.modCohort_ckSlot (b : Block) (c : Nat) (f : Cohort → Cohort) : (b.modCohort c f).ckSlot = b.ckSlot := rfl
@[simp] theorem Block.modCohort_seq (b : Block) (c : Nat) (f : Cohort → Cohort) : (b.modCohort c f).seq = b.seq := rfl
@[simp] theorem Block.modCohort_lastCk (b : Block) (c : Nat) (f : Cohort → Cohort) : (b.modCohort c f).lastCk = b.lastCk := rfl
@[simp] theorem Block.modCohort_log (b : Block) (c : Nat) (f : Cohort → Cohort) : (b.modCohort c f).log = b.log := rfl
@[simp] theorem Block.modCohort_drafts (b : Block) (c : Nat) (f : Cohort → Cohort) : (b.modCohort c f).drafts = b.drafts := rfl
@[simp] theorem Block.modCohort_draftCounts (b : Block) (c : Nat) (f : Cohort → Cohort) : (b.modCohort c f).draftCounts = b.draftCounts := rfl
@[simp] theorem Block.modCohort_forcer (b : Block) (c : Nat) (f : Cohort → Cohort) : (b.modCohort c f).forcer = b.forcer := rfl
@[simp] theorem Block.modCohort_exposed (b : Block) (c : Nat) (f : Cohort → Cohort) : (b.modCohort c f).exposed = b.exposed := rfl
@[simp] theorem Block.modCohort_publishing (b : Block) (c : Nat) (f : Cohort → Cohort) : (b.modCohort c f).publishing = b.publishing := rfl
@[simp] theorem Block.modCohort_waitSince (b : Block) (c : Nat) (f : Cohort → Cohort) : (b.modCohort c f).waitSince = b.waitSince := rfl
@[simp] theorem Block.modCohort_image (b : Block) (c : Nat) (f : Cohort → Cohort) : (b.modCohort c f).image = b.image := rfl
@[simp] theorem Block.modCohort_rollback (b : Block) (c : Nat) (f : Cohort → Cohort) : (b.modCohort c f).rollback = b.rollback := rfl
@[simp] theorem Block.modCohort_damaged (b : Block) (c : Nat) (f : Cohort → Cohort) : (b.modCohort c f).damaged = b.damaged := rfl
@[simp] theorem Block.modCohort_captured (b : Block) (c : Nat) (f : Cohort → Cohort) : (b.modCohort c f).captured = b.captured := rfl
@[simp] theorem Block.modCohort_saveOrder (b : Block) (c : Nat) (f : Cohort → Cohort) : (b.modCohort c f).saveOrder = b.saveOrder := rfl
@[simp] theorem Block.modCohort_rescued (b : Block) (c : Nat) (f : Cohort → Cohort) : (b.modCohort c f).rescued = b.rescued := rfl
@[simp] theorem Block.modCohort_settledCk (b : Block) (c : Nat) (f : Cohort → Cohort) : (b.modCohort c f).settledCk = b.settledCk := rfl
@[simp] theorem Block.modCohort_saveBegun (b : Block) (c : Nat) (f : Cohort → Cohort) : (b.modCohort c f).saveBegun = b.saveBegun := rfl
@[simp] theorem Block.modCohort_held (b : Block) (c : Nat) (f : Cohort → Cohort) : (b.modCohort c f).held = b.held := rfl
@[simp] theorem Block.modCohort_mark (b : Block) (c : Nat) (f : Cohort → Cohort) : (b.modCohort c f).mark = b.mark := rfl
@[simp] theorem Block.modCohort_wayless (b : Block) (c : Nat) (f : Cohort → Cohort) : (b.modCohort c f).wayless = b.wayless := rfl
@[simp] theorem Block.modCohort_nextCohort (b : Block) (c : Nat) (f : Cohort → Cohort) : (b.modCohort c f).nextCohort = b.nextCohort := rfl

end Sys2Proof.Machine
end

