-- ==== Sys2Proof/Laws/Table.lean ====
section
/-! SUPPORT. Tables in canonical form: reading after writing, and that a write keeps the form; the same of memory bytes. -/

namespace Sys2Proof.Machine

theorem tableOk_cons {β : Type} [DecidableEq β] {d : β} {e : Nat × β} {r : Sparse β} :
    tableOk d (e :: r) = true ↔ e.2 ≠ d ∧ (∀ f ∈ r.head?, e.1 < f.1) ∧ tableOk d r = true := by
  obtain ⟨k, v⟩ := e
  cases r with
  | nil => simp [tableOk]
  | cons f r => obtain ⟨k', v'⟩ := f; simp [tableOk, and_assoc]

/-- Every key of a table is above a key that stands before it. -/
theorem tableOk_keys {β : Type} [DecidableEq β] {d : β} {e : Nat × β} :
    ∀ {r : Sparse β}, tableOk d (e :: r) = true → ∀ f ∈ r, e.1 < f.1
  | [], _, _, h => by simp at h
  | g :: r, h, f, hf => by
    have h1 := tableOk_cons.1 h
    rcases List.mem_cons.1 hf with rfl | hf
    · exact h1.2.1 f rfl
    · exact lt_trans (h1.2.1 g rfl) (tableOk_keys h1.2.2 f hf)

/-- A table whose first key is below every other, and whose first value is not the default. -/
theorem tableOk_of {β : Type} [DecidableEq β] {d : β} {e : Nat × β} {r : Sparse β} (hv : e.2 ≠ d)
    (hk : ∀ f ∈ r, e.1 < f.1) (hr : tableOk d r = true) : tableOk d (e :: r) = true :=
  tableOk_cons.2 ⟨hv, fun f hf => hk f (List.mem_of_mem_head? hf), hr⟩

/-- A key below every key of a table reads as the default. -/
theorem tget_below {β : Type} {d : β} {j : Nat} : ∀ {t : Sparse β}, (∀ f ∈ t, j < f.1) → tget d t j = d
  | [], _ => rfl
  | f :: t, h => by
    have hf := h f (by simp)
    simp only [tget]
    rw [if_neg (by omega)]
    exact tget_below fun g hg => h g (by simp [hg])

/-- What a written table holds stood there before, or is what was written. -/
theorem mem_tput {β : Type} [DecidableEq β] {d v : β} {k : Nat} {f : Nat × β} :
    ∀ {t : Sparse β}, f ∈ tput d k v t → f ∈ t ∨ f = (k, v)
  | [], h => by
    by_cases hv : v = d <;> simp [tput, hv] at h
    exact .inr h
  | (k', v') :: r, h => by
    simp only [tput] at h
    split at h
    · split at h
      · exact .inl h
      · rcases List.mem_cons.1 h with h | h
        · exact .inr h
        · exact .inl h
    · split at h
      · split at h
        · exact .inl (List.mem_cons_of_mem _ h)
        · rcases List.mem_cons.1 h with h | h
          · exact .inr h
          · exact .inl (List.mem_cons_of_mem _ h)
      · rcases List.mem_cons.1 h with h | h
        · exact .inl (by simp [h])
        · rcases mem_tput h with h | h
          · exact .inl (List.mem_cons_of_mem _ h)
          · exact .inr h

/-- A write keeps a table in canonical form. -/
theorem tableOk_tput {β : Type} [DecidableEq β] {d v : β} {k : Nat} :
    ∀ {t : Sparse β}, tableOk d t = true → tableOk d (tput d k v t) = true
  | [], _ => by by_cases hv : v = d <;> simp [tput, tableOk, hv]
  | (k', v') :: r, h => by
    have h1 := tableOk_cons.1 h
    have hk := tableOk_keys h
    simp only [tput]
    split
    · split
      · exact h
      · rename_i hlt hv
        refine tableOk_of hv ?_ h
        intro f hf
        rcases List.mem_cons.1 hf with rfl | hf
        · exact hlt
        · exact lt_trans hlt (hk f hf)
    · split
      · split
        · exact h1.2.2
        · rename_i heq hv
          subst heq
          exact tableOk_of hv hk h1.2.2
      · refine tableOk_of h1.1 ?_ (tableOk_tput h1.2.2)
        intro f hf
        rcases mem_tput hf with hf | rfl
        · exact hk f hf
        · simp only at *; omega

/-- Writing a table in canonical form and reading it again. -/
theorem tget_tput {β : Type} [DecidableEq β] {d v : β} {k j : Nat} :
    ∀ {t : Sparse β}, tableOk d t = true → tget d (tput d k v t) j = if j = k then v else tget d t j
  | [], _ => by by_cases hv : v = d <;> by_cases hj : j = k <;> simp [tput, tget, hv, hj]
  | (k', v') :: r, h => by
    have h1 := tableOk_cons.1 h
    have hk := tableOk_keys h
    have ih : tget d (tput d k v r) j = _ := tget_tput h1.2.2
    simp only [tput]
    split
    · rename_i hlt
      have hb : tget d ((k', v') :: r) k = d := tget_below fun f hf => by
        rcases List.mem_cons.1 hf with rfl | hf
        · exact hlt
        · exact lt_trans hlt (hk f hf)
      by_cases hj : j = k
      · subst hj
        by_cases hv : v = d
        · simp only [hv, if_true, hb]
        · simp [hv, tget]
      · by_cases hv : v = d
        · simp [hv, hj]
        · simp [hv, hj, tget]
    · split
      · rename_i heq
        subst heq
        have hb : tget d r k = d := tget_below hk
        by_cases hj : j = k
        · subst hj
          by_cases hv : v = d
          · simp only [hv, if_true, hb]
          · simp [hv, tget]
        · by_cases hv : v = d <;> simp [hv, hj, tget]
      · rename_i hne
        simp only [tget, ih]
        by_cases hj : j = k'
        · subst hj
          rw [if_pos rfl, if_neg fun h : j = k => hne h.symm, if_pos rfl]
        · simp [hj]

theorem tableOk_tputs {β : Type} [DecidableEq β] {d : β} :
    ∀ {l : List (Nat × β)} {t : Sparse β}, tableOk d t = true → tableOk d (tputs d l t) = true
  | [], _, h => h
  | _ :: l, _, h => tableOk_tputs (l := l) (tableOk_tput h)

/-- Several writes, read again: the last one to the key stands. -/
theorem tget_tputs {β : Type} [DecidableEq β] {d : β} {j : Nat} :
    ∀ {l : List (Nat × β)} {t : Sparse β}, tableOk d t = true →
      tget d (tputs d l t) j = ((l.reverse.find? fun p => p.1 == j).map (·.2)).getD (tget d t j)
  | [], _, _ => by simp [tputs]
  | p :: l, t, h => by
    have ih : tget d (tputs d l (tput d p.1 p.2 t)) j = _ := tget_tputs (l := l) (tableOk_tput h)
    have e : tputs d (p :: l) t = tputs d l (tput d p.1 p.2 t) := rfl
    rw [e, ih, tget_tput h, List.reverse_cons, List.find?_append]
    cases hf : l.reverse.find? fun p => p.1 == j with
    | some q => simp
    | none =>
      by_cases hj : p.1 = j
      · simp [hj]
      · have : ¬ j = p.1 := fun h => hj h.symm
        simp [hj, this]

/-! ### Memory -/

theorem readMem_writeMem {s : State} {pa a : Nat} {v : Byte} (h : Memory.wf s.mem = true) :
    (s.writeMem pa v).readMem a = if a = pa then v else s.readMem a := tget_tput h

theorem wf_writeMem {s : State} {pa : Nat} {v : Byte} (h : Memory.wf s.mem = true) :
    Memory.wf (s.writeMem pa v).mem = true := tableOk_tput h

theorem wf_writeRun {s : State} {pa : Nat} {vs : List Byte} (h : Memory.wf s.mem = true) :
    Memory.wf (s.writeRun pa vs).mem = true := tableOk_tputs h

theorem wf_reset : Memory.wf State.reset.mem = true := rfl

theorem find?_mapIdx_reverse {vs : List Byte} {pa a : Nat} :
    (((vs.mapIdx fun i v => (pa + i, v)).reverse.find? fun p => p.1 == a).map (·.2)) =
      if pa ≤ a then vs[a - pa]? else none := by
  induction vs using List.reverseRecOn with
  | nil => simp
  | append_singleton vs v ih =>
    rw [List.mapIdx_append, List.reverse_append]
    simp only [List.mapIdx_cons, List.mapIdx_nil, List.reverse_cons, List.reverse_nil, List.nil_append, List.find?_append,
      List.find?_cons, List.find?_nil]
    by_cases h : pa + (0 + vs.length) = a
    · have : a - pa = vs.length := by omega
      have h2 : pa ≤ a := by omega
      have h4 : pa + vs.length = a := by omega
      simp [h4, this, h2]
    · simp only [beq_eq_false_iff_ne.2 h, Option.none_or]
      rw [ih]
      split
      · rename_i h2
        by_cases h3 : a - pa < vs.length
        · rw [List.getElem?_append_left h3]
        · rw [List.getElem?_eq_none (by omega), List.getElem?_eq_none (by simp; omega)]
      · rfl

/-- Consecutive bytes written, read again. -/
theorem readMem_writeRun {s : State} {pa a : Nat} {vs : List Byte} (h : Memory.wf s.mem = true) :
    (s.writeRun pa vs).readMem a = if pa ≤ a then (vs[a - pa]?).getD (s.readMem a) else s.readMem a := by
  have : (s.writeRun pa vs).readMem a = _ := tget_tputs (j := a) h
  rw [this, find?_mapIdx_reverse]
  by_cases h : pa ≤ a <;> simp [h, State.readMem]

end Sys2Proof.Machine
end

