-- ==== Sys2Proof/Laws/Issue.lean ====
section
/-! SUPPORT. What the shared path of issue does: the state in which an effect begins, the results it owes, and the next state of
`issue`, `issueIf`, `forced` and `withWalks`. -/

namespace Sys2Proof.Machine

/-- A write of a value other than the default reads back in any table. -/
theorem tget_tput_ne {β : Type} [DecidableEq β] {d v : β} {k j : Nat} (hv : v ≠ d) :
    ∀ {t : Sparse β}, tget d (tput d k v t) j = if j = k then v else tget d t j
  | [] => by by_cases hj : j = k <;> simp [tput, tget, hv, hj]
  | (k', v') :: r => by
    have ih : tget d (tput d k v r) j = _ := tget_tput_ne hv
    simp only [tput]
    split
    · by_cases hj : j = k <;> simp [hj, tget]
    · split
      · rename_i heq
        subst heq
        by_cases hj : j = k <;> simp [hj, tget]
      · rename_i hne
        simp only [tget, ih]
        by_cases hj : j = k'
        · subst hj
          rw [if_pos rfl, if_neg fun h : j = k => hne h.symm, if_pos rfl]
        · simp [hj]

theorem Cohort.flagCount_flagUp (c : Cohort) (f g : Nat) :
    (c.flagUp f).flagCount g = c.flagCount g + if g = f then 1 else 0 := by
  have : (c.flagUp f).flagCount g = tget 0 (tput 0 f (c.flagCount f + 1) c.flags) g := rfl
  rw [this, tget_tput_ne (by omega)]
  split
  · rename_i h; simp [h]
  · simp [Cohort.flagCount]

/-! ### Results do not change which cohort it is -/

theorem Cohort.putAll_id (ls : List Nat) (c : Cohort) (r : Reg) (v : Nat → Word) :
    (ls.foldl (fun c l => c.put r l (v l)) c).id = c.id := by
  induction ls generalizing c with
  | nil => rfl
  | cons l ls ih => simp [List.foldl_cons, ih]

@[simp] theorem Cohort.land_id (c : Cohort) (sel : Pend → Bool) : (c.land sel).id = c.id := rfl

@[simp] theorem Cohort.foldUni_id (c : Cohort) (r : Nat) : (c.foldUni r).id = c.id := rfl

@[simp] theorem Cohort.noteWaited_id (c : Cohort) (ls : Mask) (w : BitVec 12) : (c.noteWaited ls w).id = c.id := rfl

@[simp] theorem Cohort.commitLanes_id (c : Cohort) (p : Pend) (ls : Mask) : (c.commitLanes p ls).id = c.id := by
  unfold Cohort.commitLanes
  exact Cohort.putAll_id _ _ _ _

@[simp] theorem Cohort.commitUni_id (c : Cohort) (p : Pend) (r : Nat) (ls : Mask) : (c.commitUni p r ls).id = c.id := by
  unfold Cohort.commitUni
  simp

@[simp] theorem Cohort.commit_id (c : Cohort) (p : Pend) (ls : Mask) : (c.commit p ls).id = c.id := by
  unfold Cohort.commit
  split <;> simp

@[simp] theorem Cohort.commitWhere_id (c : Cohort) (ls : Mask) (vis : Pend → Bool) : (c.commitWhere ls vis).id = c.id := by
  unfold Cohort.commitWhere
  generalize c.pend.filter _ = ps
  induction ps generalizing c with
  | nil => rfl
  | cons p ps ih => simp [List.foldl_cons, ih]

/-! ### Changing one cohort -/

theorem Block.modCohort_twice (b : Block) (k : Nat) (d : Cohort) (f : Cohort → Cohort) (h : d.id = k) :
    (b.modCohort k fun _ => d).modCohort k f = b.modCohort k fun _ => f d := by
  unfold Block.modCohort
  simp only [List.map_map]
  congr 1
  apply List.map_congr_left
  intro y _
  by_cases hy : y.id = k <;> simp [hy, h]

theorem State.modCohort_twice (s : State) (c : CRef) (d : Cohort) (f : Cohort → Cohort) (h : d.id = c.cohort) :
    (s.modCohort c fun _ => d).modCohort c f = s.modCohort c fun _ => f d := by
  unfold State.modCohort State.modBlock
  simp only [List.map_map]
  congr 1
  apply List.map_congr_left
  intro y _
  by_cases hy : y.ref = c.b
  · simp [hy, Block.modCohort_twice _ _ _ _ h]
  · simp [hy]

/-- Where an effect begins: the split is no longer chosen, one number is given out, and the cohort is the one of `x`. -/
theorem beginIssue_go {i : Instr} {s u : State} {x : Ctx} (h : s.beginIssue i = .go x u) :
    s.selected = x.r :: s.selected.tail ∧ x.i = i ∧ x.uid = s.fresh ∧ x.c.id = x.r.c.cohort ∧
      u = ({ s with selected := s.selected.tail } : State).bump.modCohort x.r.c fun _ => x.c := by
  unfold State.beginIssue at h
  split at h
  · cases h
  · rename_i r rest hs
    dsimp only at h
    split at h
    · rename_i g b c sp hd hg hb hc hsp hh
      split at h
      · injection h with hx hu
        subst hx
        refine ⟨by simp [hs], rfl, rfl, ?_, ?_⟩
        · have hid : c.id = r.c.cohort := by
            unfold State.cohort? Block.cohort? at hc
            obtain ⟨b', hb', hc'⟩ := Option.bind_eq_some_iff.1 hc
            simpa using List.find?_some hc'
          simpa using hid
        · rw [← hu, hs]; rfl
      · cases h
    · cases h

theorem Issues.id {i : Instr} {s u : State} {x : Ctx} (h : Issues i s x u) : x.c.id = x.r.c.cohort := (beginIssue_go h.begins).2.2.2.1

theorem Issues.inst {i : Instr} {s u : State} {x : Ctx} (h : Issues i s x u) : x.i = i := (beginIssue_go h.begins).2.1

/-- Changing the cohort of `x` in `u` is putting the changed cohort in its place. -/
theorem modCohort_go {i : Instr} {s u : State} {x : Ctx} (h : s.beginIssue i = .go x u) (f : Cohort → Cohort) :
    u.modCohort x.r.c f = u.modCohort x.r.c fun _ => f x.c := by
  obtain ⟨-, -, -, hid, hu⟩ := beginIssue_go h
  rw [hu, State.modCohort_twice _ _ _ _ hid, State.modCohort_twice _ _ _ _ hid]

/-! ### Results owed -/

theorem mem_lanesOf {m : Mask} {l : Nat} : l ∈ lanesOf m ↔ m.getLsbD l = true := by
  unfold lanesOf
  simp only [List.mem_filter, List.mem_range, and_iff_right_iff_imp]
  intro h
  by_contra hl
  rw [BitVec.getLsbD_of_ge m l (by omega)] at h
  cases h

theorem tget_lanes {f : Nat → Word} {l : Nat} : ∀ {ls : List Nat},
    tget 0 (ls.filterMap fun l => if f l = 0 then none else some (l, f l)) l = if l ∈ ls then f l else 0
  | [] => rfl
  | k :: ls => by
    have ih := tget_lanes (f := f) (l := l) (ls := ls)
    by_cases h : f k = 0
    · rw [List.filterMap_cons_none (by simp [h]), ih]
      by_cases hk : l = k
      · subst hk; by_cases hm : l ∈ ls <;> simp [h, hm]
      · simp [hk]
    · have e : ((k :: ls).filterMap fun l => if f l = 0 then none else some (l, f l)) =
          (k, f k) :: ls.filterMap fun l => if f l = 0 then none else some (l, f l) := by
        rw [List.filterMap_cons]; simp only [if_neg h]
      rw [e]
      simp only [tget, ih, List.mem_cons]
      by_cases hk : l = k
      · rw [if_pos hk, if_pos (.inl hk), hk]
      · rw [if_neg hk]; simp only [hk, false_or]

theorem blend_all (old v : Word) : blend old v 0xFFFFFFFF = v := by
  unfold blend
  ext i hi
  simp only [BitVec.getElem_or, BitVec.getElem_and, BitVec.getElem_not]
  have h : (0xFFFFFFFF#32 : Word)[i] = true := by
    have : (0xFFFFFFFF#32 : Word) = BitVec.allOnes 32 := by decide
    rw [this, BitVec.getElem_allOnes]
  simp [h]

/-- Of several results to one register, the last is the one that is owed. -/
theorem lastOnly_filter (r : Reg) : ∀ os : List (Reg × (Nat → Word)),
    (lastOnly os).filter (fun o => o.1 == r) = (os.reverse.find? fun o => o.1 == r).toList
  | [] => rfl
  | o :: os => by
    have ih := lastOnly_filter r os
    rw [List.reverse_cons, List.find?_append]
    unfold lastOnly
    by_cases ho : o.1 = r
    · split
      · rename_i hany
        obtain ⟨p, hp, hpe⟩ := List.any_eq_true.1 hany
        rw [ih]
        have : (os.reverse.find? fun o => o.1 == r).isSome := by
          rw [List.find?_isSome]
          exact ⟨p, by simpa using hp, by simpa [ho] using hpe⟩
        obtain ⟨q, hq⟩ := Option.isSome_iff_exists.1 this
        simp [hq]
      · rename_i hany
        have : (os.reverse.find? fun o => o.1 == r) = none := by
          rw [List.find?_eq_none]
          intro p hp hpe
          exact hany (List.any_eq_true.2 ⟨p, by simpa using hp, by simpa [ho] using hpe⟩)
        rw [List.filter_cons_of_pos (by simpa using ho), ih, this]
        simp [ho]
    · have hno : ([o].find? fun o => o.1 == r) = none := by simp [ho]
      rw [hno, Option.or_none, ← ih]
      split
      · rfl
      · rw [List.filter_cons_of_neg (by simpa using ho)]

/-- A result that is not written yet changes no value that a split reads in a uniform register. -/
theorem Cohort.sreg_unwritten (c d : Cohort) (ps : List Pend) (hp : d.pend = c.pend ++ ps) (hs : d.sregs = c.sregs)
    (hl : ∀ p ∈ ps, p.landed = false) (own : Mask) (n : Nat) : d.sreg own n = c.sreg own n := by
  have : (ps.filter fun p => p.reg == Reg.uni n && p.landed) = [] := by
    rw [List.filter_eq_nil_iff]
    intro p h
    simp [hl p h]
  unfold Cohort.sreg Cohort.written
  rw [hp, hs, List.filter_append, this, List.append_nil]

/-- The cohort with the results owed has the values that `Results` says. -/
theorem results_owe (x : Ctx) (k : Cls) (ls : Mask) (os : List (Reg × (Nat → Word))) (d : Cohort)
    (hp : d.pend = x.c.pend ++ (lastOnly os).map (x.pendOf k ls)) (hs : d.sregs = x.c.sregs)
    (hh : ∀ r l, d.held r l = x.c.held r l) : x.Results ls os d := by
  intro r l
  have key := lastOnly_filter r os
  have hfind (P : Pend → Bool) (hP : ∀ o, P (x.pendOf k ls o) = (o.1 == r && (x.pendOf k ls o).lanes.getLsbD l)) :
      ((lastOnly os).map (x.pendOf k ls)).filter P =
        ((os.reverse.find? fun o => o.1 == r).toList.filter fun o => (x.pendOf k ls o).lanes.getLsbD l).map (x.pendOf k ls) := by
    rw [← key, List.filter_map, List.filter_filter]
    congr 1
    apply List.filter_congr
    intro o _
    simp [Function.comp, hP, Bool.and_comm]
  cases r with
  | uni n =>
    have hr : d.sreg (bitMask l) n = x.c.sreg (bitMask l) n :=
      Cohort.sreg_unwritten x.c d _ hp hs (by
        intro p h
        obtain ⟨o, -, rfl⟩ := List.mem_map.1 h
        rfl) _ _
    simp only [Cohort.newest, overlay, hp, List.filter_append, List.foldl_append, hr]
    rw [hfind _ (fun o => rfl)]
    cases hf : os.reverse.find? fun o => o.1 == Reg.uni n with
    | none => simp
    | some o =>
      have ho : o.1 = .uni n := by simpa using List.find?_some hf
      have hl : (x.pendOf k ls o).lanes = x.sp.lanes := by simp [Ctx.pendOf, ho]
      by_cases hx : x.sp.lanes.getLsbD l
      · have hv : tget 0 (x.pendOf k ls o).vals 0 = o.2 (lowest ls) := by
          simp only [Ctx.pendOf, ho]
          by_cases h0 : o.2 (lowest ls) = 0
          · simp only [tput, h0, if_true, tget]
          · simp only [tput, if_neg h0, tget, if_true]
        have hb : (x.pendOf k ls o).bits = 0xFFFFFFFF := rfl
        simp only [Option.toList, List.filter_cons, hl, hx, if_true, List.filter_nil, List.map_cons, List.map_nil,
          List.foldl_cons, List.foldl_nil, hv, hb]
        exact blend_all _ _
      · simp [Option.toList, hl, hx]
  | vec n =>
    simp only [Cohort.newest, hp, List.reverse_append, List.find?_append, hh]
    have e : ((lastOnly os).map (x.pendOf k ls)).reverse.find? (fun p => p.reg == Reg.vec n && p.lanes.getLsbD l) =
        (((lastOnly os).map (x.pendOf k ls)).filter fun p => p.reg == Reg.vec n && p.lanes.getLsbD l).reverse.head? := by
      rw [← List.head?_filter, List.filter_reverse]
    rw [e, hfind _ (fun o => rfl)]
    cases hf : os.reverse.find? fun o => o.1 == Reg.vec n with
    | none => simp
    | some o =>
      have ho : o.1 = .vec n := by simpa using List.find?_some hf
      have hl : (x.pendOf k ls o).lanes = ls := by simp [Ctx.pendOf, ho]
      by_cases hx : ls.getLsbD l
      · have hv : tget 0 (x.pendOf k ls o).vals l = o.2 l := by
          simp only [Ctx.pendOf, ho]
          rw [tget_lanes, if_pos (mem_lanesOf.2 hx)]
        have : ((((Option.some o).toList.filter fun o => (x.pendOf k ls o).lanes.getLsbD l).map (x.pendOf k ls)).reverse.head?) =
            some (x.pendOf k ls o) := by simp [hl, hx]
        rw [this]
        simp only [Option.some_or, hv, hx, if_true]
      · simp [hl, hx]
  | prd n =>
    simp only [Cohort.newest, hp, List.reverse_append, List.find?_append, hh]
    have e : ((lastOnly os).map (x.pendOf k ls)).reverse.find? (fun p => p.reg == Reg.prd n && p.lanes.getLsbD l) =
        (((lastOnly os).map (x.pendOf k ls)).filter fun p => p.reg == Reg.prd n && p.lanes.getLsbD l).reverse.head? := by
      rw [← List.head?_filter, List.filter_reverse]
    rw [e, hfind _ (fun o => rfl)]
    cases hf : os.reverse.find? fun o => o.1 == Reg.prd n with
    | none => simp
    | some o =>
      have ho : o.1 = .prd n := by simpa using List.find?_some hf
      have hl : (x.pendOf k ls o).lanes = ls := by simp [Ctx.pendOf, ho]
      by_cases hx : ls.getLsbD l
      · have hv : tget 0 (x.pendOf k ls o).vals l = o.2 l := by
          simp only [Ctx.pendOf, ho]
          rw [tget_lanes, if_pos (mem_lanesOf.2 hx)]
        have : ((((Option.some o).toList.filter fun o => (x.pendOf k ls o).lanes.getLsbD l).map (x.pendOf k ls)).reverse.head?) =
            some (x.pendOf k ls o) := by simp [hl, hx]
        rw [this]
        simp only [Option.some_or, hv, hx, if_true]
      · simp [hl, hx]

theorem lastOnly_subset : ∀ {os : List (Reg × (Nat → Word))} {o : Reg × (Nat → Word)}, o ∈ lastOnly os → o ∈ os
  | [], _, h => h
  | p :: os, o, h => by
    unfold lastOnly at h
    split at h
    · exact List.mem_cons_of_mem _ (lastOnly_subset h)
    · rcases List.mem_cons.1 h with rfl | h
      · exact List.mem_cons_self
      · exact List.mem_cons_of_mem _ (lastOnly_subset h)

/-- What owing results and noting the instruction do, at once. -/
theorem effect_owe_note {i : Instr} {s u : State} {x : Ctx} (h : s.beginIssue i = .go x u) (k : Cls) (ls : Mask)
    (os : List (Reg × (Nat → Word))) (hl : ls ≠ 0#64 ∨ os = []) (fin : Finish) : x.Effect u (x.note (x.owe u k ls os) ls fin) k ls os fin := by
  have hid := (beginIssue_go h).2.2.2.1
  let d1 : Cohort := { x.c with pend := x.c.pend ++ (lastOnly os).map (x.pendOf k ls) }
  have hd1 : x.owe u k ls os = u.modCohort x.r.c fun _ => d1 := by
    by_cases h0 : ls = 0#64
    · obtain rfl : os = [] := hl.resolve_left fun hn => hn h0
      have e : u.modCohort x.r.c (fun c => c) = u.modCohort x.r.c fun _ => x.c := modCohort_go h _
      have hd : d1 = x.c := by simp [d1, lastOnly]
      have hu : u = ({ s with selected := s.selected.tail } : State).bump.modCohort x.r.c fun _ => x.c := (beginIssue_go h).2.2.2.2
      rw [hd]
      unfold Ctx.owe
      rw [if_pos (by simpa using h0)]
      conv_rhs => rw [hu, State.modCohort_twice _ _ _ _ hid]
      exact hu
    · unfold Ctx.owe
      rw [if_neg (by simpa using h0)]
      exact modCohort_go h _
  have hu : u = ({ s with selected := s.selected.tail } : State).bump.modCohort x.r.c fun _ => x.c := (beginIssue_go h).2.2.2.2
  have twice (e : Cohort) (he : e.id = x.r.c.cohort) (f : Cohort → Cohort) :
      (u.modCohort x.r.c fun _ => e).modCohort x.r.c f = u.modCohort x.r.c fun _ => f e :=
    State.modCohort_twice _ _ _ _ he
  have owed (d : Cohort) (hp : d.pend = d1.pend) : x.Owed k d := by
    refine ⟨(lastOnly os).map (x.pendOf k ls), hp, ?_⟩
    intro p hp
    obtain ⟨o, -, rfl⟩ := List.mem_map.1 hp
    cases k <;> exact ⟨rfl, rfl, rfl, rfl⟩
  cases hf : setFlag x.h with
  | none =>
    refine ⟨d1, ?_, rfl, by simp [hf]; intro f; rfl, owed d1 rfl, results_owe x k ls os d1 rfl rfl fun r l => by cases r <;> rfl⟩
    unfold Ctx.note
    rw [hd1, hf]
    rfl
  | some f =>
    refine ⟨d1.flagUp f, ?_, rfl, ?_, owed _ rfl, results_owe x k ls os _ rfl rfl fun r l => by cases r <;> rfl⟩
    · unfold Ctx.note
      rw [hd1, hf]
      have := twice d1 hid fun c => c.flagUp f
      rw [← this]
      rfl
    · intro g
      rw [Cohort.flagCount_flagUp, hf]
      have : d1.flagCount g = x.c.flagCount g := rfl
      rw [this]
      by_cases hg : g = f
      · simp [hg]
      · rw [if_neg hg, if_neg fun h => hg (Option.some.inj h).symm]

theorem note_effect {i : Instr} {s u : State} {x : Ctx} (h : s.beginIssue i = .go x u) (ls : Mask) (k : Cls) (fin : Finish) :
    x.Effect u (x.note u ls fin) k ls [] fin := by
  have := effect_owe_note h k ls [] (.inr rfl) fin
  have e : x.owe u k ls [] = u := by
    by_cases h0 : ls = 0#64
    · unfold Ctx.owe
      rw [if_pos (by simpa using h0)]
    · unfold Ctx.owe
      rw [if_neg (by simpa using h0), modCohort_go h]
      have hu : u = ({ s with selected := s.selected.tail } : State).bump.modCohort x.r.c fun _ => x.c := (beginIssue_go h).2.2.2.2
      have hid := (beginIssue_go h).2.2.2.1
      conv_rhs => rw [hu]
      rw [hu, State.modCohort_twice _ _ _ _ hid]
      simp [lastOnly]
  rwa [e] at this

theorem compute_effect {i : Instr} {s u : State} {x : Ctx} (h : Issues i s x u) {k : Cls} (hk : k ≠ .v)
    (os : List (Reg × (Nat → Word))) : x.Effect u (x.compute u k os) k x.ex os (endOf k u.cycle) := by
  have := effect_owe_note h.begins k x.ex os (.inl h.lanes) (.latency (u.cycle + latency k))
  cases k with
  | a => exact this
  | b => exact this
  | v => exact absurd rfl hk

theorem complete_effect {i : Instr} {s u : State} {x : Ctx} (h : Issues i s x u) (os : List (Reg × (Nat → Word))) :
    x.Effect u (x.complete u os) .v x.ex os .complete := effect_owe_note h.begins .v x.ex os (.inl h.lanes) .complete

/-! ### The next state -/

theorem issue_next {i : Instr} {s u : State} {x : Ctx} (h : Issues i s x u) (k : Ctx → State → State) :
    issue i s k = .next ((k x u).settle x.r) := by
  unfold issue
  rw [h.begins]
  simp [h.lanes, h.legal, h.gap]

theorem issueIf_next {i : Instr} {s u : State} {x : Ctx} (h : Issues i s x u) {ready ok : Ctx → State → Bool}
    (hok : ok x u = true) (hr : ready x u = true) (k : Ctx → State → State) :
    issueIf i s ready ok k = .next ((k x u).settle x.r) := by
  unfold issueIf
  rw [h.begins]
  simp [h.lanes, h.legal, h.gap, hok, hr]

/-- An instruction that only computes. -/
theorem gives_compute {i : Instr} {s u : State} {x : Ctx} {k : Cls} {os : Ctx → State → List (Reg × (Nat → Word))} (h : Issues i s x u)
    (he : Sys2Proof.Machine.exec i s = issue i s fun x s => x.compute s k (os x s)) (hk : k ≠ .v) : Gives i s x u k (os x u) :=
  ⟨_, he.trans (issue_next h _), compute_effect h hk _⟩

/-- An instruction of class V whose results are known at issue. -/
theorem gives_complete {i : Instr} {s u : State} {x : Ctx} {os : Ctx → State → List (Reg × (Nat → Word))} (h : Issues i s x u)
    (he : Sys2Proof.Machine.exec i s = issue i s fun x s => x.complete s (os x s)) : Gives i s x u .v (os x u) :=
  ⟨_, he.trans (issue_next h _), complete_effect h _⟩

end Sys2Proof.Machine
end

