-- ==== Sys2Proof/Tests/Slice0.lean ====
section
/-! SUPPORT. Tests: ill-formed terms that WellFormed refuses, words from the spec's encodings, and states that meet the hypotheses of the
statements. -/

namespace Sys2Proof.Tests

/- One theorem at a time: each kernel check has a thread, and all at once would ask for much memory. -/
set_option Elab.async false

open Sys2Proof Sys2Proof.Machine

/-! ### Witnesses: a booted module whose chosen split issues -/

/-- The header fields of most tests: gap 1, no wait, flag `f`, guard p7. -/
def hdr (f : BitVec 4) : Hdr := ⟨1, 0, f, 7⟩

/-- The module with a running grid whose user split has been chosen. -/
def base : State := State.reset.withFetchWord 64 0

/-- The chosen split of `base`. -/
def baseSplit : SRef := base.selected.headD ⟨⟨⟨0, 0⟩, 0⟩, 0⟩

/-- `base` with its split in another mode. -/
def baseIn (m : Mode) : State := base.modSplit baseSplit fun p => { p with mode := m }

/-- Does `i` issue at `s`, with something more? -/
def issuing (s : State) (i : Instr) (p : Ctx → State → Bool) : Bool :=
  match s.beginIssue i with
  | .go x u => x.ex != 0 && x.legal && !x.underGap && p x u
  | .stop _ => false

theorem issues_of_issuing {s : State} {i : Instr} {p : Ctx → State → Bool} (h : issuing s i p = true) :
    ∃ x u, Issues i s x u ∧ p x u = true := by
  unfold issuing at h
  split at h
  · rename_i x u hb
    simp only [Bool.and_eq_true, bne_iff_ne, Bool.not_eq_true'] at h
    exact ⟨x, u, ⟨hb, h.1.1.1, h.1.1.2, h.1.2⟩, h.2⟩
  · cases h

/-- Do all of them issue at `s`, without any further condition? -/
def allIssue (s : State) (is : List Instr) : Bool := is.all fun i => issuing s i fun _ _ => true

/-- Has the page of an address been walked? -/
def mapped (x : Ctx) (u : State) (a : DWord) : Bool := !u.codeMiss x.c.core x.g x.sp.mode a

/-- Are the words of code at these addresses at hand? -/
def fetched (x : Ctx) (u : State) (as : List DWord) : Bool :=
  as.all fun a => mapped x u a && (u.codeLine x.c.core x.g x.sp.mode a).isNone

def opA (f : BitVec 4) (d a b m : BitVec 8) : OpA := ⟨hdr f, d, a, b, m⟩

def opB (f : BitVec 4) (d a : BitVec 8) (imm : BitVec 16) : OpB := ⟨hdr f, d, a, imm⟩

def opM (f : BitVec 4) (d a : BitVec 8) : OpM := ⟨hdr f, d, a, 0, 0, 0⟩

theorem witness_IntegerArithmeticMovesAndDivision :
    allIssue base [.iadd (opA 15 8 2 4 4), .isub (opA 15 8 2 4 5), .imul (opA 15 8 2 4 1), .imulh (opA 15 8 2 4 5),
      .imin (opA 15 8 2 4 4), .imax (opA 15 8 2 4 5), .iabs (opA 15 8 2 0 0), .ineg (opA 15 8 2 0 1), .mov (opA 15 8 2 0 1),
      .movi ⟨hdr 15, 8, 5⟩, .movh (opB 15 8 2 0xFFFF), .iaddImmediate (opB 15 8 2 0x8000), .imulImmediate (opB 15 8 2 7),
      .iadd3 (opA 15 8 2 3 5), .imad (opA 15 8 2 3 5), .imadw (opA 15 8 2 3 6), .idiv (opA 0 8 2 4 4), .irem (opA 0 8 2 4 5)] = true ∧
    -- a divisor that is not zero
    issuing base (.idiv (opA 0 8 2 0xF2 4)) (fun x _ => x.rdN 1 0xF2 0 != 0) = true := by
  decide +kernel

theorem witness_LogicShiftsAndBitFields :
    allIssue base [.and (opA 15 8 2 4 1), .or (opA 15 8 2 4 0), .xor (opA 15 8 2 4 0), .andn (opA 15 8 2 4 0), .not (opA 15 8 2 0 0),
      .brev (opA 15 8 2 0 1), .andImmediate (opB 15 8 2 1), .orImmediate (opB 15 8 2 1), .xorImmediate (opB 15 8 2 1),
      .popc (opA 15 8 2 0 0), .clz (opA 15 8 2 0 1), .shl (opA 15 8 2 0 0x7E), .shr (opA 15 8 2 4 0), .sar (opA 15 8 2 4 1),
      .rot (opA 15 8 2 4 0), .fshl (opA 15 8 2 4 6), .bfx (opA 15 8 2 4 4), .bfi (opA 15 8 2 4 6)] = true := by
  decide +kernel

theorem witness_PredicatesSelectionAndAddresses :
    allIssue base [.isetp (opA 15 0x33 6 8 0x40), .isetpImmediate (opB 15 0x12 6 9), .plop (opA 15 1 0x32 4 0x80), .sel (opA 15 8 2 4 0x18),
      .lea (opA 15 8 2 5 0x0B), .nadd (opA 15 8 2 4 1)] = true := by
  decide +kernel

/-- For FormatsAndArithmeticWithOneRounding, FloatMinMaxAndCompare, FloatClassRoundAndExponent, ReciprocalsRootsAndSpecialOperands,
ConversionsRoundAndSaturate, NarrowCodesBothWays and PackedHalvesAndBytes. -/
theorem witness_FloatingPoint :
    allIssue base [.fadd (opA 15 8 1 2 0x0C), .fsub (opA 15 8 1 2 1), .fmul (opA 15 8 1 2 2), .ffma (opA 15 8 1 2 3), .fmin (opA 15 8 1 2 0),
      .fmax (opA 15 8 1 2 1), .fsetp (opA 15 0x39 1 2 1), .fclass (opA 15 8 1 0 0), .frnd (opA 15 8 1 0 4), .fexp (opA 15 8 1 0 0),
      .fldexp (opA 15 8 1 2 0), .frcp (opA 0 8 1 0 0), .frsq (opA 0 8 1 0 0), .fsqrt (opA 0 8 1 0 0), .ex2 (opA 0 8 1 0 0),
      .lg2 (opA 0 8 1 0 0), .sin (opA 0 8 1 0 0), .cos (opA 0 8 1 0 0), .f2i (opA 15 8 1 0 0), .i2f (opA 15 8 1 0 0), .f2f (opA 15 8 1 0 4),
      .cvtq (opA 15 8 1 2 0), .cvtx (opA 15 8 1 0 0), .hadd2 (opA 15 8 1 2 0), .hmul2 (opA 15 8 1 2 1), .hfma2 (opA 15 8 1 2 0),
      .vadd2 (opA 15 8 1 2 0), .vsub2 (opA 15 8 1 2 3), .vmax2 (opA 15 8 1 2 1), .vmin2 (opA 15 8 1 2 0), .prmt (opA 15 8 1 2 3),
      .acs2 (opA 15 8 1 2 0xC4)] = true ∧
    dstOk 0xC4 2 .uniOnly = true ∧ issuing base (.acs2 (opA 15 8 1 2 0xC4)) (fun x _ => allocOk x.g { dsts := [(0xC4, 2, .uniOnly)] }) = true
    := by
  decide +kernel

/-- The words of a header of one word without a reconvergence header, and of an idle instruction. -/
def headerWord : Nat := 0xFF80800000000000

/-- `base` with a block to enter at 0x20000, whose address uniform registers 4 and 5 hold. -/
def coded : State :=
  ((base.writeRun 0x20000 (leBytes 8 headerWord)).modCore 0 fun c => { c with code := [0x10000 / 128, 0x20000 / 128] }).modCohort
    baseSplit.c fun c => { c with sregs := [(4, 0x20000#32)] }

/-- Does the module's grid check issue gaps, and what else a kernel descriptor selects. -/
def withDesc (s : State) (bit : Nat) : State := s.modGrid 1 fun g => { g with desc := g.desc ||| (1#64 <<< bit) }

/-- A result that is owed to a vector register from an issue distance on. -/
def owed (n dist : Nat) : Pend := { uid := 1, reg := .vec n, lanes := 0xFFFFFFFF, vals := [], bits := 0, due := some dist, flag := 15, landed := false }

theorem witness_OperandCodes :
    srcOk 0x08 8 = true ∧ srcOk 0xC8 4 = true ∧ srcOk 0xFE 1 = true ∧ srcOk 0xFC 4 = true ∧ srcOk 0xFF 1 = false := by decide

theorem witness_IssueAndItsChecks :
    hdr? (.nop (opA 15 0 0 0 0)) = some (hdr 15) ∧ (base.grid? 1).isSome = true ∧ (base.block? ⟨1, 0⟩).isSome = true ∧
    (base.cohort? baseSplit.c).isSome = true ∧ (base.split? baseSplit).isSome = true ∧
    -- the split may issue, or may not: it is held
    issuing base (.nop (opA 15 0 0 0 0)) (fun _ _ => true) = true ∧
    (match (base.modSplit baseSplit fun p => { p with hold := some ⟨.latch, 1, 0, 0⟩ }).beginIssue (.nop (opA 15 0 0 0 0)) with
      | .stop _ => true | .go _ _ => false) = true ∧
    -- no lane executes; illegal fields; an under-gapped register
    (match base.beginIssue (.iadd ⟨⟨1, 0, 15, 15⟩, 8, 2, 4, 4⟩) with | .go x _ => x.ex == 0#64 && !x.sp.forced | .stop _ => false) = true ∧
    (match base.beginIssue (.iadd (opA 15 8 2 4 8)) with | .go x _ => x.ex != 0#64 && !x.legal | .stop _ => false) = true ∧
    (match ((withDesc base 29).modCohort baseSplit.c fun c => { c with pend := [owed 2 9] }).beginIssue (.iadd (opA 15 8 2 4 0)) with
      | .go x _ => x.ex != 0#64 && x.legal && x.g.check && x.underGap | .stop _ => false) = true ∧
    -- class V: a load, a word that its mode may not run, and a branch on a predicate
    (let late : State := (withDesc base 29).modCohort baseSplit.c fun c =>
       { c with pend := [owed 2 9, { owed 2 9 with reg := .prd 0, bits := 0xFF }], preds := [(0, 0xFF#64)] }
     let under (i : Instr) (m : Mode) (o : Option Mode) : Bool := match late.beginIssue i with
       | .go x u => x.ex != 0#64 && x.legal && x.underGap && x.sp.mode == m && o != some x.sp.mode && u.walks.isEmpty
       | .stop _ => false
     under (.ldB32 (opM 0 8 2)) .user none && under (.sysc ⟨⟨1, 0, 15, 0⟩, 0, 3⟩) .user none && under (.sret ⟨⟨1, 0, 15, 0⟩, 0, 0, 0, 0⟩) .user (some .supervisor) &&
       under (.brp ⟨⟨1, 0, 15, 0⟩, 0x2000⟩) .user none && under (.bru ⟨⟨1, 0, 15, 0⟩, 0x2000⟩) .user none) = true ∧
    -- a split whose fetch was suspended, in a block that is being saved
    (match ((base.modSplit baseSplit fun p => { p with hold := some ⟨.walk [], 0, 1, 0⟩ }).modBlock ⟨1, 0⟩ fun b => { b with st := .saving }).beginIssue
        (.ldB32 (opM 0 8 2)) with | .go x _ => x.ex != 0#64 | .stop _ => false) = true := by
  decide +kernel

theorem witness_ReadsSeeWhatIsVisible :
    (match (base.modCohort baseSplit.c fun c => { c with pend := [owed 2 1] }).beginIssue (.iadd (opA 15 8 2 4 0)) with
      | .go x _ => x.r == baseSplit | .stop _ => false) = true ∧
    [owed 2 1].Pairwise (fun p q => p.reg = q.reg → p.uid < q.uid) := by
  refine ⟨by decide +kernel, by simp⟩

theorem witness_DecodeOfEncode : WellFormed (.subscribe ⟨opA 15 2 0xC4 0 0, 0x11, 0x22⟩) :=
  ⟨by decide, by decide, Or.inr rfl⟩

/-- For DecodeOfEncode: words that decode. -/
theorem witness_WordsThatDecode : decode [0xD01000F702C40000, 0x11, 0x22, 0x33] = .ok (.subscribe ⟨opA 15 2 0xC4 0 0, 0x11, 0x22⟩, [0x33]) := by
  decide

/-- The module with a word to fetch, in a block that ends there. -/
def atWord (w : Nat) : State := State.reset.withFetchWord 64 w

theorem witness_StepRunsDecodedInstruction :
    let fetch (s : State) : Option (Except XFault DWord) :=
      match s.grid? 1, s.cohort? baseSplit.c, s.split? baseSplit with
      | some g, some c, some sp => some (s.codeWord c.core g sp.mode sp.pc)
      | _, _, _ => none
    (atWord 0x201000F70301020C).agenda = [] ∧ (atWord 0x201000F70301020C).selected = [baseSplit] ∧
    (let s := atWord 0x201000F70301020C
     s.beforeChosen baseSplit = none ∧ (s.fetchMiss baseSplit).isNone = true ∧ (s.fetchLine baseSplit).isNone = true ∧
       ((s.modCore 0 fun c => { c with tlb := [] }).fetchMiss baseSplit).isSome = true ∧
       ((s.modCore 0 fun c => { c with code := [] }).fetchLine baseSplit).isSome = true) ∧
    (fetch (atWord 0x201000F70301020C) == some (.ok 0x201000F70301020C#64)) = true ∧
    decode [0x201000F70301020C] = .ok (.fadd (opA 15 3 1 2 0x0C), []) ∧
    -- a word that decodes to nothing, a word that does not translate, a split that enters a block
    (fetch (atWord headerWord) == some (.ok 0xFF80800000000000#64)) = true ∧ decode [0xFF80800000000000] = .error .header ∧
    (match fetch ((atWord 0).modSplit baseSplit fun p => { p with pc := 0x8000000 }) with | some (.error _) => true | _ => false) = true ∧
    (((atWord 0).modSplit baseSplit fun p => { p with entering := true }).split? baseSplit).any (·.entering) = true := by
  decide +kernel

theorem witness_StepKeepsMemoryForm : Memory.wf base.mem = true ∧ (match step base with | .next _ => true | _ => false) = true := by
  decide +kernel

theorem witness_MemoryReadsWhatWasWritten : Memory.wf [(5, 1#8), (9, 2#8)] = true := by decide

theorem witness_SpecialRegistersReadAndWrite :
    base.issued = [] ∧
    issuing base (.sread (opB 0 8 0 0x1031)) (fun _ u => u.issued.isEmpty) = true ∧
    issuing base (.sread (opB 0 8 0 0x038)) (fun _ u => u.issued.isEmpty) = true ∧
    issuing base (.sread (opB 0 8 0 0x047)) (fun _ u => u.issued.isEmpty) = true ∧
    issuing base (.swrite (opB 15 0 8 0x038)) (fun _ u => u.issued.isEmpty) = true ∧
    issuing (baseIn .supervisor) (.swrite (opB 15 0 8 0x039)) (fun x _ => x.sp.mode != .user) = true ∧
    issuing base (.swrite (opB 15 0 8 0x039)) (fun x _ => x.sp.mode == .user) = true ∧
    issuing base (.ovclr (opA 0 8 0 0 0)) (fun _ u => u.issued.isEmpty) = true ∧
    (([.ovclr (opA 0 8 0 0 0), .swrite (opB 15 0 8 0x038)] : List Instr).all fun i =>
      issuing { base with issued := [⟨1, baseSplit.c, 1, 0xFFFFFFFF, none, .narrow 99 0⟩] } i fun x u =>
        u.issued.any fun j => j.c == x.r.c && match j.fin with | .narrow _ _ => true | _ => false) = true := by
  decide +kernel

theorem witness_LanesExchangeValues :
    (allIssue base ([0, 1, 2, 3].map fun m => .shfl (opA 0 8 1 2 m)) &&
      allIssue base [.vote (opA 0 1 2 0 0), .vote (opA 0 1 2 0 1), .vote (opA 0 0xC4 2 0 2), .vote (opA 0 0xC4 2 0 3),
        .umov (opA 0 0xC4 2 0 0), .umov (opA 0 0xC4 2 0xC5 1), .elect (opA 0 1 0 0 0)] &&
      allIssue base ((List.range 11).map fun m => .redx (opA 0 8 1 0 (BitVec.ofNat 8 m))) &&
      dstOk 0xC4 1 .uniAny && issuing base (.vote (opA 0 0xC4 2 0 2)) fun x _ => allocOk x.g { dsts := [(0xC4, 1, .uniAny)] }) = true := by
  decide +kernel

/-- May the lanes enter this block? -/
def mayEnter (x : Ctx) (u : State) (a : DWord) : Bool := (u.targetFault x.c.core x.g x.sp.mode a).isNone

theorem witness_BranchesAndCalls :
    -- a target to enter, of a branch of some lanes and of all; a target that is none; words of code that are not at hand
    ([.bra ⟨hdr 15, 0x2000⟩, .call ⟨hdr 0, 0x2000⟩] : List Instr).all (fun i => issuing coded i fun x u =>
      fetched x u [0x20000] && mayEnter x u 0x20000 && x.ex == x.sp.lanes) = true ∧
    ([.bra ⟨hdr 15, 8⟩, .call ⟨hdr 0, 8⟩] : List Instr).all (fun i => issuing coded i fun x u =>
      fetched x u [0x10040] && !mayEnter x u 0x10040) = true ∧
    issuing (coded.modCohort baseSplit.c fun c => { c with preds := [(1, 0xFF#64)] }) (.bra ⟨⟨1, 0, 15, 1⟩, 0x2000⟩) (fun x u =>
      fetched x u [0x20000] && mayEnter x u 0x20000 && x.ex != x.sp.lanes && x.sp.blkReconv == 0) = true ∧
    issuing ((coded.modCohort baseSplit.c fun c => { c with preds := [(1, 0xFF#64)] }).modSplit baseSplit fun p => { p with blkReconv := 0x10040 })
      (.bra ⟨⟨1, 0, 15, 1⟩, 0x2000⟩) (fun x u => fetched x u [0x20000, 0x10040] && mayEnter x u 0x20000 && x.ex != x.sp.lanes &&
        (u.reconvFault x.c.core x.g x.sp).isSome) = true ∧
    ([.bra ⟨hdr 15, 0x1000⟩, .call ⟨hdr 0, 0x1000⟩] : List Instr).all (fun i => issuing coded i fun x u => !fetched x u [0x18000]) = true ∧
    ([.brp ⟨hdr 15, 0x2000⟩, .bru ⟨hdr 15, 0x2000⟩] : List Instr).all (fun i => issuing coded i fun x u =>
      fetched x u [0x20000] && x.sp.lanes != 0#64) = true ∧
    ([.brx (opA 15 0 0xC4 0 0), .ret (opA 15 0 0xC4 0 0), .callx (opA 0 8 0xC4 0 0)] : List Instr).all (fun i =>
      issuing coded i fun x u => x.lanes.all (fun l => mayEnter x u (BitVec.ofNat 64 (x.rdN 2 0xC4 l))) && fetched x u [0x20000] &&
        x.sp.blkReconv == 0) = true ∧
    issuing coded (.call ⟨hdr 0, 0xFFFFD000⟩) (fun x _ => 2 ^ 51 ≤ (x.sp.pc + BitVec.ofInt 64 (8 * -0x3000)).toNat) = true := by
  decide +kernel

theorem witness_SplitsDivideEnterExitAndYield :
    -- a division: the target is a block to enter, or the reconvergence header of the split's own block
    (match coded.cohort? baseSplit.c, coded.split? baseSplit, coded.grid? 1, coded.block? ⟨1, 0⟩ with
      | some c, some sp, some g, some b =>
        c.splits.all (fun q => q.id < coded.fresh) && (c.splits.filter fun q => q.spawn.isNone).length < (coded.part g.part).scap &&
          sp.spawn.isNone && (coded.blocks.map (·.ref)).Nodup && (b.cohorts.map (·.id)).Nodup && (c.splits.map (·.id)).Nodup &&
          coded.codeWord c.core g sp.mode 0x20000 == .ok (BitVec.ofNat 64 headerWord) && sp.joined.isNone &&
          !coded.codeMiss c.core g sp.mode 0x20000 && (coded.codeLine c.core g sp.mode 0x20000).isNone && sp.reconv == 0 && sp.blkReconv == 0 &&
          !headerBad g (BitVec.ofNat 64 headerWord)
      | _, _, _, _ => false) = true ∧
    isHeader (BitVec.ofNat 64 headerWord) = true ∧ hdrEntry (BitVec.ofNat 64 headerWord) = false ∧
    hdrSpawn (BitVec.ofNat 64 headerWord) = false ∧
    ((coded.modSplit baseSplit fun p => { p with blkReconv := 0x20000 }).split? baseSplit).any (fun p => p.blkReconv == 0x20000) = true ∧
    issuing base (.exit (opA 15 0 0 0 0)) (fun x _ => x.sp.mode == .user && !x.g.ckpt) = true ∧
    issuing (withDesc base 31) (.exit (opA 15 0 0 0 0)) (fun x _ => x.g.ckpt && population x.ex == x.g.ntid) = true ∧
    issuing (baseIn .supervisor) (.exit (opA 15 0 0 0 0)) (fun x _ => x.sp.mode != .user) = true ∧
    allIssue base [.yield (opA 15 0 0 0 0), .nop (opA 15 0 0 0 0)] = true := by
  decide +kernel

/-! ### Witnesses: memory, ordering and objects -/

/-- The low 2^27 bytes of the weight store behind the same addresses. -/
def weights : State := base.modCore 0 fun c => { c with tlb := [{ placedTlb with pa := 2 ^ 44, ws := true }] }

/-- `base` with only lane 0 to execute under guard p1. -/
def oneLane : State := base.modCohort baseSplit.c fun c => { c with preds := [(1, 1#64)] }

def isOk {α : Type} : Except XFault α → Bool
  | .ok _ => true
  | .error _ => false

theorem witness_AccessChecksAndScratchpad :
    -- a page; no page; the weight store; a barred region; the scratchpad
    issuing base (.nop (opA 15 0 0 0 0)) (fun x u => isOk (u.xlate x.c.core x.g x.sp.mode .rd 0x20000) &&
      !isOk (u.xlate x.c.core x.g x.sp.mode .rd 0x40000000) && isOk (x.checkScratch 8 4) && !isOk (x.checkScratch 524288 4)) = true ∧
    issuing weights (.nop (opA 15 0 0 0 0)) (fun x u => match u.xlate x.c.core x.g x.sp.mode .rd 0x20000 with
      | .ok p => p.ws | .error _ => false) = true ∧
    ([.ldsI8 (opM 0 8 2), .ldsN8 (opM 0 8 2), .ldsI16 (opM 0 8 2), .ldsN16 (opM 0 8 2), .ldsB32 (opM 0 8 2), .ldsB64 (opM 0 8 2),
      .ldsB128 (opM 0 8 2), .stsB8 (opM 0 8 2), .stsB16 (opM 0 8 2), .stsB32 (opM 0 8 2), .stsB64 (opM 0 8 2),
      .stsB128 (opM 0 8 2)] : List Instr).all (fun i => issuing base i fun x u =>
        x.lanes.all (fun l => isOk (x.checkScratch (x.at32 (opM 0 8 2) 16 l) 16)) && !x.g.ckpt &&
          !u.wouldOverflow x.r.c.b ((List.range 16).map fun k => (k, 0))) = true := by
  decide +kernel

theorem witness_GlobalAccessesIssue :
    ([.ldI8 (opM 0 8 2), .ldN8 (opM 0 8 2), .ldI16 (opM 0 8 2), .ldN16 (opM 0 8 2), .ldB32 (opM 0 8 2), .ldB64 (opM 0 8 2),
      .ldB128 (opM 0 8 2), .stB8 (opM 0 8 2), .stB16 (opM 0 8 2), .stB32 (opM 0 8 2), .stB64 (opM 0 8 2),
      .stB128 (opM 0 8 2)] : List Instr).all (fun i => issuing base i fun x u =>
        x.lanes.all (fun l => mapped x u (x.at64 (opM 0 8 2) 16 l) && isOk (x.checkGlobal u .st (x.at64 (opM 0 8 2) 16 l) 16) &&
          isOk (x.checkGlobal u .ld (x.at64 (opM 0 8 2) 16 l) 16)) && !x.g.ckpt) = true ∧
    ([.ldwB32 (opM 0 8 2), .ldwB64 (opM 0 8 2), .ldwB128 (opM 0 8 2)] : List Instr).all (fun i => issuing weights i fun x u =>
        x.lanes.all (fun l => mapped x u (x.at64 (opM 0 8 2) 16 l) && isOk (x.checkGlobal u .ldw (x.at64 (opM 0 8 2) 16 l) 16))) = true ∧
    -- a page that is still to be walked
    ([.ldB32 (opM 0 8 2), .stB32 (opM 0 8 2), .ldwB32 (opM 0 8 2), .pref (opM 15 0 2)] : List Instr).all (fun i =>
      issuing (base.modCohort baseSplit.c fun c => { c with vregs := [(128, 0x40000000)] }) i fun x u =>
        x.lanes.any fun l => !mapped x u (x.at64 (opM 0 8 2) 4 l)) = true := by
  decide +kernel

/-- A packet at a place `k` links from its bank, injected as number `n`. -/
def trip (k n : Nat) : Trip := { ts := 0, tick := 0, src := (0, 0), seq := n, way := (List.range (k + 1)).map fun j => (0, k - j) }

/-- An access of lane 0 in flight. -/
def access (op : AccOp) (stage : Stage) : Access :=
  { id := 9, uid := 5, c := baseSplit.c, core := 0, lane := 0, op := op, scratch := false, va := 0x30000, pa := 0x30000, size := 4,
    scope := 0, bytes := [1, 2, 3, 4], stage := stage }

/-- An access at the home bank, which has nothing left to resolve. -/
def atHome : Stage := .waiting 0 { domain := 0, arrived := true } []

def withAccess (op : AccOp) (stage : Stage) : State := { base with flight := [access op stage] }

theorem witness_ReadsAreServedAndReplied :
    let s := withAccess .load .issued
    (s.access? 9 == some (access .load .issued)) = true ∧ (s.block? ⟨1, 0⟩).isSome = true ∧ (s.grid? 1).isSome = true ∧
    (s.dom 0).banks = .on ∧ (s.core 0).l1 = [] ∧ s.recess = none ∧
    (let t : State := ({ withAccess .load (.fixed [1, 2, 3, 4] false) with
        issued := [⟨5, baseSplit.c, 1, 1, none, .reply 8 1 4 false 0 0⟩] } : State).modCohort baseSplit.c fun c =>
          { c with pend := [{ owed 8 1 with uid := 5, due := none, lanes := 1 }] }
     (t.issued.find? fun j => j.uid = 5).isSome = true ∧ (t.cohort? baseSplit.c).any (fun c => c.pend.all fun p => p.lanes != 0#64) = true) ∧
    issuing base (.pref (opM 15 0 2)) (fun x u => isOk (x.checkGlobal u .pref (x.at64 (opM 15 0 2) 128 0) 1)) = true := by
  decide +kernel

theorem witness_WritesArriveAndPerform :
    let s := withAccess .store .issued
    let t := withAccess .store atHome
    let d : State := { base with flight := [{ access .store .issued with draft := true }] }
    (s.access? 9).isSome = true ∧ (s.dom 0).banks = .on ∧ (t.access? 9 == some (access .store atHome)) = true ∧
    (access .store atHome).bytes.length = 4 ∧ Memory.wf t.mem = true ∧ tableOk 0 t.counts = true ∧
    tableOk [] t.directory = true ∧ (t.block? ⟨1, 0⟩).any (fun b => tableOk 0 b.scratch && tableOk none b.drafts) = true ∧
    (0 : Nat) ≤ t.ticks ∧ (d.access? 9).any (fun a => a.draft && paRegion a.pa != 3) = true ∧
    ((withAccess (.host .a) atHome).access? 9).any (fun a => a.op == .host .a && !a.scratch && !a.draft) = true := by
  decide +kernel

theorem witness_AtomicsIssueTheirGroups :
    tableOk {} base.cores = true ∧
    ((List.range 16).all fun code => code == 13 || code == 10 || code == 12 || code == 1 ||
      issuing base (.atomGlobal (opA 0 8 2 4 (BitVec.ofNat 8 (16 * code)))) fun x u =>
        x.lanes.all (fun l => isOk (x.checkGlobal u .atom (BitVec.ofNat 64 (x.rdN 2 2 l)) 4)) && !x.g.ckpt) = true ∧
    -- pages that are still to be walked
    ([.atomGlobal (opA 0 8 2 4 0), .redGlobal (opA 0 0 2 4 0x0E), .atomCasB128 (opA 0 8 2 16 0), .waitm (opM 15 8 2)] : List Instr).all (fun i =>
      issuing (base.modCohort baseSplit.c fun c => { c with vregs := [(128, 0x40000000)] }) i fun x u => !mapped x u 0x40000000) = true ∧
    allIssue base [.atomScratchpad (opA 0 8 2 4 0), .atomCasB128 (opA 0 8 2 16 0), .redGlobal (opA 0 0 2 4 0x0E),
      .redGlobal (opA 0 1 2 4 0xD0), .redScratchpad (opA 0 0 2 4 0)] = true := by
  decide +kernel

theorem witness_AtomicGroupsPerform :
    let a := access (.atomic 0 false false false [(0, 5), (1, 7)]) atHome
    let s : State := { base with flight := [a] }
    (s.access? 9 == some a) = true ∧ (s.block? ⟨1, 0⟩).any (fun b => tableOk none b.draftCounts && tableOk 0 b.scratch) = true ∧
    Memory.wf s.mem = true ∧ tableOk 0 s.counts = true ∧ (0 : Nat) ≤ s.ticks ∧ (5 : Nat) < 2 ^ (8 * a.size) ∧ paRegion a.pa = 0 ∧
    tget 0 s.counts (a.pa / 64) = 0 ∧ s.poison = [] := by
  decide +kernel

theorem witness_MemorySystemEvents :
    let a := access .store (.waiting 99 { domain := 0, arrived := true, revokes := [(3, trip 0 1)], acks := [(4, trip 0 2)] } [{ domain := 5 }])
    let s : State := { base with flight := [a] }
    let w : Walk := { id := 7, req := ⟨0, 1, 0x1000⟩ }
    (s.access? 9 == some a) = true ∧ tableOk {} s.cores = true ∧ tableOk {} s.parts = true ∧
    (let t := State.reset.modPart 0 fun (p : Part) => { p with l2req := some true }
     (t.part (0 : Nat)).l2req = some true ∧ t.blocks = [] ∧ tableOk {} t.parts = true) ∧
    (({ base with recess := some 3 } : State).recess = some 3) ∧
    ((({ base with walks := [{ w with started := true }] } : State).walks.find? fun q => q.id = w.id).isSome) = true ∧
    base.fetchMisses = [] ∧
    -- the read of a table line at its bank
    (let f : Access := { access (.walk 7) .issued with pa := 0x8000, size := 8, trip := some (trip 0 1) }
     let s : State := { base with walks := [{ w with started := true }], flight := [f] }
     ((s.access? 9 == some f) && s.canServe f && !s.sends f && !s.moves f && !s.crowded f) = true) ∧
    (match base.walkFull {} 0 (32768 * w.req.va) with | .error _ => true | .ok _ => false) = true := by
  decide +kernel

theorem witness_FencesAndMemoryWaits :
    issuing base (.fence (opA 0 0 0 0 0)) (fun x _ => !x.g.ckpt) = true ∧
    issuing base (.fence (opA 0 0 0 0 2)) (fun x u => !x.g.ckpt && u.flight.isEmpty) = true ∧
    issuing (baseIn .supervisor) (.waitm (opM 15 8 2)) (fun x u =>
      x.sp.mode != .user && x.lanes.all fun l => mapped x u (x.at64 (opM 15 8 2) 4 l)) = true ∧
    -- the words, which are 0, differ from the registers, or do not
    ([0, 1, 2].all fun c => issuing base (.waitm ⟨hdr 15, 8, 2, 0, 0, c⟩) fun x u => x.sp.mode == .user && u.flight.isEmpty &&
      x.c.orders.isEmpty && x.lanes.all fun l => isOk (x.checkGlobal u .ld (x.at64 (opM 15 8 2) 4 l) 4)) = true := by
  decide +kernel

theorem witness_BarriersHoldUntilComplete :
    ([.bar (opA 15 0 0xF0 0 0x10), .ckpt (opA 15 0 0 0 0)] : List Instr).all (fun i => issuing base i fun x u =>
      x.sp.mode == .user && u.flight.isEmpty && x.b.barriers.isEmpty && population x.ex == x.g.ntid && x.b.st == .resident &&
        decide (u.blocks.map (·.ref)).Nodup) = true ∧
    issuing oneLane (.bar ⟨⟨1, 0, 15, 1⟩, 0, 0xF0, 0, 3⟩) (fun x _ => population x.ex == 1) = true ∧
    issuing (baseIn .supervisor) (.bar (opA 15 0 0xF0 0 0)) (fun x _ => x.sp.mode != .user) = true ∧
    issuing (base.modBlock ⟨1, 0⟩ fun b => { b with barriers := (List.range 32).map fun k => (k + 32, { arrived := 1 }) })
      (.bar (opA 15 0 0xF0 0 0)) (fun x u => x.sp.mode == .user && ((u.blocks.map fun b =>
        (b.barriers.filter fun p => p.2.arrived != 0).length).sum == 32)) = true := by
  decide +kernel

/-- Lane 0 alone initialises, or arrives at, the object at offset 0 with nothing due: it completes. -/
theorem witness_ByteCountBarriers :
    ([.barbInit ⟨⟨1, 0, 0, 1⟩, 0, 2, 4, 0⟩, .barbArrive ⟨⟨1, 0, 0, 1⟩, 0, 2, 4, 0⟩] : List Instr).all (fun i => issuing oneLane i fun x u =>
      x.ex == 1 && u.flight.isEmpty && x.c.orders.isEmpty && x.b.scratch.isEmpty && inScratch x.g 0 8 && x.rd 2 0 == 0 && x.rd 4 0 == 0 &&
        !u.wouldOverflow x.r.c.b ((List.range 8).map fun k => (k, 0)) && !x.g.ckpt) = true ∧
    Runs (BarbNext true) (fun _ => 0) [(0, 0)] (withNumber (fun _ => 0) 0 8 0x8000000000000000) ∧
    Runs (BarbNext false) (fun _ => 0) [(0, -0)] (withNumber (fun _ => 0) 0 8 0) ∧
    issuing base (.barbWait (opA 15 0 2 4 0)) (fun x u => x.sp.mode == .user && u.flight.isEmpty && inScratch x.g 0 8) = true ∧
    issuing base (.barbWait (opA 15 0 2 0xF2 0)) (fun x _ => x.rd 0xF2 0 == 1) = true ∧
    issuing (baseIn .supervisor) (.barbWait (opA 15 0 2 4 0)) (fun x _ => x.sp.mode != .user) = true := by
  refine ⟨by decide +kernel, ⟨_, ⟨0x8000000000000000#64, rfl, by decide, by decide, by decide⟩, rfl⟩,
    ⟨_, ⟨0#64, rfl, by decide, by decide, by decide⟩, rfl⟩, by decide +kernel, by decide +kernel, by decide +kernel⟩

theorem queueNext_exists (g : Grid) (push : Bool) (m : Nat → Byte) (q : Nat × Nat × DWord) : ∃ r m', QueueNext g push m (q, r) m' := by
  by_cases h1 : q.2.1 % 16 = 0
  swap
  · exact ⟨.faults 3, m, by simp [QueueNext, h1]⟩
  by_cases h2 : inScratch g q.2.1 16 = false
  · exact ⟨.faults 2, m, by simp [QueueNext, h1, h2]⟩
  by_cases h3 : numberAt m (q.2.1 + 8) 2 = 0 ∨ numberAt m (q.2.1 + 10) 2 = 0 ∨
      numberAt m (q.2.1 + 8) 2 < numberAt m (q.2.1 + 10) 2 ∨ numberAt m (q.2.1 + 12) 4 ≠ 0
  · exact ⟨.faults 5, m, by simp only [QueueNext, h1, h2, h3]; simp⟩
  by_cases h4 : inScratch g (q.2.1 + 16) (8 * numberAt m (q.2.1 + 8) 2) = false
  · exact ⟨.faults 2, m, by simp only [QueueNext, h1, h2, h3, h4]; simp⟩
  simp only [QueueNext, h1, h2, h3, h4]
  cases push
  · by_cases h5 : (numberAt m (q.2.1 + 4) 4 + 4294967296 - numberAt m q.2.1 4) % 4294967296 = 0
    · exact ⟨.waits, m, by simp [h5]⟩
    · exact ⟨.done _, _, by simp, by simp, fun _ _ => ⟨fun _ => ⟨rfl, rfl⟩, fun h => absurd h h5⟩⟩
  · by_cases h5 : (numberAt m (q.2.1 + 4) 4 + 4294967296 - numberAt m q.2.1 4) % 4294967296 < numberAt m (q.2.1 + 10) 2
    · exact ⟨.done 0, _, by simp, fun _ _ => ⟨fun _ => ⟨rfl, rfl⟩, fun h => absurd h5 (by simpa using h)⟩, by simp⟩
    · exact ⟨.waits, m, by simp, fun _ _ => ⟨fun h => absurd h h5, fun _ => ⟨rfl, rfl⟩⟩, by simp⟩

theorem queue_runs_exist (g : Grid) (push : Bool) (args : List (Nat × Nat × DWord)) :
    ∀ m, ∃ res m', res.length = args.length ∧ Runs (QueueNext g push) m (args.zip res) m' := by
  induction args with
  | nil => exact fun m => ⟨[], m, rfl, rfl⟩
  | cons q args ih =>
    intro m
    obtain ⟨r, n, hn⟩ := queueNext_exists g push m q
    obtain ⟨res, k, hl, hr⟩ := ih n
    exact ⟨r :: res, k, by simp [hl], n, hn, hr⟩

/-- The header of a queue of four slots with `n` entries, at offset 0. -/
def withQueue (n : Byte) : State :=
  oneLane.modBlock ⟨1, 0⟩ fun b => { b with scratch := tputs 0 [(4, n), (8, 4), (10, 4)] [] }

/-- With `queue_runs_exist`. -/
theorem witness_QueuesPushAndPop :
    let fits (n : Byte) (push : Bool) (i : Instr) (o : OpA) : Bool := issuing (withQueue n) i fun x u =>
      x.ex == 1 && x.sp.mode == .user && u.flight.isEmpty && x.c.orders.isEmpty && tableOk 0 x.b.scratch && !x.g.ckpt &&
        !u.wouldOverflow x.r.c.b ((queueTouched x u push o).map fun k => (k, 0))
    fits 0 true (.qpush ⟨⟨1, 0, 0, 1⟩, 0, 2, 4, 0⟩) ⟨⟨1, 0, 0, 1⟩, 0, 2, 4, 0⟩ = true ∧
    fits 1 false (.qpop ⟨⟨1, 0, 0, 1⟩, 8, 2, 0, 0⟩) ⟨⟨1, 0, 0, 1⟩, 8, 2, 0, 0⟩ = true ∧
    fits 0 false (.qtry ⟨⟨1, 0, 0, 1⟩, 8, 2, 0, 2⟩) ⟨⟨1, 0, 0, 1⟩, 8, 2, 0, 2⟩ = true ∧
    issuing (baseIn .supervisor) (.qpop (opA 0 8 2 0 0)) (fun x _ => x.sp.mode != .user) = true := by
  decide +kernel

/-! ### Witnesses: copies, the matrix arrays, subscriptions and launches -/

/-- A second page, at 2^27, of the weight store. -/
def both : State := base.modCore 0 fun c => { c with tlb := [placedTlb, { placedTlb with vbase := 2 ^ 27, pa := 2 ^ 44, ws := true }] }

/-- `both` with an address of the weight store in uniform registers 4 and 5, 2^40 in 6 and 7, and a chart of one rectangle. -/
def copier : State :=
  { both.modCohort baseSplit.c fun c => { c with sregs := [(4, 0x8000000#32), (7, 0x100#32), (8, 1#32)] } with chart := { rects := [⟨0, 0, 8, 8⟩] } }

/-- Is there nothing against a side of the copy at this address? -/
def sideOk (x : Ctx) (u : State) (glob sys fill isDst : Bool) (a : Nat) : Bool := (sideFault x u glob sys fill isDst a).isNone

/-- The words of a record of a tensor of 16 bytes in rows of 4 at 0x20000, and of one whose stride is misaligned. -/
def tensor (w2 : DWord) (o : OpA) : OpX4 := ⟨o, 0x20000, 0x0001000100010010, w2, 0x01010104⟩

theorem witness_CopiesIssue :
    -- sides whose pages are still to be walked
    ([.copy ⟨opA 15 0 2 0xC4 0, 0xF00000000010⟩, .fill ⟨opA 15 0 0xC4 0xC4 0, 0xF00000001000⟩] : List Instr).all (fun i =>
      issuing (copier.modCohort baseSplit.c fun c => { c with sregs := [(4, 0x40000000#32)] }) i fun x u => !mapped x u 0x40000000) = true ∧
    -- COPY of 16 bytes, of none, of 2^40; a side that fails
    issuing copier (.copy ⟨opA 15 0 2 4 0, 0xF00000000010⟩) (fun x u => u.flight.isEmpty && !x.g.ckpt &&
      sideOk x u true false false false 0 && sideOk x u true false false true 0) = true ∧
    issuing copier (.copy ⟨opA 15 0 2 4 3, 0xF00000000000⟩) (fun _ _ => true) = true ∧
    issuing copier (.copy ⟨opA 15 0 2 4 1, 0xC60000000000⟩) (fun x _ => 2 ^ 40 ≤ x.rdN 2 0xC6 0) = true ∧
    issuing copier (.copy ⟨opA 15 0 2 0xC6 0, 0xF00000000010⟩) (fun x u => !sideOk x u true false false false (x.rdN 2 0xC6 0)) = true ∧
    issuing copier (.copy ⟨opA 15 0 0xC4 4 0, 0xF00000000010⟩) (fun x u => !sideOk x u true false false true (x.rdN 2 0xC4 0)) = true ∧
    -- FILL of a page, of half a page, of misaligned addresses
    issuing copier (.fill ⟨opA 15 0 0xC4 4 0, 0xF00000001000⟩) (fun x u => sideOk x u true true true false 0 &&
      sideOk x u true true true true (x.rdN 2 0xC4 0) && x.rdN 2 0xC4 0 % 4096 == 0) = true ∧
    issuing copier (.fill ⟨opA 15 0 0xC4 4 0, 0xF00000000800⟩) (fun _ _ => true) = true ∧
    issuing copier (.fill ⟨opA 15 0 0xC4 0xF2 0, 0xF00000001000⟩) (fun x _ => x.rdN 2 0xF2 0 % 4096 != 0) = true ∧
    -- TCOPY, its peer form with a mask that names a core, QFENCE
    issuing copier (.tcopy (tensor 0x1000000010 (opA 15 0 2 4 0))) (fun x u =>
      (substituted x 0x20000 0x0001000100010010 0x1000000010 0x01010104).any (fun r => r.legal 0 && r.stride1 % 16 == 0) &&
        sideOk x u true false false false 0x20000 && sideOk x u false false false true 0) = true ∧
    issuing copier (.tcopy (tensor 0x1000000008 (opA 15 0 2 4 0))) (fun _ _ => true) = true ∧
    issuing copier (.tcopyPeer (tensor 0x1000000010 (opA 15 0 2 0xC8 0))) (fun x u => u.chart.rects[x.c.core / 65536]?.isSome &&
      x.rdN 2 0xC8 0 == 1 && sideOk x u true false false false 0x20000) = true ∧
    issuing copier (.qfence (opA 15 0x13 0 0 1)) (fun x _ => !x.sp.forced) = true := by
  decide +kernel

/-- An operation of queue 0 that moves `m`, pending in handle 3. -/
def copyOp (m : Moves) : CopyOp := { id := 7, b := ⟨1, 0⟩, c := 1, core := 0, queue := 0, scope := 0, route := 0, moves := m }

def copying (m : Moves) : State :=
  { both.modCohort baseSplit.c fun c => { c with handles := [(3, .pending 7)] } with copies := [copyOp m] }

/-- The premises on the operation, and those on a global source byte and a global destination byte; `given`: the home bank has given the copy
the destination's line. -/
def movable (s : State) (fill given : Bool) (src dst : Nat) : Bool :=
  match s.grid? 1, s.block? ⟨1, 0⟩, s.copies with
  | some g, some b, [op] =>
    let place (isDst : Bool) (a : Nat) (p : Phys → Bool) : Bool :=
      !s.copyMiss op g isDst a && match s.copyXlate 0 g .user false (fill && isDst) isDst a (op.page isDst) with
        | .ok q => decide (paRegion q.pa ≤ 1) && p q
        | .error _ => false
    Memory.wf s.mem && tableOk 0 b.scratch && tableOk 0 b.wptr && s.blocks.all (fun b => b.st == .resident && !b.captured) &&
      b.cohorts.all (fun c => tableOk .empty c.handles && c.splits.all fun p => p.hold.isNone) && op.olds.isEmpty && tableOk none op.ahead &&
      tableOk 0 op.bad && place false src (fun _ => true) && place true dst (fun q => s.claimed op.id q.pa == given) && inScratch g 0 8
  | _, _, _ => false

/-- A copy of eight bytes from 0x30000 to 0x40000, and a FILL of a line of the weight store. -/
def smallCopy : Moves := .runs true true false false [⟨0x40000, some 0x30000, 8⟩]

def lineFill : Moves := .runs true true true false [⟨0x8000000, some 0x30000, 128⟩]

/-- The operation of `copying` with something more. -/
def copyingWith (m : Moves) (f : CopyOp → CopyOp) : State := { copying m with copies := [f (copyOp m)] }

/-- The line at `pa` that the home bank has given the operation. -/
def given (pa : Nat) : Access := { access (.claim 7) (.fixed [] false) with pa := pa, size := 1 }

/-- A fetch of the source bytes of the operation, eight from 0x30000 on. -/
def fetching (stage : Stage) : Access := { access (.fetch 7) stage with pa := 0x30000, size := 8, trip := some (trip 0 1) }

/-- The pages of `lineFill` and of `smallCopy`. -/
def begunPages (o : CopyOp) : CopyOp :=
  { o with pages := (some placedTlb, some { placedTlb with vbase := 2 ^ 27, pa := 2 ^ 44, ws := true }) }

theorem witness_CopiesDeliverAndResolve :
    (movable (copying (.fence 1)) false false 0x30000 0x40000 &&
      -- a byte of the source that is to be fetched, that has come, that has failed; a line that is claimed, and one that is not
      movable (copying smallCopy) false false 0x30000 0x40000 &&
      (byteAt [⟨0x40000, some 0x30000, 8⟩] 0).isSome && runsTotal [⟨0x40000, some 0x30000, 8⟩] == 8 &&
      movable { copyingWith smallCopy (fun o => { o with ahead := [(0, some 1)] }) with flight := [given 0x40000] } false true 0x30000 0x40000 &&
      movable (copyingWith smallCopy fun o => { o with ahead := [(0, some 1)] }) false false 0x30000 0x40000 &&
      movable (copyingWith smallCopy fun o => { o with bad := [(0, 7)] }) false false 0x30000 0x40000 &&
      -- a byte whose page is begun, and one of the next line
      movable (copyingWith (.runs true true false false [⟨0x40000, some 0x30000, 256⟩]) begunPages) false false 0x30080 0x40080 &&
      -- a FILL of a line that is claimed, all of whose source bytes have come
      movable { copyingWith lineFill (fun o => { begunPages o with ahead := (List.range 128).map fun k => (k, some 0) }) with
        flight := [given (2 ^ 44)] } true true 0x30000 0x8000000 &&
      -- receivers of a peer copy, whose object counts down: without a packet, with one that stands there, and with one on its way
      [none, some (trip 0 1), some (trip 2 1)].all fun v =>
        movable (copyingWith (.peer true false [⟨0, some 0x30000, 8⟩] 64 [⟨0, 0, some ⟨1, 0⟩, 0, none, v⟩]) fun o =>
          { o with ahead := (List.range 8).map fun k => (k, some 1) }) false false 0x30000 0x40000) = true ∧
    -- a destination that does not translate for a write
    (match (copying smallCopy).grid? 1 with
      | some g => !(copying smallCopy).copyMiss (copyOp smallCopy) g true 0x8000000 &&
          !isOk ((copying smallCopy).copyXlate 0 g .user false false true 0x8000000 none)
      | none => false) = true ∧
    -- a fetch at its bank, one that a poisoned sector stops, and one whose bytes have come; a claim that is resolved
    (let s : State := { copying smallCopy with flight := [fetching .issued] }
     ([s, { s with poison := [0x30000 / 64] }].all fun s => s.flight.all fun a => (s.access? 9 == some a) && a.op == .fetch 7 && s.canServe a &&
       !s.sends a && !s.moves a && !s.crowded a) = true) ∧
    ({ copying smallCopy with flight := [fetching (.fixed [1, 2] true)] } : State).flight.all (fun a => a.isFixed) = true ∧
    ({ copying smallCopy with flight := [access (.claim 7) atHome] } : State).flight.all
      (fun a => !a.scratch && !a.draft && a.waits.all fun w => w.resolved 0) = true ∧
    (∃ f, Runs (fun m (q : Nat × Byte) m' => BarbNext false (withNumber m q.1 1 q.2.toNat) (64, -1) m') (fun _ => 0) [(0, 0)] f) ∧
    Begins (copying (.fence 1)) [] (copyOp (.fence 1)) := by
  refine ⟨by decide +kernel, by decide +kernel, by decide +kernel, by decide +kernel, by decide +kernel, ⟨_, _, ⟨0xFFFFFFFF#64, rfl, by decide, by decide, by decide⟩, rfl⟩, ⟨⟨[], rfl, by simp⟩, by simp⟩⟩

theorem witness_HandleInstructions :
    allIssue base [.htest (opA 0 1 3 0 0), .hcancel (opA 15 0 3 0 0), .hmovH (opA 15 5 3 0 0), .hmovS (opA 0 8 3 0 1),
      .hmovC (opA 0 8 3 0 2), .hmovA (opA 0 0xC4 3 0 3)] = true ∧
    issuing (copying smallCopy) (.hcancel (opA 15 0 3 0 0)) (fun x u =>
      tget .empty x.c.handles 3 == .pending 7 && u.copies.length == 1) = true ∧
    issuing (copying (.fence 1)) (.hmovS (opA 0 8 3 0 1)) (fun x _ => tget .empty x.c.handles 3 == .pending 7) = true ∧
    -- a split held at a handle that has resolved
    (base.modSplit baseSplit fun p => { p with hold := some ⟨.handle 3, 5, 0xFFFFFFFF, 0⟩ }).selected = [baseSplit] := by
  decide +kernel

/-- The cohort of `base` is bound to team 0. -/
def teamed : State :=
  (base.modCohort baseSplit.c fun c => { c with team := some 0 }).modBlock ⟨1, 0⟩ fun b => { b with teams := [(0, { members := [(0, 1)] })] }

def mmas (o : OpA) : List Instr :=
  [.mmaBf16 o, .mmaF16 o, .mmaE4m3 o, .mmaE5m2 o, .mmaE3m2 o, .mmaE2m3 o, .mmaE2m1 o, .mmaE4m3Qn4 o, .mmaE2m1Qn4 o]

def sparseMmas (o : OpA) : List Instr := [.mmasBf16 o, .mmasF16 o, .mmasE4m3 o, .mmasE5m2 o, .mmasE2m1 o]

/-- A latch entry of split `n`. -/
def latched (n : Nat) : Latch :=
  { op := 2, z := true, tile := 3, a := [], b := [], rows := [], exec := 0xFFFFFFFF, split := n, uid := n, n := 0 }

/-- Four cohorts on the quadrants of core 0, each latched or not, and their team. -/
def quadTeam (l : Option Nat) (at_ : Option Nat) : State := base.modBlock ⟨1, 0⟩ fun b => { b with
  teams := [(0, { members := [(0, 1), (1, 2), (2, 3), (3, 4)], assembled := at_ })]
  cohorts := [1, 2, 3, 4].map fun n => { id := n, quad := n - 1, team := some 0, latch := l.map fun _ => latched n } }

def members : List (Nat × Nat × Latch) := [(0, 1, latched 1), (1, 2, latched 2), (2, 3, latched 3), (3, 4, latched 4)]

theorem witness_MatrixInstructionsIssue :
    issuing base (.qbind (opA 15 0 0 0 0)) (fun x _ => x.sp.mode == .user && x.c.team.isNone && x.c.latch.isNone) = true ∧
    issuing (baseIn .supervisor) (.qbind (opA 15 0 0 0 0)) (fun x _ => x.sp.mode != .user) = true ∧
    issuing base (.qfree (opA 15 0 0 0 0)) (fun x _ => x.c.team.isNone && x.c.freeing.isNone) = true ∧
    issuing teamed (.qfree (opA 15 0 0 0 0)) (fun x u => x.c.team == some 0 && u.begun.isEmpty) = true ∧
    issuing { teamed with begun := [⟨0, ⟨1, 0⟩, 0, 99, [(0, 1, latched 1)]⟩] } (.qfree (opA 15 0 0 0 0)) (fun _ u => !u.begun.isEmpty) = true ∧
    (mmas (opA 15 3 8 0x10 0)).all (fun i => issuing teamed i fun x u => x.sp.mode == .user && x.c.latch.isNone && decide (3 < x.g.acc) &&
      x.c.freeing.isNone && u.flight.isEmpty && x.c.orders.isEmpty) = true ∧
    (sparseMmas (opA 15 3 8 0x10 0xC4)).all (fun i => issuing teamed i fun x _ => x.rdN 2 0xC4 0 == 0 && inScratch x.g 0 256) = true ∧
    issuing (teamed.modCohort baseSplit.c fun c => { c with latch := some (latched 1) }) (.mmaF16 (opA 15 3 8 0x10 0)) (fun x _ =>
      x.c.latch.isSome) = true := by
  decide +kernel

theorem witness_TeamInstructionsRun :
    (let s := quadTeam (some 0) (some 1)
     (s.block? ⟨1, 0⟩).any (fun b => b.st == .resident && tableOk {} b.teams && (tget {} b.teams 0).assembled == some 1 &&
        (tget {} b.teams 0).members == [0, 1, 2, 3].map (fun q => (q, (members.map (·.2.1)).getD q 0))) = true ∧
     (s.grid? 1).any (fun g => g.st == .running) = true ∧ (s.blocks.map (·.ref)).Nodup ∧ tableOk {} s.cores = true ∧
     (∀ m ∈ members, ((s.cohort? ⟨⟨1, 0⟩, m.2.1⟩).any fun c => c.latch == some m.2.2) = true) ∧ (∀ q, q < 4 → s.grade 0 q ≠ 255) ∧
     (s.core 0).arb = {} ∧ members.map (·.1) = [0, 1, 2, 3]) ∧
    (let s : State := { quadTeam none none with begun := [⟨0, ⟨1, 0⟩, 0, 2, members⟩] }
     2 ≤ s.cycle ∧ (members.map (·.2.1)).Nodup ∧ (∀ m ∈ members, m.2.2.op = 2) ∧
       (∀ m ∈ members, ((s.cohort? ⟨⟨1, 0⟩, m.2.1⟩).any fun c => tableOk 0 c.tiles) = true)) ∧
    (let s : State := (quadTeam (some 0) (some 1)).modCore 0 fun c => { c with arb := { c.arb with holder := some (⟨1, 0⟩, 5) } }
     (s.core 0).arb.holder = some (⟨1, 0⟩, 5) ∧ s.begun = [] ∧ (s.core 0).arb.lastRetire = 0 ∧ 256 ≤ ({ s with cycle := 300 } : State).cycle) := by
  decide +kernel

theorem witness_AccumulatorTiles :
    ([.accz (opA 15 3 0 0 0), .accld (opA 15 3 8 0 1), .accst (opA 0 8 3 0 1), .scacc (opA 15 3 8 0x10 4), .scacc (opA 15 0x83 0xF0 0xC4 0x64)]
      : List Instr).all (fun i => issuing base i fun x u => x.sp.mode == .user && x.c.latch.isNone && decide (4 < x.g.acc) && u.begun.isEmpty &&
        tableOk 0 x.c.tiles) = true := by
  decide +kernel

def packet : Packet := { id := 9, core := 0, entry := 8, sub := ⟨1, 0⟩, n := 2, seq := 0, chunk := 0, bytes := [(0, 1), (5, 2)] }

theorem witness_SubscriptionInstructions :
    issuing base (.subscribe ⟨opA 15 2 4 0 0, 0, 64⟩) (fun x _ => x.sp.mode == .user && (tget {} x.b.recs 0).state == 0 && inScratch x.g 0 64) = true ∧
    -- a bad length, misaligned offsets, an offset beyond the scratchpad
    allIssue base [.subscribe ⟨opA 15 2 4 0 0, 0, 63⟩, .subscribe ⟨opA 15 2 4 0 0, 0x0000000400000000, 64⟩, .subscribe ⟨opA 15 2 4 0 0, 4, 64⟩,
      .subscribe ⟨opA 15 2 4 0 0, 0x0008000000000000, 64⟩] = true ∧
    issuing base (.unsub (opA 15 0 0 0 2)) (fun x _ => (tget {} x.b.recs 2).state == 0) = true ∧
    ([1, 2].all fun k => issuing (base.modBlock ⟨1, 0⟩ fun b => { b with recs := [(2, { state := k })] }) (.unsub (opA 15 0 0 0 2)) fun x _ =>
      (tget {} x.b.recs 2).state == k) = true ∧
    issuing base (.subsync (opA 15 0 0 0 0)) (fun x u => u.flight.isEmpty && (u.core x.c.core).subs.isEmpty && u.packets.isEmpty) = true ∧
    issuing { base with packets := [{ packet with entry := 1 }] } (.subsync (opA 15 0 0 0 0)) (fun x u =>
      u.packets.any fun p => p.core == x.c.core) = true ∧
    issuing (baseIn .supervisor) (.subsync (opA 15 0 0 0 0)) (fun x _ => x.sp.mode != .user) = true := by
  decide +kernel

/-- A request of the block to itself, by a core of the chart; and an entry that it makes. -/
def subReq : SubReq := { id := 7, sub := ⟨1, 0⟩, c := 1, uid := 5, name := 0, puboff := 64, localoff := 128, length := 64, n := 2 }

def subEntry : SubEntry := { id := 8, pub := ⟨1, 0⟩, puboff := 64, length := 64, sub := ⟨1, 0⟩, localoff := 128, n := 2 }

/-- The entry stands at core 0, with something more. -/
def published (e : SubEntry) : State :=
  { (copier.modCore 0 fun c => { c with subs := [e] }).modBlock ⟨1, 0⟩ fun b => { b with recs := [(2, { state := 2, localoff := 128, length := 64 })] }
    with cycle := 100 }

def notice (k : NoticeKind) : Notice := { id := 9, kind := k, sub := ⟨1, 0⟩, pub := ⟨1, 0⟩, n := 2 }

theorem witness_SubscriptionEvents :
    -- a request to a core with a block, to one without, beyond the publisher's scratchpad
    (let s : State := { copier with requests := [subReq] }
     (s.requests.find? fun r => r.id = 7) = some subReq ∧ (s.grid? 1).isSome = true ∧ (s.chart.site? 0).isSome = true ∧
       s.chart.site? 0xFFFF = none ∧ (s.block? ⟨1, 0⟩).any (fun b => b.core == 0 && b.st == .resident) = true ∧ (s.core 0).subs = []) ∧
    -- a snapshot
    (let s : State := { published subEntry with requests := [{ subReq with entry := some (0, 8) }] }
     s.allEntries.filter (fun p => p.2.id == 8) = [(0, subEntry)] ∧
       s.allEntries.filter (fun p => p.2.serves ⟨1, 0⟩ ⟨1, 0⟩ 2) = [(0, subEntry)] ∧
       (s.block? ⟨1, 0⟩).any (fun b => tableOk 0 b.scratch && tableOk {} b.recs) = true ∧ tableOk {} s.cores = true) ∧
    -- a chunk that closes, a packet that is applied, one that is acknowledged
    (let e : SubEntry := { subEntry with chunk := some (0, [(0, 1)], 8) }
     ((published e).core 0).subs = [e] ∧ 8 + 64 ≤ (published e).cycle ∧ ((published e).allEntries.map fun p => p.2.id).Nodup) ∧
    (let s : State := { published { subEntry with state := 2 } with packets := [packet] }
     (s.packets.find? fun r => r.id = 9) = some packet ∧ (packet.bytes.map (·.1)).Nodup ∧
       (s.allEntries.find? fun r => r.2.id = packet.entry).isSome = true ∧
       s.allSplits.Nodup ∧ (s.blocks.map (·.ref)).Nodup ∧ s.blocks.all (fun b => b.st == .resident && !b.captured) = true ∧
       (s.block? ⟨1, 0⟩).any (fun b => (tget {} b.recs 2).state == 2 && (tget {} b.recs 2).expect == packet.seq) = true) ∧
    -- an UNSUB that finds no entry
    (let m : Notice := { notice (.unsub 6) with rid := 4 }
     let s : State := { copier with notices := [m] }
     (s.notices.find? fun r => r.id = 9) = some m ∧ s.entry? ⟨1, 0⟩ ⟨1, 0⟩ 2 = none ∧
       (s.block? ⟨1, 0⟩).any (fun b => tableOk {} b.recs) = true) ∧
    -- notices
    (let s : State := { published subEntry with notices := [notice .absent] }
     (s.notices.find? fun r => r.id = 9) = some (notice .absent) ∧ (s.block? ⟨1, 0⟩).any (fun b => b.entries.isEmpty) = true ∧
       s.allEntries.filter (fun p => p.2.serves ⟨1, 0⟩ ⟨1, 0⟩ 2) = [(0, subEntry)] ∧ subEntry.outstanding = 0 ∧ subEntry.chunk = none) := by
  decide +kernel

theorem witness_LaunchAndTreadyIssue :
    -- pages that are still to be walked
    (let s : State := base.modCohort baseSplit.c fun c => { c with vregs := [(128, 0x40000000)] }
     issuing s (.launch (opA 0 8 2 0xF0 0x13)) (fun x u => x.sp.mode == .user && !mapped x u 0x40000000) &&
       issuing s (.tready (opA 15 2 2 6 8)) fun x u => x.sp.mode == .user && !mapped x u (0x40000000)) = true ∧
    issuing base (.launch (opA 0 8 2 0xF0 0x13)) (fun x u => x.sp.mode == .user && u.flight.isEmpty && !x.g.ckpt && x.g.depth == 1 &&
      x.lanes.all fun l => mapped x u (BitVec.ofNat 64 (x.rdN 2 2 l)) && isOk (x.checkGlobal u .ld (BitVec.ofNat 64 (x.rdN 2 2 l)) 64) &&
        !(u.seen x.b 0 64).2) = true ∧
    issuing (base.modGrid 1 fun g => { g with depth := 10 }) (.launch (opA 0 8 2 0xF0 0x13)) (fun x _ => x.g.depth == 10) = true ∧
    issuing base (.tready (opA 15 2 4 6 8)) (fun x u => tableOk {} u.cores &&
      x.lanes.all fun l => isOk (x.checkGlobal u .st (BitVec.ofNat 64 (x.rdN 2 4 l) + 16) 4)) = true ∧
    (allIssue (baseIn .hypervisor) [.launch (opA 0 8 2 0xF0 0), .tready (opA 15 2 4 6 8)] &&
      issuing (baseIn .hypervisor) (.tready (opA 15 2 4 6 8)) fun x _ => x.sp.mode != .user) = true := by
  decide +kernel

/-- `base` with page tables for the low 2^27 bytes, an entry header at 0x20000 and a descriptor after it. -/
def tabled : State :=
  (((base.writeRun 0 (leBytes 8 0x8001)).writeRun 0x8000 (leBytes 8 0xFB)).writeRun 0x20000 (leBytes 8 0xFF80800000040000)).writeRun 0x20008
    (leBytes 8 placedDesc.toNat)

/-- A launch of one block of 32 threads at 0x20000. -/
def launched (st : GridState) : Grid :=
  { id := 2, record := [0x20000, 0x0001000100000001, 0x0000000100010020, 0, 0, 0, 0, 0], st := st, desc := placedDesc }

theorem witness_LaunchesEnterDispatch :
    (let r : List DWord := (launched .queued).record
     (base.portRegs .a).linkUp = true ∧ r.length = 8 ∧ base.bstate = 0x0F ∧ 0x0F ≤ ({ base with bstate := 0xF1 } : State).bstate) ∧
    (let s : State := { tabled with grids := [launched .queued] }
     (s.grid? 2).any (fun g => g.st == .queued) = true ∧ Memory.wf s.mem = true ∧
       (match s.entryWord (launched .queued) 0x20000 with | .ok w => w == 0xFF80800000040000#64 | .error _ => false) = true ∧
       (match s.manifest (launched .queued) with | .ok m => m == some [] | .error _ => false) = true ∧
       (match s.entryWord (launched .queued) 0x20008 with | .ok d => d == placedDesc | .error _ => false) = true ∧
       s.regReady (s.launchReads (launched .queued)) = true ∧ s.regReady (s.rangeReads (launched .queued)) = true ∧ s.blocks.all
         (fun b => b.st == .resident && !b.captured) = true ∧ recordOk (launched .queued) = true ∧ descriptorOk placedDesc = true ∧ fitsEmpty (launched .queued) = true) ∧
    -- an entry that does not translate; an earlier launch of the stream
    (match base.entryWord (launched .queued) 0x20000 with | .error _ => true | .ok _ => false) = true ∧
    (({ tabled with grids := [placedGrid, launched .queued] } : State).grids.any fun h => h.id < 2 && h.st != .retired) = true := by
  decide +kernel

/-! ### Witnesses: traps, privileged instructions, issue, power and ports -/

/-- A vector slot for cause 2 at 0x20020, delegated to the supervisor. -/
def vectored : State :=
  (base.writeRun 0x20020 (leBytes 8 headerWord)).modGrid 1 fun g => { g with regs := { g.regs with xvec := 0x20001, xdeleg := 4 } }

/-- Eight splits of two lanes each. -/
def eight : State := vectored.modCohort baseSplit.c fun c => { c with splits := (List.range 8).map fun k =>
  { id := k + 1, lanes := 3#64 <<< (2 * k), pc := 0x10000 } }

theorem witness_TrapsAreEnteredOrEndTheGrid :
    (match vectored.block? ⟨1, 0⟩, vectored.cohort? baseSplit.c, vectored.split? baseSplit, vectored.grid? 1 with
      | some b, some c, some sp, some g => c.pend.isEmpty && decide (c.splits.map (·.id)).Nodup && decide (b.cohorts.map (·.id)).Nodup &&
          sp.frames.isEmpty && g.regs.xdeleg.getLsbD 2 && !g.regs.xdeleg.getLsbD 3 &&
          vectored.codeWord c.core g .supervisor 0x20020 == .ok (BitVec.ofNat 64 headerWord)
      | _, _, _, _ => false) = true ∧ (vectored.blocks.map (·.ref)).Nodup ∧
    -- a ninth split, with user splits to choose from
    (eight.cohort? baseSplit.c).any (fun c => decide ((eight.part 0).scap < (c.splits.filter fun q => q.spawn.isNone).length + 1) &&
      c.splits.all (fun q => q.mode == .user && q.hold.isNone)) = true ∧
    -- an entry of the cohort in this cycle that ended the grid
    ((vectored.modGrid 1 fun g => { g with endings := [⟨(0, 0, 0, 0), 3, none⟩] }).grid? 1).any (fun g =>
      g.endings.any fun e => e.key.2.1 == 0 && e.key.2.2.1 == 0) = true ∧
    -- grids that end, have ended later, or have retired
    (base.grid? 1).any (fun g => g.st != .retired && g.endedBy.isNone) = true ∧ base.frozen = false := by
  decide +kernel

theorem witness_CallsAndWordsThatTrap :
    allIssue (baseIn .hypervisor) [.sysc ⟨hdr 15, 0, 3⟩, .hcall ⟨hdr 15, 0, 3⟩, .ebreak (opA 15 0 0 0 0)] = true ∧
    allIssue base [.ebreak (opA 15 0 0 0 0), .illegal (opA 15 0 0 0 0)] = true ∧
    issuing base (.sysc ⟨hdr 15, 0, 3⟩) (fun x _ => x.sp.mode != .hypervisor && !x.g.ckpt) = true ∧
    issuing (withDesc base 31) (.hcall ⟨hdr 15, 0, 3⟩) (fun x _ => x.sp.mode != .hypervisor && x.g.ckpt && !x.sp.forced) = true ∧
    (match base.beginIssue (.unimplementedOpcode ⟨hdr 15, 0x1FE, 9⟩) with | .go x _ => x.ex != 0#64 | .stop _ => false) = true ∧
    (match base.beginIssue (.unimplementedOpcode ⟨⟨1, 0, 15, 15⟩, 0x1FE, 9⟩) with | .go x _ => x.ex == 0#64 | .stop _ => false) = true ∧
    (base.split? baseSplit).any (fun p => p.hold.isNone && p.parked.isNone) = true ∧ (base.grid? 1).any (fun g => g.st == .running) = true := by
  decide +kernel

/-- A frame that returns to user mode at 0x20000. -/
def frame (m : Mode) : Frame := { pc := 0x20000, lanes := 0xFFFFFFFF, entered := m }

/-- A handler split in mode `m` with that frame. -/
def handler (m : Mode) (f : Frame) : State := coded.modSplit baseSplit fun p => { p with mode := m, frames := [f] }

/-- The numbers of the privileged registers and whether they have 64 bits. -/
def registerImms (ns : List Nat) : List (BitVec 16) :=
  ns.map fun n => BitVec.ofNat 16 (n + if privWidth n == some 64 then 0x1000 else 0)

theorem witness_PrivilegedRegistersReadAndWrite :
    (registerImms [0, 1, 2, 3, 4, 5, 6, 7, 8, 9, 0x0A, 0x0B, 0x0C, 0x10, 0x11, 0x12, 0x20, 0x27, 0x28, 0x2B, 0x40, 0x41, 0x42, 0x43, 0x44,
      0x80, 0x81, 0x82, 0x90, 0x9D, 0xC1, 0xCF]).all (fun m => issuing (handler .hypervisor (frame .hypervisor)) (.pread (opB 0 8 0 m))
        fun x _ => x.sp.mode == .hypervisor) = true ∧
    issuing base (.pread (opB 0 8 0 0x1000)) (fun x _ => x.sp.mode == .user) = true ∧
    issuing (baseIn .supervisor) (.pread (opB 0 8 0 0x100A)) (fun x _ => x.sp.mode == .supervisor) = true ∧
    (registerImms [0, 7, 0x0C, 0x10, 0x11, 0x12, 0x20, 0x27, 0x28, 0x2B, 0x40, 0x41, 0x42, 0x43, 0x80, 0x81, 0x82, 0x90, 0x9D, 0xC1,
      0xCF]).all (fun m => issuing (handler .hypervisor (frame .hypervisor)) (.pwrite (opB 0 0 8 m)) fun x _ =>
        x.sp.mode == .hypervisor && x.rd 8 0 == 0 && tableOk 0 x.c.xregs) = true ∧
    -- a read-only register; a previous mode above the own one
    issuing (baseIn .hypervisor) (.pwrite (opB 0 0 8 0x0001)) (fun _ _ => true) = true ∧
    issuing (handler .supervisor (frame .supervisor)) (.pwrite (opB 0 0 0xFC 0x0007)) (fun x _ => x.sp.mode == .supervisor &&
      !x.sp.frames.isEmpty) = true ∧
    issuing base (.pwrite (opB 0 0 8 0x1000)) (fun x _ => x.sp.mode == .user) = true ∧
    (base.grid? 1).any (fun g => g.vecWas == none) = true ∧ (base.cohort? baseSplit.c).any (fun c => c.core == 0) = true := by
  decide +kernel

theorem witness_ReturnsRestoreTheSplit :
    issuing (handler .supervisor (frame .supervisor)) (.sret (opA 15 0 0 0 0)) (fun x u => x.sp.mode == .supervisor &&
      x.sp.frames == [frame .supervisor] && x.ex == x.sp.lanes && x.c.pend.isEmpty &&
        u.codeWord x.c.core x.g .user 0x20000 == .ok (BitVec.ofNat 64 headerWord) && fetched x u [0x20000]) = true ∧
    -- a word at XPC that is not at hand
    issuing (handler .supervisor { frame .supervisor with pc := 0x18000 }) (.sret (opA 15 0 0 0 0)) (fun x u => !fetched x u [0x18000]) = true ∧
    issuing (handler .hypervisor (frame .hypervisor)) (.hret (opA 15 0 0 0 0)) (fun x _ => x.sp.frames == [frame .hypervisor]) = true ∧
    issuing ((handler .supervisor (frame .supervisor)).modCohort baseSplit.c fun c => { c with preds := [(1, 3#64)] }) (.sret ⟨⟨1, 0, 15, 1⟩, 0, 0, 0, 0⟩)
      (fun x _ => x.ex == 3 && x.ex != x.sp.lanes) = true ∧
    -- XPC that is misaligned, or does not translate; another mode
    issuing (handler .supervisor { frame .supervisor with pc := 0x20004 }) (.sret (opA 15 0 0 0 0)) (fun _ _ => true) = true ∧
    issuing (handler .supervisor { frame .supervisor with pc := 0x40000000 }) (.sret (opA 15 0 0 0 0)) (fun x u =>
      !isOk (u.codeWord x.c.core x.g .user 0x40000000)) = true ∧
    issuing base (.sret (opA 15 0 0 0 0)) (fun x _ => x.sp.mode != .supervisor) = true := by
  decide +kernel

theorem witness_TlbiAndGridend :
    (([.tlbi (opA 15 0 2 0xF0 0), .tlbi (opA 15 0 0xF0 0xF0 1), .tlbi (opA 15 0 0xF0 4 2), .tlbi (opA 15 0 0xF0 0xF0 3)] : List Instr).all fun i =>
      issuing (baseIn .hypervisor) i fun x u => x.sp.mode == .hypervisor && u.blocks.all (fun b => b.drafts.isEmpty) && u.flight.isEmpty && tableOk {} u.cores && tableOk [] u.tlb2) = true ∧
    issuing (baseIn .supervisor) (.tlbi (opA 15 0 0xF0 0xF0 3)) (fun x _ => x.sp.mode == .supervisor) = true ∧
    issuing base (.tlbi (opA 15 0 0xF0 0xF0 1)) (fun x _ => x.sp.mode == .user) = true ∧
    issuing (baseIn .supervisor) (.gridend (opA 15 0 0xF2 0 0)) (fun x _ => x.rd 0xF2 0 == 1) = true ∧
    issuing base (.gridend (opA 15 0 0xF2 0 0)) (fun x _ => x.sp.mode == .user) = true := by
  decide +kernel

theorem witness_IssueStageChoosesAndEnds :
    (base.blocks.map (·.ref)).Nodup ∧ (∀ b ∈ base.blocks, (b.cohorts.map (·.id)).Nodup) ∧
    (∀ b ∈ base.blocks, ∀ c ∈ b.cohorts, (c.splits.map (·.id)).Nodup) ∧
    -- a quadrant that is free, with a ready cohort
    (let s : State := { atWord 0x201000F70301020C with selected := [] }
     s.splitReady baseSplit = true ∧ (match s.fetched baseSplit with | .instr _ _ => true | _ => false) = true ∧
       tget 0 (s.core 0).busy 0 ≤ s.cycle ∧ tget 0 (s.core 0).chose 0 ≤ s.cycle ∧ (s.core 0).power = .on ∧
       (s.blocks.all fun b => b.st == .resident) = true) ∧
    -- instructions under way
    (let s : State := { base with issued := [⟨5, baseSplit.c, 1, 1, some 3, .narrow 2 7⟩, ⟨6, baseSplit.c, 1, 1, some 3, .complete⟩,
       ⟨7, baseSplit.c, 1, 1, none, .fence []⟩] }
     (s.issued.map (·.uid)).Nodup ∧ (s.cohort? baseSplit.c).any (fun c => tableOk 0 c.flags) = true ∧
       ((s.issued.find? fun j => j.uid = 6).map (·.fin)) = some .complete ∧ ((s.issued.find? fun j => j.uid = 7).map (·.fin)) = some (.fence [])) ∧
    (let s : State := { base.modSplit baseSplit fun p => { p with hold := some ⟨.tlbi, 7, 1, 0⟩ } with
       issued := [⟨7, baseSplit.c, 1, 1, none, .fence []⟩] }
     s.allSplits = [baseSplit] ∧ (s.split? baseSplit).any (fun p => p.hold == some ⟨.tlbi, 7, 1, 0⟩) = true) ∧
    (let s : State := { base.modSplit baseSplit fun p => { p with hold := some ⟨.pwrite, 8, 1, 0⟩ } with
       issued := [⟨8, baseSplit.c, 1, 1, none, .priv 0x010 0x8401 false⟩] }
     s.allSplits = [baseSplit] ∧ (s.split? baseSplit).any (fun p => p.hold == some ⟨.pwrite, 8, 1, 0⟩) = true ∧
       ((s.issued.find? fun j => j.uid = 8).map (·.fin)) = some (.priv 0x010 0x8401 false)) := by
  decide +kernel

/-- Thirty-two records of one key. -/
def records : List SpawnRec := (List.range 32).map fun l => { tid := l, target := 0x20000, midBlock := none, preds := [], regs := [], arrival := 0 }

theorem witness_SplitsSpawnAndReform :
    (let s := base.modSplit baseSplit fun p => { p with spawn := some true }
     s.regReady (s.spawnReads baseSplit) = true ∧
     (s.split? baseSplit).any (fun p => p.spawn == some true && p.hold.isNone) = true ∧ (s.cohort? baseSplit.c).any (fun c => c.pend.isEmpty) = true) ∧
    (let s := base.modBlock ⟨1, 0⟩ fun b => { b with former := records }
     (s.block? ⟨1, 0⟩).any (fun b => match s.formTarget b with
       | some (r, rs, _, _, res) => r.target == 0x20000#64 && rs.length == 32 && !res
       | none => false) = true) ∧
    (base.block? ⟨1, 0⟩).any (fun b => (base.formTarget b).isNone) = true := by
  decide +kernel

/-- A module of one core that nothing uses, long after boot. -/
def idle : State := { State.reset with bstate := 0x0F, cycle := 300000, chart := { rects := [⟨0, 0, 1, 1⟩] } }

theorem witness_UnitsGateAndWake :
    (idle.pgidle ≠ 0 ∧ (idle.core 0).power = .on ∧ (idle.chart.site? 0).isSome = true ∧
      (idle.core 0).idleSince.getD idle.bootTick + idle.pgidle ≤ idle.ticks) ∧
    (let s := idle.modCore 0 fun c => { c with power := .gated }
     let d := s.coreDomain 0
     (s.dom d).banks = .on ∧ s.banksWanted d = false ∧ (s.coreNames.all fun k => (s.core k).power == .gated) = true ∧ d < 84) ∧
    (let s := base.modCore 0 fun c => { c with power := .gated }
     s.powerOf (.core 0) = .gated ∧ s.wanted (.core 0) = true ∧ PowerUnit.core 0 ∉ (s.dom (s.coreDomain 0)).wakes) ∧
    ((base.modCore 0 fun c => { c with power := .gating 5 }).powerOf (.core 0) = .gating 5 ∧
      (idle.modCore 0 fun c => { c with power := .gating 5 }).wanted (.core 0) = false) ∧
    (let s := (idle.modCore 0 fun c => { c with power := .waking }).modDom (idle.coreDomain 0) fun x => { x with tokens := [(5, .core 0)] }
     tableOk {} s.cores = true ∧ tableOk {} s.domains = true ∧ s.unitDomain (.core 0) = idle.coreDomain 0 ∧ 5 ≤ s.ticks) := by
  decide +kernel

theorem witness_PortsReadAndWrite :
    (base.portRegs .a).linkUp = true ∧ 0x0F ≤ base.bstate ∧ base.bstate ≠ 0x80 ∧ State.reset.bstate < 0x0F ∧
    base.admits 0x40 8 = true ∧ base.bankReads 0x40 = true ∧ base.lineFree 0x40 = true ∧ Memory.wf base.mem = true ∧
    base.admits (2 ^ 44 - 8) 8 = false ∧ base.msem = 0 ∧ ({ base with msem := 1 } : State).msem = 1 ∧
    (2 : Nat) ∉ base.cxlDown ∧ (2 : Nat) ∉ base.linksDown ∧ base.frozen = false ∧ base.mailbox.nonce.length = 0 ∧
    ({ base with mailbox := { base.mailbox with nonce := List.replicate 64 0 } } : State).mailbox.nonce.length = 64 ∧
    -- port B's writes of this tick to what the semaphore guards, and none
    (let m : Managed := { tick := base.ticks, msem := 0, pgidle := 0, ewin := [], ein := [], notowner := (false, false), writes := [(.b, 0, 2)] }
     base.managed = none ∧ base.portA.linkUp = true ∧ base.portB.linkUp = true ∧
       ({ base with managed := some m } : State).managed.any (fun m => m.tick == base.ticks && m.writes.any fun w => w.1 == .b) = true) ∧
    -- a host write in flight, and none
    base.hostWrites .a = [] ∧ (withAccess (.host .a) .issued).hostWrites .a ≠ [] ∧
    (withAccess (.host .a) .issued).fenceHolds 0x10040 8 = true ∧ base.fenceHolds 0x10040 8 = false ∧
    -- a window of a link that grants reads and writes of the first 2^24 bytes, and one that grants nothing
    (let w : DWord := tget 0 ({ base with ein := [(3, 0xC000000100000000)] } : State).ein 3
     w.getLsbD 63 = true ∧ w.getLsbD 62 = true ∧ fld w 23 0 = 0 ∧ fld w 55 32 = 1) ∧ tget 0 base.ein 2 = 0#64 := by
  decide +kernel

theorem witness_BootMailboxAndFatalEvents :
    State.reset.nv.slots.any id = true ∧ (State.reset.nv.maps.find? (·.1)) = some (true, {}) ∧ State.reset.nv.supplyLost = false ∧
    Memory.wf State.reset.mem = true ∧ ({ State.reset.nv with slots := [false, false] } : NonVolatile).slots.any id = false ∧
    ({ State.reset.nv with maps := [] } : NonVolatile).maps.any (·.1) = false ∧
    -- reset, whose next step is one of the boot; the states of its steps, with maps that stand, that are rejected, and that are not there
    State.reset.agenda = [] ∧ State.reset.selected = [] ∧ State.reset.flight = [] ∧ State.reset.mailbox.status ≠ 1 ∧
    State.reset.stopped = false ∧ State.reset.bstate < 0x0F ∧ State.reset.frozen = false ∧
    ([0x01, 0x02, 0x03, 0x04].all fun k => ({ State.reset with bstate := k } : State).bstate == k &&
      (State.reset.nv.maps.take 2).any (·.1)) = true ∧
    ({ State.reset.nv with maps := [(false, {}), (true, {})] } : NonVolatile).maps.take 2 = [(false, {}), (true, {})] ∧
    base.mailbox.status ≠ 1 ∧ base.mailbox.taken = none ∧
    ({ base with mailbox := { base.mailbox with cmd := 2, status := 1, taken := some (.b, 0) } } : State).mailbox.status = 1 ∧ 0 < base.ticks ∧ base.frozen = false ∧ ({ base with msem := 1 } : State).msem = 1 ∧
    base.admits base.mailbox.buffer 8 = true ∧ (base.dom 3).ring.length ≤ 4096 ∧ (base.dom 3).events < 2 ^ 64 := by
  decide +kernel

/-! ### Witnesses: placement, pre-emption, saves and checkpoints -/

/-- A chart of `n` cores in a row, and grids and blocks over it, long after boot. -/
def placing (n : Nat) (gs : List Grid) (bs : List Block) : State :=
  { tabled with chart := { rects := [⟨0, 0, 1, n⟩] }, grids := gs, blocks := bs, selected := [], cycle := 300000 }

/-- A running grid at 0x20000 with one block to place; of priority 1; of pair blocks. -/
def waiting : Grid := { launched .running with waitFrom := some 0 }

def urgent : Grid := { waiting with record := [0x0008000000020000, 0x0001000100000001, 0x0000000100010020, 0, 0, 0, 0, 0] }

def paired : Grid := { waiting with desc := placedDesc ||| 0x40000000 }

/-- The block of the placed grid in some state. -/
def blockIn (st : BlockState) : Block := { placedBlock 0 with st := st }

theorem witness_BlocksArePlaced :
    (placing 2 [] []).pairOf 0 = some 1 ∧
    ((placing 2 [] []).fitPending [] ⟨waiting, none⟩ 0).isSome = true ∧ ((placing 2 [] []).fitPending [] ⟨paired, none⟩ 0).isSome = true ∧
    ((placing 1 [] []).fitPending [] ⟨paired, none⟩ 0).isNone = true ∧
    (let s := placing 2 [waiting] []
     s.incompatible = none ∧ (s.choosePlacement.map fun q => (q.1.grid.id, q.1.saved.isSome, q.2.1)) = some (2, false, 0) ∧
       (match s.entryWord waiting waiting.entry with | .ok _ => true | .error _ => false) = true ∧ (s.grids.map (·.id)).Nodup ∧
       tableOk {} s.cores = true ∧ tableOk {} s.domains = true ∧
       -- and it has waited long enough for a mark
       0 + 10000 ≤ s.ticks ∧ ((s.pendingOf waiting).map fun q => (q.grid.id, q.saved.isSome)) = [(2, false)]) ∧
    -- a saved block that no core can take, one that can go on, and one that finds no room
    (let b : Block := { blockIn .saved with ref := ⟨2, 0⟩ }
     (placing 1 [{ paired with next := 1 }] [b]).incompatible = some b ∧
       ((placing 1 [{ waiting with next := 1 }] [b]).choosePlacement.map fun q => q.1.saved) = some (some b)) ∧
    (placing 1 [placedGrid, waiting] [blockIn .resident]).choosePlacement.isNone = true := by
  decide +kernel

theorem witness_BlocksArePreemptedAndRescued :
    ((placing 1 [placedGrid, urgent] [blockIn .resident]).preempts.map fun q => q.2.2.saves) = some [⟨1, 0⟩] ∧
    (placing 1 [placedGrid, waiting] [blockIn .resident]).preempts.isNone = true ∧
    -- a block that waits at a barrier while a block of its grid is undispatched
    (let g : Grid := { placedGrid with next := 0, stuckSince := some 0 }
     let s := (placing 1 [g] [blockIn .resident]).modSplit baseSplit fun p => { p with hold := some ⟨.bar 0 0, 5, 1, 0⟩ }
     (s.block? ⟨1, 0⟩).any s.waiting = true ∧ s.stuck g = true ∧ 0 + 100000 ≤ s.ticks) := by
  decide +kernel

theorem witness_BlocksAndGridsRetire :
    (let b : Block := { blockIn .resident with exited := 32 }
     let s := placing 1 [placedGrid] [b]
     s.block? ⟨1, 0⟩ = some b ∧ placedGrid.ntid = 32 ∧ s.flight = [] ∧ s.issued = [] ∧ s.begun = [] ∧ s.requests = [] ∧ s.allEntries = []) ∧
    (let s := placing 1 [{ placedGrid with st := .ended }] [blockIn .resident]
     (s.grid? 1).any (fun g => g.st == .ended) = true ∧ s.flight = [] ∧ s.issued = []) ∧
    (let s := placing 1 [placedGrid] []
     s.regReady (s.statusReads placedGrid) = true ∧ s.blocks = [] ∧
     (s.grid? 1).any (fun g => decide (g.blockCount ≤ g.next) && g.st == .running) = true ∧ Memory.wf s.mem = true) ∧
    (let g : Grid := { launched .awaiting with record := [0x0200000000020000, 0x0001000100000001, 0x0000000100010020, 0, 0, 0, 1, 0] }
     g.depkind = 2 ∧ (g.word 6).toNat = 1 ∧ (placing 1 [placedGrid, g] []).weightsReady g = true) := by
  decide +kernel

theorem witness_BlocksAreSavedAndRestored :
    (let s := placing 1 [placedGrid] [blockIn .saving]
     (s.block? ⟨1, 0⟩).any (fun b => b.st == .saving && !b.saveBegun && !b.rollback) = true ∧ placedGrid.ckpt = false ∧
       s.settled ⟨1, 0⟩ = true ∧ s.settledAll ⟨1, 0⟩ = true ∧ s.flight = [] ∧ s.begun = [] ∧
       s.selected = [] ∧ s.issued = [] ∧ s.notices = [] ∧ s.copies = []) ∧
    -- a block whose image is to be captured, whose image the banks do not take yet, and whose image is on its way
    (let b : Block := { blockIn .saving with saveBegun := true }
     let s := placing 1 [placedGrid] [b]
     (s.block? ⟨1, 0⟩).any (·.saveBegun) = true ∧ s.settled ⟨1, 0⟩ = true ∧ s.regReady (s.saveReads b) = true ∧
       (let t : State := { s with copies := [copyOp (.runs true false false false [⟨0x40000, some 0, 8⟩])] }
        t.copies.any (fun o => o.b == ⟨1, 0⟩ && !o.gathered) = true) ∧
       ((placing 1 [placedGrid] [{ b with captured := true }]).block? ⟨1, 0⟩).any (·.captured) = true ∧
       ([] : List Access).all (fun a => a.op != .reg (some ⟨1, 0⟩)) = true ∧
       ({ placing 1 [placedGrid] [{ b with captured := true }] with flight := [access (.reg (some ⟨1, 0⟩)) .issued] } : State).flight.any
         (fun a => a.op == .reg (some ⟨1, 0⟩)) = true) ∧
    -- a restore whose tables and splits go on as they are
    (blockIn .saved).former = [] ∧ (blockIn .saved).cohorts.all (fun c => c.threads != 0#64 && decide ((c.splits.filter fun q => q.spawn.isNone).length ≤
      (tabled.part 0).scap) && c.splits.all fun q => q.spawn.isNone) = true ∧
    ((placing 1 [{ placedGrid with record := waiting.record }] [blockIn .saved]).placement.map fun q => q.1.saved) = some (some (blockIn .saved)) ∧
    -- a block to go on, damaged or not
    ((placing 1 [placedGrid] [blockIn .restoring]).block? ⟨1, 0⟩).any (fun b => b.st == .restoring && !b.rollback) = true ∧
    ((placing 1 [placedGrid] [{ blockIn .restoring with rollback := true }]).block? ⟨1, 0⟩).any (fun b => b.st == .restoring && b.rollback) = true ∧
    (blockIn .saved).wptr = [] ∧ (blockIn .saved).scratch = [] ∧ Memory.wf tabled.mem = true := by
  decide +kernel

theorem witness_CheckpointsAndErrors :
    (let g : Grid := { placedGrid with desc := placedDesc ||| 0x80000000 }
     let s := placing 1 [g] [blockIn .checkpointing]
     g.ckpt = true ∧ s.regReady (s.ckReads (blockIn .checkpointing)) = true ∧ s.settledAll ⟨1, 0⟩ = true ∧ (s.blocks.map (·.ref)).Nodup ∧
       (s.block? ⟨1, 0⟩).any (fun b => b.st == .checkpointing && !b.publishing && !b.captured && !b.exposed && b.forcer.isNone && b.log.isEmpty && b.recs.isEmpty &&
       tableOk none b.drafts && b.cohorts.all (fun c => c.splits.all fun p => !p.forced)) = true ∧ s.flight = [] ∧ s.copies = [] ∧
       s.issued = [] ∧ s.selected = [] ∧ s.allEntries = []) ∧
    (base.grid? 1).any (fun g => g.st == .running && !g.ckpt && g.endedBy.isNone) = true ∧
    (let s : State := { placing 1 [placedGrid] [blockIn .resident] with checkpoints := [blockIn .resident] }
     (s.checkpoints.find? fun c => c.ref = ⟨1, 0⟩) = some (blockIn .resident)) ∧
    (let s := placing 1 [] []
     (s.chart.site? 0).isSome = true ∧ tableOk 0 (s.core 0).columns = true ∧ s.begun = []) := by
  decide +kernel

/-! ### Two small steps: a write of a shared register, and a host write -/

/-- R354, R358: XVEC changes when the PWRITE completes, and not when it issues. -/
theorem test_pwrite_xvec_at_completion :
    let xvec (o : Host.Outcome State Fault Refusal) : Option DWord :=
      match o with | .next t => (t.grid? 1).map (·.regs.xvec) | _ => none
    let s : State := { base with issued := [⟨8, baseSplit.c, 1, 1, none, .priv 0x010 0x8401 false⟩] }
    xvec (exec (.pwrite (opB 0 0 8 0x1010)) (baseIn .supervisor)) = some 0 ∧ xvec (exec (.classVCompletion 8) s) = some 0x8401 := by
  decide +kernel

/-- R409, R273: the bytes of a host write by mask, in two runs, and none of them in memory yet. -/
theorem test_host_write_by_mask :
    (match exec (.hostWrite .a (.bar2 0x40) [some 7, none, some 8, some 9]) base with
     | .next t => (t.flight.map fun a => (a.pa, a.bytes)) == [(0x40, [7]), (0x42, [8, 9])] && t.readMem 0x40 == 0
     | _ => false) = true := by
  decide +kernel

/-- R221: a COPY to addresses that it still has to read keeps what it overwrites. -/
theorem test_copy_keeps_overlap :
    (match exec (.copyResolve 7 1 0) { copyingWith (.runs true true false false [⟨0x30001, some 0x30000, 8⟩]) (fun o =>
        { o with ahead := [(0, some 3)] }) with flight := [given 0x30001] } with
     | .next t => (t.copies.map fun o => (o.done, o.olds)) == [(1, [(0x30001, some 0)])] && t.readMem 0x30001 == 3
     | _ => false) = true := by
  decide +kernel

/-- R252, R262, R263: a COPY fetches its source before it delivers it; the bytes delivered are those that the bank served. -/
theorem test_copy_reads_ahead :
    (match exec (.packetService 9) { copying smallCopy with flight := [fetching .issued, given 0x40000] } with
     | .next t => (t.writeMem 0x30000 5).flight.any fun a => a.op == .fetch 7 && a.stage == .fixed (zeros 8) false
     | _ => false) = true := by
  decide +kernel

/-! ### Witnesses: further clauses -/

/-- Two blocks to enter; the first lane's pair holds one address and the others' another. -/
def forked (a b : Word) : State :=
  (coded.writeRun 0x20040 (leBytes 8 headerWord)).modCohort baseSplit.c fun c =>
    { c with vregs := (List.range 32).map fun l => (128 + l, if l == 0 then a else b) }

/-- For BranchesAndCalls: targets that are none, one that is none beside others to enter, words of code that are not at hand, and a division
at a bad reconvergence header. -/
theorem witness_BranchesThatTrap :
    ([.brx (opA 15 0 2 0 0), .ret (opA 15 0 2 0 0), .callx (opA 0 8 2 0 0)] : List Instr).all (fun i =>
      issuing (forked 4 0x10048) i (fun x u => x.lanes.all (fun l => !mayEnter x u (BitVec.ofNat 64 (x.rdN 2 2 l))) && fetched x u [0x10048]) &&
      issuing (forked 0x10040 0x20040) i (fun x u => fetched x u [0x10040, 0x20040] && !mayEnter x u (BitVec.ofNat 64 (x.rdN 2 2 0)) &&
        mayEnter x u (BitVec.ofNat 64 (x.rdN 2 2 1))) &&
      issuing (forked 0x18000 0x20040) i (fun x u => !fetched x u [0x18000]) &&
      issuing ((forked 0x20000 0x20040).modSplit baseSplit fun p => { p with blkReconv := 0x10040 }) i (fun x u =>
        x.lanes.all (fun l => mayEnter x u (BitVec.ofNat 64 (x.rdN 2 2 l))) && x.rdN 2 2 0 != x.rdN 2 2 1 &&
          fetched x u [0x20000, 0x20040, 0x10040] && (u.reconvFault x.c.core x.g x.sp).isSome)) = true := by
  decide +kernel

/-- For IssueAndItsChecks: a result owed where a matrix instruction reads nothing, and one owed where it reads. -/
theorem witness_MatrixInstructionsUnderGap :
    let with_ (m : Mask) : State := (withDesc base 29).modCohort baseSplit.c fun c => { c with pend := [{ owed 8 9 with lanes := m }] }
    issuing (with_ 0xFFFFFFFF00000000) (.accld (opA 15 3 8 0 1)) (fun x _ => x.g.check && !x.underGap) = true ∧
    (match (with_ 1).beginIssue (.accld (opA 15 3 8 0 1)) with | .go x _ => x.legal && x.ex != 0#64 && x.underGap | .stop _ => false) = true := by
  decide +kernel

/-- The second stage is on, and translates nothing of the page that the first stage places at the guest address `gpa`. -/
def unmapped (gpa : Nat) : State :=
  (base.modPart 0 fun p => { p with hptb := 1 }).modCore 0 fun c => { c with tlb := [{ placedTlb with gbase := gpa, perms := placedTlb.perms % 32 }] }

/-- For AccessChecksAndScratchpad and CopiesIssue: a leaf whose own address does not translate, in each kind of region. -/
theorem witness_LeavesThatDoNotTranslate :
    [0, 1, 2].all (fun r => issuing (unmapped (2 ^ 44 * r)) (.nop (opA 15 0 0 0 0)) fun x u =>
      match u.xlate x.c.core x.g x.sp.mode .rd 0x20000 with
      | .error f => f.leaf.isSome && f.gpa / 2 ^ 44 == r && f.cause == 0x13
      | .ok _ => false) = true := by
  decide +kernel

/-- A load of block scope that has reached its bank, with a miss-status entry. -/
def arrivedLoad : Access := { access .load .issued with trip := some (trip 0 1), miss := some { id := 3, since := 0, point := 0 } }

/-- A second load, of the same line. -/
def joiner : Access := { access .load .issued with id := 11, uid := 6, lane := 1 }

/-- For ReadsAreServedAndReplied: where a load is served, how its request goes on its way, and what a PREF brings. -/
theorem witness_RequestsTravel :
    -- the scratchpad, an L1 copy, the bank, and the visitor copy of another domain's line
    (let s : State := { base with flight := [{ access .load .issued with scratch := true }] }
     s.flight.all (fun a => a.scratch && a.trip.isNone && s.canServe a) = true) ∧
    (let s : State := (withAccess .load .issued).modCore 0 fun c => { c with l1 := [⟨0x600, [(0, none)], 0⟩] }
     s.flight.all (fun a => s.l1Hit a && s.canServe a) = true) ∧
    (let s : State := { base with flight := [arrivedLoad] }
     s.flight.all (fun a => s.atBank a && s.canServe a && !s.l1Hit a && !s.lineWaits a.pa && s.tripOf a == a.trip) = true) ∧
    (let s : State := { base with flight := [{ arrivedLoad with pa := 0x30000 + 2 ^ 36, scope := 1 }]
                                  l2 := [(base.bankNumber 0 (0x30000 + 2 ^ 36), [{ line := (0x30000 + 2 ^ 36) / 128 }])] }
     s.flight.all (fun a => s.l2Has 0 a.pa && s.bankDomain a == 0 && paDomain a.pa == 1 && s.canServe a) = true) ∧
    -- an LDW, which brings a copy without a lease
    (let a : Access := { arrivedLoad with covers := true }
     let s : State := { base with flight := [a] }
     (s.canServe a && s.sharers a == [a] && a.hint != 1) = true) ∧
    -- a request that leaves; that joins a fill; that finds no entry free
    (let s := withAccess .load .issued
     s.flight.all (fun a => s.sends a && (s.joins a).isNone && s.missRoom a) = true) ∧
    (let s : State := { base with cycle := 10, flight := [arrivedLoad, joiner] }
     (s.sends joiner && (s.joins joiner).isSome) = true) ∧
    (let s : State := { base with flight := (List.range 128).map (fun k =>
       { arrivedLoad with id := 100 + k, pa := 0x40000 + 128 * k, miss := some { id := 100 + k, since := 0, point := 0 } }) ++ [joiner] }
     (s.sends joiner && (s.joins joiner).isNone && !s.missRoom joiner) = true) ∧
    (withAccess (.publish ⟨1, 0⟩) .issued).flight.all (fun a => (withAccess (.publish ⟨1, 0⟩) .issued).sends a) = true ∧
    -- a packet that goes on, and one behind an older packet at the same port
    (let a : Access := { access .store .issued with trip := some (trip 2 5) }
     let b : Access := { access .store .issued with id := 11, trip := some (trip 2 4) }
     (({ base with flight := [a] } : State).portServes (trip 2 5) && !({ base with flight := [a, b] } : State).portServes (trip 2 5)) = true) ∧
    -- the request of a PREF at its bank
    (let a : Access := { access (.pref true 1024 0) .issued with size := 128, trip := some (trip 0 1) }
     let s : State := { base with flight := [a] }
     (s.canServe a && !s.sends a && !s.moves a && !s.crowded a && !s.poisoned a.pa && s.lineFilled a.pa) = true) := by
  decide +kernel

/-- For WritesArriveAndPerform and AtomicGroupsPerform: each kind of write at its home bank, drafts, and a store of the scratchpad behind
another of its lane. -/
theorem witness_WritesOfEveryKind :
    ([.afnar, .edge 3, .publish ⟨1, 0⟩, .tready none, .status 1, .status 7, .claim 7, .evict] : List AccOp).all (fun op =>
      (withAccess op atHome).flight.all fun a => a.op.writes && !a.scratch && !a.draft) = true ∧
    (let a : Access := { access .store .issued with trip := some (trip 0 1) }
     let s : State := { base with flight := [a] }
     (s.atBank a && s.travels a && (s.dom 0).banks == .on && !s.held 0 a.pa) = true) ∧
    (let a : Access := { access .store .issued with scratch := true }
     let s : State := { base with flight := [a] }
     (!s.storesBefore a.c [a.lane] a.uid a.id a.offsets && !s.overflows a.c.b a.offsets) = true) ∧
    (let a : Access := { access .store .issued with scratch := true }
     let s : State := { published { subEntry with puboff := 0x30000, state := 2 } with flight := [{ a with id := 4, uid := 4 }, a] }
     s.storesBefore a.c [a.lane] a.uid a.id a.offsets = true) ∧
    (let a : Access := { access .store .issued with draft := true, scope := 2 }
     ({ base with flight := [a] } : State).flight.all (fun b => b.draft && b.scope != 0) = true) ∧
    (let a : Access := { access (.atomic 0 false false false [(0, 5)]) .issued with scratch := true }
     let s : State := { base with flight := [a] }
     (!s.storesBefore a.c ((List.range 64).filter a.hasLane) a.uid a.id a.offsets && !s.overflows a.c.b a.offsets) = true) ∧
    (let a : Access := access (.atomic 0 false false false [(0, 5)]) atHome
     ({ base with flight := [a], poison := [a.pa / 64] } : State).poisoned a.pa = true) := by
  decide +kernel

/-- For MemorySystemEvents: an invalidation that has not arrived, that is resolved, or not; a walk that ends with a translation. -/
theorem witness_InvalidationsAndWalks :
    (let bw (w : BankWait) : State := { base with flight := [access .store (.waiting 0 { domain := 0, arrived := true } [w])] }
     [bw { domain := 5 }, bw { domain := 5, arrived := true }, bw { domain := 5, arrived := true, till := 999 },
       bw { domain := 5, arrived := true, till := 999, revoking := true }].map (fun s => s.flight.map fun a => match a.stage with
         | .waiting _ _ vs => vs.map fun w => (w.domain, w.arrived, w.resolved s.ticks)
         | _ => []) = [[[(5, false, false)]], [[(5, true, true)]], [[(5, true, false)]], [[(5, true, true)]]]) ∧
    (match tabled.walkFull (tabled.part 0) 0 0x20000 with | .ok e => e.maps 0x20000 | .error _ => false) = true ∧
    (let w : Walk := { id := 7, req := ⟨0, 1, 4⟩, started := true }
     let s : State := { tabled with walks := [w] }
     let d : Walk := { w with done := (s.readsOf w).length }
     (({ s with walks := [d] } : State).walkEnds d && !s.walkEnds w && (s.readsOf w).length == 2) = true) ∧
    -- packets of a revoke, an acknowledgement and an invalidation, at their end and on their way
    ([trip 0 1, trip 2 1].all fun v =>
      let w : BankWait := { domain := 0, arrived := true, revokes := [(0, v)], acks := [(1, v)] }
      let s : State := { base with flight := [access .store (.waiting 0 w [{ domain := 5, trip := some v },
        { domain := 6, arrived := true, dropped := true, trip := some v }])] }
      (v.there || s.portServes v) && s.coreDomain 0 == 0) = true ∧
    -- a fetch whose page is in no TLB
    ((base.modSplit baseSplit fun p => { p with pc := 0x40000000 }).fetchMisses == [⟨0, 1, 0x40000000 / 32768⟩]) = true := by
  decide +kernel

/-- A split held in a WAITM on lane 0's word, and the read that it has sent; the word is 0, and the comparand `v`. -/
def watching (v : Word) : State :=
  { base.modSplit baseSplit fun p => { p with hold := some ⟨.waitm 1 [(0, 0x30000, 0x30000, v)], 5, 1, 0⟩ } with
    flight := [{ access .watch .issued with trip := some (trip 0 1), scope := 3 }] }

/-- For FencesAndMemoryWaits: a word that meets the condition, and one that does not. -/
theorem witness_WatchedWords :
    [0, 1].all (fun v => let s := watching v
      s.flight.all (fun a => s.canServe a && !s.sends a && !s.moves a && !s.crowded a && !s.poisoned a.pa) && s.allSplits == [baseSplit] &&
        (s.split? baseSplit).any fun p => p.hold.any fun h => h.uid == 5 && h.lanes != 0#64) = true := by
  decide +kernel

/-- For BarriersHoldUntilComplete: a .SUB arrival with an entry that can close no chunk, and a checkpoint that is due. -/
theorem witness_BarriersThatWait :
    issuing (published { subEntry with state := 2, outstanding := 64, chunk := some (0, [(0, 1)], 8) }) (.bar (opA 15 0 0xF0 0 0x10))
      (fun x u => x.sp.mode == .user && x.b.cores.any fun k => (u.core k).subs.any fun e => e.chunk.isSome && decide (64 ≤ e.outstanding)) = true ∧
    issuing (withDesc base 31) (.ckpt (opA 15 0 0 0 0)) (fun x u => x.g.ckpt && x.b.st == .resident && u.flight.isEmpty &&
      decide (x.b.lastCk + x.g.regs.ckint.toNat ≤ u.ticks)) = true := by
  decide +kernel

/-- The first cohort of `base` and three others of a full team, of which the others are latched or not. -/
def fourth (bound : Bool) (op : Option Nat) : State := base.modBlock ⟨1, 0⟩ fun b => { b with
  teams := [(0, { members := (if bound then [(0, 1)] else []) ++ [(1, 2), (2, 3), (3, 4)] })]
  cohorts := b.cohorts.map (fun c => { c with team := if bound then some 0 else none }) ++ [2, 3, 4].map fun n =>
    { id := n, quad := n - 1, team := some 0, latch := op.map fun o => { latched n with op := o, z := false } } }

/-- For MatrixInstructionsIssue: the fourth member binds, and a fourth member issues beside members that agree, that differ, that wait. -/
theorem witness_FourthMembers :
    issuing (fourth false none) (.qbind (opA 15 0 0 0 0)) (fun x _ => x.c.team.isNone &&
      (tput 0 x.c.quad x.c.id (tget {} x.b.teams 0).members).length == 4) = true ∧
    ([(some 1, true), (some 2, false), (none, false)].all fun q => issuing (fourth true q.1) (.mmaF16 (opA 15 3 8 0x10 0)) fun x u =>
      (tget {} x.b.teams 0).members.length == 4 && x.c.latch.isNone && u.flight.isEmpty && !x.c.reformed && x.g.endedBy.isNone && x.g.st == .running &&
        ((tget {} x.b.teams 0).members.all fun m => m.2 == x.c.id || ((u.cohort? ⟨x.r.c.b, m.2⟩).any fun c => match c.latch with
          | some l => (l.op == 1) == q.2 && !l.z
          | none => q.1.isNone))) = true := by
  decide +kernel

/-- For SubscriptionInstructions and SubscriptionEvents: a SUBSYNC of a core with entries, with and without packets; packets and entries in
the states that their clauses name; notices of each kind. -/
theorem witness_SubscriptionsInEveryState :
    ([published { subEntry with state := 2 }, { published { subEntry with state := 2 } with packets := [packet] }].all fun s =>
      issuing s (.subsync (opA 15 0 0 0 0)) fun x u => x.sp.mode == .user && !(u.core x.c.core).subs.isEmpty && u.flight.isEmpty &&
        x.b.cores.all fun k => (u.core k).subs.all fun e => e.chunk.isNone) = true ∧
    -- a block that is being loaded; another sequence number; a packet whose acknowledgement is under way
    (let s : State := { (published { subEntry with state := 2 }).modBlock ⟨1, 0⟩ (fun b => { b with st := .restoring }) with packets := [packet] }
     ((s.block? ⟨1, 0⟩).any (fun b => b.st == .restoring) && !packet.arrived && !packet.applied && !subEntry.toImage) = true) ∧
    (let s : State := { published { subEntry with state := 2 } with packets := [{ packet with seq := 3 }, { packet with id := 10, applied := true }] }
     ((s.packets.find? fun p => p.id == 10).any (·.applied) && (s.packets.find? fun p => p.id == 9).any (·.seq != 0) && tableOk {} s.cores &&
       s.allEntries.all fun e => !e.2.ended) = true) ∧
    ([(.absent : NoticeKind), .present, .removal, .removed, .unsub 6].all fun k =>
      let s : State := { published { subEntry with state := 2 } with notices := [notice k] }
      (s.notices.find? fun r => r.id == 9) == some (notice k) && !(notice k).acted && (s.block? ⟨1, 0⟩).any (fun b => tableOk {} b.recs &&
        b.entries.isEmpty) && s.allEntries.map (·.2.id) == [8] && s.packets.isEmpty) = true ∧
    -- present with a packet of before its mark; an UNSUB with a packet outstanding
    (let s : State := { published { subEntry with state := 2, outstanding := 1 } with notices := [{ notice .present with mark := some 20 }], packets := [packet] }
     (s.packets.any (fun p => p.entry == 8 && decide (p.id < 20)) && s.allEntries.all fun e => decide (0 < e.2.outstanding)) = true) ∧
    -- an entry that closes its chunk since its publisher retires; a snapshot of a subscriber that is saved
    (let s : State := (published { subEntry with state := 2, chunk := some (0, [(0, 1)], 90) }).modBlock ⟨1, 0⟩ fun b => { b with exited := 32 }
     ((s.block? ⟨1, 0⟩).any (fun b => b.st == .resident && decide (s.ntidOf b ≤ b.exited)) && !s.blockBusy ⟨1, 0⟩ &&
       !decide (90 + 64 ≤ s.cycle)) = true) ∧
    (let s : State := { copier with blocks := copier.blocks ++ [{ ref := ⟨1, 1⟩, st := .saving, saveBegun := true, core := 1 }],
                                    requests := [{ subReq with sub := ⟨1, 1⟩ }] }
     ((s.block? ⟨1, 1⟩).any (fun b => b.st == .saving && b.saveBegun) && (s.core 0).subs.isEmpty) = true) := by
  decide +kernel

/-- For LaunchesEnterDispatch: a child behind an older one of its domain, and a producer that completes at its entry with a consumer
awaiting it. -/
theorem witness_LaunchesWaitForOthers :
    (let child (n : Nat) : Grid := { launched .queued with id := n, poster := .grid 1, parent := some 1, target := some 0 }
     let s : State := { tabled with grids := [placedGrid, child 2, child 3] }
     s.grids.any (fun h => h.parent.isSome && h.st == .queued && h.id < 3 && s.streamFree h) = true) ∧
    (let g : Grid := launched .queued
     let h : Grid := { launched .awaiting with id := 3, record := [0x0200000000020000, 0x0001000100000001, 0x0000000100010020, 0, 0, 0, 2, 0] }
     let s : State := { base with grids := [g, h] }
     (s.streamFree g && g.parent.isNone && (match s.entryWord g g.entry with | .error c => c != 0 | .ok _ => false) &&
       (g.word 5).toNat / 4 == 0 && h.depkind == 2 && (h.word 6).toNat == 2 && (h.word 5).toNat / 4 == 0) = true) ∧
    -- a status word's place
    (tabled.statusPlace { launched .queued with record := [0x20000, 0x0001000100000001, 0x0000000100010020, 0, 0, 0x30000, 0, 0] }).isSome
      = true := by
  decide +kernel

/-- For TrapsAreEnteredOrEndTheGrid and PrivilegedRegistersReadAndWrite: registers written in this cycle, and endings of one cycle, two of them
of one team. -/
theorem witness_WritesAndEndingsOfOneCycle :
    ((base.modGrid 1 fun g => { g with vecWas := some (base.cycle, 4, 0x8001) }).grid? 1).any
      (fun g => g.vecWas.any fun q => q.1 == base.cycle && q.2.1 != g.regs.xdeleg) = true ∧
    ((base.modPart 0 fun p => { p with hvecWas := some (base.cycle, 1) }).part 0).hvecWas.isSome = true ∧
    (let e (q : Nat) (lane : Nat) : Ending := { key := (5, 0, q, lane), status := 3 + q, team := some (0, q) }
     let s : State := base.modGrid 1 fun g => { g with endings := [e 2 0, e 1 0] }
     (s.grid? 1).any (fun g => g.endings.any fun d => g.endings.any fun f => f.key.2.1 == d.key.2.1 && d.team == some (0, 2) && f.team == some (0, 1))
       = true ∧ (s.grids.map (·.id)).Nodup) := by
  decide +kernel

/-- For TlbiAndGridend and IssueStageChoosesAndEnds: a walk and a copy's page under what a TLBI removes, and the TLBI that waits for them. -/
theorem witness_ShootdownsWait :
    (let w : Walk := { id := 7, req := ⟨0, 1, 4⟩, started := true }
     let s : State := { baseIn .hypervisor with walks := [w], copies := [{ copyOp smallCopy with pages := (some placedTlb, none) }] }
     issuing s (.tlbi (opA 15 0 0xF0 0xF0 1)) (fun x u => x.sp.mode == .hypervisor && u.walks.all (fun w => w.started && !w.failed &&
       u.tagsOf w.req.grid == u.tagsOf 1) && (u.core 0).tlb == [placedTlb] && tableOk [] u.tlb2 && u.flight.isEmpty) = true) ∧
    ([([], [], []), ([9], [], []), ([], [(7, 0)], []), ([], [], [7])].all fun q =>
      let s : State := { withAccess .store .issued with
        copies := [{ copyOp smallCopy with pages := (some placedTlb, none) }], walks := [{ id := 7, req := ⟨0, 1, 4⟩, started := true }]
        issued := [⟨8, baseSplit.c, 1, 1, none, .shootdown q.1 q.2.1 q.2.2⟩] }
      (s.issued.find? fun j => j.uid == 8).isSome && (placedTlb.vbase == 0)) = true := by
  decide +kernel

/-- For SplitsSpawnAndReform: an access that is in flight, and a buffer that is full. -/
theorem witness_SpawnsWaitAndOverflow :
    (let s : State := { base.modSplit baseSplit (fun p => { p with spawn := some true }) with flight := [access .store .issued] }
     (s.flight.any fun a => a.c == baseSplit.c && a.hasLane 0) = true) ∧
    (let r : SpawnRec := { tid := 0, target := 0x20000, midBlock := none, preds := [], regs := [], saved := 192, arrival := 0 }
     let s := base.modBlock ⟨1, 0⟩ fun b => { b with former := List.replicate 82 r }
     65536 < s.bufferUse 0 + (32 + 4 * r.saved) ∧ base.bufferUse 0 + (32 + 4 * r.saved) ≤ 65536) := by
  decide +kernel

/-- For UnitsGateAndWake: lines that the directory names, in an L1 and in the banks. -/
theorem witness_BanksThatHoldLines :
    let s : State := { idle.modCore 0 (fun c => { c with power := .gated, l1 := [⟨0x600, [(0, none)], 0⟩] }) with
      directory := [(0x600, [5])], l2 := [(16 * 5, [{ line := 0x600 }])] }
    tableOk [] s.directory = true ∧ tableOk [] s.l2 = true ∧ tableOk {} s.cores = true ∧ tget [] s.directory 0x600 = [5] := by
  decide +kernel

/-- For PortsReadAndWrite and BootMailboxAndFatalEvents: lines that are free, and that are not; a read of an edge link with a bank in recess;
Afnar's writes under way. -/
theorem witness_LinesThatWait :
    let held : State := { base with leases := [⟨0, 0x40 / 128, 999⟩] }
    base.lineFree 0x40 = true ∧ held.lineFree 0x40 = false ∧ held.bankReads 0x40 = true ∧
    ({ base with recess := some 0 } : State).bankReads (2 ^ 44) = false ∧
    ({ base with flight := [access (.edge 3) .issued] } : State).flight.all (fun a => a.op == .edge 3 && a.pa == 0x30000) = true ∧
    (let m : Mailbox := { base.mailbox with cmd := 2, status := 1, taken := some (.b, 0) }
     let s : State := { base with mailbox := { m with writing := true } }
     (s.mailbox.status == 1 && s.mailbox.writing && s.flight.isEmpty && decide (0 < s.ticks) &&
       ({ base with flight := [access .afnar .issued] } : State).flight.any fun a => a.op == .afnar) = true) ∧
    -- each mailbox command by the port that owns the semaphore
    ({ base with msem := 1 } : State).msem = 1 ∧ base.mailbox.writing = false ∧ Memory.wf base.mem = true ∧
    (∃ u : State, u.mailbox = { base.mailbox with cmd := 2, status := 1, taken := some (.a, base.ticks) } ∧ base.ticks < u.ticks ∧
      (∀ e ∈ u.flight, e.op ≠ .afnar) ∧ ∀ a, u.lineFree a = true) := by
  refine ⟨by decide +kernel, by decide +kernel, by decide +kernel, by decide +kernel, by decide +kernel, by decide +kernel, by decide +kernel,
    by decide +kernel, by decide +kernel,
    ⟨{ base with cycle := 1000, mailbox := { base.mailbox with cmd := 2, status := 1, taken := some (.a, base.ticks) } }, rfl, by decide +kernel,
      by decide +kernel, fun a => ?_⟩⟩
  have hl : base.leases = [] := by decide +kernel
  have hd : base.directory = [] := by decide +kernel
  have hf : base.flight = [] := by decide +kernel
  have hm : base.domains = [] := by decide +kernel
  simp [State.lineFree, State.lineWaits, State.banksUp, State.domainUp, State.held, State.latestExpiry, State.dom, hl, hd, hf, hm, tget]

/-- For BlocksArePlaced and BlocksArePreemptedAndRescued: a core kept for a block, a block that no pre-emption can place, a grid whose only
pending block is saved, and one whose child has still to enter dispatch. -/
theorem witness_MarksAndRescues :
    (let g : Grid := { waiting with mark := some ⟨0, 0, true⟩ }
     let s := placing 2 [g] []
     (s.coreFor s.blocks ⟨g, none⟩).map (·.1) = some 0 ∧ s.markedFor ⟨{ waiting with id := 3 }, none⟩ 0 = true ∧
       ((placing 2 [{ waiting with mark := some ⟨1, 0, false⟩ }] []).grid? 2).any (fun g => g.mark.map (·.block) == some g.next) = true) ∧
    (let u : Grid := { urgent with desc := paired.desc }
     let s := placing 1 [placedGrid, u] [blockIn .resident]
     s.preempts.isNone = true ∧ (s.coreFor s.blocks ⟨u, none⟩).isNone = true ∧ (s.gridOf (blockIn .resident)).prio < u.prio ∧
       0 ∈ s.coreNames ∧ s.markedFor ⟨u, none⟩ 0 = false ∧ (s.pendingOf u).length = 1) ∧
    (let held (s : State) : State := s.modSplit baseSplit fun p => { p with hold := some ⟨.bar 0 0, 5, 1, 0⟩ }
     let g : Grid := { placedGrid with stuckSince := some 0 }
     let s := held (placing 1 [g] [blockIn .resident, { blockIn .saved with ref := ⟨1, 1⟩, waitSince := some 0 }])
     let t := held (placing 1 [g, { launched .queued with parent := some 1, poster := .grid 1 }] [blockIn .resident])
     s.stuck g = true ∧ (s.pendingAll.map fun q => q.saved.isSome) = [true] ∧ g.blockCount ≤ g.next ∧
       t.stuck g = true ∧ t.pendingAll.filter (fun q => t.descends 1 10 q.grid.id) = []) := by
  decide +kernel

/-- For BlocksAndGridsRetire: a retired producer that failed, and one that has ended. -/
theorem witness_ProducersThatFailed :
    [GridState.ended, .closing, .retired].all (fun st =>
      let h : Grid := { launched .running with producer := some 1, record := [0x0100000000020000, 0x0001000100000001, 0x0000000100010020, 0, 0, 0, 0x30000, 0] }
      let s : State := ({ tabled with grids := [{ placedGrid with st := st, status := 5 }, h] } : State).writeRun 0x30000 [1]
      h.depkind == 1 && s.producerFailed h && (s.regRead8 h 0x30000 matches .ok 1)) = true := by
  decide +kernel

/-- A block of the placed grid whose image stands at 0x40000. -/
def imageAt (b : Block) : Block := { b with image := 0x40000 }

/-- For BlocksAreSavedAndRestored: an image whose records are admitted and one whose are not, a pass that is held, packets that wait for the
block, a stuck split that the image undoes, and a byte that reaches a saved block. -/
theorem witness_ImagesAndPasses :
    (let s := placing 1 [{ placedGrid with record := waiting.record }] [imageAt (blockIn .saved)]
     let t := s.writeRun (0x40000 + 0x508 + 4) [3]
     s.imageOk placedGrid (imageAt (blockIn .saved)) = true ∧ t.imageOk placedGrid (imageAt (blockIn .saved)) = false ∧
       (t.choosePlacement.map fun q => q.1.saved) = some (some (imageAt (blockIn .saved))) ∧ placedGrid.endedBy = none) ∧
    (let s := (placing 1 [placedGrid] [blockIn .saving]).modCore 0 fun c => { c with arb := { c.arb with holder := some (⟨1, 0⟩, 2) } }
     ((s.core 0).arb.holder.map (·.1)) = some ⟨1, 0⟩ ∧ tableOk {} s.cores = true) ∧
    (let s : State := { (published { subEntry with state := 2 }).modBlock ⟨1, 0⟩ (fun b => { b with st := .restoring }) with
       packets := [{ packet with arrived := true }] }
     (s.packets.all fun p => s.inSequence p) = true ∧ s.notices = []) ∧
    (let p : Split := { id := 1, hold := some ⟨.latch, 7, 1, 0⟩ }
     p.abandoned = some 7) ∧
    (let a := imageAt (blockIn .saved)
     let b : Block := { a with scratch := [(5, 9)] }
     let s := placing 1 [placedGrid] [a]
     let tab (x : Block) := imageTable (imageFields s placedGrid x 1).1
     a.st = .saved ∧ tget 0 (tab a) (0x1000 + 5) = 0 ∧ tget 0 (tab b) (0x1000 + 5) = 9) := by
  decide +kernel

/-- For CheckpointsAndErrors: drafts that a checkpoint sets out, and one whose publication is over; a store that waits for it; a claim, and
columns that are reported twice. -/
theorem witness_CheckpointsPublish :
    (let g : Grid := { placedGrid with desc := placedDesc ||| 0x80000000 }
     let b : Block := { blockIn .checkpointing with drafts := [(0x30000, some 1), (0x30001, some 2), (0x40000, some 3)] }
     let s := placing 1 [g] [b]
     g.ckpt = true ∧ tableOk none b.drafts = true ∧ ((s.publish b).flight.map fun a => (a.pa, a.bytes)) = [(0x30000, [1, 2]), (0x40000, [3])] ∧
       (let t := placing 1 [g] [{ b with publishing := true, drafts := [] }]
        t.flight = [] ∧ (t.block? ⟨1, 0⟩).any (·.publishing) = true) ∧
       (let t := placing 1 [g] [{ b with forcer := some baseSplit }]
        (t.split? baseSplit).isSome = true)) ∧
    (let i : Issued := ⟨5, baseSplit.c, 1, 1, none, .sealed⟩
     let s : State := { base with issued := [i] }
     let t : State := { withAccess (.publish ⟨1, 0⟩) .issued with issued := [i] }
     ((s.finishSealed ⟨1, 0⟩).issued, (t.finishSealed ⟨1, 0⟩).issued) = ([], [i])) ∧
    (let q : Begun := ⟨0, ⟨1, 0⟩, 0, 2, members⟩
     let s : State := { base with begun := [q] }
     (s.begun.find? fun b => b.core == 0) = some q) := by
  decide +kernel

/-- The checkpointing form of the placed grid. -/
def checkpointed : Grid := { placedGrid with desc := placedDesc ||| 0x80000000 }

/-- A block whose copy of number `n` stands in memory where `n` is 1, and one whose copy there has another number. -/
def copied (n : Nat) : State :=
  let s : State := { placing 1 [checkpointed] [blockIn .resident] with checkpoints := [{ blockIn .resident with seq := 1 }] }
  let a := ckAddress checkpointed (blockIn .resident) 1
  (s.writeRun (a + 8) (leBytes 8 1)).writeRun (a + 0x30) (leBytes 8 n)

/-- For CheckpointsAndErrors: a copy that stands in memory, and one that does not; an error of a block that is saved; its receive log; its
subscriptions, set up before the copy and since; an area that no copy can be written to. -/
theorem witness_RollbacksFromMemory :
    ((copied 1).copyStands checkpointed (blockIn .resident) { blockIn .resident with seq := 1 } = true ∧
      (copied 3).copyStands checkpointed (blockIn .resident) { blockIn .resident with seq := 1 } = false) ∧
    ((placing 1 [checkpointed] [blockIn .saved]).block? ⟨1, 0⟩).any (fun b => b.st == .saved && !b.exposed) = true ∧
    (let b : Block := { blockIn .resident with log := [⟨64, 3, 128, 2, [1, 2]⟩] }
     let s := placing 1 [checkpointed] [b]
     b.log = [] ++ [⟨64, 3, 128, 2, [1, 2]⟩] ∧ (s.block? ⟨1, 0⟩).any (fun b => tableOk 0 b.scratch &&
       b.cohorts.all fun c => c.splits.all fun p => p.hold.isNone) = true) ∧
    (let r : SubRec := { state := 2, localoff := 128, length := 64, id := 4 }
     let s := (published { subEntry with state := 2 }).modBlock ⟨1, 0⟩ fun b => { b with recs := [(2, r)] }
     (s.block? ⟨1, 0⟩).any (fun b => b.recs == [] ++ [(2, r)] && b.entries.isEmpty && tableOk {} b.recs) = true ∧
       (tget {} ([] : Sparse SubRec) 2).state = 0 ∧ (tget {} [(2, r)] 2).id = r.id ∧ (s.entry? ⟨1, r.pub⟩ ⟨1, 0⟩ 2).isSome = true) ∧
    (match (placing 1 [checkpointed] []).ckXlate checkpointed 0x40000000, (placing 1 [checkpointed] []).ckXlate checkpointed 0x388000 with
      | .error _, .ok _ => true
      | _, _ => false) = true := by
  decide +kernel

theorem differ_at {t u : Sparse Byte} {k : Nat} {v : Byte} (hok : tableOk 0 t = true) (hz : tget 0 t k ≠ v) (h : u = tput 0 k v t) (j : Nat) :
    tget 0 t j ≠ tget 0 u j ↔ j = k := by
  rw [h, tget_tput hok]
  by_cases hj : j = k
  · subst hj; simpa using hz
  · simp [hj]

/-- The table of the image of a block at 0x40000. -/
def imageTab (x : Block) : Sparse Byte := imageTable (imageFields (placing 1 [placedGrid] [imageAt (blockIn .saved)]) placedGrid x 1).1

/-- For BlocksAreSavedAndRestored: the tables of two images that differ in one byte. -/
theorem witness_OneByteOfAnImage :
    let b : Block := { imageAt (blockIn .saved) with scratch := [(5, 9)] }
    ((placing 1 [placedGrid] [imageAt (blockIn .saved)]).block? b.ref == some (imageAt (blockIn .saved))) = true ∧
      ∀ j, tget 0 (imageTab (imageAt (blockIn .saved))) j ≠ tget 0 (imageTab b) j ↔ j = 0x1005 :=
  ⟨by decide +kernel, differ_at (v := 9) (by decide +kernel) (by decide +kernel) (by decide +kernel)⟩

/-- For BlocksArePlaced and BlocksAndGridsRetire: banks that do not serve the registrar's reads. -/
theorem witness_BanksThatDoNotServe :
    let s : State := { placing 1 [placedGrid] [] with domains := [(0, { banks := .gated })] }
    s.regReady [0x8000] = false ∧ (placing 1 [placedGrid] []).regReady [0x8000] = true := by
  decide +kernel

/-- For BootMailboxAndFatalEvents: a result for lines that are free, and for lines that are not. -/
theorem witness_ResultsForTheBuffer :
    let m : Mailbox := { base.mailbox with cmd := 1, domain := 3, status := 1, taken := some (.a, 0), target := 0x40000 }
    let s : State := { base with mailbox := m }
    let t : State := { s with domains := [(0, { banks := .gated })] }
    s.mailbox.domain < 84 ∧ 0 < s.ticks ∧ s.flight = [] ∧ m.target % 64 = 0 ∧ (∀ a, 0x40000 ≤ a → a < 0x40000 + 131136 → s.NoPacketAt a) ∧
    (∀ a, 0x40000 ≤ a → a < 0x40000 + 131136 → t.lineFree a = false) := by
  refine ⟨by decide +kernel, by decide +kernel, by decide +kernel, by decide +kernel, ?_, ?_⟩
  · intro a _ _ b hb
    exact absurd (show b ∈ base.flight from hb) (by rw [show base.flight = [] by decide +kernel]; simp)
  · intro a h1 h2
    have hd : paDomain a = 0 := by simp only [paDomain]; omega
    have hr : paRegion a = 0 := by simp only [paRegion]; omega
    simp [State.lineFree, State.lineWaits, State.banksUp, State.domainUp, State.dom, hd, hr, tget]

/-- A value next to an even multiple of half its quantum has no midpoint near: the condition of `Fmt.Correct`. -/
theorem no_midpoint_near {y q : ℝ} (n : ℕ) (hq : |2 * |y| - 2 * n * q| + (2 : ℝ) ^ (-100 : ℤ) * |y| < q) (k : ℕ) :
    (2 : ℝ) ^ (-100 : ℤ) * |y| < |2 * |y| - (2 * k + 1) * q| := by
  have hy : 0 ≤ (2 : ℝ) ^ (-100 : ℤ) * |y| := by positivity
  have h0 : 0 < q := lt_of_le_of_lt (add_nonneg (abs_nonneg _) hy) hq
  have h1 : q ≤ |2 * n * q - (2 * k + 1) * q| := by
    have h : (1 : ℝ) ≤ |((2 * n - (2 * k + 1) : ℤ) : ℝ)| := by
      have : (1 : ℤ) ≤ |2 * (n : ℤ) - (2 * k + 1)| := Int.one_le_abs (by omega)
      exact_mod_cast this
    calc q = 1 * q := (one_mul q).symm
      _ ≤ |((2 * n - (2 * k + 1) : ℤ) : ℝ)| * q := by gcongr
      _ = |2 * n * q - (2 * k + 1) * q| := by rw [← sub_mul, abs_mul, abs_of_pos h0]; push_cast; rfl
  have h2 := abs_sub_abs_le_abs_sub (2 * n * q - (2 * k + 1) * q) (2 * n * q - 2 * |y|)
  have h3 : (2 * n * q - (2 * k + 1) * q) - (2 * n * q - 2 * |y|) = 2 * |y| - (2 * k + 1) * q := by ring
  have h4 : abs (2 * n * q - 2 * |y|) = abs (2 * |y| - 2 * n * q) := abs_sub_comm _ _
  rw [h3, h4] at h2
  generalize (2 : ℝ) ^ (-100 : ℤ) * |y| = w at *
  linarith

/-- Is a value no closer to a midpoint of FP32 codes than `Fmt.Correct` asks? -/
def Clear (y : ℝ) : Prop :=
  ∀ k : ℕ, (2 : ℝ) ^ (-100 : ℤ) * |y| < |2 * |y| - (2 * k + 1) * (2 : ℝ) ^ (max (Int.log 2 |y|) Fmt.f32.emin - Fmt.f32.p + 1)|

theorem clear_of {y : ℝ} (b : ℤ) (n : ℕ) (hb : -126 ≤ b) (h1 : (2 : ℝ) ^ b ≤ |y|) (h2 : |y| < (2 : ℝ) ^ (b + 1))
    (hlo : (n - 0.47) * (2 : ℝ) ^ (b - 23) ≤ |y|) (hhi : |y| ≤ (n + 0.47) * (2 : ℝ) ^ (b - 23)) : Clear y := by
  have hy : 0 < |y| := lt_of_lt_of_le (by positivity) h1
  have hlog : Int.log 2 |y| = b := by
    apply le_antisymm
    · have := (Int.lt_zpow_iff_log_lt (b := 2) (x := b + 1) (by norm_num) hy).1 (by exact_mod_cast h2)
      omega
    · exact (Int.zpow_le_iff_le_log (b := 2) (by norm_num) hy).1 (by exact_mod_cast h1)
  intro k
  have he : max (Int.log 2 |y|) Fmt.f32.emin - (Fmt.f32.p : ℤ) + 1 = b - 23 := by
    rw [hlog]
    have : Fmt.f32.emin = -126 := by decide
    have hp : (Fmt.f32.p : ℤ) = 24 := by decide
    rw [this, hp, max_eq_left hb]; ring
  rw [he]
  apply no_midpoint_near n
  have hq : (0 : ℝ) < (2 : ℝ) ^ (b - 23) := by positivity
  have hd : |2 * |y| - 2 * n * (2 : ℝ) ^ (b - 23)| ≤ 0.94 * (2 : ℝ) ^ (b - 23) := by
    rw [abs_le]; constructor <;> nlinarith
  have hs : (2 : ℝ) ^ (-100 : ℤ) * |y| < 0.01 * (2 : ℝ) ^ (b - 23) := by
    have e : (2 : ℝ) ^ (b + 1) = 2 ^ (24 : ℕ) * (2 : ℝ) ^ (b - 23) := by
      rw [← zpow_natCast, ← zpow_add₀ (by norm_num)]; congr 1; push_cast; ring
    rw [e] at h2
    have h100 : (2 : ℝ) ^ (-100 : ℤ) * 2 ^ (24 : ℕ) < 0.01 := by norm_num
    have hp : (0 : ℝ) < (2 : ℝ) ^ (-100 : ℤ) := by positivity
    calc (2 : ℝ) ^ (-100 : ℤ) * |y| < (2 : ℝ) ^ (-100 : ℤ) * (2 ^ (24 : ℕ) * (2 : ℝ) ^ (b - 23)) := by gcongr
      _ = ((2 : ℝ) ^ (-100 : ℤ) * 2 ^ (24 : ℕ)) * (2 : ℝ) ^ (b - 23) := by ring
      _ < 0.01 * (2 : ℝ) ^ (b - 23) := by gcongr
  generalize (2 : ℝ) ^ (-100 : ℤ) * |y| = w at *
  linarith

theorem clear_sqrt_two : Clear ((2 : ℝ) ^ ((1 / 2 : ℚ) : ℝ)) := by
  have e : (2 : ℝ) ^ ((1 / 2 : ℚ) : ℝ) = √2 := by rw [Real.sqrt_eq_rpow]; norm_num
  rw [e]
  have h0 := Real.sqrt_nonneg 2
  have h1 : (11863283 - 0.47) * (2 : ℝ) ^ ((0 : ℤ) - 23) ≤ √2 := Real.le_sqrt_of_sq_le (by norm_num)
  have h2 : √2 ≤ (11863283 + 0.47) * (2 : ℝ) ^ ((0 : ℤ) - 23) := Real.sqrt_le_iff.2 (by norm_num)
  apply clear_of 0 11863283 (by norm_num) <;> rw [abs_of_nonneg h0]
  · exact Real.le_sqrt_of_sq_le (by norm_num)
  · exact (Real.sqrt_lt' (by norm_num)).2 (by norm_num)
  · exact_mod_cast h1
  · exact_mod_cast h2

theorem clear_log : Clear (Real.logb 2 ((3 / 4 : ℚ) : ℝ)) := by
  have hs := Real.abs_log_sub_add_sum_range_le (x := 1 / 4) (by norm_num [abs_of_pos]) 24
  have e : Real.log (1 - 1 / 4) = Real.log ((3 / 4 : ℚ) : ℝ) := by norm_num
  rw [e] at hs
  simp only [Finset.sum_range_succ, Finset.sum_range_zero] at hs
  have h2 := Real.log_two_near_10
  rw [abs_le] at hs h2
  set l := Real.log ((3 / 4 : ℚ) : ℝ)
  set t := Real.log 2
  have hl : -0.28768207246 ≤ l ∧ l ≤ -0.28768207244 := by
    constructor <;> [have := hs.1; have := hs.2] <;> norm_num [abs_of_pos] at this ⊢ <;> linarith
  have ht : 0.6931471804 ≤ t ∧ t ≤ 0.6931471807 := by
    constructor <;> [have := h2.1; have := h2.2] <;> norm_num at this ⊢ <;> linarith
  have hp : 0 < t := by linarith [ht.1]
  have hy : |Real.logb 2 ((3 / 4 : ℚ) : ℝ)| = -l / t := by
    rw [Real.logb, abs_of_nonpos (div_nonpos_of_nonpos_of_nonneg (by linarith [hl.2]) hp.le), neg_div]
  apply clear_of (-2) 13926348 (by norm_num) <;> rw [hy]
  · rw [le_div_iff₀ hp]; norm_num; linarith [hl.2, ht.2]
  · rw [div_lt_iff₀ hp]; norm_num; linarith [hl.1, ht.1]
  · rw [le_div_iff₀ hp]; norm_num; linarith [hl.2, ht.2]
  · rw [div_le_iff₀ hp]; norm_num; linarith [hl.1, ht.1]

theorem clear_sin : Clear (Real.sin ((1 / 1024 : ℚ) : ℝ)) := by
  have h := Real.sin_bound (x := ((1 / 1024 : ℚ) : ℝ)) (by norm_num [abs_of_pos])
  rw [abs_le] at h
  norm_num [abs_of_pos] at h
  have hp : 0 ≤ Real.sin ((1 / 1024 : ℚ) : ℝ) := by push_cast; linarith [h.1]
  apply clear_of (-11) 16777213 (by norm_num) <;> rw [abs_of_nonneg hp] <;> push_cast <;> norm_num <;> linarith [h.1, h.2]

theorem clear_cos : Clear (Real.cos ((1 / 1024 : ℚ) : ℝ)) := by
  have h := Real.cos_bound (x := ((1 / 1024 : ℚ) : ℝ)) (by norm_num [abs_of_pos])
  rw [abs_le] at h
  norm_num [abs_of_pos] at h
  have hp : 0 ≤ Real.cos ((1 / 1024 : ℚ) : ℝ) := by push_cast; linarith [h.1]
  apply clear_of (-1) 16777208 (by norm_num) <;> rw [abs_of_nonneg hp] <;> push_cast <;> norm_num <;> linarith [h.1, h.2]

/-- `base` with a code in v1 of every lane. -/
def valued (code : Word) : State :=
  base.modCohort baseSplit.c fun c => { c with vregs := (List.range 32).map fun l => (64 + l, code) }

theorem witness_TranscendentalsRoundCorrectly :
    ([(.ex2 (opA 0 8 1 0 0), 0x3F000000), (.lg2 (opA 0 8 1 0 0), 0x3F400000), (.sin (opA 0 8 1 0 0), 0x3A800000),
      (.cos (opA 0 8 1 0 0), 0x3A800000)] : List (Instr × Word)).all (fun q => issuing (valued q.2) q.1 fun x _ => !x.g.ftz &&
        x.lanes.all fun l => x.rd 1 l == q.2) = true ∧
    readF false .f32 0x3F000000 = .fin false 0x800000 (-24) ∧ (FV.fin false 0x800000 (-24)).rat.getD 0 = 1 / 2 ∧
    readF false .f32 0x3F400000 = .fin false 0xC00000 (-24) ∧ (FV.fin false 0xC00000 (-24)).rat.getD 0 = 3 / 4 ∧
    readF false .f32 0x3A800000 = .fin false 0x800000 (-33) ∧ (FV.fin false 0x800000 (-33)).rat.getD 0 = 1 / 1024 ∧
    Clear ((2 : ℝ) ^ ((1 / 2 : ℚ) : ℝ)) ∧ Clear (Real.logb 2 ((3 / 4 : ℚ) : ℝ)) ∧ Clear (Real.sin ((1 / 1024 : ℚ) : ℝ)) ∧
    Clear (Real.cos ((1 / 1024 : ℚ) : ℝ)) :=
  ⟨by decide +kernel, by decide +kernel, by decide +kernel, by decide +kernel, by decide +kernel, by decide +kernel, by decide +kernel,
    clear_sqrt_two, clear_log, clear_sin, clear_cos⟩

/-! ### Words from the spec's encodings (R15-R21) -/

def hd (gap : BitVec 3) (wait : BitVec 12) (set guard : BitVec 4) : Hdr := ⟨gap, wait, set, guard⟩

theorem test_decode_compare : decode [0x128000F733060740] = .ok (.isetp ⟨hd 0 0 15 7, 0x33, 6, 7, 0x40⟩, []) := by decide
theorem test_decode_immediate : decode [0x00A0091A05012345] = .ok (.movi ⟨hd 2 9 1 10, 5, 0x012345⟩, []) := by decide
theorem test_decode_float : decode [0x201000F70301020C] = .ok (.fadd ⟨hd 1 0 15 7, 3, 1, 2, 0x0C⟩, []) := by decide
theorem test_decode_convert : decode [0x2C1000F706040508] = .ok (.cvtq ⟨hd 1 0 15 7, 6, 4, 5, 8⟩, []) := by decide
theorem test_decode_packed : decode [0x439000F7030102C4] = .ok (.acs2 ⟨hd 1 0 15 7, 3, 1, 2, 0xC4⟩, []) := by decide
theorem test_decode_shuffle : decode [0x5110000703020116] = .ok (.shfl ⟨hd 1 0 0 7, 3, 2, 1, 0x16⟩, []) := by decide
theorem test_decode_branch : decode [0x601010FC00000018] = .ok (.bra ⟨hd 1 0x010 15 12, 0x18⟩, []) := by decide
theorem test_decode_load : decode [0x821000270A040100] = .ok (.ldB32 ⟨hd 1 0 2 7, 0x0A, 4, 0x010, 0, 0⟩, []) := by decide
theorem test_decode_atomic : decode [0x9410002709040606] = .ok (.atomGlobal ⟨hd 1 0 2 7, 9, 4, 6, 6⟩, []) := by decide
theorem test_decode_fence : decode [0x980000F70000000A] = .ok (.fence ⟨hd 0 0 15 7, 0, 0, 0, 0x0A⟩, []) := by decide
theorem test_decode_barrier : decode [0xA01000F700F00010] = .ok (.bar ⟨hd 1 0 15 7, 0, 0xF0, 0, 0x10⟩, []) := by decide
theorem test_decode_copy :
    decode [0xB11000F100D4DC00, 1, 2, 3, 4] = .ok (.tcopyPeer ⟨⟨hd 1 0 15 1, 0, 0xD4, 0xDC, 0⟩, 1, 2, 3, 4⟩, []) := by decide
theorem test_decode_matrix : decode [0xC49000F700081000] = .ok (.mmaE4m3Qn4 ⟨hd 1 0 15 7, 0, 8, 0x10, 0⟩, []) := by decide
theorem test_decode_subscription : decode [0xD10000F700000000] = .ok (.subsync ⟨hd 0 0 15 7, 0, 0, 0, 0⟩, []) := by decide
theorem test_decode_system : decode [0xD81000F200000042] = .ok (.sysc ⟨hd 1 0 15 2, 0, 0x42⟩, []) := by decide
theorem test_decode_privileged : decode [0xDA100007C0001000] = .ok (.pread ⟨hd 1 0 0 7, 0xC0, 0, 0x1000⟩, []) := by decide

theorem test_decode_refuses_headers : decode [0xFF8300048C100000] = .error .header := by decide
theorem test_decode_refuses_missing_words : decode [0xB11000F100D4DC00, 1, 2, 3] = .error .truncated := by decide

/-! ### Ill-formed terms -/

theorem smoke_reserved_source : ¬ WellFormed (.iadd (opA 15 8 0xFF 4 0)) := fun h => absurd h.2.1 (by decide)
theorem smoke_odd_pair : ¬ WellFormed (.iadd (opA 15 8 3 4 1)) := fun h => absurd h.2.1 (by decide)
theorem smoke_constant_destination : ¬ WellFormed (.umov (opA 0 0x08 2 0 0)) := fun h => absurd h.2.1 (by decide)
theorem smoke_reserved_modifier : ¬ WellFormed (.iadd (opA 15 8 2 4 8)) := fun h => absurd h.2.1 (by decide)
theorem smoke_shift_amount : ¬ WellFormed (.shl (opA 15 8 2 0 0x82)) := fun h => absurd h.2.1 (by decide)
theorem smoke_uniform_from_vector : ¬ WellFormed (.iadd (opA 15 0xC4 2 4 0)) := fun h => absurd h.2.1 (by decide)
theorem smoke_form_of_hmov : ¬ WellFormed (.hmovH (opA 0 0 1 0 2)) := fun h => absurd h.1 (by decide)
theorem smoke_assigned_opcode : ¬ WellFormed (.unimplementedOpcode ⟨hdr 15, 0x002, 0⟩) := fun h => absurd h.1 (by decide)
theorem smoke_header_opcode : ¬ WellFormed (.unimplementedOpcode ⟨hdr 15, 0x1FF, 0⟩) := fun h => absurd h.1 (by decide)
theorem smoke_event : ¬ WellFormed .reset := fun h => absurd h.1 (by decide)
theorem smoke_flag : ¬ WellFormed (.iadd (opA 12 8 2 4 0)) := fun h => absurd h.2.2 (by show ¬ ((12 : Nat) ≤ 11 ∨ (12 : Nat) = 15); decide)

end Sys2Proof.Tests
end

namespace Sys2Proof.Machine

/-! ## Bytes of a run and little-endian words (O12) -/

@[simp] theorem leBytes_length (n v : Nat) : (leBytes n v).length = n := by simp [leBytes]

theorem getElem_leBytes {n v k : Nat} (hk : k < (leBytes n v).length) : (leBytes n v)[k] = BitVec.ofNat 8 (v / 256 ^ k) := by
  simp [leBytes]

theorem leBytes_succ (n v : Nat) : leBytes (n + 1) v = BitVec.ofNat 8 v :: leBytes n (v / 256) := by
  simp [leBytes, List.range_succ_eq_map, Nat.div_div_eq_div_mul, Nat.pow_succ, Nat.mul_comm]

/-- The little-endian value of the bytes of a number is the number, cut to their width. -/
theorem leNat_leBytes (n v : Nat) : leNat (leBytes n v) = v % 256 ^ n := by
  induction n generalizing v with
  | zero => simp [leBytes, leNat, Nat.mod_one]
  | succ n ih => rw [leBytes_succ, leNat, ih, BitVec.toNat_ofNat, Nat.pow_succ' (m := 256) (n := n), Nat.mod_mul]

/-- A run of bytes reads back where it was written. -/
theorem readMem_writeRun_at {s : State} {pa k : Nat} {vs : List Byte} (h : Memory.wf s.mem = true) (hk : k < vs.length) :
    (s.writeRun pa vs).readMem (pa + k) = vs[k] := by
  simp [readMem_writeRun h, hk]

/-- Outside a written run every address keeps its byte. -/
theorem readMem_writeRun_outside {s : State} {pa a : Nat} {vs : List Byte} (h : Memory.wf s.mem = true)
    (ha : a < pa ∨ pa + vs.length ≤ a) : (s.writeRun pa vs).readMem a = s.readMem a := by
  rw [readMem_writeRun h]
  split
  · rw [List.getElem?_eq_none (by omega)]; rfl
  · rfl

/-- The word read where a run of eight bytes was written is their little-endian value. -/
theorem read8_writeRun {s : State} {pa : Nat} {vs : List Byte} (h : Memory.wf s.mem = true) (hl : vs.length = 8) :
    (s.writeRun pa vs).read8 pa = leNat vs := by
  unfold State.read8
  congr 1
  refine List.ext_getElem (by simp [hl]) fun k h1 h2 => ?_
  rw [List.getElem_map, List.getElem_range, readMem_writeRun_at h h2]

/-- Settles O12: a run of bytes is read through the table that holds it, and a word is the run of its eight bytes. -/
theorem memoryReadsWhatWasWritten : Obligations.MemoryReadsWhatWasWritten := by
  intro s pa a vs v h t
  refine ⟨wf_writeRun h, fun k hk => readMem_writeRun_at h hk, readMem_writeRun_outside h, ?_, fun k hk => ?_⟩
  · rw [read8_writeRun h (leBytes_length ..), leNat_leBytes]
    exact Nat.mod_eq_of_lt v.isLt
  · rw [readMem_writeRun_at h (by simpa using hk), getElem_leBytes]
    refine BitVec.eq_of_toNat_eq ?_
    rw [BitVec.toNat_ofNat, BitVec.extractLsb'_toNat, Nat.shiftRight_eq_div_pow, Nat.pow_mul]

/-! ## What the operations over splits leave alone

A trap, a merge, a fall-through or the end of a wait changes grids, blocks, the recorder, the numbers given out and the instructions
under way. `State.outside` is everything else; each operation keeps it, and with it memory, the packets, the leases and the ports. -/

/-- The state but for what operations over splits change, with the power of each domain's banks. -/
def State.outside (s : State) : State × (Nat → Power) :=
  ({ s with grids := [], blocks := [], domains := [], fresh := 0, issued := [] }, fun d => (s.dom d).banks)

/-- What every step of a fold keeps, the fold keeps. -/
theorem foldl_keeps {α β γ : Type} (p : α → γ) {f : α → β → α} (hf : ∀ a b, p (f a b) = p a) (l : List β) (a : α) :
    p (l.foldl f a) = p a :=
  List.foldlRecOn l f (motive := fun t => p t = p a) rfl fun t ht b _ => (hf t b).trans ht

theorem State.mem_of_outside {s t : State} (h : t.outside = s.outside) : t.mem = s.mem := congrArg (fun q => q.1.mem) h

@[simp] theorem State.modGrid_outside (s : State) (g : Nat) (f : Grid → Grid) : (s.modGrid g f).outside = s.outside := rfl
@[simp] theorem State.modBlock_outside (s : State) (b : BRef) (f : Block → Block) : (s.modBlock b f).outside = s.outside := rfl
@[simp] theorem State.modCohort_outside (s : State) (c : CRef) (f : Cohort → Cohort) : (s.modCohort c f).outside = s.outside := rfl
@[simp] theorem State.modSplit_outside (s : State) (r : SRef) (f : Split → Split) : (s.modSplit r f).outside = s.outside := rfl
@[simp] theorem State.bump_outside (s : State) : s.bump.outside = s.outside := rfl

/-- A change of a domain to something other than the default reads back, in any table. -/
theorem State.dom_modDom {s : State} {d : Nat} {f : Domain → Domain} (hf : f (s.dom d) ≠ {}) (e : Nat) :
    (s.modDom d f).dom e = if e = d then f (s.dom d) else s.dom e := tget_tput_ne hf

theorem State.record_banks (s : State) (d ty core pay e : Nat) : ((s.record d ty core pay).dom e).banks = (s.dom e).banks := by
  unfold State.record
  split
  · rfl
  · rw [State.dom_modDom (fun h => Nat.succ_ne_zero _ (congrArg Domain.events h))]
    split
    · next h => rw [h]
    · rfl

@[simp] theorem State.record_outside (s : State) (d ty core pay : Nat) : (s.record d ty core pay).outside = s.outside := by
  refine Prod.ext ?_ (funext (s.record_banks d ty core pay))
  unfold State.record
  split <;> rfl

@[simp] theorem State.finishIssue_outside (s : State) (uid : Nat) : (s.finishIssue uid).outside = s.outside := by
  unfold State.finishIssue
  split <;> rfl

@[simp] theorem State.endGrid_outside (s : State) (g : Nat) (key : Nat × Nat × Nat) (status : Nat) (team : Option (Nat × Nat)) :
    (s.endGrid g key status team).outside = s.outside := rfl

@[simp] theorem State.endByTrap_outside (s : State) (g : Grid) (b : Block) (c : Cohort) (lane cause : Nat) (team : Bool) :
    (s.endByTrap g b c lane cause team).outside = s.outside := by simp [State.endByTrap]

@[simp] theorem State.trapEntry_outside (s : State) (r : SRef) (ts : Mask) (t : Trap) : (s.trapEntry r ts t).outside = s.outside := by
  unfold State.trapEntry
  split
  · split
    · rfl
    · dsimp only
      split
      · exact State.endByTrap_outside ..
      · split
        · exact State.endByTrap_outside ..
        · split
          · rfl
          · split
            · exact State.endByTrap_outside ..
            · rfl
  · rfl

@[simp] theorem State.enterAt_outside (s : State) (r : SRef) (a w : DWord) (merged : Bool) :
    (s.enterAt r a w merged).outside = s.outside := rfl

@[simp] theorem State.enterHeader_outside (s : State) (r : SRef) (merged : Bool) : (s.enterHeader r merged).outside = s.outside := by
  unfold State.enterHeader
  split
  · split
    · rfl
    · split
      · exact State.trapEntry_outside ..
      · rfl
  · rfl

@[simp] theorem State.mergeGroup_outside (s : State) (cr : CRef) (g : List Split) : (s.mergeGroup cr g).outside = s.outside := by
  unfold State.mergeGroup
  split
  · rfl
  · exact State.enterHeader_outside ..

@[simp] theorem State.mergeAll_outside (cr : CRef) (n : Nat) (s : State) : (State.mergeAll cr n s).outside = s.outside := by
  induction n generalizing s with
  | zero => rfl
  | succ n ih =>
    unfold State.mergeAll
    split
    · rfl
    · rw [ih, State.mergeGroup_outside]

@[simp] theorem State.remerge_outside (s : State) (cr : CRef) : (s.remerge cr).outside = s.outside := State.mergeAll_outside ..

@[simp] theorem State.enterBlock_outside (s : State) (r : SRef) : (s.enterBlock r).outside = s.outside := by
  unfold State.enterBlock
  split
  · split
    · rfl
    · split
      · exact State.enterHeader_outside ..
      · split
        · split
          · rfl
          · split
            · exact State.trapEntry_outside ..
            · exact State.remerge_outside ..
        · exact State.enterHeader_outside ..
  · rfl

@[simp] theorem State.settle_outside (s : State) (r : SRef) : (s.settle r).outside = s.outside := by
  unfold State.settle
  split
  · split
    · exact State.enterBlock_outside ..
    · rfl
  · rfl

@[simp] theorem State.heldTrap_outside (s : State) (r : SRef) (fs : List LaneFault) : (s.heldTrap r fs).outside = s.outside := by
  unfold State.heldTrap
  split
  · exact State.trapEntry_outside ..
  · rfl

@[simp] theorem State.release_outside (s : State) (r : SRef) (past : Nat) : (s.release r past).outside = s.outside :=
  State.settle_outside ..

@[simp] theorem State.releaseRest_outside (s : State) (r : SRef) (all bad : Mask) : (s.releaseRest r all bad).outside = s.outside := by
  unfold State.releaseRest
  split
  · rfl
  · exact State.release_outside ..

@[simp] theorem State.lookAgain_outside (s : State) (r : SRef) (sector : Nat) : (s.lookAgain r sector).outside = s.outside := by
  unfold State.lookAgain
  split
  · split
    · split
      · dsimp only
        split <;> simp only [State.releaseRest_outside, State.finishIssue_outside, State.heldTrap_outside, State.modSplit_outside]
      · rfl
    · rfl
  · rfl

/-- The splits that wait for a write look again: memory, packets, leases and ports stay as they are. -/
@[simp] theorem State.wakeWaitm_outside (s : State) (sector : Nat) : (s.wakeWaitm sector).outside = s.outside :=
  foldl_keeps State.outside (fun t r => State.lookAgain_outside t r sector) _ _

/-! ## What leaves memory as it is

Each operation of the model that writes no memory has the memory of the state that it starts from. -/

theorem foldl_mem {β : Type} {f : State → β → State} (hf : ∀ s b, (f s b).mem = s.mem) (l : List β) (s : State) :
    (l.foldl f s).mem = s.mem := foldl_keeps State.mem hf l s

@[simp] theorem State.tlbPut_mem (s : State) (core : Nat) (e : TlbEntry) : (s.tlbPut core e).mem = s.mem := by
  unfold State.tlbPut
  dsimp only
  split <;> rfl

@[simp] theorem State.tlbFill_mem (s : State) (core : Nat) (g : Grid) (va : DWord) : (s.tlbFill core g va).mem = s.mem := by
  unfold State.tlbFill
  dsimp only
  split
  · rfl
  · split
    · rfl
    · exact State.tlbPut_mem ..

@[simp] theorem State.askWalk_mem (s : State) (q : WalkReq) : (s.askWalk q).mem = s.mem := by
  unfold State.askWalk
  split <;> rfl

@[simp] theorem State.forgetWalk_mem (s : State) (core : Nat) (g : Grid) (va : Nat) : (s.forgetWalk core g va).mem = s.mem := rfl

@[simp] theorem State.launchAccess_mem (s : State) (a : Access) : (s.launchAccess a).mem = s.mem := rfl

@[simp] theorem State.askCode_mem (s : State) (core line : Nat) : (s.askCode core line).mem = s.mem := by
  unfold State.askCode
  split <;> rfl

@[simp] theorem State.finishIssue_mem (s : State) (uid : Nat) : (s.finishIssue uid).mem = s.mem := State.mem_of_outside (by simp)

@[simp] theorem State.stopGrid_mem (s : State) (g : Nat) : (s.stopGrid g).mem = s.mem := rfl

@[simp] theorem State.endGrid_mem (s : State) (g : Nat) (key : Nat × Nat × Nat) (status : Nat) (team : Option (Nat × Nat)) :
    (s.endGrid g key status team).mem = s.mem := State.mem_of_outside (by simp)

@[simp] theorem State.closeGrids_mem (s : State) : s.closeGrids.mem = s.mem :=
  foldl_mem (fun s g => by split <;> rfl) _ _

@[simp] theorem State.endByTrap_mem (s : State) (g : Grid) (b : Block) (c : Cohort) (lane cause : Nat) (team : Bool) :
    (s.endByTrap g b c lane cause team).mem = s.mem := State.mem_of_outside (by simp)

@[simp] theorem State.trapEntry_mem (s : State) (r : SRef) (ts : Mask) (t : Trap) :
    (s.trapEntry r ts t).mem = s.mem := State.mem_of_outside (by simp)

@[simp] theorem State.enterAt_mem (s : State) (r : SRef) (a w : DWord) (merged : Bool) :
    (s.enterAt r a w merged).mem = s.mem := State.mem_of_outside (by simp)

@[simp] theorem State.enterHeader_mem (s : State) (r : SRef) (merged : Bool) :
    (s.enterHeader r merged).mem = s.mem := State.mem_of_outside (by simp)

@[simp] theorem State.mergeGroup_mem (s : State) (cr : CRef) (g : List Split) :
    (s.mergeGroup cr g).mem = s.mem := State.mem_of_outside (by simp)

@[simp] theorem State.remerge_mem (s : State) (cr : CRef) : (s.remerge cr).mem = s.mem := State.mem_of_outside (by simp)

@[simp] theorem State.enterBlock_mem (s : State) (r : SRef) : (s.enterBlock r).mem = s.mem := State.mem_of_outside (by simp)

@[simp] theorem State.settle_mem (s : State) (r : SRef) : (s.settle r).mem = s.mem := State.mem_of_outside (by simp)

@[simp] theorem State.part?_mem (s : State) (r : SRef) (ls all : Mask) (pc : DWord) : (s.part? r ls all pc).1.mem = s.mem := by
  unfold State.part?
  split
  · rfl
  · split <;> rfl

@[simp] theorem State.capSplits_mem (s : State) (r : SRef) (need : Mask) (n : Nat) : (s.capSplits r need n).mem = s.mem := by
  unfold State.capSplits
  split
  · split
    · exact State.endByTrap_mem ..
    · rfl
  · rfl

@[simp] theorem State.trapReturn_mem (s : State) (r : SRef) (rs : Mask) (w : DWord) : (s.trapReturn r rs w).mem = s.mem := by
  have arrives (t : State) (nr : SRef) : (if isHeader w then t.enterBlock nr else t.settle nr).mem = t.mem := by
    split
    · exact State.enterBlock_mem ..
    · exact State.settle_mem ..
  have divides (t : State) (whole : Bool) (nr : SRef) :
      (if whole then (if whole then t else t.bump) else (if whole then t else t.bump).capSplits nr rs 1).mem = t.mem := by
    cases whole
    · exact State.capSplits_mem ..
    · rfl
  unfold State.trapReturn
  split
  · split
    · rfl
    · exact (arrives _ _).trans (divides _ _ _)
  · rfl

theorem State.beginIssue_stop_mem {s u : State} {i : Instr} (h : s.beginIssue i = .stop u) : u.mem = s.mem := by
  unfold State.beginIssue at h
  split at h
  · injection h with h; rw [h]
  · dsimp only at h
    split at h
    · split at h
      · exact absurd h (by simp)
      · injection h with h; rw [← h]
    · injection h with h; rw [← h]

theorem State.beginIssue_go_mem {s u : State} {i : Instr} {x : Ctx} (h : s.beginIssue i = .go x u) : u.mem = s.mem := by
  obtain ⟨-, -, -, -, hu⟩ := beginIssue_go h
  rw [hu]
  rfl

@[simp] theorem Ctx.raise_mem (x : Ctx) (s : State) (fs : List LaneFault) : (x.raise s fs).mem = s.mem := by
  unfold Ctx.raise
  split
  · rfl
  · exact State.trapEntry_mem ..

@[simp] theorem Ctx.raiseAll_mem (x : Ctx) (s : State) (cause : Nat) (addr : DWord) (gpa : Nat) :
    (x.raiseAll s cause addr gpa).mem = s.mem :=
  by simp [Ctx.raiseAll]

@[simp] theorem Ctx.owe_mem (x : Ctx) (s : State) (k : Cls) (ls : Mask) (os : List (Reg × (Nat → Word))) :
    (x.owe s k ls os).mem = s.mem := by
  unfold Ctx.owe
  split <;> rfl

@[simp] theorem Ctx.note_mem (x : Ctx) (s : State) (ls : Mask) (fin : Finish) : (x.note s ls fin).mem = s.mem := by
  unfold Ctx.note
  split <;> rfl

@[simp] theorem State.countFlag_mem (s : State) (uid : Nat) (r : SRef) (ls : Mask) (f : Option Nat) (fin : Finish) :
    (s.countFlag uid r ls f fin).mem = s.mem := by
  unfold State.countFlag
  split <;> rfl

@[simp] theorem Ctx.compute_mem (x : Ctx) (s : State) (k : Cls) (os : List (Reg × (Nat → Word))) : (x.compute s k os).mem = s.mem :=
  by simp [Ctx.compute]

@[simp] theorem Ctx.narrowing_mem (x : Ctx) (s : State) (os : List (Reg × (Nat → Word))) (ovf : Nat) :
    (x.narrowing s os ovf).mem = s.mem :=
  by simp [Ctx.narrowing]

@[simp] theorem Ctx.complete_mem (x : Ctx) (s : State) (os : List (Reg × (Nat → Word))) : (x.complete s os).mem = s.mem :=
  by simp [Ctx.complete]

@[simp] theorem Ctx.completeSome_mem (x : Ctx) (s : State) (fs : List LaneFault) (os : List (Reg × (Nat → Word))) :
    (x.completeSome s fs os).mem = s.mem := by
  unfold Ctx.completeSome
  rw [Ctx.raise_mem]
  split
  · rfl
  · exact Ctx.complete_mem ..

@[simp] theorem Ctx.pulse_mem (x : Ctx) (s : State) : (x.pulse s).mem = s.mem := by simp [Ctx.pulse]

@[simp] theorem Ctx.hold_mem (x : Ctx) (s : State) (kind : HoldKind) (stay : Bool) : (x.hold s kind stay).mem = s.mem := rfl

@[simp] theorem State.heldTrap_mem (s : State) (r : SRef) (fs : List LaneFault) :
    (s.heldTrap r fs).mem = s.mem := State.mem_of_outside (by simp)

@[simp] theorem State.release_mem (s : State) (r : SRef) (past : Nat) : (s.release r past).mem = s.mem := State.mem_of_outside (by simp)

@[simp] theorem State.releaseRest_mem (s : State) (r : SRef) (all bad : Mask) :
    (s.releaseRest r all bad).mem = s.mem := State.mem_of_outside (by simp)

@[simp] theorem comparison_mem (x : Ctx) (s : State) (k : Cls) (pd pn : Nat) (f : Nat → Bool) : (comparison x s k pd pn f).mem = s.mem :=
  by simp [comparison]

@[simp] theorem narrow_mem (x : Ctx) (s : State) (d : BitVec 8) (val : Nat → Nat × Bool) : (narrow x s d val).mem = s.mem :=
  by simp [narrow]

@[simp] theorem State.closeChunk_mem (s : State) (core id : Nat) : (s.closeChunk core id).mem = s.mem := by
  unfold State.closeChunk
  repeat' split
  all_goals rfl

@[simp] theorem State.forwardByte_mem (core id : Nat) (s : State) (w : Nat × Byte) : (State.forwardByte core id s w).mem = s.mem := by
  unfold State.forwardByte
  rw [State.modCore_mem]
  split
  · split
    · rfl
    · exact State.closeChunk_mem ..
  · rfl

@[simp] theorem State.forward_mem (s : State) (br : BRef) (ws : List (Nat × Byte)) : (s.forward br ws).mem = s.mem := by
  unfold State.forward
  split
  · rfl
  · refine foldl_mem ?_ _ _
    intro s p
    exact foldl_mem (State.forwardByte_mem p.1 p.2.id) _ _

@[simp] theorem State.forwardAll_mem (s : State) (br : BRef) (offs : List Nat) : (s.forwardAll br offs).mem = s.mem := by
  unfold State.forwardAll
  split <;> simp

@[simp] theorem State.wakeBarb_mem (s : State) (br : BRef) : (s.wakeBarb br).mem = s.mem := by
  unfold State.wakeBarb
  split
  · rfl
  · exact foldl_mem (fun s c => foldl_mem (fun s p => by
      split
      · split
        · dsimp only
          split
          · rw [State.release_mem, State.finishIssue_mem]
          · rfl
        · rfl
      · rfl) _ _) _ _

@[simp] theorem State.scratchWrite_mem (s : State) (br : BRef) (ws : List (Nat × Byte)) (fwd : Bool) :
    (s.scratchWrite br ws fwd).mem = s.mem := by
  unfold State.scratchWrite
  split <;> simp

@[simp] theorem State.barbAdd_mem (s : State) (br : BRef) (off : Nat) (arm : Bool) (delta : Int) :
    (s.barbAdd br off arm delta).mem = s.mem := by
  unfold State.barbAdd
  split <;> simp

@[simp] theorem State.storeIssued_mem (s : State) (core : Nat) (lines : List Nat) : (s.storeIssued core lines).mem = s.mem := rfl

@[simp] theorem State.l2Drop_mem (s : State) (d ln : Nat) : (s.l2Drop d ln).mem = s.mem := rfl

@[simp] theorem State.l2Yield_mem (s : State) (d pa : Nat) : (s.l2Yield d pa).mem = s.mem := rfl

@[simp] theorem State.l2Place_mem (s : State) (d pa part : Nat) (dirty : Bool) (hint : Nat) :
    (s.l2Place d pa part dirty hint).mem = s.mem :=
  rfl

@[simp] theorem State.l2Bring_mem (s : State) (d pa part : Nat) (dirty : Bool) (hint : Nat) :
    (s.l2Bring d pa part dirty hint).mem = s.mem := by
  unfold State.l2Bring
  split <;> rfl

@[simp] theorem State.touchDomain_mem (s : State) (d : Nat) : (s.touchDomain d).mem = s.mem := rfl

@[simp] theorem State.touchBanks_mem (s : State) (pa : Nat) : (s.touchBanks pa).mem = s.mem := by
  unfold State.touchBanks
  split <;> rfl

@[simp] theorem State.dirAdd_mem (s : State) (d pa : Nat) : (s.dirAdd d pa).mem = s.mem := rfl

@[simp] theorem State.grantLease_mem (s : State) (d core pa llen hint : Nat) : (s.grantLease d core pa llen hint).mem = s.mem := rfl

@[simp] theorem State.bankServed_mem (s : State) (d pa part hint : Nat) : (s.bankServed d pa part hint).mem = s.mem := by
  unfold State.bankServed
  repeat' split
  all_goals simp

@[simp] theorem goTo_mem (s : State) (r : SRef) (all : Mask) (groups : List (DWord × Mask)) : (goTo s r all groups).mem = s.mem := by
  unfold goTo
  dsimp only
  rw [foldl_mem State.enterBlock_mem, State.capSplits_mem]
  exact foldl_keeps (fun q : State × List SRef => q.1.mem) (fun q g => State.part?_mem ..) groups (s, [])

@[simp] theorem branch_mem (x : Ctx) (s : State) (taken : Mask) (target : DWord) (fin : State → State)
    (hf : ∀ s, (fin s).mem = s.mem) : (branch x s taken target fin).mem = s.mem := by
  unfold branch
  split
  · exact hf s
  · split
    · dsimp only
      split
      · exact hf s
      · rw [goTo_mem, hf]
    · exact Ctx.raise_mem ..

@[simp] theorem branchEach_mem (x : Ctx) (s : State) (f : Nat → DWord) (fin : Ctx → State → State)
    (hf : ∀ y s, (fin y s).mem = s.mem) : (branchEach x s f fin).mem = s.mem := by
  have hr (fs : List LaneFault) (y : Ctx) : (x.raise (if y.ex == 0#64 then s else fin y s) fs).mem = s.mem := by
    rw [Ctx.raise_mem]
    split
    · rfl
    · exact hf y s
  unfold branchEach
  dsimp only
  split
  · exact hr ..
  · rw [goTo_mem, hr]

@[simp] theorem exitLanes_mem (s : State) (r : SRef) (ls : Mask) : (exitLanes s r ls).mem = s.mem := by simp [exitLanes]

@[simp] theorem vacateSeat_mem (s : State) (br : BRef) (t q : Nat) : (vacateSeat s br t q).mem = s.mem := by
  unfold vacateSeat
  split
  · rfl
  · dsimp only
    split
    · exact foldl_mem State.finishIssue_mem _ _
    · rfl

@[simp] theorem leaveTeam_mem (s : State) (cr : CRef) : (leaveTeam s cr).mem = s.mem := by
  unfold leaveTeam
  split <;> simp

@[simp] theorem freeCohort_mem (s : State) (cr : CRef) : (freeCohort s cr).mem = s.mem := by
  have vacate (u : State) : (if u.hasBegun cr then u else leaveTeam u cr).mem = u.mem := by
    split
    · rfl
    · exact leaveTeam_mem ..
  unfold freeCohort
  split
  · split
    · rw [State.modBlock_mem, vacate]
      split
      · exact State.finishIssue_mem ..
      · rfl
    · rfl
  · rfl

@[simp] theorem Ctx.fillTlb_mem (x : Ctx) (s : State) (ls : List Nat) (addr : Nat → DWord) : (x.fillTlb s ls addr).mem = s.mem := by
  unfold Ctx.fillTlb
  split
  · rfl
  · exact foldl_mem (fun s l => State.tlbFill_mem ..) _ _

@[simp] theorem Ctx.plainAccess_mem (x : Ctx) (s : State) (l : Nat) (op : AccOp) (scratch : Bool) (va : DWord)
    (pa size scope : Nat) (bytes : List Byte) (draft covers : Bool) (hint : Nat) :
    (x.plainAccess s l op scratch va pa size scope bytes draft covers hint).mem = s.mem :=
  foldl_mem (fun _ _ => State.launchAccess_mem ..) _ _

@[simp] theorem State.askCheckpoint_mem (s : State) (b : BRef) (forcer : Option SRef) : (s.askCheckpoint b forcer).mem = s.mem := rfl

@[simp] theorem State.finishStore_mem (s : State) (uid : Nat) (drafted : Bool) : (s.finishStore uid drafted).mem = s.mem := by
  unfold State.finishStore
  repeat' split
  all_goals simp

@[simp] theorem State.lookAgain_mem (s : State) (r : SRef) (sector : Nat) :
    (s.lookAgain r sector).mem = s.mem := State.mem_of_outside (by simp)

@[simp] theorem State.wakeWaitm_mem (s : State) (sector : Nat) : (s.wakeWaitm sector).mem = s.mem := State.mem_of_outside (by simp)

@[simp] theorem State.setAccess_mem (s : State) (id : Nat) (f : Access → Access) : (s.setAccess id f).mem = s.mem := rfl

@[simp] theorem State.fixLoad_mem (s : State) (a : Access) : (s.fixLoad a).mem = s.mem := rfl

@[simp] theorem State.draftWrite_mem (s : State) (b : BRef) (pa : Nat) (bytes : List Byte) (count : Option Nat) :
    (s.draftWrite b pa bytes count).mem = s.mem := by
  unfold State.draftWrite
  rw [State.wakeWaitm_mem]
  split
  · exact State.l2Yield_mem ..
  · rfl

@[simp] theorem State.sendRequest_mem (s : State) (a : Access) : (s.sendRequest a).mem = s.mem := by
  unfold State.sendRequest
  repeat' split
  all_goals rfl

@[simp] theorem State.moveOn_mem (s : State) (a : Access) : (s.moveOn a).mem = s.mem := rfl

@[simp] theorem State.allocate_mem (s : State) (d : Nat) (a : Access) : (s.allocate d a).mem = s.mem := by
  unfold State.allocate
  repeat' split
  all_goals rfl

@[simp] theorem State.serveLoad_mem (s : State) (a : Access) : (s.serveLoad a).mem = s.mem := by
  unfold State.serveLoad
  split
  · exact State.fixLoad_mem ..
  · exact (foldl_mem (fun t b => by split <;> simp) _ _).trans (by simp)

@[simp] theorem State.serveWatch_mem (s : State) (a : Access) : (s.serveWatch a).mem = s.mem := by
  unfold State.serveWatch
  dsimp only
  refine (foldl_mem (fun u r => State.lookAgain_mem ..) _ _).trans ?_
  split
  · exact State.bankServed_mem ..
  · rfl

@[simp] theorem State.servePref_mem (s : State) (a : Access) : (s.servePref a).mem = s.mem := by
  unfold State.servePref
  repeat' split
  all_goals simp

@[simp] theorem State.serveCode_mem (s : State) (a : Access) : (s.serveCode a).mem = s.mem := by simp [State.serveCode]

@[simp] theorem State.wakeCode_mem (s : State) (core line : Nat) : (s.wakeCode core line).mem = s.mem :=
  foldl_mem (fun s r => by
    split
    · split
      · split <;> rfl
      · rfl
    · rfl) _ _

@[simp] theorem State.landCode_mem (s : State) (a : Access) : (s.landCode a).mem = s.mem := by simp [State.landCode]

@[simp] theorem State.poisonTrap_mem (s : State) (c : CRef) (ls : List (Nat × DWord)) (word pc : DWord) :
    (s.poisonTrap c ls word pc).mem = s.mem := by
  unfold State.poisonTrap
  split
  · rfl
  · refine foldl_mem (fun s id => ?_) _ _
    split
    · rfl
    · dsimp only
      split
      · exact State.trapEntry_mem ..
      · split
        · exact State.trapEntry_mem ..
        · split
          · rw [State.finishIssue_mem, State.trapEntry_mem]; rfl
          · rw [State.release_mem, State.finishIssue_mem, State.trapEntry_mem]; rfl

@[simp] theorem replyTo_mem (s : State) (uid : Nat) : (replyTo s uid).mem = s.mem := by
  unfold replyTo
  repeat' split
  all_goals simp

@[simp] theorem State.addOrders_mem (s : State) (c : CRef) (os : List Order) : (s.addOrders c os).mem = s.mem := rfl

@[simp] theorem Ctx.atomAccess_mem (x : Ctx) (s : State) (a : Access) (ls : List Nat) (code : Nat) :
    (x.atomAccess s a ls code).mem = s.mem := by
  unfold Ctx.atomAccess
  dsimp only
  split <;> rfl

@[simp] theorem State.closeChunks_mem (s : State) (cores : List Nat) : (s.closeChunks cores).mem = s.mem :=
  by simp [State.closeChunks, foldl_mem]

@[simp] theorem State.arrive_mem (s : State) (br : BRef) (id count n : Nat) (sub : Bool) : (s.arrive br id count n sub).mem = s.mem := by
  unfold State.arrive
  repeat' split
  all_goals simp

@[simp] theorem State.finishPhase_mem (s : State) (br : BRef) (id : Nat) : (s.finishPhase br id).mem = s.mem := by
  unfold State.finishPhase
  split
  · rfl
  · exact foldl_mem (fun s q => by rw [State.release_mem, State.finishIssue_mem]) _ _

@[simp] theorem settleBarriers_mem (n : Nat) (s : State) : (settleBarriers n s).mem = s.mem := by
  induction n generalizing s with
  | zero => rfl
  | succ n ih =>
    unfold settleBarriers
    split
    · split
      · rw [ih]; rfl
      · rw [ih, State.finishPhase_mem]
    · split
      · dsimp only
        rw [ih, State.arrive_mem]; rfl
      · rfl

@[simp] theorem State.settleAll_mem (s : State) : s.settleAll.mem = s.mem := settleBarriers_mem ..

@[simp] theorem arriveAt_mem (x : Ctx) (s : State) (id count : Nat) (sub : Bool) : (arriveAt x s id count sub).mem = s.mem := by
  unfold arriveAt
  dsimp only
  split
  · rw [Ctx.hold_mem, Ctx.note_mem]
  · rw [State.settleAll_mem, State.arrive_mem, Ctx.hold_mem, Ctx.note_mem]

@[simp] theorem queueStep_mem (g : Grid) (br : BRef) (push : Bool) (s : State) (off : Nat) (v : DWord) :
    (queueStep g br push s off v).1.mem = s.mem := by
  unfold queueStep
  split
  · rfl
  · split
    · rfl
    · dsimp only
      split
      · rfl
      · split <;> exact State.scratchWrite_mem ..

@[simp] theorem queueLanes_mem (g : Grid) (br : BRef) (push : Bool) (s : State) (ls : List (Nat × Nat × DWord)) :
    (queueLanes g br push s ls).1.mem = s.mem :=
  foldl_keeps (fun q : State × List ((Nat × Nat × DWord) × QueueOut) => q.1.mem) (fun _ _ => queueStep_mem ..) ls (s, [])

@[simp] theorem queueRun_mem (g : Grid) (br : BRef) (push : Bool) (s : State) (ls : List (Nat × Nat × DWord)) :
    (queueRun g br push s ls).1.mem = s.mem := by
  unfold queueRun
  rw [State.forwardAll_mem, queueLanes_mem]

@[simp] theorem State.fillPops_mem (s : State) (c : CRef) (uid : Nat) (outs : List ((Nat × Nat × DWord) × QueueOut)) :
    (s.fillPops c uid outs).mem = s.mem :=
  rfl

@[simp] theorem queueResume_mem (r : SRef) (h : Hold) (left : List (Nat × Nat × DWord)) (push : Bool) (s : State) :
    (queueResume r h left push s).mem = s.mem := by
  unfold queueResume
  dsimp only
  split
  · split
    · rfl
    · split
      · split
        · rw [State.modSplit_mem, State.modBlock_mem]
          split <;> simp
        · rfl
      · split <;> simp
  · rfl

@[simp] theorem State.resolve_mem (s : State) (b : BRef) (op code : Nat) (cancelled : Bool) (count : Nat) (addr : DWord) :
    (s.resolve b op code cancelled count addr).mem = s.mem :=
  rfl

@[simp] theorem State.setHandle_mem (s : State) (c : CRef) (h : Nat) (v : Handle) : (s.setHandle c h v).mem = s.mem := rfl

@[simp] theorem State.beginPage_mem (s : State) (op : CopyOp) (g : Grid) (isDst : Bool) (a : Nat) :
    (s.beginPage op g isDst a).mem = s.mem := by
  unfold State.beginPage
  repeat' split
  all_goals simp

@[simp] theorem State.dropCopies_mem (s : State) (lines : List Nat) : (s.dropCopies lines).mem = s.mem := rfl

@[simp] theorem State.dropClaims_mem (s : State) (id : Nat) (keep : Option Nat) : (s.dropClaims id keep).mem = s.mem := rfl

@[simp] theorem State.claim_mem (s : State) (op : CopyOp) (pa : Nat) : (s.claim op pa).mem = s.mem := by
  unfold State.claim
  split <;> rfl

@[simp] theorem State.overlapped_mem (s : State) (op : CopyOp) (place : Nat) (v : Byte) : (s.overlapped op place v).2.mem = s.mem := by
  unfold State.overlapped
  split
  · split <;> rfl
  · rfl

theorem readSource_mem {s t : State} {op : CopyOp} {g : Grid} {fromGlob : Bool} {a : Nat} {v : Byte}
    (h : readSource s op g fromGlob a = .ok (v, t)) : t.mem = s.mem := by
  have kept {u : State} {place : Nat} {w : Byte}
      (hu : (Except.ok (u.overlapped op place w) : Except (Option (Nat × Nat)) (Byte × State)) = .ok (v, t)) : t.mem = u.mem := by
    injection hu with hu
    rw [← u.overlapped_mem op place w, hu]
  unfold readSource at h
  split at h
  · cases h
  · split at h
    · split at h
      · exact kept h
      · cases h
    · split at h
      · cases h
      · split at h
        · cases h
        · dsimp only at h
          split at h
          · split at h
            · cases h
            · split at h
              · cases h
              · injection h with h
                rw [← congrArg (fun q => q.2.mem) h]
                exact State.beginPage_mem ..
          · split at h
            · cases h
            · split at h
              · cases h
              · exact (kept h).trans (State.beginPage_mem ..)

@[simp] theorem State.deliver_mem (s : State) (b : BRef) (off : Nat) (v : Byte) : (s.deliver b off v).mem = s.mem := by simp [State.deliver]

@[simp] theorem State.modCopy_mem (s : State) (id : Nat) (f : CopyOp → CopyOp) : (s.modCopy id f).mem = s.mem := rfl

@[simp] theorem State.countBytes_mem (s : State) (op : CopyOp) (n : Nat) : (s.countBytes op n).mem = s.mem := rfl

theorem readByte_mem {s t : State} {op : CopyOp} {g : Grid} {n : Nat} {v : Byte} (h : readByte s op g n = .ok (v, t)) :
    t.mem = s.mem := by
  unfold readByte at h
  split at h
  split at h
  · exact readSource_mem h
  · cases h; rfl
  · cases h

theorem gather_mem {s t : State} {id n : Nat} (h : gather id n s = .ok t) : t.mem = s.mem := by
  unfold gather at h
  split at h
  · cases h
  · split at h
    · cases h; rfl
    · split at h
      · cases h
      · split at h
        · cases h
        · split at h
          · cases h
          · next u hr =>
            cases h
            have hu : u.mem = s.mem := readByte_mem hr
            exact hu

@[simp] theorem State.askFetch_mem (s : State) (op : CopyOp) (g : Grid) (n : Nat) : (s.askFetch op g n).mem = s.mem := by
  unfold State.askFetch
  split
  split
  · split
    · rfl
    · split
      · exact State.askWalk_mem ..
      · split
        · rfl
        · split
          · rfl
          · exact State.beginPage_mem ..
  · rfl

@[simp] theorem State.serveFetch_mem (s : State) (a : Access) (copy : Nat) : (s.serveFetch a copy).mem = s.mem := by
  unfold State.serveFetch
  split <;> simp

@[simp] theorem State.landFetch_mem (s : State) (a : Access) (copy : Nat) : (s.landFetch a copy).mem = s.mem := by
  unfold State.landFetch
  dsimp only
  split
  · exact foldl_keeps (fun q : State × Nat × List (Nat × Option Byte) => q.1.mem) (fun q v => State.overlapped_mem ..) _ _
  · rfl

@[simp] theorem readAhead_mem (id n k : Nat) (s : State) : (readAhead id n k s).mem = s.mem := by
  induction n generalizing k s with
  | zero => rfl
  | succ n ih =>
    unfold readAhead
    split
    · rfl
    · split
      · exact ih ..
      · split
        · next hg => rw [ih, gather_mem hg]
        · rw [ih]
          split
          · exact State.askFetch_mem ..
          · rfl
        · rfl

theorem sourceFor_mem {s t : State} {id n : Nat} {op : CopyOp} {g : Grid} (h : sourceFor id n op g s = .ok t) : t.mem = s.mem := by
  unfold sourceFor at h
  dsimp only at h
  split at h
  · cases h
  · next u hu =>
    have hm : u.mem = s.mem := by
      refine List.foldlRecOn (motive := fun r : Except (Option (Nat × Nat)) State => ∀ t, r = .ok t → t.mem = s.mem) _ _
        (fun t ht => by cases ht; rfl) (fun r hr i _ t ht => ?_) u hu
      split at ht
      · cases ht
      · next v =>
        have hv : v.mem = s.mem := hr v rfl
        split at ht
        · next hg => cases ht; exact (gather_mem hg).trans hv
        · cases ht
        · split at ht
          · cases ht
          · cases ht; exact hv
    split_ifs at h
    cases h
    exact hm

@[simp] theorem State.dropReads_mem (s : State) (id : Nat) : (s.dropReads id).mem = s.mem := rfl

@[simp] theorem State.endCopy_mem (s : State) (op : CopyOp) (code : Nat) (cancelled : Bool) (count addr : Nat) :
    (s.endCopy op code cancelled count addr).mem = s.mem :=
  rfl

@[simp] theorem State.giveBack_mem (s : State) (id : Nat) : (s.giveBack id).mem = s.mem := rfl

@[simp] theorem State.askLine_mem (s : State) (op : CopyOp) (n : Nat) : (s.askLine op n).mem = s.mem := by
  unfold State.askLine
  split
  · rfl
  · dsimp only
    split
    · split
      · rfl
      · split
        · exact State.askWalk_mem ..
        · split
          · exact State.claim_mem ..
          · rfl
    · rfl
    · refine (foldl_mem (fun t i => ?_) _ _).trans rfl
      split
      · rfl
      · exact State.askFetch_mem ..

@[simp] theorem settlePeer_mem (s : State) (id : Nat) : (settlePeer s id).mem = s.mem := by
  unfold settlePeer
  split
  · rfl
  · split
    · dsimp only
      split
      · split
        · rw [State.endCopy_mem]; split <;> rfl
        · rw [State.endCopy_mem, State.countBytes_mem]; split <;> rfl
      · split <;> rfl
    · rfl

@[simp] theorem State.logFull_mem (s : State) (rb : BRef) : (s.logFull rb).mem = s.mem := by
  unfold State.logFull
  repeat' split
  all_goals rfl

theorem deliverPeer_mem {s t : State} {op : CopyOp} {bit : Nat} (h : deliverPeer s op bit = .next t) : t.mem = s.mem := by
  unfold deliverPeer at h
  split at h
  · split at h
    · cases h
    · split at h
      · split at h
        · cases h
        · split at h
          · cases h
          · cases h
          · next hs =>
            dsimp only at h
            split at h
            · cases h
            · split at h
              · cases h
              · injection h with h
                rw [← h, ← sourceFor_mem hs, State.modCopy_mem]
                split <;> simp
      · cases h
  · cases h

@[simp] theorem peerBytes_mem (id bit n : Nat) (s : State) : (peerBytes id bit n s).mem = s.mem := by
  induction n generalizing s with
  | zero => rfl
  | succ n ih =>
    unfold peerBytes
    split
    · rfl
    · split
      · split
        · split
          · rfl
          · split
            · next hd => rw [ih, deliverPeer_mem hd]
            · split
              · rw [State.logFull_mem, State.askLine_mem]
              · rfl
            · rfl
        · rfl
      · rfl

@[simp] theorem State.setPeerTrip_mem (s : State) (id bit : Nat) (f : Option Trip → Option Trip) : (s.setPeerTrip id bit f).mem = s.mem :=
  rfl

@[simp] theorem peerDelivery_mem (id bit : Nat) (s : State) : (peerDelivery id bit s).mem = s.mem := by
  unfold peerDelivery
  split
  · rfl
  · split
    · rfl
    · split
      · split
        · rfl
        · split
          · exact settlePeer_mem ..
          · split
            · split
              · exact State.askLine_mem ..
              · next t hs =>
                obtain ⟨g, -, hg⟩ := Option.map_eq_some_iff.1 hs
                rw [State.setPeerTrip_mem, State.bump_mem, sourceFor_mem hg]
              · rw [settlePeer_mem, peerBytes_mem]
            · split
              · exact State.setPeerTrip_mem ..
              · split
                · rfl
                · dsimp only
                  rw [settlePeer_mem]
                  split
                  · exact peerBytes_mem ..
                  · rw [State.setPeerTrip_mem, peerBytes_mem]
      · rfl

@[simp] theorem unfill_mem (x : Ctx) (s : State) (dst n : Nat) : (unfill x s dst n).mem = s.mem := rfl

@[simp] theorem State.emptyLatch_mem (s : State) (cr : CRef) : (s.emptyLatch cr).mem = s.mem := rfl

@[simp] theorem assemble_mem (s : State) (cr : CRef) (n : Nat) : (assemble s cr n).mem = s.mem := by
  unfold assemble
  split
  · split
    · rfl
    · dsimp only
      split
      · split
        · rfl
        · split
          · exact State.endByTrap_mem ..
          · rfl
      · rfl
  · rfl

@[simp] theorem State.movePass_mem (s : State) (core : Nat) : (s.movePass core).mem = s.mem := by
  unfold State.movePass
  split <;> rfl

@[simp] theorem State.dropPass_mem (s : State) (b : Block) : (s.dropPass b).mem = s.mem := by
  unfold State.dropPass
  exact foldl_mem (fun s k => State.modCore_mem ..) _ _

@[simp] theorem State.leaveIfFree_mem (s : State) (cr : CRef) (t q : Nat) : (s.leaveIfFree cr t q).mem = s.mem := by
  unfold State.leaveIfFree
  repeat' split
  all_goals simp

@[simp] theorem State.updEntry_mem (s : State) (pub sub : BRef) (n : Nat) (f : SubEntry → Option SubEntry) :
    (s.updEntry pub sub n f).mem = s.mem := by
  unfold State.updEntry
  split <;> rfl

@[simp] theorem State.modRec_mem (s : State) (b : BRef) (n : Nat) (f : SubRec → SubRec) : (s.modRec b n f).mem = s.mem := rfl

@[simp] theorem State.freeEntry_mem (s : State) (e : SubEntry) : (s.freeEntry e).mem = s.mem := by simp [State.freeEntry]

@[simp] theorem State.wakeSubsync_mem (s : State) : s.wakeSubsync.mem = s.mem :=
  foldl_mem (fun s r => by
    split
    · split
      · split
        · rw [State.release_mem, State.finishIssue_mem]
        · rfl
      · rfl
    · rfl) _ _

@[simp] theorem State.endEntry_mem (s : State) (e : SubEntry) : (s.endEntry e).mem = s.mem := by
  unfold State.endEntry
  split
  · rw [foldl_mem State.finishIssue_mem, State.modRec_mem, State.freeEntry_mem]
  · rfl

@[simp] theorem State.settleEntries_mem (s : State) : (s.settleEntries).mem = s.mem := by simp [State.settleEntries, foldl_mem]

@[simp] theorem State.resolveSub_mem (s : State) (q : SubReq) (code count addr : Nat) : (s.resolveSub q code count addr).mem = s.mem := by
  unfold State.resolveSub
  dsimp only
  split
  · exact State.finishIssue_mem ..
  · rw [foldl_mem State.finishIssue_mem, State.modRec_mem, State.finishIssue_mem]
    rfl

@[simp] theorem subscribeRequest_mem (id : Nat) (s : State) : (subscribeRequest id s).mem = s.mem := by
  unfold subscribeRequest
  repeat' split
  all_goals simp

@[simp] theorem snapshotLanded_mem (id : Nat) (s : State) : (snapshotLanded id s).mem = s.mem := by
  unfold snapshotLanded
  split
  · rfl
  · split
    · rfl
    · dsimp only
      refine (foldl_mem ?_ _ _).trans ?_
      · intro s u
        rfl
      · rw [State.updEntry_mem, State.modRec_mem, State.resolveSub_mem, State.scratchWrite_mem]

@[simp] theorem State.applyPacket_mem (s : State) (p : Packet) : (s.applyPacket p).mem = s.mem := by simp [State.applyPacket]

@[simp] theorem State.applyHeld_mem (br : BRef) (n : Nat) (s : State) : (State.applyHeld br n s).mem = s.mem := by
  induction n generalizing s with
  | zero => rfl
  | succ n ih =>
    unfold State.applyHeld
    split
    · rw [ih, State.applyPacket_mem]
    · rfl

@[simp] theorem updatePacket_mem (id : Nat) (s : State) : (updatePacket id s).mem = s.mem := by
  unfold updatePacket
  repeat' split
  all_goals simp

@[simp] theorem updateAck_mem (id : Nat) (s : State) : (updateAck id s).mem = s.mem := by
  unfold updateAck
  repeat' split
  all_goals simp

@[simp] theorem State.modNotice_mem (s : State) (id : Nat) (f : Notice → Notice) : (s.modNotice id f).mem = s.mem := rfl

@[simp] theorem State.closeEntry_mem (s : State) (m : Notice) : (s.closeEntry m).mem = s.mem := by
  unfold State.closeEntry
  split <;> simp

@[simp] theorem absentNotice_mem (id : Nat) (s : State) : (absentNotice id s).mem = s.mem := by
  unfold absentNotice
  split
  · rfl
  · split
    · rfl
    · dsimp only
      split
      · rw [State.modNotice_mem, State.closeEntry_mem]
      · split
        · rw [State.modNotice_mem, State.updEntry_mem, State.closeEntry_mem]
        · exact State.closeEntry_mem ..

@[simp] theorem presentNotice_mem (id : Nat) (s : State) : (presentNotice id s).mem = s.mem := by
  unfold presentNotice
  split
  · rfl
  · split
    · rfl
    · split
      · rfl
      · dsimp only
        split <;> rw [State.modNotice_mem, State.updEntry_mem]

@[simp] theorem State.endRec_mem (s : State) (m : Notice) : (s.endRec m).mem = s.mem := rfl

@[simp] theorem State.cutSubscription_mem (s : State) (sub : BRef) (n : Nat) : (s.cutSubscription sub n).mem = s.mem := by
  have snap (t : State) (l : List SubReq) (base : Nat) :
      (l.foldl (fun (t : State) q =>
        t.scratchWrite sub ((List.range q.length).map fun i => (base + i, tget 0 q.bytes i)) false) t).mem = t.mem :=
    foldl_mem (fun t q => State.scratchWrite_mem ..) _ _
  have late (t : State) (l : List (Nat × List (Nat × Byte))) (base : Nat) :
      (l.foldl (fun (t : State) c => t.scratchWrite sub (c.2.map fun v => (base + 64 * c.1 + v.1, v.2)) false) t).mem = t.mem :=
    foldl_mem (fun t c => State.scratchWrite_mem ..) _ _
  unfold State.cutSubscription
  dsimp only
  split
  · rw [State.modRec_mem, snap]
  · rw [State.modRec_mem, State.freeEntry_mem, late, snap]

@[simp] theorem removalNotice_mem (id : Nat) (s : State) : (removalNotice id s).mem = s.mem := by
  unfold removalNotice
  split
  · rfl
  · split
    · rfl
    · dsimp only
      split
      · exact (foldl_mem State.finishIssue_mem _ _).trans (by simp)
      · split <;> simp
      · split
        · simp
        · split <;> simp
      · rfl

@[simp] theorem laneWrite_mem (x : Ctx) (s : State) (n : Nat) (a : BitVec 8) : (laneWrite x s n a).mem = s.mem := rfl

@[simp] theorem ownWrite_mem (x : Ctx) (s : State) (n : Nat) (v : DWord) (a : BitVec 8) : (ownWrite x s n v a).mem = s.mem := by
  unfold ownWrite
  repeat' split
  all_goals rfl

theorem mem_ite {c : Prop} [Decidable c] {t u : State} {m : List Host.Cell} (ht : t.mem = m) (hu : u.mem = m) :
    (if c then t else u).mem = m := by split <;> assumption

@[simp] theorem State.privWrite_mem (s : State) (c : CRef) (n : Nat) (v : DWord) (hyper : Bool) :
    (s.privWrite c n v hyper).mem = s.mem := by
  have part (f : Part → Part) : (match s.grid? c.b.grid with | some g => s.modPart g.part f | none => s).mem = s.mem := by
    split <;> rfl
  unfold State.privWrite
  refine mem_ite rfl <| mem_ite rfl <| mem_ite (part _) <| mem_ite rfl <| mem_ite rfl <| mem_ite rfl <| mem_ite rfl <|
    mem_ite (part _) <| mem_ite (part _) <| mem_ite (part _) <| mem_ite (part _) ?_
  split <;> rfl

@[simp] theorem illegalWord_mem (r : SRef) (w : DWord) (s : State) : (illegalWord r w s).mem = s.mem := by
  unfold illegalWord
  split
  · dsimp only
    split
    · rfl
    · rw [State.settle_mem]
      split
      · exact State.countFlag_mem ..
      · exact State.trapEntry_mem ..
  · rfl

@[simp] theorem State.touchAll_mem (s : State) (pas : List Nat) : (s.touchAll pas).mem = s.mem := by simp [State.touchAll, foldl_mem]

@[simp] theorem State.acceptLaunch_mem (s : State) (g : Grid) : (s.acceptLaunch g).mem = s.mem := rfl

@[simp] theorem State.resolveLaunch_mem (s : State) (op : Option Nat) (code : Nat) : (s.resolveLaunch op code).mem = s.mem := by
  unfold State.resolveLaunch
  split
  · exact foldl_mem (fun s b => State.resolve_mem ..) _ _
  · rfl

@[simp] theorem State.finishRetire_mem (s : State) (g : Grid) (status : Nat) : (s.finishRetire g status).mem = s.mem :=
  by simp [State.finishRetire]

@[simp] theorem launchPost_mem (x : Ctx) (s : State) (pa : Nat) (named : Option DWord) (handle : Option Nat) :
    (launchPost x s pa named handle).1.mem = s.mem := by
  unfold launchPost
  split
  · rfl
  · split
    · exact State.resolveLaunch_mem ..
    · rfl

@[simp] theorem State.putAfter_mem (s : State) (uid l : Nat) (ids : List Nat) : (s.putAfter uid l ids).mem = s.mem := rfl

@[simp] theorem State.askFetches_mem (s : State) : s.askFetches.mem = s.mem :=
  foldl_mem (fun t r => by
    split
    · split
      · exact State.askCode_mem ..
      · rfl
    · rfl) _ _

@[simp] theorem State.tick_mem (s : State) : (s.tick).mem = s.mem := by simp [State.tick]

@[simp] theorem State.endLatency_mem (s : State) (i : Issued) : (s.endLatency i).mem = s.mem := by simp [State.endLatency]

@[simp] theorem State.freeHeld_mem (s : State) (uid : Nat) : (s.freeHeld uid).mem = s.mem := by simp [State.freeHeld, foldl_mem]

@[simp] theorem State.readTiles_mem (s : State) (g : Nat) : (s.readTiles g).mem = s.mem := by
  unfold State.readTiles
  repeat' split
  all_goals rfl

@[simp] theorem State.askTiles_mem (s : State) (id : Nat) : (s.askTiles id).mem = s.mem := by
  unfold State.askTiles
  split
  · rfl
  · split
    · rfl
    · dsimp only
      split
      · rw [State.readTiles_mem, State.touchAll_mem]
      · rfl

@[simp] theorem State.occupy_mem (s : State) (core : Nat) : (s.occupy core).mem = s.mem := by
  unfold State.occupy
  dsimp only
  split <;> rfl

@[simp] theorem State.vacate_mem (s : State) (core : Nat) : (s.vacate core).mem = s.mem := by
  unfold State.vacate
  split <;> rfl

@[simp] theorem State.dispatchBlock_mem (s : State) (g : Grid) (core : Nat) (f : Fit) : (s.dispatchBlock g core f).mem = s.mem :=
  by simp [State.dispatchBlock, foldl_mem]

@[simp] theorem State.requestSaves_mem (s : State) (bs : List BRef) (rescued : Option Nat) : (s.requestSaves bs rescued).mem = s.mem := by
  unfold State.requestSaves
  refine foldl_mem ?_ _ _
  intro s r
  rfl

@[simp] theorem State.noteWaits_mem (s : State) : (s.noteWaits).mem = s.mem := rfl

@[simp] theorem State.loadBounds_mem (s : State) (r : SRef) : (s.loadBounds r).mem = s.mem := by
  unfold State.loadBounds
  repeat' split
  all_goals rfl

@[simp] theorem State.sendRemovals_mem (s : State) (b : Block) : (s.sendRemovals b).mem = s.mem := by
  unfold State.sendRemovals
  dsimp only
  refine (foldl_mem ?_ _ _).trans (foldl_mem ?_ _ _)
  · intro s e
    exact State.freeEntry_mem ..
  · intro s r
    split <;> rfl

@[simp] theorem State.ckFail_mem (s : State) (g : Grid) (b : Block) (cause : Nat) : (s.ckFail g b cause).mem = s.mem :=
  by simp [State.ckFail]

@[simp] theorem State.publish_mem (s : State) (b : Block) : (s.publish b).mem = s.mem :=
  (foldl_mem (fun _ _ => State.launchAccess_mem ..) _ _).trans (State.bump_mem s)

@[simp] theorem State.finishSealed_mem (s : State) (b : BRef) : (s.finishSealed b).mem = s.mem := by
  unfold State.finishSealed
  split
  · exact foldl_mem (fun s i => State.finishIssue_mem ..) _ _
  · rfl

@[simp] theorem State.afterPublish_mem (s : State) (b : Block) : (s.afterPublish b).mem = s.mem := by
  unfold State.afterPublish
  split
  · rfl
  · split
    · rfl
    · split
      · split <;> rfl
      · dsimp only
        rw [State.settleAll_mem]
        split
        · rw [State.finishPhase_mem]; rfl
        · rfl

@[simp] theorem State.endSave_mem (s : State) (b : Block) : (s.endSave b).mem = s.mem := by simp [State.endSave, foldl_mem]

@[simp] theorem State.resnap_mem (s : State) (e : SubEntry) : (s.resnap e).mem = s.mem := by
  unfold State.resnap
  split <;> simp

@[simp] theorem State.resubscribe_mem (s : State) (b was : Block) : (s.resubscribe b was).mem = s.mem :=
  foldl_mem (fun s r => by
    split
    · rfl
    · split
      · exact State.cutSubscription_mem ..
      · split
        · split
          · exact State.resnap_mem ..
          · rfl
        · rfl) _ _

@[simp] theorem State.replay_mem (s : State) (b : Block) : (s.replay b).mem = s.mem := by simp [State.replay, foldl_mem]

@[simp] theorem State.readEntryOf_mem (s : State) (id : Nat) : (s.readEntryOf id).mem = s.mem := by
  unfold State.readEntryOf
  repeat' split
  all_goals rfl

@[simp] theorem State.wakeWalk_mem (s : State) (w : WalkReq) : (s.wakeWalk w).mem = s.mem :=
  foldl_mem (fun s r => by
    split
    · split
      · split <;> rfl
      · rfl
    · rfl) _ _

@[simp] theorem State.serveWalk_mem (s : State) (a : Access) (id : Nat) : (s.serveWalk a id).mem = s.mem := by simp [State.serveWalk]

@[simp] theorem State.evict_mem (s : State) (a : Access) : (s.evict a).mem = s.mem := by
  unfold State.evict
  split <;> rfl

@[simp] theorem State.serveTiles_mem (s : State) (a : Access) (id : Nat) : (s.serveTiles a id).mem = s.mem := by simp [State.serveTiles]

@[simp] theorem State.serve_mem (s : State) (a : Access) : (s.serve a).mem = s.mem := by
  unfold State.serve
  split <;> simp

@[simp] theorem State.land_mem (s : State) (a : Access) : (s.land a).mem = s.mem := by
  unfold State.land
  split <;> simp

@[simp] theorem State.rereadTiles_mem (s : State) (array : Option Nat) : (s.rereadTiles array).mem = s.mem := by
  unfold State.rereadTiles
  refine foldl_mem ?_ _ _
  intro s g
  dsimp only
  split_ifs
  · exact State.askTiles_mem ..
  · rfl

@[simp] theorem State.edgeDone_mem (s : State) (link uid : Nat) : (s.edgeDone link uid).mem = s.mem := by
  unfold State.edgeDone
  split <;> rfl

@[simp] theorem State.modWait_mem (s : State) (acc domain : Nat) (f : BankWait → BankWait) : (s.modWait acc domain f).mem = s.mem := rfl

@[simp] theorem State.setPower_mem (s : State) (u : PowerUnit) (p : Power) : (s.setPower u p).mem = s.mem := by
  unfold State.setPower
  split <;> rfl

@[simp] theorem State.grant_mem (s : State) (d : Nat) : (s.grant d).mem = s.mem := by simp [State.grant, foldl_mem]

@[simp] theorem State.enqueueWake_mem (s : State) (u : PowerUnit) : (s.enqueueWake u).mem = s.mem := rfl

@[simp] theorem State.releaseTokens_mem (s : State) (d : Nat) : (s.releaseTokens d).mem = s.mem := by
  unfold State.releaseTokens
  dsimp only
  split
  · rfl
  · rw [State.grant_mem]
    refine (foldl_mem (fun s t => ?_) _ _).trans (State.modDom_mem ..)
    split <;> rfl

@[simp] theorem State.badTarget_mem (s : State) (p : Port) : (s.badTarget p).mem = s.mem := by simp [State.badTarget]

@[simp] theorem State.notOwner_mem (s : State) (p : Port) : (s.notOwner p).mem = s.mem := by simp [State.notOwner]

@[simp] theorem State.complete_mem (s : State) (p : Port) (bytes : List Byte) (poisoned : Bool) :
    (s.complete p bytes poisoned).mem = s.mem :=
  by simp [State.complete]

@[simp] theorem State.hostAccess_mem (p : Port) (whole : Bool) (s : State) (q : Nat × List Byte) :
    (State.hostAccess p whole s q).mem = s.mem :=
  rfl

@[simp] theorem State.bar2Write_mem (s : State) (p : Port) (off : Nat) (bytes : List (Option Byte)) :
    (s.bar2Write p off bytes).mem = s.mem := by
  unfold State.bar2Write
  split
  · rfl
  · split
    · exact State.badTarget_mem ..
    · split
      · rfl
      · dsimp only
        split
        · exact State.badTarget_mem ..
        · exact foldl_mem (fun s q => State.hostAccess_mem ..) _ _

@[simp] theorem State.posted_mem (s : State) (p : Port) (full : Bool) (record : List DWord) : (s.posted p full record).mem = s.mem := by
  unfold State.posted
  split_ifs
  · exact State.modPort_mem ..
  · exact State.modPort_mem ..
  · exact State.modPort_mem ..
  · dsimp only
    split
    · rfl
    · rw [State.modPort_mem, State.acceptLaunch_mem, State.modPart_mem, State.touchAll_mem]

theorem State.setting_mem {s t : State} {off : Nat} {v : DWord} (h : s.setting off v = some t) : t.mem = s.mem := by
  unfold State.setting at h
  split_ifs at h <;> cases h <;> rfl

@[simp] theorem State.guarded_mem (s : State) (p : Port) (off : Nat) (v : DWord) : (s.guarded p off v).mem = s.mem := by
  unfold State.guarded
  split
  · split_ifs <;> rfl
  · split
    · next hs =>
      split
      · exact State.setting_mem hs
      · exact State.notOwner_mem ..
    · rfl

@[simp] theorem State.before_mem (s : State) (m : Managed) : (s.before m).mem = s.mem := rfl

@[simp] theorem State.manage_mem (s : State) (p : Port) (off : Nat) (v : DWord) : (s.manage p off v).mem = s.mem := by
  unfold State.manage
  dsimp only
  split
  · exact foldl_mem (fun t w => State.guarded_mem ..) _ _
  · exact State.guarded_mem ..

@[simp] theorem State.mailboxCommand_mem (s : State) (p : Port) (domain cmd : Nat) : (s.mailboxCommand p domain cmd).mem = s.mem := by
  unfold State.mailboxCommand
  repeat' split
  all_goals simp

@[simp] theorem State.commandDone_mem (s : State) : (s.commandDone).mem = s.mem := rfl

@[simp] theorem State.mailboxDomain_mem (s : State) (domain : Nat) : (s.mailboxDomain domain).mem = s.mem := by
  unfold State.mailboxDomain
  split <;> rfl

@[simp] theorem State.registerSet_mem (s : State) (p : Port) (off : Nat) (v : DWord) (low : Bool) :
    (s.registerSet p off v low).mem = s.mem := by
  unfold State.registerSet
  repeat' split
  all_goals simp

@[simp] theorem State.bar0Write_mem (s : State) (p : Port) (off : Nat) (bytes : List (Option Byte)) :
    (s.bar0Write p off bytes).mem = s.mem := by
  unfold State.bar0Write
  split_ifs
  · rfl
  · exact State.badTarget_mem ..
  · exact State.posted_mem ..
  · rfl
  · refine foldl_mem (fun s i => ?_) _ _
    dsimp only
    split
    · exact State.registerSet_mem ..
    · rfl

@[simp] theorem State.rejectedMaps_mem (s : State) : (s.rejectedMaps).mem = s.mem := by simp [State.rejectedMaps, foldl_mem]

@[simp] theorem State.bootFirmware_mem (s : State) : s.bootFirmware.mem = s.mem := by
  unfold State.bootFirmware
  dsimp only
  split <;> rfl

@[simp] theorem State.bootMap_mem (s : State) : s.bootMap.mem = s.mem := by
  unfold State.bootMap
  dsimp only
  split <;> exact State.rejectedMaps_mem s

@[simp] theorem State.clock_mem (s : State) : (s.clock).mem = s.mem := by
  unfold State.clock
  split <;> simp

/-! ## The instructions and events that leave memory as it is

`KeepsMem` for each of them: first the shared paths of issue, then one lemma for each instruction, event or family of them. -/

/-- A fold whose every step keeps memory, from a state with the memory of `s`. -/
theorem mem_foldl {α : Type} {f : State → α → State} (hf : ∀ t b, (f t b).mem = t.mem) {l : List α} {a s : State}
    (ha : a.mem = s.mem) : (l.foldl f a).mem = s.mem :=
  (foldl_mem hf l a).trans ha

/-- Every next state of an outcome has the memory of `s`. -/
def KeepsMem (s : State) (o : Host.Outcome State Fault Refusal) : Prop := ∀ t, o = .next t → t.mem = s.mem

theorem keepsMem_next {s t : State} (h : t.mem = s.mem) : KeepsMem s (.next t) := by
  rintro u ⟨⟩
  exact h

theorem issue_keepsMem {i : Instr} {s : State} {k : Ctx → State → State} (hk : ∀ x u, (k x u).mem = u.mem) :
    KeepsMem s (issue i s k) := by
  unfold issue
  split
  · next h => exact keepsMem_next (State.beginIssue_stop_mem h)
  · next x u h =>
    refine keepsMem_next ?_
    rw [State.settle_mem, ← State.beginIssue_go_mem h]
    exact mem_ite (Ctx.pulse_mem ..) <| mem_ite (Ctx.raiseAll_mem ..) <| mem_ite (Ctx.raiseAll_mem ..) (hk x u)

theorem issueIf_keepsMem {i : Instr} {s : State} {ready ok : Ctx → State → Bool} {k : Ctx → State → State}
    (hk : ∀ x u, (k x u).mem = u.mem) : KeepsMem s (issueIf i s ready ok k) := by
  unfold issueIf
  split
  · next h => exact keepsMem_next (State.beginIssue_stop_mem h)
  · next x u h =>
    split
    · exact keepsMem_next rfl
    · refine keepsMem_next ?_
      rw [State.settle_mem, ← State.beginIssue_go_mem h]
      exact mem_ite (Ctx.pulse_mem ..) <| mem_ite (Ctx.raiseAll_mem ..) <| mem_ite (Ctx.raiseAll_mem ..) (hk x u)

theorem forced_keepsMem {i : Instr} {s : State} {force : Ctx → State → Bool} {go : State → Host.Outcome State Fault Refusal}
    (hg : KeepsMem s (go s)) : KeepsMem s (forced i s force go) := by
  unfold forced
  split
  · exact hg
  · split
    · split
      · next t ht =>
        have hm : t.mem = s.mem := hg t ht
        split <;> exact keepsMem_next hm
      · exact hg
    · split
      · split <;> exact keepsMem_next rfl
      · exact hg

theorem withWalksFor_keepsMem {mode : Ctx → Mode} {i : Instr} {addrs : Ctx → List DWord} {s : State}
    {go : State → Host.Outcome State Fault Refusal} (hg : KeepsMem s (go s)) : KeepsMem s (withWalksFor mode i addrs s go) := by
  unfold withWalksFor
  split
  · exact hg
  · dsimp only
    split
    · exact keepsMem_next (foldl_mem State.askWalk_mem _ _)
    · split
      · next t ht =>
        have hm : t.mem = s.mem := hg t ht
        exact keepsMem_next hm
      · exact hg

theorem withWalks_keepsMem {i : Instr} {addrs : Ctx → List DWord} {s : State}
    {go : State → Host.Outcome State Fault Refusal} (hg : KeepsMem s (go s)) : KeepsMem s (withWalks i addrs s go) :=
  withWalksFor_keepsMem hg

theorem withCode_keepsMem {mode : Ctx → Mode} {i : Instr} {addrs : Ctx → List DWord} {s : State}
    {go : State → Host.Outcome State Fault Refusal} (hg : KeepsMem s (go s)) : KeepsMem s (withCode mode i addrs s go) := by
  unfold withCode
  split
  · exact hg
  · dsimp only
    split
    · exact keepsMem_next (foldl_mem (fun t l => State.askCode_mem ..) _ _)
    · exact hg

theorem withTargetsFor_keepsMem {mode : Ctx → Mode} {i : Instr} {addrs : Ctx → List DWord} {s : State}
    {go : State → Host.Outcome State Fault Refusal} (hg : KeepsMem s (go s)) : KeepsMem s (withTargetsFor mode i addrs s go) :=
  withWalksFor_keepsMem (withCode_keepsMem hg)

theorem withTargets_keepsMem {i : Instr} {addrs : Ctx → List DWord} {s : State}
    {go : State → Host.Outcome State Fault Refusal} (hg : KeepsMem s (go s)) : KeepsMem s (withTargets i addrs s go) :=
  withTargetsFor_keepsMem hg

theorem arith2_keepsMem {i : Instr} {o : OpA} {k : Cls} {f : Nat → Int → Int → Int} {s : State} : KeepsMem s (arith2 i o k f s) :=
  issue_keepsMem fun _ _ => by simp

theorem arith1_keepsMem {i : Instr} {o : OpA} {f : Int → Int} {s : State} : KeepsMem s (arith1 i o f s) := issue_keepsMem fun _ _ => by simp

theorem logic2_keepsMem {i : Instr} {o : OpA} {f : Nat → Nat → Nat → Nat} {s : State} : KeepsMem s (logic2 i o f s) :=
  issue_keepsMem fun _ _ => by simp

theorem logic1_keepsMem {i : Instr} {o : OpA} {dn : Nat} {f : Nat → Nat → Nat} {s : State} : KeepsMem s (logic1 i o dn f s) :=
  issue_keepsMem fun _ _ => by simp

theorem logic3_keepsMem {i : Instr} {o : OpA} {k : Cls} {f : Nat → Nat → Nat → Nat} {s : State} : KeepsMem s (logic3 i o k f s) :=
  issue_keepsMem fun _ _ => by simp

theorem immediate_keepsMem {i : Instr} {o : OpB} {k : Cls} {f : Word → BitVec 16 → Word} {s : State} : KeepsMem s (immediate i o k f s) :=
  issue_keepsMem fun _ _ => by simp

theorem shiftBy_keepsMem {i : Instr} {o : OpA} {kind : ShiftKind} {s : State} : KeepsMem s (shiftBy i o kind s) :=
  issue_keepsMem fun _ _ => by simp

theorem divide_keepsMem {i : Instr} {o : OpA} {f : Int → Int → Int} {s : State} : KeepsMem s (divide i o f s) :=
  issue_keepsMem fun _ _ => by simp

theorem execMovi_keepsMem {o : OpC} {s : State} : KeepsMem s (execMovi o s) := issue_keepsMem fun _ _ => by simp

theorem execImadw_keepsMem {o : OpA} {s : State} : KeepsMem s (execImadw o s) := issue_keepsMem fun _ _ => by simp

theorem execBfx_keepsMem {o : OpA} {s : State} : KeepsMem s (execBfx o s) := issue_keepsMem fun _ _ => by simp

theorem execSel_keepsMem {o : OpA} {s : State} : KeepsMem s (execSel o s) := issue_keepsMem fun _ _ => by simp

theorem execIsetp_keepsMem {o : OpA} {s : State} : KeepsMem s (execIsetp o s) := issue_keepsMem fun _ _ => by simp

theorem execIsetpImmediate_keepsMem {o : OpB} {s : State} : KeepsMem s (execIsetpImmediate o s) := issue_keepsMem fun _ _ => by simp

theorem execPlop_keepsMem {o : OpA} {s : State} : KeepsMem s (execPlop o s) := issue_keepsMem fun _ _ => by simp

theorem execLea_keepsMem {o : OpA} {s : State} : KeepsMem s (execLea o s) := issue_keepsMem fun _ _ => by simp

theorem execNadd_keepsMem {o : OpA} {s : State} : KeepsMem s (execNadd o s) := issue_keepsMem fun _ _ => by simp

theorem float2_keepsMem {i : Instr} {o : OpA} {op : Bool → Fmt → Rnd → FV → FV → Nat} {s : State} : KeepsMem s (float2 i o op s) :=
  issue_keepsMem fun _ _ => by simp

theorem float1_keepsMem {i : Instr} {o : OpA} {op : Bool → Fmt → Rnd → Nat → Nat} {s : State} : KeepsMem s (float1 i o op s) :=
  issue_keepsMem fun _ _ => by simp

theorem special1_keepsMem {i : Instr} {o : OpA} {f : Bool → FV → Nat} {s : State} : KeepsMem s (special1 i o f s) :=
  issue_keepsMem fun _ _ => by simp

theorem packedF_keepsMem {i : Instr} {o : OpA} {op : Bool → Fmt → FV → FV → FV → Nat} {s : State} : KeepsMem s (packedF i o op s) :=
  issue_keepsMem fun _ _ => by simp

theorem packedI_keepsMem {i : Instr} {o : OpA} {op : Int → Int → Int} {s : State} : KeepsMem s (packedI i o op s) :=
  issue_keepsMem fun _ _ => by simp

theorem execFfma_keepsMem {o : OpA} {s : State} : KeepsMem s (execFfma o s) := issue_keepsMem fun _ _ => by simp

theorem execFmin_keepsMem {o : OpA} {s : State} : KeepsMem s (execFmin o s) := issue_keepsMem fun _ _ => by simp

theorem execFmax_keepsMem {o : OpA} {s : State} : KeepsMem s (execFmax o s) := issue_keepsMem fun _ _ => by simp

theorem execFsetp_keepsMem {o : OpA} {s : State} : KeepsMem s (execFsetp o s) := issue_keepsMem fun _ _ => by simp

theorem execFldexp_keepsMem {o : OpA} {s : State} : KeepsMem s (execFldexp o s) := issue_keepsMem fun _ _ => by simp

theorem execF2i_keepsMem {o : OpA} {s : State} : KeepsMem s (execF2i o s) := issue_keepsMem fun _ _ => by simp

theorem execI2f_keepsMem {o : OpA} {s : State} : KeepsMem s (execI2f o s) := issue_keepsMem fun _ _ => by simp

theorem execF2f_keepsMem {o : OpA} {s : State} : KeepsMem s (execF2f o s) :=
  issue_keepsMem fun _ _ => mem_ite (narrow_mem ..) (Ctx.compute_mem ..)

theorem execCvtq_keepsMem {o : OpA} {s : State} : KeepsMem s (execCvtq o s) := issue_keepsMem fun _ _ => by simp

theorem execCvtx_keepsMem {o : OpA} {s : State} : KeepsMem s (execCvtx o s) :=
  issue_keepsMem fun _ _ => mem_ite (Ctx.compute_mem ..) (Ctx.compute_mem ..)

theorem execAcs2_keepsMem {o : OpA} {s : State} : KeepsMem s (execAcs2 o s) := issueIf_keepsMem fun _ _ => by simp

theorem execSread_keepsMem {o : OpB} {s : State} : KeepsMem s (execSread o s) := issueIf_keepsMem fun _ _ => by simp

theorem execSwrite_keepsMem {o : OpB} {s : State} : KeepsMem s (execSwrite o s) :=
  issueIf_keepsMem fun _ _ => mem_ite (Ctx.complete_mem ..) <| mem_ite (Ctx.raiseAll_mem ..) (Ctx.complete_mem ..)

theorem execShfl_keepsMem {o : OpA} {s : State} : KeepsMem s (execShfl o s) := issue_keepsMem fun _ _ => by simp

theorem execVote_keepsMem {o : OpA} {s : State} : KeepsMem s (execVote o s) :=
  issueIf_keepsMem fun x u => by
    dsimp only
    split <;> exact Ctx.complete_mem ..

theorem execRedx_keepsMem {o : OpA} {s : State} : KeepsMem s (execRedx o s) := issue_keepsMem fun _ _ => by simp

theorem execUmov_keepsMem {o : OpA} {s : State} : KeepsMem s (execUmov o s) := issue_keepsMem fun _ _ => by simp

theorem execElect_keepsMem {o : OpA} {s : State} : KeepsMem s (execElect o s) := issue_keepsMem fun _ _ => by simp

theorem execOvclr_keepsMem {o : OpA} {s : State} : KeepsMem s (execOvclr o s) := issueIf_keepsMem fun _ _ => by simp

theorem execBra_keepsMem {o : OpJ} {s : State} : KeepsMem s (execBra o s) := withTargets_keepsMem (issue_keepsMem fun _ _ => by simp)

theorem branchWhole_keepsMem {i : Instr} {o : OpJ} {cond : Ctx → Bool} {s : State} : KeepsMem s (branchWhole i o cond s) := by
  refine withTargets_keepsMem ?_
  split
  · next h => exact keepsMem_next (State.beginIssue_stop_mem h)
  · next x u h =>
    refine keepsMem_next ?_
    rw [State.settle_mem, ← State.beginIssue_go_mem h]
    exact mem_ite (Ctx.raiseAll_mem ..) <| mem_ite (Ctx.raiseAll_mem ..) <|
      branch_mem _ _ _ _ _ fun t => mem_ite (Ctx.pulse_mem ..) (Ctx.note_mem ..)

theorem branchPair_keepsMem {i : Instr} {o : OpA} {link : Ctx → List (Reg × (Nat → Word))} {s : State} :
    KeepsMem s (branchPair i o link s) :=
  withTargets_keepsMem (issue_keepsMem fun _ _ => by simp)

theorem execCall_keepsMem {o : OpJ} {s : State} : KeepsMem s (execCall o s) := withTargets_keepsMem (issue_keepsMem fun _ _ => by simp)

theorem execYield_keepsMem {o : OpA} {s : State} : KeepsMem s (execYield o s) := issue_keepsMem fun _ _ => by simp

theorem execNop_keepsMem {o : OpA} {s : State} : KeepsMem s (execNop o s) := issue_keepsMem fun _ _ => by simp

theorem loadGlobal_keepsMem {i : Instr} {o : OpM} {k : MemKind} {size n : Nat} {signed : Bool} {s : State} :
    KeepsMem s (loadGlobal i o k size n signed s) :=
  withWalks_keepsMem <| issue_keepsMem fun x u => by
    dsimp only
    rw [Ctx.raise_mem]
    refine mem_ite (Ctx.fillTlb_mem ..) (mem_foldl (fun t l => Ctx.plainAccess_mem ..) ?_)
    rw [Ctx.note_mem, Ctx.owe_mem, Ctx.fillTlb_mem]

theorem loadScratch_keepsMem {i : Instr} {o : OpM} {size n : Nat} {signed : Bool} {s : State} :
    KeepsMem s (loadScratch i o size n signed s) :=
  issue_keepsMem fun x u => by
    dsimp only
    rw [Ctx.raise_mem]
    refine mem_ite rfl (mem_foldl (fun t l => Ctx.plainAccess_mem ..) ?_)
    rw [Ctx.note_mem, Ctx.owe_mem]

theorem storeGlobal_keepsMem {i : Instr} {o : OpM} {size n : Nat} {s : State} : KeepsMem s (storeGlobal i o size n s) :=
  withWalks_keepsMem <| issue_keepsMem fun x u => by
    dsimp only
    rw [Ctx.raise_mem]
    refine mem_ite (Ctx.fillTlb_mem ..) (mem_foldl (fun t l => Ctx.plainAccess_mem ..) ?_)
    rw [State.storeIssued_mem, Ctx.note_mem, Ctx.fillTlb_mem]

theorem storeScratch_keepsMem {i : Instr} {o : OpM} {size n : Nat} {s : State} : KeepsMem s (storeScratch i o size n s) := by
  unfold storeScratch
  refine forced_keepsMem <| issueIf_keepsMem fun x u => ?_
  · dsimp only
    rw [Ctx.raise_mem]
    exact mem_ite rfl (mem_foldl (fun t l => Ctx.plainAccess_mem ..) (Ctx.note_mem ..))

theorem execLoadReply_keepsMem {uid : Nat} {s : State} : KeepsMem s (execLoadReply uid s) := keepsMem_next (by simp)

theorem execPref_keepsMem {o : OpM} {s : State} : KeepsMem s (execPref o s) :=
  withWalks_keepsMem <| issue_keepsMem fun x u => by
    dsimp only
    rw [Ctx.complete_mem]
    exact mem_foldl (fun t l => State.launchAccess_mem ..) (Ctx.fillTlb_mem ..)

theorem atomic_keepsMem {i : Instr} {o : OpA} {wide red scratch : Bool} {s : State} : KeepsMem s (atomic i o wide red scratch s) := by
  unfold atomic
  extract_lets op size scope addr chk good touched writing force room b go
  have hg : KeepsMem s (go s) := by
    refine forced_keepsMem <| issueIf_keepsMem fun x u => ?_
    dsimp only
    rw [Ctx.raise_mem]
    have hf (ls : List Nat) : (if scratch = true then u else x.fillTlb u ls (addr x)).mem = u.mem :=
      mem_ite rfl (Ctx.fillTlb_mem ..)
    refine mem_ite (hf _) (mem_foldl (fun t ls => ?_) ?_)
    · rw [Ctx.atomAccess_mem]
      exact mem_ite rfl (State.storeIssued_mem ..)
    · rw [Ctx.note_mem]
      refine mem_ite (hf _) ?_
      rw [Ctx.owe_mem]
      exact hf _
  split
  · exact hg
  · exact withWalks_keepsMem hg

theorem execFence_keepsMem {o : OpA} {s : State} : KeepsMem s (execFence o s) := by
  unfold execFence
  refine forced_keepsMem <| issue_keepsMem fun x u => ?_
  rw [State.addOrders_mem, Ctx.note_mem]

theorem execWaitm_keepsMem {o : OpM} {s : State} : KeepsMem s (execWaitm o s) :=
  withWalks_keepsMem <| issueIf_keepsMem fun x u => by
    dsimp only
    rw [Ctx.raise_mem]
    refine mem_ite (Ctx.fillTlb_mem ..) (mem_foldl (fun t l => Ctx.plainAccess_mem ..) ?_)
    rw [Ctx.hold_mem, Ctx.note_mem, Ctx.fillTlb_mem]

theorem execBar_keepsMem {o : OpA} {s : State} : KeepsMem s (execBar o s) := issueIf_keepsMem fun _ _ => by simp

theorem execCkpt_keepsMem {o : OpA} {s : State} : KeepsMem s (execCkpt o s) := issueIf_keepsMem fun _ _ => by simp

theorem barbChange_keepsMem {i : Instr} {o : OpA} {init : Bool} {s : State} : KeepsMem s (barbChange i o init s) :=
  forced_keepsMem <| issueIf_keepsMem fun x u => by
    dsimp only
    rw [Ctx.raise_mem, State.forwardAll_mem]
    exact mem_foldl (fun t l => State.barbAdd_mem ..) (mem_ite rfl (Ctx.complete_mem ..))

theorem execBarbWait_keepsMem {o : OpA} {s : State} : KeepsMem s (execBarbWait o s) :=
  issueIf_keepsMem fun x u => by
    dsimp only
    rw [Ctx.raise_mem]
    refine mem_ite rfl <| mem_ite (Ctx.complete_mem ..) ?_
    rw [Ctx.hold_mem, Ctx.note_mem]

theorem queueIssue_keepsMem {i : Instr} {o : OpA} {push : Bool} {s : State} : KeepsMem s (queueIssue i o push s) :=
  forced_keepsMem <| issueIf_keepsMem fun x u => by
    dsimp only
    rw [Ctx.raise_mem]
    refine mem_ite (queueRun_mem ..) <| mem_ite ?_ ?_
    · rw [Ctx.note_mem]
      refine mem_ite (queueRun_mem ..) ?_
      rw [Ctx.owe_mem, queueRun_mem]
    · rw [Ctx.hold_mem, Ctx.note_mem]
      refine mem_ite (queueRun_mem ..) ?_
      rw [Ctx.owe_mem, queueRun_mem]

theorem execQpush_keepsMem {o : OpA} {s : State} : KeepsMem s (execQpush o s) := by
  unfold execQpush
  split
  · exact keepsMem_next ((queueResume_mem ..).trans rfl)
  · apply queueIssue_keepsMem

theorem execQpop_keepsMem {o : OpA} {s : State} : KeepsMem s (execQpop o s) := by
  unfold execQpop
  split
  · exact keepsMem_next ((queueResume_mem ..).trans rfl)
  · apply queueIssue_keepsMem

theorem execQtry_keepsMem {o : OpA} {s : State} : KeepsMem s (execQtry o s) :=
  forced_keepsMem <| issueIf_keepsMem fun x u => by
    dsimp only
    rw [Ctx.raise_mem]
    refine mem_ite (queueRun_mem ..) ?_
    rw [Ctx.complete_mem, Ctx.owe_mem, queueRun_mem]

theorem execExit_keepsMem {o : OpA} {s : State} : KeepsMem s (execExit o s) :=
  issueIf_keepsMem fun x u => by
    have left : ((freeCohort (exitLanes (x.note u x.ex .complete) x.r x.ex) x.r.c).settleAll).mem = u.mem := by
      rw [State.settleAll_mem, freeCohort_mem, exitLanes_mem, Ctx.note_mem]
    dsimp only
    refine mem_ite ?_ left
    rw [State.askCheckpoint_mem]
    exact left

theorem copyIssue_keepsMem {i : Instr} {o : OpA} {queue : Nat} {force : Ctx → State → Bool} {sides : Ctx → Option Moves}
    {plan : Ctx → State → Plan} {s : State} {box : Ctx → Nat} :
    KeepsMem s (copyIssue i o queue force sides plan s box) :=
  withWalks_keepsMem <| forced_keepsMem <| issueIf_keepsMem fun x u => by
    have begun (h : Handle) : ((x.complete u.bump []).setHandle x.r.c (fld o.d 3 0) h).mem = u.mem := by
      rw [State.setHandle_mem, Ctx.complete_mem, State.bump_mem]
    split
    · exact Ctx.raiseAll_mem ..
    · dsimp only
      split
      · refine mem_ite ?_ (Eq.trans ?_ (begun (.pending u.fresh)))
        · rw [State.resolve_mem, begun]
        · exact mem_ite (mem_foldl (fun t r => unfill_mem ..) rfl) rfl
      · exact begun (.pending u.fresh)

theorem execCopy_keepsMem {y : OpX1} {s : State} : KeepsMem s (execCopy y s) := by
  unfold execCopy
  apply copyIssue_keepsMem

theorem execTcopy_keepsMem {y : OpX4} {s : State} : KeepsMem s (execTcopy y s) := by
  unfold execTcopy
  apply copyIssue_keepsMem

theorem execTcopyPeer_keepsMem {y : OpX4} {s : State} : KeepsMem s (execTcopyPeer y s) := by
  unfold execTcopyPeer
  apply copyIssue_keepsMem

theorem execFill_keepsMem {y : OpX1} {s : State} : KeepsMem s (execFill y s) := by
  unfold execFill
  apply copyIssue_keepsMem

theorem execQfence_keepsMem {o : OpA} {s : State} : KeepsMem s (execQfence o s) :=
  issue_keepsMem fun x u => by
    have done : (x.complete u.bump []).mem = u.mem := by rw [Ctx.complete_mem, State.bump_mem]
    refine mem_ite ?_ done
    rw [State.setHandle_mem, done]

theorem execHtest_keepsMem {o : OpA} {s : State} : KeepsMem s (execHtest o s) := issue_keepsMem fun _ _ => by simp

theorem execHcancel_keepsMem {o : OpA} {s : State} : KeepsMem s (execHcancel o s) :=
  issue_keepsMem fun x u => by
    dsimp only
    split
    · split
      · split
        · exact Ctx.complete_mem ..
        · rw [State.endCopy_mem, Ctx.complete_mem]
      · exact Ctx.complete_mem ..
    · exact Ctx.complete_mem ..

theorem execHmovH_keepsMem {o : OpA} {s : State} : KeepsMem s (execHmovH o s) :=
  issue_keepsMem fun x u => by
    refine mem_ite (Ctx.complete_mem ..) ?_
    rw [State.setHandle_mem, State.setHandle_mem, Ctx.complete_mem]

theorem handleRead_keepsMem {i : Instr} {o : OpA} {n : Nat} {val : Handle → Nat} {s : State} :
    KeepsMem s (handleRead i o n val s) := by
  unfold handleRead
  dsimp only
  split
  · split
    · split
      · exact keepsMem_next rfl
      · refine keepsMem_next ?_
        rw [State.release_mem, State.finishIssue_mem]
        rfl
    · exact keepsMem_next rfl
  · refine issue_keepsMem fun x u => mem_ite ?_ (Ctx.complete_mem ..)
    rw [Ctx.hold_mem, Ctx.note_mem, Ctx.owe_mem]

theorem matrixIssue_keepsMem {i : Instr} {s : State} {ready ok : Ctx → State → Bool} {k : Ctx → State → State}
    (hk : ∀ x u, (k x u).mem = u.mem) : KeepsMem s (matrixIssue i s ready ok k) := by
  unfold matrixIssue
  dsimp only
  split
  · next h => exact keepsMem_next (State.beginIssue_stop_mem h)
  · split
    · exact keepsMem_next rfl
    · exact issueIf_keepsMem hk

theorem execQfree_keepsMem {o : OpA} {s : State} : KeepsMem s (execQfree o s) :=
  matrixIssue_keepsMem fun _ _ => mem_ite (Ctx.complete_mem ..) <|
    mem_ite (Ctx.note_mem ..) ((leaveTeam_mem ..).trans (Ctx.complete_mem ..))

theorem execQbind_keepsMem {o : OpA} {s : State} : KeepsMem s (execQbind o s) :=
  matrixIssue_keepsMem fun x u => by
    dsimp only
    exact mem_ite (mem_foldl State.finishIssue_mem (Ctx.note_mem ..)) (Ctx.note_mem ..)

theorem mma_keepsMem {i : Instr} {o : OpA} {n : Nat} {s : State} : KeepsMem s (mma i o n s) :=
  matrixIssue_keepsMem fun x u => by
    dsimp only
    split
    · exact Ctx.raiseAll_mem ..
    · rw [assemble_mem, State.modCohort_mem, Ctx.hold_mem, Ctx.note_mem]

theorem execAccz_keepsMem {o : OpA} {s : State} : KeepsMem s (execAccz o s) :=
  matrixIssue_keepsMem fun x u => by rw [State.modCohort_mem, Ctx.complete_mem]

theorem execAccld_keepsMem {o : OpA} {s : State} : KeepsMem s (execAccld o s) :=
  matrixIssue_keepsMem fun x u => by dsimp only; rw [State.modCohort_mem, Ctx.complete_mem]

theorem execAccst_keepsMem {o : OpA} {s : State} : KeepsMem s (execAccst o s) :=
  matrixIssue_keepsMem fun x u => by dsimp only; rw [Ctx.note_mem, Ctx.owe_mem]

theorem execScacc_keepsMem {o : OpA} {s : State} : KeepsMem s (execScacc o s) :=
  matrixIssue_keepsMem fun x u => by dsimp only; rw [State.modCohort_mem, Ctx.complete_mem]

theorem execTeamInstructionBegin_keepsMem {core : Nat} {s : State} : KeepsMem s (execTeamInstructionBegin core s) := by
  have moved : (if s.passMoves core then s.movePass core else s).mem = s.mem := mem_ite (State.movePass_mem ..) rfl
  unfold execTeamInstructionBegin
  dsimp only
  split
  · exact keepsMem_next moved
  · exact keepsMem_next (mem_foldl (fun t m => by rw [State.release_mem, State.emptyLatch_mem]) moved)

theorem execTeamInstructionRetire_keepsMem {core : Nat} {s : State} : KeepsMem s (execTeamInstructionRetire core s) := by
  unfold execTeamInstructionRetire
  split
  · exact keepsMem_next rfl
  · exact keepsMem_next (mem_foldl (fun t m => State.leaveIfFree_mem ..)
      (mem_foldl (fun t m => by rw [State.finishIssue_mem, State.modCohort_mem]) rfl))

theorem execHallPassIdleExpiry_keepsMem {core : Nat} {s : State} : KeepsMem s (execHallPassIdleExpiry core s) := by
  unfold execHallPassIdleExpiry
  repeat' split
  all_goals exact keepsMem_next (by simp)

theorem execSubscribe_keepsMem {y : OpX2} {s : State} : KeepsMem s (execSubscribe y s) :=
  issueIf_keepsMem fun x u => by
    split
    · exact Ctx.raiseAll_mem ..
    · have begun : ((x.note u.bump x.ex .event).setHandle x.r.c (fld y.op.d 3 0) (.pending u.fresh)).mem = u.mem := by
        rw [State.setHandle_mem, Ctx.note_mem, State.bump_mem]
      exact begun

theorem execUnsub_keepsMem {o : OpA} {s : State} : KeepsMem s (execUnsub o s) :=
  issueIf_keepsMem fun x u => by
    dsimp only
    split
    · exact Ctx.complete_mem ..
    · rw [State.modRec_mem, Ctx.note_mem]
    · exact (State.bump_mem _).trans (Ctx.note_mem ..)

theorem execSubsync_keepsMem {o : OpA} {s : State} : KeepsMem s (execSubsync o s) :=
  issueIf_keepsMem fun x u => by
    refine mem_ite (Ctx.complete_mem ..) <| mem_ite ?_ ?_
    · rw [Ctx.complete_mem, State.closeChunks_mem]
    · rw [Ctx.hold_mem, Ctx.note_mem, State.closeChunks_mem]

theorem execChunkClose_keepsMem {s : State} : KeepsMem s (execChunkClose s) :=
  keepsMem_next (mem_foldl (fun _ _ => State.closeChunk_mem ..) rfl)

theorem execNoticeAcknowledgement_keepsMem {id : Nat} {s : State} : KeepsMem s (execNoticeAcknowledgement id s) := by
  unfold execNoticeAcknowledgement
  repeat' split
  all_goals exact keepsMem_next (by simp)

theorem execPread_keepsMem {o : OpB} {s : State} : KeepsMem s (execPread o s) :=
  issue_keepsMem fun _ _ => mem_ite (Ctx.raiseAll_mem ..) (Ctx.complete_mem ..)

theorem execPwrite_keepsMem {o : OpB} {s : State} : KeepsMem s (execPwrite o s) :=
  issueIf_keepsMem fun x u => by
    dsimp only
    split
    · exact Ctx.raiseAll_mem ..
    · rw [Ctx.hold_mem]
      refine mem_ite ?_ (Ctx.note_mem ..)
      rw [ownWrite_mem, Ctx.complete_mem]

theorem callMode_keepsMem {i : Instr} {cause : Nat} {s : State} : KeepsMem s (callMode i cause s) :=
  forced_keepsMem <| issueIf_keepsMem fun _ _ => State.trapEntry_mem ..

theorem execEbreak_keepsMem {o : OpA} {s : State} : KeepsMem s (execEbreak o s) := issueIf_keepsMem fun _ _ => by simp

theorem execIllegal_keepsMem {o : OpA} {s : State} : KeepsMem s (execIllegal o s) := issue_keepsMem fun _ _ => by simp

theorem returnFrom_keepsMem {i : Instr} {m : Mode} {s : State} : KeepsMem s (returnFrom i m s) :=
  withTargetsFor_keepsMem <| issueIf_keepsMem fun x u => by
    split
    · rfl
    · split
      · exact Ctx.raiseAll_mem ..
      · rw [State.trapReturn_mem, Ctx.note_mem]

theorem execGridend_keepsMem {o : OpA} {s : State} : KeepsMem s (execGridend o s) :=
  issue_keepsMem fun x u => by
    refine mem_ite (Ctx.raiseAll_mem ..) ?_
    rw [State.endGrid_mem, Ctx.note_mem]

theorem execTlbi_keepsMem {o : OpA} {s : State} : KeepsMem s (execTlbi o s) :=
  issueIf_keepsMem fun x u => by
    refine mem_ite (Ctx.raiseAll_mem ..) ?_
    rw [Ctx.hold_mem, Ctx.note_mem]

theorem execUnimplementedOpcode_keepsMem {o : OpU} {s : State} : KeepsMem s (execUnimplementedOpcode o s) := by
  unfold execUnimplementedOpcode
  split
  · next h => exact keepsMem_next (State.beginIssue_stop_mem h)
  · next x u h =>
    refine keepsMem_next ?_
    rw [State.settle_mem, ← State.beginIssue_go_mem h]
    exact mem_ite rfl (Ctx.raise_mem ..)

theorem execFetchFault_keepsMem {r : SRef} {s : State} : KeepsMem s (execFetchFault r s) := by
  unfold execFetchFault
  dsimp only
  repeat' split
  all_goals exact keepsMem_next (by simp)

theorem execLaunch_keepsMem {o : OpA} {s : State} : KeepsMem s (execLaunch o s) :=
  withWalks_keepsMem <| forced_keepsMem <| issueIf_keepsMem fun x u => by
    dsimp only
    refine mem_ite (Ctx.raise_mem ..) ?_
    rw [Ctx.raise_mem, Ctx.complete_mem]
    refine Eq.trans (foldl_keeps (fun q : State × List (Nat × Nat) => q.1.mem) (fun q l => launchPost_mem ..) _ _) ?_
    refine mem_ite ?_ rfl
    rw [State.setHandle_mem, State.bump_mem]

theorem execTready_keepsMem {o : OpA} {s : State} : KeepsMem s (execTready o s) :=
  withWalks_keepsMem <| forced_keepsMem <| issueIf_keepsMem fun x u => by
    dsimp only
    rw [Ctx.raise_mem]
    refine mem_ite (Ctx.fillTlb_mem ..) (mem_foldl (fun t l => ?_) ?_)
    · rw [State.putAfter_mem, Ctx.plainAccess_mem, State.storeIssued_mem]
    · rw [Ctx.note_mem, Ctx.fillTlb_mem]

theorem execIssueSelect_keepsMem {core quad : Nat} {s : State} : KeepsMem s (execIssueSelect core quad s) := by
  unfold execIssueSelect
  repeat' split
  all_goals exact keepsMem_next (by simp)

theorem execCohortPromotion_keepsMem {s : State} : KeepsMem s (execCohortPromotion s) := keepsMem_next rfl

theorem execSplitStarvation_keepsMem {s : State} : KeepsMem s (execSplitStarvation s) := keepsMem_next rfl

theorem execYieldExpiry_keepsMem {s : State} : KeepsMem s (execYieldExpiry s) := keepsMem_next rfl

theorem execClassLatencyEnd_keepsMem {s : State} : KeepsMem s (execClassLatencyEnd s) :=
  keepsMem_next (mem_foldl State.endLatency_mem rfl)

theorem execClassVCompletion_keepsMem {uid : Nat} {s : State} : KeepsMem s (execClassVCompletion uid s) := by
  unfold execClassVCompletion
  repeat' split
  all_goals exact keepsMem_next (by simp)

theorem execBlockPlacement_keepsMem {s : State} : KeepsMem s (execBlockPlacement s) := by
  unfold execBlockPlacement
  repeat' split
  all_goals exact keepsMem_next (by simp)

theorem execPlacementMark_keepsMem {id : Nat} {s : State} : KeepsMem s (execPlacementMark id s) := by
  unfold execPlacementMark
  repeat' split
  all_goals exact keepsMem_next (by simp)

theorem execPreemption_keepsMem {s : State} : KeepsMem s (execPreemption s) := by
  unfold execPreemption
  split <;> exact keepsMem_next (by simp)

theorem execDeadlockRescue_keepsMem {id : Nat} {s : State} : KeepsMem s (execDeadlockRescue id s) := by
  unfold execDeadlockRescue
  dsimp only
  repeat' split
  all_goals exact keepsMem_next (by simp)

theorem execCohortFormation_keepsMem {br : BRef} {target : Nat} {s : State} : KeepsMem s (execCohortFormation br target s) := by
  unfold execCohortFormation
  repeat' split
  all_goals exact keepsMem_next (by simp)

theorem execBlockRetire_keepsMem {br : BRef} {s : State} : KeepsMem s (execBlockRetire br s) := by
  unfold execBlockRetire
  split
  · exact keepsMem_next rfl
  · next b _ =>
    split
    · exact keepsMem_next rfl
    · dsimp only
      refine keepsMem_next ?_
      rw [State.settleAll_mem]
      exact mem_foldl State.vacate_mem (mem_ite rfl (State.sendRemovals_mem ..))

theorem execSave_keepsMem {br : BRef} {s : State} : KeepsMem s (execSave br s) := by
  unfold execSave
  split
  · exact keepsMem_next rfl
  · split
    · exact keepsMem_next rfl
    · refine keepsMem_next (mem_foldl ?_ (mem_foldl ?_ rfl))
      · intro t r
        dsimp only
        split <;> rfl
      · exact fun t e => State.closeChunk_mem ..

theorem execPageWalk_keepsMem {w : WalkReq} {s : State} : KeepsMem s (execPageWalk w s) :=
  keepsMem_next <| mem_ite (State.askWalk_mem ..) <| mem_ite (mem_foldl (fun _ _ => State.readEntryOf_mem ..) rfl) rfl

theorem execWalkCompletion_keepsMem {id : Nat} {s : State} : KeepsMem s (execWalkCompletion id s) := by
  unfold execWalkCompletion
  split
  · exact keepsMem_next rfl
  · split
    · exact keepsMem_next rfl
    · refine keepsMem_next (mem_foldl State.wakeWalk_mem (mem_ite rfl ?_))
      split
      · exact mem_foldl (fun t q => State.tlbPut_mem ..) rfl
      · rfl

theorem execLeaseGrant_keepsMem {acc : Nat} {s : State} : KeepsMem s (execLeaseGrant acc s) := by
  unfold execLeaseGrant
  split
  · exact keepsMem_next (mem_ite rfl <| mem_ite (State.evict_mem ..) (State.serveLoad_mem ..))
  · exact keepsMem_next rfl

theorem execPacketService_keepsMem {acc : Nat} {s : State} : KeepsMem s (execPacketService acc s) := by
  unfold execPacketService
  repeat' split
  all_goals exact keepsMem_next (by simp)

theorem execLeaseExpiry_keepsMem {s : State} : KeepsMem s (execLeaseExpiry s) :=
  keepsMem_next (mem_foldl (fun _ _ => mem_ite (State.modCore_mem ..) rfl) rfl)

theorem execEpochStart_keepsMem {s : State} : KeepsMem s (execEpochStart s) := keepsMem_next rfl

theorem execWriteArrival_keepsMem {acc : Nat} {s : State} : KeepsMem s (execWriteArrival acc s) := by
  unfold execWriteArrival
  repeat' split
  all_goals exact keepsMem_next (by simp)

theorem execRevoke_keepsMem {core acc : Nat} {s : State} : KeepsMem s (execRevoke core acc s) := by
  unfold execRevoke
  dsimp only
  repeat' split
  all_goals exact keepsMem_next (by simp)

theorem execRevokeAck_keepsMem {what : PowerUnit} {acc : Nat} {s : State} : KeepsMem s (execRevokeAck what acc s) := by
  unfold execRevokeAck
  split
  · exact keepsMem_next rfl
  · refine keepsMem_next ?_
    cases what with
    | core k =>
      dsimp only
      split
      · rfl
      · exact mem_ite (State.modWait_mem ..) <| mem_ite (State.modWait_mem ..) rfl
    | banks d =>
      dsimp only
      split
      · rfl
      · exact mem_ite (State.setAccess_mem ..) <| mem_ite (State.modWait_mem ..) rfl

theorem execInvalidation_keepsMem {domain acc : Nat} {s : State} : KeepsMem s (execInvalidation domain acc s) := by
  unfold execInvalidation
  repeat' split
  all_goals exact keepsMem_next (by simp)

theorem execL2ModeChange_keepsMem {part : Nat} {s : State} : KeepsMem s (execL2ModeChange part s) :=
  keepsMem_next (mem_ite (State.dropCopies_mem s (s.directory.map (·.1))) rfl)

theorem execRecessStart_keepsMem {s : State} : KeepsMem s (execRecessStart s) := by
  unfold execRecessStart
  split <;> exact keepsMem_next (by simp)

theorem execRecessEnd_keepsMem {s : State} : KeepsMem s (execRecessEnd s) := by
  unfold execRecessEnd
  repeat' split
  all_goals exact keepsMem_next (by simp)

theorem execCoreGate_keepsMem {core : Nat} {s : State} : KeepsMem s (execCoreGate core s) := keepsMem_next (by split <;> simp)

theorem execBankGroupGate_keepsMem {d : Nat} {s : State} : KeepsMem s (execBankGroupGate d s) :=
  keepsMem_next (mem_ite (State.dropCopies_mem s ((s.directory.filter fun e => paDomain (128 * e.1) == d).map (·.1))) rfl)

theorem execWakeRequest_keepsMem {d : Nat} {u : PowerUnit} {s : State} : KeepsMem s (execWakeRequest d u s) :=
  keepsMem_next <| mem_ite ((State.grant_mem ..).trans (mem_ite (State.enqueueWake_mem ..) rfl)) rfl

theorem execInrushTokenRelease_keepsMem {s : State} : KeepsMem s (execInrushTokenRelease s) :=
  keepsMem_next (mem_foldl State.releaseTokens_mem rfl)

theorem execGatingComplete_keepsMem {u : PowerUnit} {s : State} : KeepsMem s (execGatingComplete u s) :=
  keepsMem_next <| mem_ite (mem_ite (by rw [State.grant_mem, State.enqueueWake_mem, State.setPower_mem]) (State.setPower_mem ..)) rfl

theorem execHostRead_keepsMem {p : Port} {bar0 : Bool} {off len : Nat} {s : State} : KeepsMem s (execHostRead p bar0 off len s) :=
  keepsMem_next <| mem_ite rfl <| mem_ite (by rw [State.badTarget_mem, State.complete_mem]) <| mem_ite rfl <|
    mem_ite (State.complete_mem ..) <| mem_ite (State.complete_mem ..) <|
    mem_ite (by rw [State.badTarget_mem, State.complete_mem]) <| mem_ite rfl <|
    mem_ite ((State.complete_mem ..).trans (State.touchBanks_mem ..)) ((State.complete_mem ..).trans (State.touchBanks_mem ..))

theorem execPost_keepsMem {p : Port} {full : Bool} {record : List DWord} {s : State} : KeepsMem s (execPost p full record s) :=
  keepsMem_next <| mem_ite rfl <| mem_ite (State.badTarget_mem ..) (State.posted_mem ..)

theorem execPfence_keepsMem {p : Port} {s : State} : KeepsMem s (execPfence p s) :=
  keepsMem_next <| mem_ite (State.complete_mem ..) rfl

theorem execPstat_keepsMem {p : Port} {ones : DWord} {s : State} : KeepsMem s (execPstat p ones s) :=
  keepsMem_next <| mem_ite rfl (State.modPort_mem ..)

theorem execMsemClaim_keepsMem {p : Port} {s : State} : KeepsMem s (execMsemClaim p s) :=
  keepsMem_next <| mem_ite (State.manage_mem ..) rfl

theorem execMsemRelease_keepsMem {p : Port} {s : State} : KeepsMem s (execMsemRelease p s) :=
  keepsMem_next <| mem_ite (State.manage_mem ..) rfl

theorem execPortLinkDown_keepsMem {p : Port} {s : State} : KeepsMem s (execPortLinkDown p s) :=
  keepsMem_next <| mem_ite (State.modPort_mem ..) (State.modPort_mem ..)

theorem execReadRecorder_keepsMem {p : Port} {domain : Nat} {s : State} : KeepsMem s (execReadRecorder p domain s) :=
  keepsMem_next (by simp)

theorem execAttestationReport_keepsMem {p : Port} {s : State} : KeepsMem s (execAttestationReport p s) := keepsMem_next (by simp)

theorem execUnfreeze_keepsMem {p : Port} {s : State} : KeepsMem s (execUnfreeze p s) := keepsMem_next (by simp)

theorem execIdentityPublicKey_keepsMem {p : Port} {s : State} : KeepsMem s (execIdentityPublicKey p s) := keepsMem_next (by simp)

theorem execRegisterWrite_keepsMem {p : Port} {off : Nat} {v : DWord} {s : State} : KeepsMem s (execRegisterWrite p off v s) :=
  keepsMem_next (by simp)

theorem execHostWrite_keepsMem {p : Port} {off : BarPlace} {bytes : List (Option Byte)} {s : State} :
    KeepsMem s (execHostWrite p off bytes s) := by
  unfold execHostWrite
  split <;> exact keepsMem_next (by simp)

theorem execEdgeLinkDown_keepsMem {link : Nat} {s : State} : KeepsMem s (execEdgeLinkDown link s) := by
  unfold execEdgeLinkDown
  split
  · exact keepsMem_next rfl
  · refine keepsMem_next (mem_foldl (fun t o => ?_) (State.record_mem ..))
    split
    · exact State.endCopy_mem ..
    · rfl

theorem execCxlPortFailure_keepsMem {n : Nat} {s : State} : KeepsMem s (execCxlPortFailure n s) :=
  keepsMem_next <| mem_ite rfl (State.record_mem ..)

theorem execFatalEvent_keepsMem {domain code : Nat} {s : State} : KeepsMem s (execFatalEvent domain code s) := keepsMem_next (by simp)

/-! ## Memory in its canonical form, kept by what writes memory -/

/-- Memory is in its canonical form. -/
def State.Formed (s : State) : Prop := Memory.wf s.mem = true

theorem formed_of_mem {s t : State} (h : s.Formed) (hm : t.mem = s.mem) : t.Formed := by
  unfold State.Formed
  rw [hm]
  exact h

theorem formed_ite {c : Prop} [Decidable c] {t u : State} (ht : t.Formed) (hu : u.Formed) : (if c then t else u).Formed := by
  split <;> assumption

theorem formed_foldl {α : Type} {f : State → α → State} (hf : ∀ t b, t.Formed → (f t b).Formed) {l : List α} {s : State}
    (h : s.Formed) : (l.foldl f s).Formed :=
  List.foldlRecOn l f h fun t ht b _ => hf t b ht

/-! ### A write at its home, and a write from outside the cores -/

/-- A write at its home writes its bytes, and what it wakes writes none. -/
theorem State.homeWrite_mem (s : State) (pa : Nat) (bytes : List Byte) (clears : Bool) :
    (s.homeWrite pa bytes clears).mem = (s.writeRun pa bytes).mem := by
  unfold State.homeWrite
  rw [State.wakeWaitm_mem]
  exact mem_ite (State.l2Bring_mem ..) rfl

theorem State.Formed.homeWrite {s : State} (h : s.Formed) (pa : Nat) (bytes : List Byte) (clears : Bool) :
    (s.homeWrite pa bytes clears).Formed :=
  formed_of_mem (s := s.writeRun pa bytes) (wf_writeRun h) (s.homeWrite_mem ..)

theorem State.Formed.performStore {s : State} (h : s.Formed) (a : Access) : (s.performStore a).Formed := by
  have out : ({ s with flight := s.flight.filter fun b => b.id != a.id } : State).Formed := h
  unfold State.performStore
  refine formed_of_mem ?_ (State.finishStore_mem ..)
  refine formed_ite (formed_of_mem out (State.scratchWrite_mem ..)) <| formed_ite (formed_of_mem out (State.draftWrite_mem ..)) <|
    formed_ite out ?_
  exact State.Formed.homeWrite out ..

theorem performAtomic_formed {s : State} (h : s.Formed) (a : Access) (op : Nat) (sr : Bool) (ls : List (Nat × Nat)) :
    (performAtomic s a op sr ls).Formed := by
  have fixed (f : Access → Access) : (s.bump.setAccess a.id f).Formed := h
  unfold performAtomic
  dsimp only
  split
  · exact h
  · refine formed_ite (formed_ite (formed_of_mem h ?_) h) <| formed_ite h <| formed_ite (formed_of_mem h ?_) <| formed_ite h ?_
    · rw [State.scratchWrite_mem, State.setAccess_mem]
    · rw [State.draftWrite_mem, State.setAccess_mem, State.bump_mem]
    · unfold State.Formed
      rw [State.wakeWaitm_mem]
      dsimp only
      rw [State.l2Bring_mem]
      exact wf_writeRun (fixed _)

theorem State.Formed.outsideWrite {s : State} (h : s.Formed) (op : AccOp) (uid pa : Nat) (bytes : List Byte) :
    (State.outsideWrite op uid s pa bytes).Formed := by
  have touched : (s.touchBanks pa).Formed := formed_of_mem h (State.touchBanks_mem ..)
  exact formed_ite (touched.homeWrite ..) (formed_of_mem h (State.launchAccess_mem ..))

theorem State.Formed.regWrite {s : State} (h : s.Formed) (owner : Option BRef) (pa : Nat) (bytes : List Byte) :
    (s.regWrite owner pa bytes).Formed := h.outsideWrite ..

theorem State.Formed.areaWrite {s : State} (h : s.Formed) (g : Grid) (owner : Option BRef) (va : Nat) (bytes : List Byte) :
    (s.areaWrite g owner va bytes).Formed := by
  refine formed_foldl (fun t q ht => ?_) h
  split
  · exact ht.regWrite ..
  · exact ht

theorem State.Formed.afnarWrite {s : State} (h : s.Formed) (pa : Nat) (bytes : List Byte) (n : Nat) :
    (s.afnarWrite pa bytes n).Formed := by
  induction n generalizing s pa bytes with
  | zero => exact h
  | succ n ih => exact formed_ite h (ih (h.outsideWrite ..) ..)

/-! ### Copies -/

theorem writeDest_formed {s t : State} {op : CopyOp} {g : Grid} {toGlob fill : Bool} {a k : Nat} {v : Byte} (h : s.Formed)
    (hd : writeDest s op g toGlob fill a k v = .next t) : t.Formed := by
  unfold writeDest at hd
  split at hd
  · split at hd
    · cases hd
      exact formed_of_mem h (State.deliver_mem ..)
    · cases hd
  · split at hd
    · cases hd
    · split at hd
      · cases hd
      · have begun : (s.beginPage op g true a).Formed := formed_of_mem h (State.beginPage_mem ..)
        dsimp only at hd
        split at hd
        · split at hd
          · cases hd
          · cases hd
            exact begun
        · split at hd
          · cases hd
          · split at hd
            · cases hd
            · cases hd
              refine State.Formed.homeWrite (formed_of_mem begun ?_) ..
              rw [State.dropClaims_mem, State.touchBanks_mem]

theorem deliverByte_formed {s t : State} {op : CopyOp} (h : s.Formed) (hd : deliverByte s op = .next t) : t.Formed := by
  unfold deliverByte at hd
  split at hd
  · split at hd
    · cases hd
    · split at hd
      · cases hd
      · cases hd
      · next u hs =>
        dsimp only at hd
        split at hd
        · next w hw =>
          cases hd
          refine formed_of_mem (writeDest_formed (formed_of_mem h (sourceFor_mem hs)) hw) ?_
          rw [State.modCopy_mem, State.countBytes_mem]
        · next hn =>
          exact absurd hd (hn t)
  · cases hd

theorem landBytes_formed {s : State} (h : s.Formed) (id n : Nat) : (landBytes id n s).1.Formed := by
  induction n generalizing s with
  | zero => exact h
  | succ n ih =>
    unfold landBytes
    split
    · exact h
    · split
      · next hd => exact ih (deliverByte_formed h hd)
      · exact formed_of_mem h (State.askLine_mem ..)
      · exact formed_of_mem h (State.endCopy_mem ..)

theorem copyBytes_formed {s : State} (h : s.Formed) (id n : Nat) : (copyBytes id n s).Formed := by
  induction n generalizing s with
  | zero =>
    unfold copyBytes
    split
    · exact h
    · split
      · exact formed_ite (formed_of_mem h (State.endCopy_mem ..)) h
      · exact h
  | succ n ih =>
    unfold copyBytes
    split
    · exact h
    · split
      · refine formed_ite (formed_of_mem h (State.endCopy_mem ..)) ?_
        dsimp only
        exact formed_ite (ih (landBytes_formed h ..)) (landBytes_formed h ..)
      · exact h

theorem copyResolve_formed {s : State} (h : s.Formed) (id units reads : Nat) : (copyResolve id units reads s).Formed := by
  unfold copyResolve
  split
  · split
    · exact h
    · split
      · exact formed_of_mem h (State.endCopy_mem ..)
      · dsimp only
        split
        · exact formed_of_mem (copyBytes_formed h ..) (readAhead_mem ..)
        · exact copyBytes_formed h ..
      · exact formed_ite (formed_of_mem h (settlePeer_mem ..)) (formed_of_mem h (readAhead_mem ..))
  · exact h

theorem fillLineLanded_formed {s : State} (h : s.Formed) (id : Nat) : (fillLineLanded id s).Formed := by
  unfold fillLineLanded
  split
  · split
    · refine formed_ite h (copyBytes_formed ?_ ..)
      split
      · exact formed_ite (landBytes_formed h ..) (landBytes_formed h ..)
      · exact landBytes_formed h ..
    · exact h
  · exact h

/-! ### Grids, spawned threads and images of blocks -/

theorem State.Formed.retireGrid {s : State} (h : s.Formed) (g : Grid) (status : Nat) : (s.retireGrid g status).Formed := by
  unfold State.retireGrid
  refine formed_ite (formed_of_mem h (State.finishRetire_mem ..)) ?_
  split
  · exact formed_of_mem h ((State.finishRetire_mem ..).trans (State.record_mem ..))
  · refine formed_ite (formed_of_mem (h.regWrite ..) (State.finishRetire_mem ..)) (formed_of_mem h ?_)
    rw [State.modGrid_mem, State.launchAccess_mem]

theorem State.Formed.storeRec {s : State} (h : s.Formed) (br : BRef) (r : SpawnRec) : (State.storeRec br s r).Formed := by
  unfold State.storeRec
  split
  · exact h
  · refine formed_ite h ?_
    exact formed_of_mem (h.areaWrite ..) (State.modBlock_mem ..)

theorem State.Formed.spawnSplit {s : State} (h : s.Formed) (r : SRef) : (s.spawnSplit r).Formed := by
  unfold State.spawnSplit
  split
  · dsimp only
    refine formed_of_mem (formed_foldl (fun t q ht => ht.storeRec r.c.b q) ?_)
      ((freeCohort_mem ..).trans (State.remerge_mem ..))
    exact h
  · exact h

theorem State.Formed.release2 {s : State} (h : s.Formed) (g : Grid) : (s.release2 g).Formed :=
  formed_ite (h.retireGrid ..) <| formed_ite (h.retireGrid ..) <|
    formed_of_mem h ((State.askTiles_mem ..).trans (State.modGrid_mem ..))

theorem State.Formed.releaseNow {s : State} (h : s.Formed) (g : Grid) : (s.releaseNow g).Formed :=
  State.Formed.release2 (formed_of_mem h (State.touchAll_mem ..)) g

theorem State.Formed.releaseConsumers {s : State} (h : s.Formed) (n : Nat) : (s.releaseConsumers n).Formed := by
  induction n generalizing s with
  | zero => exact h
  | succ n ih =>
    unfold State.releaseConsumers
    split
    · exact h
    · exact ih (h.releaseNow _)

theorem State.Formed.releaseAll {s : State} (h : s.Formed) : s.releaseAll.Formed := h.releaseConsumers _

theorem dispatchEntry_formed {s : State} (h : s.Formed) (id : Nat) : (dispatchEntry id s).Formed := by
  unfold dispatchEntry
  split
  · exact h
  · next g _ =>
    refine formed_ite (h.releaseNow g).releaseAll <| formed_ite h ?_
    have entered : ((s.touchAll (s.launchReads g)).modGrid id fun x => { x with age := s.ticks }).Formed :=
      formed_of_mem h ((State.modGrid_mem ..).trans (State.touchAll_mem ..))
    dsimp only
    split
    · exact (entered.retireGrid ..).releaseAll
    · exact State.Formed.releaseAll entered

theorem gridRetire_formed {s : State} (h : s.Formed) (id : Nat) : (gridRetire id s).Formed := by
  unfold gridRetire
  split
  · exact h
  · exact formed_ite h (State.Formed.retireGrid (formed_of_mem h (State.touchAll_mem ..)) ..).releaseAll

theorem State.Formed.ckWrite {s t : State} {g : Grid} {br : BRef} {ws : List (Nat × List Byte)} (h : s.Formed)
    (hw : s.ckWrite g br ws = .ok t) : t.Formed := by
  refine List.foldlRecOn (motive := fun r : Except XFault State => ∀ t, r = .ok t → t.Formed) ws _
    (fun t ht => by cases ht; exact h) (fun r hr w _ t ht => ?_) t hw
  split at ht
  · cases ht
  · next u =>
    split at ht
    · cases ht
    · cases ht
      exact (hr u rfl).regWrite ..

theorem State.Formed.imaged {t : State} (h : t.Formed) (s : State) : (t.imaged s).Formed := by
  refine formed_foldl (fun u b hu => ?_) h
  split
  · split
    · exact formed_foldl (fun v k hv => hv.areaWrite ..) hu
    · exact hu
  · exact hu

theorem State.Formed.logged {t : State} (h : t.Formed) (s : State) : (t.logged s).Formed := by
  refine formed_foldl (fun u b hu => ?_) h
  split
  · refine formed_foldl (fun v i hv => ?_) hu
    split
    · exact hv
    · refine formed_ite hv ?_
      dsimp only
      split
      · next hw => exact hv.ckWrite hw
      · exact formed_of_mem hv (State.ckFail_mem ..)
  · exact hu

theorem State.Formed.capture {s t : State} {g : Grid} {b : Block} (h : s.Formed) (hc : s.capture g b = .ok t) : t.Formed := by
  have begun (f : List Block) (m : Block → Block) :
      (({ s.touchAll (s.ckReads b) with checkpoints := f } : State).modBlock b.ref m).Formed :=
    formed_of_mem (s := s.touchAll (s.ckReads b)) (formed_of_mem h (State.touchAll_mem ..)) rfl
  unfold State.capture at hc
  dsimp only at hc
  split at hc
  · exact (begun _ _).ckWrite hc
  · cases hc
    exact begun _ _

theorem State.Formed.commitBlock {s : State} (h : s.Formed) (b : Block) : (s.commitBlock b).1.Formed := by
  unfold State.commitBlock
  split
  · exact h
  · next g _ =>
    split
    · exact formed_of_mem h (State.ckFail_mem ..)
    · next u hu =>
      have captured : u.Formed := by
        split at hu
        · cases hu
          exact h
        · exact h.capture hu
      split
      · exact captured
      · split
        · exact formed_of_mem captured (State.ckFail_mem ..)
        · next v hv =>
          have sealed : v.Formed := by
            split at hv
            · cases hv
              exact captured
            · exact captured.ckWrite hv
          split
          · exact sealed
          · split
            · exact sealed
            · exact sealed

theorem State.Formed.writeSave {s : State} (h : s.Formed) (g : Grid) (b : Block) : (s.writeSave g b).Formed := by
  have begun : ((s.touchAll (s.saveReads b)).modBlock b.ref fun x => { x with captured := true }).Formed :=
    formed_of_mem h ((State.modBlock_mem ..).trans (State.touchAll_mem ..))
  unfold State.writeSave
  dsimp only
  split
  · refine formed_foldl (fun t w ht => ?_) begun
    split
    · exact ht.regWrite ..
    · exact ht
  · exact begun

theorem State.Formed.rollbackBlock {s : State} (h : s.Formed) (b : Block) (kind : Nat) : (s.rollbackBlock b kind).Formed := by
  unfold State.rollbackBlock
  split
  · exact h
  · dsimp only
    have settled {u : State} (hu : u.Formed) : u.settleEntries.wakeSubsync.settleAll.Formed :=
      formed_of_mem hu (by rw [State.settleAll_mem, State.wakeSubsync_mem, State.settleEntries_mem])
    have returned {u : State} (was : Block) (hu : u.Formed) :
        ((((u.dropPass b).replay b).resubscribe b was).finishSealed b.ref).Formed :=
      formed_of_mem hu (by rw [State.finishSealed_mem, State.resubscribe_mem, State.replay_mem, State.dropPass_mem])
    refine formed_ite (formed_of_mem (settled ?_) (State.requestSaves_mem ..)) (settled ?_)
    all_goals
      refine formed_foldl (fun t e ht => formed_of_mem ht (State.resnap_mem ..)) ?_
      refine returned _ ?_
      refine formed_foldl (fun t r ht => ht.storeRec ..) ?_
      exact formed_of_mem h (State.record_mem ..)

theorem State.Formed.damageBlock {s : State} (h : s.Formed) (br : BRef) (kind : Nat) : (s.damageBlock br kind).Formed := by
  unfold State.damageBlock
  split
  · refine formed_ite h <| formed_ite (formed_of_mem h ((State.endGrid_mem ..).trans (State.record_mem ..))) ?_
    split
    · exact h.rollbackBlock ..
    · exact h.rollbackBlock ..
    · exact h
  · exact h

theorem State.Formed.setGrade {s : State} (h : s.Formed) (core quad v : Nat) : (s.setGrade core quad v).Formed := by
  unfold State.setGrade
  split
  · exact h
  · dsimp only
    split
    · refine State.Formed.regWrite ?_ ..
      exact h
    · exact h

theorem State.Formed.retireColumn {s : State} (h : s.Formed) (core quad column : Nat) : (s.retireColumn core quad column).Formed := by
  unfold State.retireColumn
  dsimp only
  have recorded (f : Core → Core) (d pay : Nat) : ((s.modCore core f).record d 4 core pay).Formed :=
    formed_of_mem h ((State.record_mem ..).trans (State.modCore_mem ..))
  exact formed_ite ((recorded ..).setGrade ..) <| formed_ite ((recorded ..).setGrade ..) (recorded ..)

/-! ### Reset and boot -/

theorem State.Formed.afterReset {s : State} (h : s.Formed) : s.afterReset.Formed := by
  unfold State.Formed State.afterReset
  dsimp only
  split
  · rfl
  · exact h

theorem State.Formed.survey {s : State} (h : s.Formed) (m : DefectMap) : (s.survey m).Formed := by
  have charted (c : Chart) (b : Nat) (l : List (Nat × Byte)) :
      ({ s with chart := c, bstate := b, mem := tputs memDefault l s.mem } : State).Formed := tableOk_tputs h
  unfold State.survey
  exact formed_ite (formed_of_mem (charted ..) (State.record_mem ..)) (charted ..)

theorem State.Formed.bootStep {s : State} (h : s.Formed) : s.bootStep.Formed := by
  unfold State.bootStep
  split
  · exact formed_of_mem h (State.bootFirmware_mem ..)
  · exact formed_of_mem h (State.bootMap_mem ..)
  · unfold State.bootSurvey
    split
    · exact h
    · exact h.survey _
  · exact h
  · exact h

/-! ## Every step keeps memory in its canonical form (O10) -/

/-- Every next state of an outcome has memory in its canonical form, where `s` has. -/
def KeepsForm (s : State) (o : Host.Outcome State Fault Refusal) : Prop := s.Formed → ∀ t, o = .next t → t.Formed

theorem keepsForm_next {s t : State} (h : s.Formed → t.Formed) : KeepsForm s (.next t) := by
  rintro hs u ⟨⟩
  exact h hs

theorem KeepsMem.keepsForm {s : State} {o : Host.Outcome State Fault Refusal} (h : KeepsMem s o) : KeepsForm s o :=
  fun hs t ht => formed_of_mem hs (h t ht)

theorem keepsForm_imaged {s t : State} (h : s.Formed → t.Formed) : KeepsForm s (.next (t.imaged s)) :=
  keepsForm_next fun hs => (h hs).imaged s

theorem execSpawn_keepsForm {r : SRef} {s : State} : KeepsForm s (execSpawn r s) :=
  keepsForm_next fun h => formed_ite (State.Formed.spawnSplit (formed_of_mem h (State.touchAll_mem ..)) r) h

theorem execCheckpoint_keepsForm {br : BRef} {s : State} : KeepsForm s (execCheckpoint br s) := by
  unfold execCheckpoint
  split
  · exact keepsForm_next id
  · next b _ =>
    split
    · exact keepsForm_next id
    · split
      · exact keepsForm_next fun h => formed_of_mem h ((State.afterPublish_mem ..).trans (State.modBlock_mem ..))
      · have committed (h : s.Formed) : (s.commitBlock b).1.Formed := h.commitBlock b
        split
        · next hc => exact keepsForm_next fun h => by simpa only [hc] using committed h
        · next u hc =>
          have done (h : s.Formed) : u.Formed := by simpa only [hc] using committed h
          split
          · exact keepsForm_next fun h => formed_of_mem (done h) (State.settleAll_mem ..)
          · refine keepsForm_next fun h => ?_
            have published : (u.publish b).Formed := formed_of_mem (done h) (State.publish_mem ..)
            exact formed_ite (formed_of_mem published ((State.afterPublish_mem ..).trans (State.finishSealed_mem ..))) published

theorem execSaveComplete_keepsForm {br : BRef} {s : State} : KeepsForm s (execSaveComplete br s) := by
  unfold execSaveComplete
  split
  · next b g _ _ =>
    refine keepsForm_next fun h => formed_ite h <| formed_ite (formed_of_mem h (State.endSave_mem ..)) ?_
    exact formed_ite (h.writeSave g b) (formed_of_mem (h.writeSave g b) (State.endSave_mem ..))
  · exact keepsForm_next id

theorem execRestore_keepsForm {br : BRef} {s : State} : KeepsForm s (execRestore br s) := by
  unfold execRestore
  split
  · next p core f _ =>
    split
    · next b _ =>
      split
      · exact keepsForm_next id
      · dsimp only
        refine keepsForm_next fun h => ?_
        have ended {u : State} {ok : Bool} {d pay g st : Nat} {k : Nat × Nat × Nat} (hu : u.Formed) :
            (if ok then u else (u.record d 3 core pay).endGrid g k st).Formed :=
          formed_ite hu (formed_of_mem hu ((State.endGrid_mem ..).trans (State.record_mem ..)))
        refine ended (formed_foldl (fun t r ht => ?_) (formed_foldl (fun t k ht => ?_) ?_))
        · exact formed_ite (formed_of_mem ht rfl) ht
        · exact formed_of_mem ht (State.occupy_mem ..)
        · refine formed_of_mem (formed_foldl (fun t e ht => ?_) (formed_foldl (fun t c ht => ?_) (formed_foldl (fun t r ht => ?_) ?_)))
            (State.modGrid_mem ..)
          · exact formed_of_mem ht (State.modCore_mem ..)
          · exact formed_foldl (fun u r hu => hu.storeRec br r) ht
          · exact ht.storeRec ..
          · exact formed_of_mem (s := s.touchAll (s.placeReads p)) (formed_of_mem h (State.touchAll_mem ..)) rfl
    · exact keepsForm_next id
  · exact keepsForm_next id

theorem execRestoreComplete_keepsForm {br : BRef} {s : State} : KeepsForm s (execRestoreComplete br s) := by
  unfold execRestoreComplete
  split
  · exact keepsForm_next id
  · next b _ =>
    split
    · exact keepsForm_next id
    · refine keepsForm_next fun h => ?_
      have resident : (s.modBlock br fun x => { x with st := .resident }).Formed := h
      refine formed_of_mem (formed_ite (resident.rollbackBlock b b.damaged) ?_)
        ((State.settleAll_mem ..).trans (State.applyHeld_mem ..))
      exact formed_foldl (fun t c ht => formed_of_mem ht (State.remerge_mem ..)) resident

theorem execUncorrectableError_keepsForm {e : Damage} {s : State} : KeepsForm s (execUncorrectableError e s) := by
  cases e with
  | block br kind => exact keepsForm_imaged fun h => h.damageBlock br kind
  | orphan core kind => exact keepsForm_next fun h => formed_of_mem h (State.record_mem ..)
  | l1Line core line => exact keepsForm_next id
  | codeLine core line => exact keepsForm_next id
  | tlbEntry core second n => exact keepsForm_next fun h => formed_ite h h
  | l1Tags core => exact keepsForm_next id
  | memory pa => exact keepsForm_next id
  | residue core columns =>
    dsimp only [execUncorrectableError]
    split
    · exact keepsForm_next id
    · refine keepsForm_imaged fun h => State.Formed.damageBlock (formed_foldl (fun t c ht => ht.retireColumn core c.1 c.2) ?_) ..
      exact h

theorem execDispatchEntry_keepsForm {id : Nat} {s : State} : KeepsForm s (execDispatchEntry id s) :=
  keepsForm_imaged fun h => dispatchEntry_formed h id

theorem execGridRetire_keepsForm {id : Nat} {s : State} : KeepsForm s (execGridRetire id s) :=
  keepsForm_imaged fun h => gridRetire_formed h id

theorem execCopyResolve_keepsForm {id units reads : Nat} {s : State} : KeepsForm s (execCopyResolve id units reads s) :=
  keepsForm_imaged fun h => copyResolve_formed h id units reads

theorem execPeerDelivery_keepsForm {id bit : Nat} {s : State} : KeepsForm s (execPeerDelivery id bit s) :=
  keepsForm_next fun h => State.Formed.logged (State.Formed.imaged (formed_of_mem h (peerDelivery_mem ..)) s) s

theorem execFillLineLanded_keepsForm {id : Nat} {s : State} : KeepsForm s (execFillLineLanded id s) :=
  keepsForm_imaged fun h => fillLineLanded_formed h id

theorem execSubscribeRequest_keepsForm {id : Nat} {s : State} : KeepsForm s (execSubscribeRequest id s) :=
  keepsForm_imaged fun h => formed_of_mem h (subscribeRequest_mem ..)

theorem execSnapshotLanded_keepsForm {id : Nat} {s : State} : KeepsForm s (execSnapshotLanded id s) :=
  keepsForm_imaged fun h => formed_of_mem h (snapshotLanded_mem ..)

theorem execUpdatePacket_keepsForm {id : Nat} {s : State} : KeepsForm s (execUpdatePacket id s) :=
  keepsForm_imaged fun h => formed_of_mem h (updatePacket_mem ..)

theorem execUpdateAck_keepsForm {id : Nat} {s : State} : KeepsForm s (execUpdateAck id s) :=
  keepsForm_imaged fun h => formed_of_mem h (updateAck_mem ..)

theorem execAbsentNotice_keepsForm {id : Nat} {s : State} : KeepsForm s (execAbsentNotice id s) :=
  keepsForm_imaged fun h => formed_of_mem h (absentNotice_mem ..)

theorem execPresentNotice_keepsForm {id : Nat} {s : State} : KeepsForm s (execPresentNotice id s) :=
  keepsForm_imaged fun h => formed_of_mem h (presentNotice_mem ..)

theorem execRemovalNotice_keepsForm {id : Nat} {s : State} : KeepsForm s (execRemovalNotice id s) :=
  keepsForm_imaged fun h => formed_of_mem h (removalNotice_mem ..)

theorem execWritePerform_keepsForm {acc : Nat} {s : State} : KeepsForm s (execWritePerform acc s) := by
  unfold execWritePerform
  split
  · exact keepsForm_next id
  · next a _ =>
    split
    · exact keepsForm_next fun h => formed_foldl (fun t b ht => formed_of_mem ht (State.askCheckpoint_mem ..)) h
    · split
      · exact keepsForm_next id
      · have listed (h : s.Formed) :
            (if a.homeBound then ({ s with directory := tput [] (a.pa / 128) [] s.directory } : State) else s).Formed := formed_ite h h
        dsimp only
        cases a.op with
        | atomic op wide red sr ls => exact keepsForm_next fun h => performAtomic_formed (listed h) ..
        | tready array => exact keepsForm_next fun h => formed_of_mem ((listed h).performStore a) (State.rereadTiles_mem ..)
        | publish b => exact keepsForm_next fun h => formed_of_mem ((listed h).performStore a) (State.finishSealed_mem ..)
        | claim c => exact keepsForm_next listed
        | evict => exact keepsForm_next listed
        | edge link => exact keepsForm_next fun h => formed_of_mem ((listed h).performStore a) (State.edgeDone_mem ..)
        | status id =>
          dsimp only
          split
          · exact keepsForm_imaged fun h =>
              State.Formed.releaseAll (formed_of_mem ((listed h).performStore a) (State.finishRetire_mem ..))
          · exact keepsForm_next fun h => (listed h).performStore a
        | _ => exact keepsForm_next fun h => (listed h).performStore a

theorem execAfnarCommandDone_keepsForm {s : State} : KeepsForm s (execAfnarCommandDone s) := by
  refine keepsForm_next fun h => formed_ite h <| formed_ite h ?_
  exact formed_ite (h.afnarWrite ..) (h.afnarWrite ..)

theorem execInboundRequest_keepsForm {link addr len : Nat} {data : Option (List Byte)} {s : State} :
    KeepsForm s (execInboundRequest link addr len data s) := by
  unfold execInboundRequest
  dsimp only
  cases data with
  | some bs =>
    dsimp only
    split
    · exact keepsForm_next id
    · split
      · exact keepsForm_next id
      · refine keepsForm_next fun h => formed_of_mem (formed_foldl (fun t q ht => ht.outsideWrite ..) ?_) (State.edgeDone_mem ..)
        exact h
  | none =>
    dsimp only
    split
    · exact keepsForm_next id
    · split
      · exact keepsForm_next id
      · split
        · exact keepsForm_next id
        · refine keepsForm_next fun h => ?_
          exact formed_of_mem h (mem_foldl (fun t q => State.touchBanks_mem ..) rfl)

theorem execReset_keepsForm {s : State} : KeepsForm s (execReset s) := keepsForm_next State.Formed.afterReset

theorem exec_keepsForm {i : Instr} {s : State} : KeepsForm s (exec i s) := by
  cases i with
    | mov | not | popc | clz | brev => unfold exec; exact logic1_keepsMem.keepsForm
    | movi => exact execMovi_keepsMem.keepsForm
    | movh | iaddImmediate | imulImmediate | andImmediate | orImmediate | xorImmediate => unfold exec; exact immediate_keepsMem.keepsForm
    | iadd | isub | imul | imulh | imin | imax => unfold exec; exact arith2_keepsMem.keepsForm
    | iadd3 | imad | fshl | bfi | prmt => unfold exec; exact logic3_keepsMem.keepsForm
    | imadw => exact execImadw_keepsMem.keepsForm
    | idiv | irem => unfold exec; exact divide_keepsMem.keepsForm
    | iabs | ineg => unfold exec; exact arith1_keepsMem.keepsForm
    | and | or | xor | andn => unfold exec; exact logic2_keepsMem.keepsForm
    | shl | shr | sar | rot => unfold exec; exact shiftBy_keepsMem.keepsForm
    | bfx => exact execBfx_keepsMem.keepsForm
    | sel => exact execSel_keepsMem.keepsForm
    | isetp => exact execIsetp_keepsMem.keepsForm
    | isetpImmediate => exact execIsetpImmediate_keepsMem.keepsForm
    | plop => exact execPlop_keepsMem.keepsForm
    | lea => exact execLea_keepsMem.keepsForm
    | nadd => exact execNadd_keepsMem.keepsForm
    | fadd | fsub | fmul => unfold exec; exact float2_keepsMem.keepsForm
    | ffma => exact execFfma_keepsMem.keepsForm
    | fmin => exact execFmin_keepsMem.keepsForm
    | fmax => exact execFmax_keepsMem.keepsForm
    | fsetp => exact execFsetp_keepsMem.keepsForm
    | fclass | frnd | fexp => unfold exec; exact float1_keepsMem.keepsForm
    | fldexp => exact execFldexp_keepsMem.keepsForm
    | frcp | frsq | fsqrt | ex2 | lg2 | sin | cos => unfold exec; exact special1_keepsMem.keepsForm
    | f2i => exact execF2i_keepsMem.keepsForm
    | i2f => exact execI2f_keepsMem.keepsForm
    | f2f => exact execF2f_keepsMem.keepsForm
    | cvtq => exact execCvtq_keepsMem.keepsForm
    | cvtx => exact execCvtx_keepsMem.keepsForm
    | hadd2 | hmul2 | hfma2 => unfold exec; exact packedF_keepsMem.keepsForm
    | vadd2 | vsub2 | vmax2 | vmin2 => unfold exec; exact packedI_keepsMem.keepsForm
    | acs2 => exact execAcs2_keepsMem.keepsForm
    | sread => exact execSread_keepsMem.keepsForm
    | swrite => exact execSwrite_keepsMem.keepsForm
    | shfl => exact execShfl_keepsMem.keepsForm
    | vote => exact execVote_keepsMem.keepsForm
    | redx => exact execRedx_keepsMem.keepsForm
    | umov => exact execUmov_keepsMem.keepsForm
    | elect => exact execElect_keepsMem.keepsForm
    | ovclr => exact execOvclr_keepsMem.keepsForm
    | bra => exact execBra_keepsMem.keepsForm
    | brp | bru => unfold exec; exact branchWhole_keepsMem.keepsForm
    | brx | callx | ret => unfold exec; exact branchPair_keepsMem.keepsForm
    | call => exact execCall_keepsMem.keepsForm
    | exit => exact execExit_keepsMem.keepsForm
    | yield => exact execYield_keepsMem.keepsForm
    | nop => exact execNop_keepsMem.keepsForm
    | ldI8 | ldN8 | ldI16 | ldN16 | ldB32 | ldB64 | ldB128 | ldwB32 | ldwB64 | ldwB128 => unfold exec; exact loadGlobal_keepsMem.keepsForm
    | stB8 | stB16 | stB32 | stB64 | stB128 => unfold exec; exact storeGlobal_keepsMem.keepsForm
    | ldsI8 | ldsN8 | ldsI16 | ldsN16 | ldsB32 | ldsB64 | ldsB128 => unfold exec; exact loadScratch_keepsMem.keepsForm
    | stsB8 | stsB16 | stsB32 | stsB64 | stsB128 => unfold exec; exact storeScratch_keepsMem.keepsForm
    | pref => exact execPref_keepsMem.keepsForm
    | atomGlobal | atomScratchpad | atomCasB128 | redGlobal | redScratchpad => unfold exec; exact atomic_keepsMem.keepsForm
    | fence => exact execFence_keepsMem.keepsForm
    | waitm => exact execWaitm_keepsMem.keepsForm
    | bar => exact execBar_keepsMem.keepsForm
    | barbInit | barbArrive => unfold exec; exact barbChange_keepsMem.keepsForm
    | barbWait => exact execBarbWait_keepsMem.keepsForm
    | qpush => exact execQpush_keepsMem.keepsForm
    | qpop => exact execQpop_keepsMem.keepsForm
    | qtry => exact execQtry_keepsMem.keepsForm
    | ckpt => exact execCkpt_keepsMem.keepsForm
    | copy => exact execCopy_keepsMem.keepsForm
    | tcopy => exact execTcopy_keepsMem.keepsForm
    | tcopyPeer => exact execTcopyPeer_keepsMem.keepsForm
    | fill => exact execFill_keepsMem.keepsForm
    | htest => exact execHtest_keepsMem.keepsForm
    | hcancel => exact execHcancel_keepsMem.keepsForm
    | hmovH => exact execHmovH_keepsMem.keepsForm
    | hmovS | hmovC | hmovA => unfold exec; exact handleRead_keepsMem.keepsForm
    | qfence => exact execQfence_keepsMem.keepsForm
    | qbind => exact execQbind_keepsMem.keepsForm
    | qfree => exact execQfree_keepsMem.keepsForm
    | mmaBf16 | mmaF16 | mmaE4m3 | mmaE5m2 | mmaE3m2 | mmaE2m3 | mmaE2m1 | mmaE4m3Qn4 | mmaE2m1Qn4 | mmasBf16 | mmasF16 | mmasE4m3
    | mmasE5m2 | mmasE2m1 =>
    unfold exec; exact mma_keepsMem.keepsForm
    | accld => exact execAccld_keepsMem.keepsForm
    | accst => exact execAccst_keepsMem.keepsForm
    | accz => exact execAccz_keepsMem.keepsForm
    | scacc => exact execScacc_keepsMem.keepsForm
    | subscribe => exact execSubscribe_keepsMem.keepsForm
    | unsub => exact execUnsub_keepsMem.keepsForm
    | subsync => exact execSubsync_keepsMem.keepsForm
    | launch => exact execLaunch_keepsMem.keepsForm
    | tready => exact execTready_keepsMem.keepsForm
    | sysc | hcall => unfold exec; exact callMode_keepsMem.keepsForm
    | sret | hret => unfold exec; exact returnFrom_keepsMem.keepsForm
    | pread => exact execPread_keepsMem.keepsForm
    | pwrite => exact execPwrite_keepsMem.keepsForm
    | tlbi => exact execTlbi_keepsMem.keepsForm
    | gridend => exact execGridend_keepsMem.keepsForm
    | ebreak => exact execEbreak_keepsMem.keepsForm
    | illegal => exact execIllegal_keepsMem.keepsForm
    | unimplementedOpcode => exact execUnimplementedOpcode_keepsMem.keepsForm
    | spawn => exact execSpawn_keepsForm
    | cohortFormation => exact execCohortFormation_keepsMem.keepsForm
    | issueSelect => exact execIssueSelect_keepsMem.keepsForm
    | fetchFault => exact execFetchFault_keepsMem.keepsForm
    | loadReply => exact execLoadReply_keepsMem.keepsForm
    | copyResolve => exact execCopyResolve_keepsForm
    | peerDelivery => exact execPeerDelivery_keepsForm
    | fillLineLanded => exact execFillLineLanded_keepsForm
    | teamInstructionBegin => exact execTeamInstructionBegin_keepsMem.keepsForm
    | teamInstructionRetire => exact execTeamInstructionRetire_keepsMem.keepsForm
    | hallPassIdleExpiry => exact execHallPassIdleExpiry_keepsMem.keepsForm
    | dispatchEntry => exact execDispatchEntry_keepsForm
    | placementMark => exact execPlacementMark_keepsMem.keepsForm
    | save => exact execSave_keepsMem.keepsForm
    | saveComplete => exact execSaveComplete_keepsForm
    | restore => exact execRestore_keepsForm
    | deadlockRescue => exact execDeadlockRescue_keepsMem.keepsForm
    | blockRetire => exact execBlockRetire_keepsMem.keepsForm
    | gridRetire => exact execGridRetire_keepsForm
    | checkpoint => exact execCheckpoint_keepsForm
    | uncorrectableError => exact execUncorrectableError_keepsForm
    | pageWalk => exact execPageWalk_keepsMem.keepsForm
    | leaseGrant => exact execLeaseGrant_keepsMem.keepsForm
    | writeArrival => exact execWriteArrival_keepsMem.keepsForm
    | writePerform => exact execWritePerform_keepsForm
    | revoke => exact execRevoke_keepsMem.keepsForm
    | revokeAck => exact execRevokeAck_keepsMem.keepsForm
    | invalidation => exact execInvalidation_keepsMem.keepsForm
    | l2ModeChange => exact execL2ModeChange_keepsMem.keepsForm
    | packetService => exact execPacketService_keepsMem.keepsForm
    | subscribeRequest => exact execSubscribeRequest_keepsForm
    | updatePacket => exact execUpdatePacket_keepsForm
    | updateAck => exact execUpdateAck_keepsForm
    | absentNotice => exact execAbsentNotice_keepsForm
    | presentNotice => exact execPresentNotice_keepsForm
    | removalNotice => exact execRemovalNotice_keepsForm
    | coreGate => exact execCoreGate_keepsMem.keepsForm
    | bankGroupGate => exact execBankGroupGate_keepsMem.keepsForm
    | wakeRequest => exact execWakeRequest_keepsMem.keepsForm
    | post => exact execPost_keepsMem.keepsForm
    | pfence => exact execPfence_keepsMem.keepsForm
    | pstat => exact execPstat_keepsMem.keepsForm
    | hostRead => exact execHostRead_keepsMem.keepsForm
    | hostWrite => exact execHostWrite_keepsMem.keepsForm
    | msemClaim => exact execMsemClaim_keepsMem.keepsForm
    | msemRelease => exact execMsemRelease_keepsMem.keepsForm
    | portLinkDown => exact execPortLinkDown_keepsMem.keepsForm
    | registerWrite => exact execRegisterWrite_keepsMem.keepsForm
    | readRecorder => exact execReadRecorder_keepsMem.keepsForm
    | attestationReport => exact execAttestationReport_keepsMem.keepsForm
    | unfreeze => exact execUnfreeze_keepsMem.keepsForm
    | identityPublicKey => exact execIdentityPublicKey_keepsMem.keepsForm
    | fatalEvent => exact execFatalEvent_keepsMem.keepsForm
    | edgeLinkDown => exact execEdgeLinkDown_keepsMem.keepsForm
    | inboundRequest => exact execInboundRequest_keepsForm
    | cxlPortFailure => exact execCxlPortFailure_keepsMem.keepsForm
    | classVCompletion => exact execClassVCompletion_keepsMem.keepsForm
    | walkCompletion => exact execWalkCompletion_keepsMem.keepsForm
    | snapshotLanded => exact execSnapshotLanded_keepsForm
    | noticeAcknowledgement => exact execNoticeAcknowledgement_keepsMem.keepsForm
    | restoreComplete => exact execRestoreComplete_keepsForm
    | gatingComplete => exact execGatingComplete_keepsMem.keepsForm
    | reset => exact execReset_keepsForm
    | blockPlacement => exact execBlockPlacement_keepsMem.keepsForm
    | preemption => exact execPreemption_keepsMem.keepsForm
    | epochStart => exact execEpochStart_keepsMem.keepsForm
    | afnarCommandDone => exact execAfnarCommandDone_keepsForm
    | classLatencyEnd => exact execClassLatencyEnd_keepsMem.keepsForm
    | recessStart => exact execRecessStart_keepsMem.keepsForm
    | recessEnd => exact execRecessEnd_keepsMem.keepsForm
    | leaseExpiry => exact execLeaseExpiry_keepsMem.keepsForm
    | cohortPromotion => exact execCohortPromotion_keepsMem.keepsForm
    | splitStarvation => exact execSplitStarvation_keepsMem.keepsForm
    | yieldExpiry => exact execYieldExpiry_keepsMem.keepsForm
    | inrushTokenRelease => exact execInrushTokenRelease_keepsMem.keepsForm
    | chunkClose => exact execChunkClose_keepsMem.keepsForm

theorem issueStep_keepsForm {r : SRef} {s : State} : KeepsForm s (issueStep r s) := by
  unfold issueStep
  split
  · exact keepsForm_next id
  · exact exec_keepsForm
  · exact keepsForm_next fun h => formed_of_mem h (illegalWord_mem ..)
  · exact exec_keepsForm

@[simp] theorem State.choose_mem (s : State) : s.choose.2.mem = s.mem := by
  unfold State.choose
  split <;> rfl

theorem innerStep_keepsForm {s : State} : KeepsForm s (innerStep s) := by
  intro h
  have chosen {c : Choice} {t : State} (hc : s.choose = (c, t)) : t.Formed :=
    formed_of_mem h (by simpa only [hc] using s.choose_mem)
  unfold innerStep
  split
  · split
    · exact issueStep_keepsForm (s := { s with selected := _ }) h
    · exact issueStep_keepsForm h
  · split
    · next hc => exact exec_keepsForm (chosen hc)
    · next hc => exact keepsForm_next State.Formed.bootStep (chosen hc)
    · next t hc => exact issueStep_keepsForm (s := { t with selected := _ }) (show t.Formed from chosen hc)
    · next t hc => exact keepsForm_next (fun ht => formed_of_mem ht t.clock_mem) (chosen hc)

theorem step_keepsForm {s : State} : KeepsForm s (step s) := by
  intro h
  unfold step
  split
  · split
    · dsimp only
      split
      · exact exec_keepsForm (s := { s with draw := _, agenda := _ }) h
      · exact innerStep_keepsForm (s := { s with draw := _ }) h
    · exact innerStep_keepsForm h
  · exact innerStep_keepsForm h

/-- Settles O10: what an instruction, an event, the boot and the clock do to memory goes through `writeRun`, but for the chart that the
boot writes and a loss of supply, which empties memory. -/
theorem stepKeepsMemoryForm : Obligations.StepKeepsMemoryForm :=
  fun _ t h hs => step_keepsForm h t hs

/-! ## Reset, boot, the mailbox and fatal events (O55)

### Reset -/

/-- What a reset keeps of a domain. -/
def Domain.kept (d : Domain) : Domain := { ring := d.ring, events := d.events }

/-- A table with every value changed, and those that become the default left out, reads as the changed value. -/
theorem tget_map_filter {β : Type} [DecidableEq β] {d : β} {f : β → β} (hf : f d = d) {j : Nat} {t : Sparse β} (h : tableOk d t = true) :
    tget d ((t.map fun p => (p.1, f p.2)).filter fun p => p.2 != d) j = f (tget d t j) := by
  induction t with
  | nil => exact hf.symm
  | cons e r ih =>
    have keys := tableOk_keys h
    obtain ⟨-, -, hr⟩ := tableOk_cons.1 h
    rw [List.map_cons, List.filter_cons, tget]
    split
    · rw [tget, ih hr]
      split <;> rfl
    · next hd =>
      have hd : f e.2 = d := by simpa using hd
      rw [ih hr]
      split
      · next hj => rw [tget_below (hj ▸ keys), hf, hd]
      · rfl

theorem State.afterReset_dom {s : State} (h : tableOk {} s.domains = true) (d : Nat) : s.afterReset.dom d = (s.dom d).kept :=
  tget_map_filter (f := Domain.kept) rfl h

/-- After a loss of supply wafer time starts above every time that a recorder holds. -/
theorem State.time_lt_timeAfterLoss {s : State} {d : Nat × Domain} (hd : d ∈ s.domains) {e : RecEntry} (he : e ∈ d.2.ring) :
    e.time < s.timeAfterLoss := by
  have listed : e.time ∈ s.domains.flatMap fun d => d.2.ring.map (·.time) :=
    List.mem_flatMap.2 ⟨d, hd, List.mem_map.2 ⟨e, he, rfl⟩⟩
  unfold State.timeAfterLoss
  dsimp only
  rw [if_neg (by simpa using List.ne_nil_of_mem listed)]
  exact Nat.lt_succ_of_le ((List.max?_eq_some_iff.1 List.max?_cons').2 _ (List.mem_cons_of_mem 0 listed))

theorem reset_exec (s : State) : ∃ t, exec .reset s = .next t ∧ t.bstate = 0x01 ∧ t.stopped = false ∧
    t.grids = [] ∧ t.blocks = [] ∧ t.cores = [] ∧ t.flight = [] ∧ t.msem = 0 ∧ t.portA = {} ∧ t.portB = {} ∧ t.lastLaunch = 0 ∧
    t.frozen = s.frozen ∧ (tableOk {} s.domains = true → ∀ d, (t.dom d).ring = (s.dom d).ring ∧ (t.dom d).events = (s.dom d).events) ∧
    (s.nv.supplyLost = false → t.ticks = s.ticks ∧ t.mem = s.mem) ∧
    (s.nv.supplyLost = true → ∀ d ∈ s.domains, ∀ e ∈ d.2.ring, e.time < t.ticks) := by
  refine ⟨s.afterReset, rfl, rfl, rfl, rfl, rfl, rfl, rfl, rfl, rfl, rfl, rfl, rfl, fun h d => ?_, fun h => ?_, fun h d hd e he => ?_⟩
  · rw [State.afterReset_dom h]
    exact ⟨rfl, rfl⟩
  · simp [State.afterReset, State.ticks, h]
  · have started : s.afterReset.ticks = s.timeAfterLoss := by simp [State.afterReset, State.ticks, h]
    rw [started]
    exact State.time_lt_timeAfterLoss hd he

/-! ### A recorder entry -/

theorem State.record_dom {s : State} (h : s.frozen = false) (d ty core pay e : Nat) : (s.record d ty core pay).dom e =
    if e = d then { s.dom d with
      ring := ((s.dom d).ring ++ [RecEntry.mk s.ticks ty (ty == 9) d core pay]).drop ((s.dom d).ring.length + 1 - 4096)
      events := (s.dom d).events + 1 } else s.dom e := by
  unfold State.record
  rw [if_neg (by simp [h])]
  exact State.dom_modDom (fun h => Nat.succ_ne_zero _ (congrArg Domain.events h)) e

theorem State.record_events {s : State} (h : s.frozen = false) (d ty core pay : Nat) :
    ((s.record d ty core pay).dom d).events = (s.dom d).events + 1 := by simp [State.record_dom h]

/-- A new entry is the last of its ring. -/
theorem State.record_getLast? {s : State} (h : s.frozen = false) (d ty core pay : Nat) :
    ((s.record d ty core pay).dom d).ring.getLast? = some ⟨s.ticks, ty, ty == 9, d, core, pay⟩ := by
  rw [State.record_dom h, if_pos rfl]
  dsimp only
  rw [List.getLast?_drop, if_neg (by simp only [List.length_append, List.length_singleton]; omega), List.getLast?_concat]

theorem State.record_frame (s : State) (d ty core pay : Nat) :
    s.record d ty core pay = { s with domains := (s.record d ty core pay).domains } := by
  unfold State.record
  split <;> rfl

theorem fatalEvent_exec (s : State) (domain code : Nat) : ∃ t, exec (.fatalEvent domain code) s = .next t ∧
    t = { s with domains := t.domains, frozen := true, stopped := true, bstate := 0x82 } ∧
    (s.frozen = false → (t.dom domain).ring.getLast? = some ⟨s.ticks, 9, true, domain, 0xFFFFFF, code⟩ ∧
      (t.dom domain).events = (s.dom domain).events + 1) ∧ (s.frozen = true → t.domains = s.domains) := by
  refine ⟨_, rfl, ?_, fun h => ⟨State.record_getLast? h .., State.record_events h ..⟩, fun h => ?_⟩
  · rw [State.record_frame]
  · simp [State.record, h]

/-! ### The steps of the boot -/

/-- While the boot has steps to take and nothing comes from outside, a step is a step of the boot, or a cycle passes. -/
theorem step_of_booting {s : State} (ha : s.agenda = []) (hs : s.selected = []) (hf : s.flight = []) (hm : s.mailbox.status ≠ 1)
    (hb : s.bstate < 0x0F) :
    let t : State := { s with draw := s.draw + 1 }
    step s = .next t.bootStep ∨ step s = .next t.clock := by
  have noHost : s.hostOpen = [] := by simp [State.hostOpen, hf]
  have notReady : s.afnarReady = false := by simp [State.afnarReady, hm]
  have choices : s.choices = [.boot, .clock] := by
    simp [State.choices, noHost, notReady, given, hb, Nat.ne_of_lt hb]
  have inner : step s = innerStep s := by simp [step, ha]
  have chosen (c : Choice) (h : ([.boot, .clock] : List Choice).getD (Config.choose s.draw % 2) .clock = c) :
      s.choose = (c, { s with draw := s.draw + 1 }) := by simp [State.choose, choices, ← h]
  rw [inner]
  unfold innerStep
  split
  · next h => simp [hs] at h
  · rcases Nat.mod_two_eq_zero_or_one (Config.choose s.draw) with h | h
    · rw [chosen .boot (by rw [h]; rfl)]
      exact .inl rfl
    · rw [chosen .clock (by rw [h]; rfl)]
      exact .inr rfl

/-- The number of the first copy of the defect map whose signature holds, or 2 where neither does. -/
def State.rejected (s : State) : Nat := ((s.nv.maps.take 2).findIdx? (·.1)).getD 2

theorem State.mapCopy_eq (s : State) : s.mapCopy = ((s.nv.maps.take 2).find? (·.1)).map fun m => (s.rejected, m.2) := by
  unfold State.mapCopy State.rejected
  rcases s.nv.maps with _ | ⟨⟨a, m⟩, _ | ⟨⟨b, n⟩, r⟩⟩
  · rfl
  · cases a <;> rfl
  · cases a
    · cases b <;> rfl
    · rfl

/-- The events of the rejected copies, numbered from 0 on. -/
theorem State.rejectedMaps_eq (s : State) :
    s.rejectedMaps = (List.range s.rejected).foldl (fun s i => s.record 0 7 0xFFFFFF i) s := by
  unfold State.rejectedMaps
  rw [s.mapCopy_eq]
  cases h : (s.nv.maps.take 2).find? (·.1) with
  | some m => rfl
  | none =>
    have none : (s.nv.maps.take 2).findIdx? (·.1) = none :=
      List.findIdx?_eq_none_iff.2 fun m hm => by simpa using List.find?_eq_none.1 h m hm
    simp [State.rejected, none]

/-- The state without its recorders and banks. -/
def State.sansDomains (s : State) : State := { s with domains := [] }

/-- Entries that are written one after another change nothing but the recorders. -/
theorem foldl_record_sansDomains (l : List Nat) (s : State) :
    (l.foldl (fun s i => s.record 0 7 0xFFFFFF i) s).sansDomains = s.sansDomains :=
  foldl_keeps State.sansDomains (fun t i => by rw [State.record_frame]; rfl) l s

theorem foldl_record_dom {s : State} (h : s.frozen = false) (k : Nat) :
    let t := (List.range k).foldl (fun s i => s.record 0 7 0xFFFFFF i) s
    (t.dom 0).events = (s.dom 0).events + k ∧
      (0 < k → (t.dom 0).ring.getLast? = some ⟨s.ticks, 7, false, 0, 0xFFFFFF, k - 1⟩) := by
  induction k with
  | zero => exact ⟨rfl, fun h => absurd h (lt_irrefl 0)⟩
  | succ k ih =>
    have kept := foldl_record_sansDomains (List.range k) s
    have unfrozen : ((List.range k).foldl (fun s i => s.record 0 7 0xFFFFFF i) s).frozen = false :=
      (congrArg State.frozen kept).trans h
    have now : ((List.range k).foldl (fun s i => s.record 0 7 0xFFFFFF i) s).ticks = s.ticks :=
      (congrArg State.ticks kept :)
    dsimp only at ih ⊢
    rw [List.range_succ, List.foldl_append, List.foldl_cons, List.foldl_nil]
    refine ⟨?_, fun _ => ?_⟩
    · rw [State.record_events unfrozen, ih.1, Nat.add_assoc]
    · rw [State.record_getLast? unfrozen, now]
      rfl

theorem bootFirmware_step {s : State} (h : s.bstate = 0x01) :
    let t := s.bootStep
    let slot := s.nv.slots.take 2
    t.mem = s.mem ∧ t.domains = s.domains ∧ t.nv.boots = s.nv.boots + 1 ∧ (slot.any id = false → t.bstate = 0x80) ∧
      (slot.any id = true → t.bstate = 0x02 ∧ t.fwslot = (if slot.head? = some true then 0 else 1)) := by
  have step : s.bootStep = s.bootFirmware := by simp [State.bootStep, h]
  dsimp only
  rw [step]
  unfold State.bootFirmware
  dsimp only
  rcases s.nv.slots with _ | ⟨_ | _, _ | ⟨_ | _, r⟩⟩ <;> simp [List.findIdx?_cons]

theorem bootMap_step {s : State} (h : s.bstate = 0x02) :
    let t := s.bootStep
    let maps := s.nv.maps.take 2
    let rejected := (maps.findIdx? (·.1)).getD 2
    t.mem = s.mem ∧ t.nv = s.nv ∧ t.fwslot = s.fwslot ∧
      (s.frozen = false → (t.dom 0).events = (s.dom 0).events + rejected ∧
        (0 < rejected → (t.dom 0).ring.getLast? = some ⟨s.ticks, 7, false, 0, 0xFFFFFF, rejected - 1⟩)) ∧
      (maps.any (·.1) = false → t.bstate = 0x81 ∧ t.chart = s.chart) ∧
      (maps.any (·.1) = true → t.bstate = 0x03 ∧ t.mapcopy = rejected) := by
  have step : s.bootStep = s.bootMap := by simp [State.bootStep, h]
  have kept : s.rejectedMaps.sansDomains = s.sansDomains := s.rejectedMaps_eq ▸ foldl_record_sansDomains (List.range s.rejected) s
  have mem : s.rejectedMaps.mem = s.mem := (congrArg State.mem kept :)
  have nv : s.rejectedMaps.nv = s.nv := (congrArg State.nv kept :)
  have fwslot : s.rejectedMaps.fwslot = s.fwslot := (congrArg State.fwslot kept :)
  have chart : s.rejectedMaps.chart = s.chart := (congrArg State.chart kept :)
  have dom (hf : s.frozen = false) := s.rejectedMaps_eq ▸ foldl_record_dom hf s.rejected
  have copy : s.rejectedMaps.mapCopy = s.mapCopy := by
    unfold State.mapCopy
    rw [nv]
  dsimp only
  rw [step]
  unfold State.bootMap
  dsimp only
  rw [copy, s.mapCopy_eq]
  cases hm : (s.nv.maps.take 2).find? (·.1) with
  | none =>
    have none : (s.nv.maps.take 2).any (·.1) = false := by simpa using List.find?_eq_none.1 hm
    exact ⟨mem, nv, fwslot, dom, fun _ => ⟨rfl, chart⟩, fun h => absurd h (by simp [none])⟩
  | some m =>
    have some : (s.nv.maps.take 2).any (·.1) = true := List.any_eq_true.2 ⟨m, List.mem_of_find?_eq_some hm, List.find?_some hm⟩
    exact ⟨mem, nv, fwslot, dom, fun h => absurd h (by simp [some]), fun _ => ⟨rfl, rfl⟩⟩

theorem foldl_add_eq_sum {α : Type} (f : α → Nat) (l : List α) (n : Nat) : l.foldl (fun t q => t + f q) n = n + (l.map f).sum := by
  induction l generalizing n with
  | nil => rfl
  | cons q l ih => rw [List.foldl_cons, ih, List.map_cons, List.sum_cons, Nat.add_assoc]

theorem gradeOf_eq (cores bisect detour : Nat) : gradeOf cores bisect detour =
    if 5248 ≤ cores ∧ 45000 ≤ bisect ∧ detour ≤ 2 then 1
    else if 5120 ≤ cores ∧ 44000 ≤ bisect ∧ detour ≤ 4 then 2
    else if 4864 ≤ cores ∧ 40000 ≤ bisect ∧ detour ≤ 6 then 3 else 0 := by
  simp [gradeOf, and_assoc]

theorem State.survey_sansDomains (s : State) (m : DefectMap) : (s.survey m).sansDomains = ({ s with
    chart := surveyed m
    bstate := 0x04
    mem := tputs memDefault ((chartBytes (surveyed m)).mapIdx fun i v => (i, v)).reverse s.mem } : State).sansDomains := by
  unfold State.survey
  dsimp only
  split
  · rw [State.record_frame]
    rfl
  · rfl

theorem find?_mapIdx (vs : List Byte) (k a : Nat) :
    ((vs.mapIdx fun i v => (k + i, v)).find? fun p => p.1 == a) = if k ≤ a then vs[a - k]?.map fun v => (a, v) else none := by
  induction vs generalizing k with
  | nil => simp
  | cons v vs ih =>
    have shift : (fun i (v : Byte) => (k + (i + 1), v)) = fun i v => (k + 1 + i, v) := by
      funext i v
      rw [Nat.add_assoc, Nat.add_comm 1]
    rw [List.mapIdx_cons, List.find?_cons, shift, ih (k + 1)]
    rcases Nat.lt_trichotomy k a with h | h | h
    · obtain ⟨j, rfl⟩ : ∃ j, a = k + 1 + j := ⟨a - (k + 1), by omega⟩
      simp [show k + 1 + j - k = j + 1 by omega, show k ≤ k + 1 + j by omega, beq_eq_false_iff_ne.2 (show k ≠ k + 1 + j by omega)]
    · simp [h]
    · simp [beq_eq_false_iff_ne.2 (show k ≠ a by omega), show ¬ k ≤ a by omega, show ¬ k + 1 ≤ a by omega]

/-- Bytes written from address 0 on, the last one first, read again. -/
theorem tget_tputs_mapIdx {m : List Host.Cell} (h : Memory.wf m = true) (vs : List Byte) (a : Nat) :
    tget memDefault (tputs memDefault (vs.mapIdx fun i v => (i, v)).reverse m) a =
      if a < vs.length then vs.getD a 0 else tget memDefault m a := by
  have found : ((vs.mapIdx fun i v => (i, v)).find? fun p => p.1 == a) = vs[a]?.map fun v => (a, v) := by
    simpa using find?_mapIdx vs 0 a
  rw [tget_tputs h, List.reverse_reverse, found]
  split
  · next ha => simp [ha]
  · next ha => simp [ha]

theorem bootSurvey_step {s : State} (h : s.bstate = 0x03) {m : DefectMap} (hm : (s.nv.maps.take 2).find? (·.1) = some (true, m)) :
    let t := s.bootStep
    t.bstate = 0x04 ∧ t.mapcopy = s.mapcopy ∧
      t.chart.rects = rollCall 255 (enabledRows m) ∧ t.chart.gcores = (t.chart.rects.map fun q => q.rows * q.cols).sum ∧
      t.chart.gsram = (1984 * t.chart.gcores + 2048 * (1344 - t.chart.banks.length)) / 1024 ∧
      t.chart.gbisect = bisection t.chart.detours ∧ t.chart.gdetour = longestDetour t.chart.detours ∧
      (let c := t.chart
       c.grade = if 5248 ≤ c.gcores ∧ 45000 ≤ c.gbisect ∧ c.gdetour ≤ 2 then 1
         else if 5120 ≤ c.gcores ∧ 44000 ≤ c.gbisect ∧ c.gdetour ≤ 4 then 2
         else if 4864 ≤ c.gcores ∧ 40000 ≤ c.gbisect ∧ c.gdetour ≤ 6 then 3 else 0) ∧
      (Memory.wf s.mem = true → ∀ a, t.readMem a =
        if a < (chartBytes t.chart).length then (chartBytes t.chart).getD a 0 else s.readMem a) := by
  have step : s.bootStep = s.survey m := by simp [State.bootStep, h, State.bootSurvey, s.mapCopy_eq, hm]
  have kept := s.survey_sansDomains m
  have chart : (s.survey m).chart = surveyed m := (congrArg State.chart kept :)
  have bstate : (s.survey m).bstate = 0x04 := (congrArg State.bstate kept :)
  have mapcopy : (s.survey m).mapcopy = s.mapcopy := (congrArg State.mapcopy kept :)
  have mem : (s.survey m).mem = tputs memDefault ((chartBytes (surveyed m)).mapIdx fun i v => (i, v)).reverse s.mem :=
    (congrArg State.mem kept :)
  dsimp only
  rw [step, chart]
  refine ⟨bstate, mapcopy, rfl, ?_, rfl, rfl, rfl, gradeOf_eq .., fun hw a => ?_⟩
  · exact (foldl_add_eq_sum ..).trans (Nat.zero_add _)
  · unfold State.readMem
    rw [mem]
    exact tget_tputs_mapIdx hw ..

/-- The steps of the boot, in the order of BSTAT.state. -/
theorem bootStep_cases (s : State) :
    let t := s.bootStep
    let slot := s.nv.slots.take 2
    let maps := s.nv.maps.take 2
    let rejected := (maps.findIdx? (·.1)).getD 2
    (s.bstate = 0x01 → t.mem = s.mem ∧ t.domains = s.domains ∧ t.nv.boots = s.nv.boots + 1 ∧
      (slot.any id = false → t.bstate = 0x80) ∧
      (slot.any id = true → t.bstate = 0x02 ∧ t.fwslot = (if slot.head? = some true then 0 else 1))) ∧
    (s.bstate = 0x02 → t.mem = s.mem ∧ t.nv = s.nv ∧ t.fwslot = s.fwslot ∧
      (s.frozen = false → (t.dom 0).events = (s.dom 0).events + rejected ∧
        (0 < rejected → (t.dom 0).ring.getLast? = some ⟨s.ticks, 7, false, 0, 0xFFFFFF, rejected - 1⟩)) ∧
      (maps.any (·.1) = false → t.bstate = 0x81 ∧ t.chart = s.chart) ∧
      (maps.any (·.1) = true → t.bstate = 0x03 ∧ t.mapcopy = rejected)) ∧
    (s.bstate = 0x03 → ∀ m, (maps.find? (·.1)) = some (true, m) → t.bstate = 0x04 ∧ t.mapcopy = s.mapcopy ∧
      t.chart.rects = rollCall 255 (enabledRows m) ∧ t.chart.gcores = (t.chart.rects.map fun q => q.rows * q.cols).sum ∧
      t.chart.gsram = (1984 * t.chart.gcores + 2048 * (1344 - t.chart.banks.length)) / 1024 ∧
      t.chart.gbisect = bisection t.chart.detours ∧ t.chart.gdetour = longestDetour t.chart.detours ∧
      (let c := t.chart
       c.grade = if 5248 ≤ c.gcores ∧ 45000 ≤ c.gbisect ∧ c.gdetour ≤ 2 then 1
         else if 5120 ≤ c.gcores ∧ 44000 ≤ c.gbisect ∧ c.gdetour ≤ 4 then 2
         else if 4864 ≤ c.gcores ∧ 40000 ≤ c.gbisect ∧ c.gdetour ≤ 6 then 3 else 0) ∧
      (Memory.wf s.mem = true → ∀ a, t.readMem a =
        if a < (chartBytes t.chart).length then (chartBytes t.chart).getD a 0 else s.readMem a)) ∧
    (s.bstate = 0x04 → t = { s with bstate := 0x0F }) ∧
    (0x04 < s.bstate → t = s) := by
  refine ⟨bootFirmware_step, bootMap_step, fun h m hm => bootSurvey_step h hm, fun h => by simp [State.bootStep, h], fun h => ?_⟩
  unfold State.bootStep
  split
  · omega
  · omega
  · omega
  · omega
  · rfl

/-! ### What a write at its home leaves alone

Whether a line is free and whether a packet stands at a bank depends on the accesses on their way, the leases, the directory, wafer time,
the chart and the power of the banks. A write that is performed changes none of these, and an access that has just set out does not
count. -/

/-- The state but for what a performed write, and what it wakes, change. -/
def State.aside (s : State) : State × (Nat → Power) := ({ s.outside.1 with mem := [], l2 := [], counts := [], poison := [] }, s.outside.2)

theorem State.touchBanks_aside (s : State) (pa : Nat) : (s.touchBanks pa).aside = s.aside := by
  unfold State.touchBanks
  split
  · refine Prod.ext rfl (funext fun e => ?_)
    have touched : ((s.touchDomain (paDomain pa)).dom e) =
        if e = paDomain pa then { s.dom (paDomain pa) with banksIdle := some s.ticks } else s.dom e :=
      State.dom_modDom (fun h => Option.some_ne_none _ (congrArg Domain.banksIdle h)) e
    have banks : ((s.touchDomain (paDomain pa)).dom e).banks = (s.dom e).banks := by
      rw [touched]
      split
      · next h => rw [h]
      · rfl
    exact banks
  · rfl

theorem State.homeWrite_aside (s : State) (pa : Nat) (bytes : List Byte) (clears : Bool) :
    (s.homeWrite pa bytes clears).aside = s.aside := by
  unfold State.homeWrite State.aside
  rw [State.wakeWaitm_outside]
  split
  · unfold State.l2Bring
    split <;> rfl
  · rfl

theorem State.domainUp_of_aside {s t : State} (h : t.aside = s.aside) (d : Nat) : t.domainUp d = s.domainUp d := by
  have banks : (t.dom d).banks = (s.dom d).banks := congrArg (fun q => q.2 d) h
  unfold State.domainUp
  rw [banks]

theorem State.lineFree_of_aside {s t : State} (h : t.aside = s.aside) (pa : Nat) : t.lineFree pa = s.lineFree pa := by
  have flight : t.flight = s.flight := congrArg (fun q => q.1.flight) h
  have leases : t.leases = s.leases := congrArg (fun q => q.1.leases) h
  have directory : t.directory = s.directory := congrArg (fun q => q.1.directory) h
  have ticks : t.ticks = s.ticks := congrArg (fun q => q.1.ticks) h
  unfold State.lineFree State.lineWaits State.banksUp State.held State.latestExpiry
  rw [State.domainUp_of_aside h, flight, leases, directory, ticks]

theorem State.noPacketAt_of_aside {s t : State} (h : t.aside = s.aside) (pa : Nat) : t.NoPacketAt pa ↔ s.NoPacketAt pa := by
  have flight : t.flight = s.flight := congrArg (fun q => q.1.flight) h
  have chart : t.chart = s.chart := congrArg (fun q => q.1.chart) h
  unfold State.NoPacketAt State.bankPlace State.bankNumber State.bankIn
  rw [flight, chart]

/-- What Afnar's writes meet in `t` is what they meet in `s`, and the mailbox is as it was. -/
structure Alike (s t : State) : Prop where
  lineFree : ∀ pa, t.lineFree pa = s.lineFree pa
  noPacketAt : ∀ pa, t.NoPacketAt pa ↔ s.NoPacketAt pa
  mailbox : t.mailbox = s.mailbox
  frozen : t.frozen = s.frozen

theorem Alike.refl (s : State) : Alike s s := ⟨fun _ => rfl, fun _ => Iff.rfl, rfl, rfl⟩

theorem Alike.trans {s t u : State} (h : Alike s t) (k : Alike t u) : Alike s u :=
  ⟨fun pa => (k.lineFree pa).trans (h.lineFree pa), fun pa => (k.noPacketAt pa).trans (h.noPacketAt pa), k.mailbox.trans h.mailbox,
    k.frozen.trans h.frozen⟩

theorem alike_of_aside {s t : State} (h : t.aside = s.aside) : Alike s t :=
  ⟨State.lineFree_of_aside h, State.noPacketAt_of_aside h, congrArg (fun q => q.1.mailbox) h, congrArg (fun q => q.1.frozen) h⟩

/-- An access that has just set out holds no line, and no packet of it stands anywhere. -/
theorem alike_launchAccess (s : State) {a : Access} (hs : a.stage = .issued) (ht : a.trip = none) : Alike s (s.launchAccess a) where
  lineFree pa := by
    have held : (s.launchAccess a).held (paDomain pa) pa = s.held (paDomain pa) pa := by
      simp [State.held, State.launchAccess, hs]
    unfold State.lineFree State.lineWaits
    rw [held]
    rfl
  noPacketAt pa := by
    have same : (s.launchAccess a).bankPlace (paDomain pa) pa = s.bankPlace (paDomain pa) pa := rfl
    unfold State.NoPacketAt
    rw [same]
    simp [State.launchAccess, or_imp, forall_and, ht]
  mailbox := rfl
  frozen := rfl

theorem State.bankQuiet_of_noPacketAt {s : State} {pa : Nat} (h : s.NoPacketAt pa) : s.bankQuiet pa = true := by
  refine List.all_eq_true.2 fun b hb => ?_
  split
  · next u hu => simp [h b hb u hu]
  · rfl

/-! ### A write of Afnar -/

/-- The writes of Afnar on their way end at or below `pa`. -/
def State.AfnarBelow (s : State) (pa : Nat) : Prop := ∀ q ∈ s.flight, q.op = .afnar → q.pa + q.size ≤ pa

theorem sameAgent_afnar (o : AccOp) : o.sameAgent .afnar = true ↔ o = .afnar := by
  cases o <;> simp [AccOp.sameAgent]

theorem State.AfnarBelow.none_before {s : State} {pa : Nat} (h : s.AfnarBelow pa) (n : Nat) :
    (s.flight.filter fun a => a.op.sameAgent .afnar && a.overlaps false pa n) = [] := by
  refine List.filter_eq_nil_iff.2 fun q hq => ?_
  simp only [Bool.and_eq_true, sameAgent_afnar, not_and]
  intro ho
  have below := h q hq ho
  simp only [Access.overlaps, Bool.and_eq_true, decide_eq_true_eq, not_and]
  omega

/-- The access of a write of Afnar that waits. -/
def afnarAccess (id pa : Nat) (bytes : List Byte) : Access :=
  { id := id, uid := 0, c := ⟨⟨0, 0⟩, 0⟩, core := 0, lane := 0, op := .afnar, scratch := false, va := 0, pa := pa
    size := bytes.length, scope := 3, bytes := bytes, covers := pa % 64 == 0 && bytes.length == 64 }

theorem outsideWrite_afnar_free {s : State} {pa : Nat} {bytes : List Byte} (hb : s.AfnarBelow pa) (hf : s.lineFree pa = true)
    (hq : s.NoPacketAt pa) :
    State.outsideWrite .afnar 0 s pa bytes = (s.touchBanks pa).homeWrite pa bytes (pa % 64 == 0 && bytes.length == 64) := by
  unfold State.outsideWrite
  simp [hb.none_before, hf, State.bankQuiet_of_noPacketAt hq]

theorem outsideWrite_afnar_held {s : State} {pa : Nat} {bytes : List Byte} (hb : s.AfnarBelow pa) (hf : s.lineFree pa = false) :
    State.outsideWrite .afnar 0 s pa bytes =
      { s with fresh := s.fresh + 1, flight := s.flight ++ [afnarAccess s.fresh pa bytes] } := by
  unfold State.outsideWrite
  simp [hb.none_before, hf, State.launchAccess, State.bump, afnarAccess]

theorem outsideWrite_afnar {s : State} {pa : Nat} {bytes : List Byte} (hw : Memory.wf s.mem = true) (hb : s.AfnarBelow pa)
    (hq : s.NoPacketAt pa) :
    let t := State.outsideWrite .afnar 0 s pa bytes
    Alike s t ∧ t.AfnarBelow (pa + bytes.length) ∧ (s.lineFree pa = true → t.flight = s.flight) ∧
      ∀ a, t.readMem a =
        if s.lineFree pa = true ∧ pa ≤ a ∧ a < pa + bytes.length then bytes.getD (a - pa) 0 else s.readMem a := by
  dsimp only
  cases hf : s.lineFree pa with
  | true =>
    rw [outsideWrite_afnar_free hb hf hq]
    have aside : ((s.touchBanks pa).homeWrite pa bytes (pa % 64 == 0 && bytes.length == 64)).aside = s.aside :=
      (State.homeWrite_aside ..).trans (State.touchBanks_aside ..)
    have flight : ((s.touchBanks pa).homeWrite pa bytes (pa % 64 == 0 && bytes.length == 64)).flight = s.flight :=
      congrArg (fun q => q.1.flight) aside
    refine ⟨alike_of_aside aside, fun q hq ho => ?_, fun _ => flight, fun a => ?_⟩
    · have := hb q (flight ▸ hq) ho
      omega
    · have mem : (s.touchBanks pa).mem = s.mem := State.touchBanks_mem ..
      have read : ((s.touchBanks pa).homeWrite pa bytes (pa % 64 == 0 && bytes.length == 64)).readMem a =
          ((s.touchBanks pa).writeRun pa bytes).readMem a := congrArg (tget memDefault · a) (State.homeWrite_mem ..)
      have kept : (s.touchBanks pa).readMem a = s.readMem a := congrArg (tget memDefault · a) mem
      rw [read]
      split
      · next h =>
        obtain ⟨-, h1, h2⟩ := h
        obtain ⟨k, rfl⟩ := Nat.exists_eq_add_of_le h1
        rw [readMem_writeRun_at (by rw [mem]; exact hw) (by omega)]
        simp [show k < bytes.length by omega]
      · next h =>
        rw [readMem_writeRun_outside (by rw [mem]; exact hw) (by simp only [true_and, not_and, not_lt] at h; omega), kept]
  | false =>
    have launched : State.outsideWrite .afnar 0 s pa bytes = s.launchAccess (afnarAccess 0 pa bytes) :=
      outsideWrite_afnar_held hb hf
    rw [launched]
    refine ⟨alike_launchAccess s rfl rfl, fun q hq ho => ?_, fun h => by simp at h, fun a => by simp; rfl⟩
    rcases List.mem_append.1 hq with hq | hq
    · have := hb q hq ho
      omega
    · rw [List.mem_singleton.1 hq]
      exact le_refl _

/-! ### The writes of a result -/

theorem afnarWrite_succ (s : State) (pa : Nat) {bytes : List Byte} (h : bytes ≠ []) (n : Nat) :
    s.afnarWrite pa bytes (n + 1) = (State.outsideWrite .afnar 0 s pa (bytes.take 64)).afnarWrite (pa + 64) (bytes.drop 64) n := by
  rw [State.afnarWrite, if_neg (by simpa using h)]

theorem afnarWrite_nil (s : State) (pa n : Nat) : s.afnarWrite pa [] n = s := by
  cases n <;> rfl

/-- Where no packet stands at the banks of a result and each chunk of it meets lines that are all free or all held, the bytes of free
lines are written. -/
theorem afnarWrite_even {s : State} {pa n : Nat} {bytes : List Byte} (hw : Memory.wf s.mem = true) (hn : bytes.length ≤ 64 * n)
    (hb : s.AfnarBelow pa) (hq : ∀ k, k < bytes.length → s.NoPacketAt (pa + k))
    (he : ∀ k, k < bytes.length → s.lineFree (pa + k) = s.lineFree (pa + k / 64 * 64)) :
    let t := s.afnarWrite pa bytes n
    Alike s t ∧ ((∀ k, k < bytes.length → s.lineFree (pa + k) = true) → t.flight = s.flight) ∧
      ∀ a, t.readMem a =
        if pa ≤ a ∧ a < pa + bytes.length ∧ s.lineFree a = true then bytes.getD (a - pa) 0 else s.readMem a := by
  induction n generalizing s pa bytes with
  | zero =>
    obtain rfl : bytes = [] := List.eq_nil_of_length_eq_zero (by omega)
    exact ⟨Alike.refl s, fun _ => rfl, fun a => by rw [if_neg (by simp; omega)]; rfl⟩
  | succ n ih =>
    rcases eq_or_ne bytes [] with rfl | hne
    · rw [afnarWrite_nil]
      exact ⟨Alike.refl s, fun _ => rfl, fun a => by rw [if_neg (by simp; omega)]⟩
    · have pos : 0 < bytes.length := List.length_pos_of_ne_nil hne
      have first : s.NoPacketAt pa := hq 0 pos
      have taken : (bytes.take 64).length = min 64 bytes.length := List.length_take
      have dropped : (bytes.drop 64).length = bytes.length - 64 := List.length_drop
      rw [afnarWrite_succ s pa hne]
      obtain ⟨alike, below, flight, read⟩ := outsideWrite_afnar (bytes := bytes.take 64) hw hb first
      generalize ht : State.outsideWrite .afnar 0 s pa (bytes.take 64) = t at alike below flight read
      have wf : Memory.wf t.mem = true := ht ▸ State.Formed.outsideWrite hw ..
      obtain ⟨alike', flight', read'⟩ := ih (s := t) (pa := pa + 64) (bytes := bytes.drop 64) wf (by omega)
        (fun q hq' ho => (below q hq' ho).trans (by omega))
        (fun k hk => (alike.noPacketAt _).2 (by simpa [Nat.add_assoc] using hq (64 + k) (by omega)))
        (fun k hk => by
          have even := he (64 + k) (by omega)
          rw [show (64 + k) / 64 * 64 = 64 + k / 64 * 64 by omega] at even
          rw [alike.lineFree, alike.lineFree, Nat.add_assoc, Nat.add_assoc]
          exact even)
      refine ⟨alike.trans alike', fun hf => ?_, fun a => ?_⟩
      · rw [flight' fun k hk => by simpa [alike.lineFree, Nat.add_assoc] using hf (64 + k) (by omega)]
        exact flight (by simpa using hf 0 pos)
      · rw [read', read, alike.lineFree, dropped, taken]
        by_cases h64 : pa + 64 ≤ a
        · obtain ⟨k, rfl⟩ := Nat.exists_eq_add_of_le h64
          have place : pa + 64 + k - pa = 64 + k := by omega
          rw [if_neg (c := s.lineFree pa = true ∧ _ ∧ _) (by omega), place]
          by_cases hin : pa + 64 + k < pa + bytes.length ∧ s.lineFree (pa + 64 + k) = true
          · rw [if_pos ⟨h64, by omega, hin.2⟩, if_pos ⟨by omega, hin⟩]
            simp
          · rw [if_neg fun h => hin ⟨by omega, h.2.2⟩, if_neg fun h => hin h.2]
        · rw [if_neg (by omega)]
          by_cases hin : pa ≤ a ∧ a < pa + bytes.length
          · obtain ⟨k, rfl⟩ := Nat.exists_eq_add_of_le hin.1
            have same := he k (by omega)
            rw [show k / 64 = 0 by omega, Nat.zero_mul, Nat.add_zero] at same
            rw [same]
            by_cases hf : s.lineFree pa = true
            · rw [if_pos ⟨hf, by omega⟩, if_pos ⟨by omega, by omega, hf⟩]
              simp [show k < 64 by omega]
            · rw [if_neg (by tauto), if_neg (by tauto)]
          · rw [if_neg (by omega), if_neg (by omega)]

/-- The accesses of a result's writes, none of which can be performed now. -/
def afnarAccesses (id pa : Nat) (bytes : List Byte) : Nat → List Access
  | 0 => []
  | n + 1 => if bytes.isEmpty then [] else afnarAccess id pa (bytes.take 64) :: afnarAccesses (id + 1) (pa + 64) (bytes.drop 64) n

theorem afnarWrite_held {s : State} {pa n : Nat} {bytes : List Byte} (hb : s.AfnarBelow pa)
    (hf : ∀ k, k < bytes.length → s.lineFree (pa + k) = false) :
    let as := afnarAccesses s.fresh pa bytes n
    s.afnarWrite pa bytes n = { s with fresh := s.fresh + as.length, flight := s.flight ++ as } := by
  induction n generalizing s pa bytes with
  | zero => simp [State.afnarWrite, afnarAccesses]
  | succ n ih =>
    rcases eq_or_ne bytes [] with rfl | hne
    · simp [afnarWrite_nil, afnarAccesses]
    · have pos : 0 < bytes.length := List.length_pos_of_ne_nil hne
      have first : s.lineFree pa = false := hf 0 pos
      have alike : Alike s { s with fresh := s.fresh + 1, flight := s.flight ++ [afnarAccess s.fresh pa (bytes.take 64)] } :=
        alike_launchAccess s (a := afnarAccess 0 pa (bytes.take 64)) rfl rfl
      rw [afnarWrite_succ s pa hne, outsideWrite_afnar_held hb first, ih]
      · simp [afnarAccesses, hne, Nat.add_assoc, Nat.add_comm 1]
      · intro q hq ho
        rcases List.mem_append.1 hq with hq | hq
        · have := hb q hq ho
          omega
        · rw [List.mem_singleton.1 hq]
          simp [afnarAccess]
      · intro k hk
        rw [alike.lineFree, Nat.add_assoc]
        exact hf (64 + k) (by rw [List.length_drop] at hk; omega)

theorem getElem?_afnarAccesses {id pa n k : Nat} {bytes : List Byte} {b : Access} (h : (afnarAccesses id pa bytes n)[k]? = some b) :
    ∃ bs, bs.length ≤ 64 ∧ b = afnarAccess (id + k) (pa + 64 * k) bs := by
  induction n generalizing id pa bytes k with
  | zero => simp [afnarAccesses] at h
  | succ n ih =>
    unfold afnarAccesses at h
    split at h
    · simp at h
    · cases k with
      | zero =>
        cases h
        exact ⟨bytes.take 64, by simp, rfl⟩
      | succ k =>
        obtain ⟨bs, hl, rfl⟩ := ih h
        refine ⟨bs, hl, ?_⟩
        rw [show id + 1 + k = id + (k + 1) by omega, show pa + 64 + 64 * k = pa + 64 * (k + 1) by omega]

/-- The accesses of a result's writes cover its bytes, each once. -/
theorem covered_afnarAccesses {id pa n : Nat} {bytes : List Byte} (hn : bytes.length ≤ 64 * n) (a : Nat) (v : Byte) :
    (∃ b ∈ afnarAccesses id pa bytes n, b.pa ≤ a ∧ b.bytes[a - b.pa]? = some v) ↔ pa ≤ a ∧ bytes[a - pa]? = some v := by
  induction n generalizing id pa bytes with
  | zero =>
    obtain rfl : bytes = [] := List.eq_nil_of_length_eq_zero (by omega)
    simp [afnarAccesses]
  | succ n ih =>
    unfold afnarAccesses
    split
    · next h => simp [List.isEmpty_iff.1 h]
    · rw [List.exists_mem_cons_iff, ih (by rw [List.length_drop]; omega)]
      simp only [afnarAccess, List.getElem?_take, List.getElem?_drop]
      by_cases h : pa ≤ a
      · obtain ⟨k, rfl⟩ := Nat.exists_eq_add_of_le h
        by_cases hk : k < 64
        · simp [hk, show ¬ 64 ≤ k by omega]
        · obtain ⟨j, rfl⟩ := Nat.exists_eq_add_of_le (not_lt.1 hk)
          simp [show pa + (64 + j) - (pa + 64) = j by omega]
      · simp [h, show ¬ pa + 64 ≤ a by omega]

/-! ### AFNAR_COMMAND_DONE -/

/-- Whether a line is free is one answer for all its bytes. -/
theorem lineFree_congr (s : State) {a b : Nat} (h : a / 128 = b / 128) : s.lineFree a = s.lineFree b := by
  have region : paRegion a = paRegion b := by
    have split (x : Nat) : x / 2 ^ 44 = x / 128 / 2 ^ 37 := (Nat.div_div_eq_div_mul x 128 (2 ^ 37)).symm
    rw [paRegion, paRegion, split a, split b, h]
  have domain : paDomain a = paDomain b := by
    have split (x : Nat) : x / 2 ^ 36 = x / 128 / 2 ^ 29 := (Nat.div_div_eq_div_mul x 128 (2 ^ 29)).symm
    rw [paDomain, paDomain, split a, split b, h]
  unfold State.lineFree State.lineWaits State.banksUp State.held
  rw [region, domain, h]

theorem afnarReady_iff (s : State) : s.afnarReady = true ↔
    s.mailbox.status = 1 ∧ (∀ e ∈ s.flight, e.op ≠ .afnar) ∧ ∀ q, s.mailbox.taken = some q → q.2 < s.ticks := by
  unfold State.afnarReady
  cases s.mailbox.taken <;> simp [and_assoc]

theorem State.afnarBelow_of_none {s : State} (h : ∀ e ∈ s.flight, e.op ≠ .afnar) (pa : Nat) : s.AfnarBelow pa :=
  fun q hq ho => absurd ho (h q hq)

/-- Afnar's write of a result, and what it leaves to do. -/
def State.afnarResult (s : State) (result : List Byte) : State :=
  let t := s.afnarWrite s.mailbox.target result (result.length / 64 + 1)
  if t.flight.any fun a => a.op == .afnar then { t with mailbox := { s.mailbox with writing := true } } else t.commandDone

theorem afnarCommandDone_exec {s : State} {result : List Byte} (hr : s.afnarReady = true) (hw : s.mailbox.writing = false)
    (hc : s.commandResult s.mailbox.domain s.mailbox.cmd = some result) :
    exec .afnarCommandDone s = .next (s.afnarResult result) := by
  unfold exec execAfnarCommandDone State.afnarResult
  simp [hr, hw, hc]

theorem afnarResult_readMem {s : State} {result : List Byte} (a : Nat) : (s.afnarResult result).readMem a =
    (s.afnarWrite s.mailbox.target result (result.length / 64 + 1)).readMem a := by
  unfold State.afnarResult
  dsimp only
  split <;> rfl

section
variable {s : State} {result : List Byte} (none : ∀ e ∈ s.flight, e.op ≠ .afnar)
include none

theorem afnarResult_free (hw : Memory.wf s.mem = true)
    (hf : ∀ a, s.mailbox.target ≤ a ∧ a < s.mailbox.target + result.length → s.lineFree a = true ∧ s.NoPacketAt a) :
    let t := s.afnarResult result
    t.mailbox = { s.mailbox with status := 2, writing := false } ∧ t.frozen = (if s.mailbox.cmd = 3 then false else s.frozen) ∧
      ∀ a, t.readMem a = if s.mailbox.target ≤ a ∧ a < s.mailbox.target + result.length
        then result.getD (a - s.mailbox.target) 0 else s.readMem a := by
  have free (k : Nat) (hk : k < result.length) := hf (s.mailbox.target + k) (by omega)
  obtain ⟨alike, flight, read⟩ := afnarWrite_even (bytes := result) (n := result.length / 64 + 1) hw (by omega)
    (State.afnarBelow_of_none none _)
    (fun k hk => (free k hk).2) (fun k hk => (free k hk).1.trans (free (k / 64 * 64) (by omega)).1.symm)
  have idle : ((s.afnarWrite s.mailbox.target result (result.length / 64 + 1)).flight.any fun a => a.op == .afnar) = false := by
    rw [flight fun k hk => (free k hk).1]
    simpa using none
  have done : s.afnarResult result = (s.afnarWrite s.mailbox.target result (result.length / 64 + 1)).commandDone := by
    unfold State.afnarResult
    simp only [idle, Bool.false_eq_true, if_false]
  dsimp only
  refine ⟨?_, ?_, fun a => ?_⟩
  · rw [done, State.commandDone, alike.mailbox]
  · rw [done, State.commandDone, alike.mailbox, alike.frozen]
    by_cases h : s.mailbox.cmd = 3 <;> simp [h]
  · rw [afnarResult_readMem, read]
    by_cases h : s.mailbox.target ≤ a ∧ a < s.mailbox.target + result.length
    · rw [if_pos ⟨h.1, h.2, (hf a h).1⟩, if_pos h]
    · rw [if_neg fun g => h ⟨g.1, g.2.1⟩, if_neg h]

theorem afnarResult_readMem_of_aligned (ht : s.mailbox.target % 64 = 0) (hw : Memory.wf s.mem = true)
    (hq : ∀ a, s.mailbox.target ≤ a ∧ a < s.mailbox.target + result.length → s.NoPacketAt a) (a : Nat) :
    (s.afnarResult result).readMem a =
      if s.mailbox.target ≤ a ∧ a < s.mailbox.target + result.length ∧ s.lineFree a = true
        then result.getD (a - s.mailbox.target) 0 else s.readMem a := by
  obtain ⟨-, -, read⟩ := afnarWrite_even (bytes := result) (n := result.length / 64 + 1) hw (by omega) (State.afnarBelow_of_none none _)
    (fun k hk => hq (s.mailbox.target + k) (by omega)) (fun k hk => lineFree_congr s (by omega))
  rw [afnarResult_readMem, read]

theorem afnarResult_held (hr : result ≠ [])
    (hf : ∀ a, s.mailbox.target ≤ a ∧ a < s.mailbox.target + result.length → s.lineFree a = false) :
    let as := afnarAccesses s.fresh s.mailbox.target result (result.length / 64 + 1)
    s.afnarResult result =
      { s with fresh := s.fresh + as.length, flight := s.flight ++ as, mailbox := { s.mailbox with writing := true } } := by
  unfold State.afnarResult
  dsimp only
  rw [afnarWrite_held (State.afnarBelow_of_none none _) fun k hk => hf _ (by omega)]
  rw [if_pos]
  simp [afnarAccesses, hr, afnarAccess]

end

theorem commandResult_of {s : State} {result : List Byte} {domain cmd : Nat}
    (h : (cmd = 1 ∧ domain < 84 ∧ result = s.recorderBytes domain) ∨ (cmd = 2 ∧ result = s.report) ∨ (cmd = 3 ∧ result = []) ∨
      (cmd = 4 ∧ result = (List.range 2592).map Config.identityKey ++ Config.certificate)) :
    s.commandResult domain cmd = some result := by
  rcases h with ⟨rfl, hd, rfl⟩ | ⟨rfl, rfl⟩ | ⟨rfl, rfl⟩ | ⟨rfl, hr⟩
  · simp [State.commandResult, hd]
  · rfl
  · rfl
  · rw [hr, State.commandResult]

theorem afnarCommandDone_cases (s : State) (result : List Byte) :
    let m := s.mailbox
    let ready : Prop := m.status = 1 ∧ (∀ e ∈ s.flight, e.op ≠ .afnar) ∧ ∀ q, m.taken = some q → q.2 < s.ticks
    let thawed : Bool := if m.cmd = 3 then false else s.frozen
    (¬ ready → exec .afnarCommandDone s = .next s) ∧
    (ready → m.writing = true → exec .afnarCommandDone s =
      .next { s with mailbox := { m with status := 2, writing := false }, frozen := thawed, draw := s.draw + 1 }) ∧
    (ready → m.writing = false →
      (m.cmd = 1 ∧ m.domain < 84 ∧ result = s.recorderBytes m.domain) ∨ (m.cmd = 2 ∧ result = s.report) ∨ (m.cmd = 3 ∧ result = []) ∨
        (m.cmd = 4 ∧ result = (List.range 2592).map Config.identityKey ++ Config.certificate) →
      let inside (a : Nat) : Prop := m.target ≤ a ∧ a < m.target + result.length
      (Memory.wf s.mem = true → (∀ a, inside a → s.lineFree a = true ∧ s.NoPacketAt a) → ∃ t, exec .afnarCommandDone s = .next t ∧
        t.mailbox = { m with status := 2, writing := false } ∧ t.frozen = thawed ∧
        ∀ a, t.readMem a = if inside a then result.getD (a - m.target) 0 else s.readMem a) ∧
      (m.target % 64 = 0 → Memory.wf s.mem = true → (∀ a, inside a → s.NoPacketAt a) → ∃ t, exec .afnarCommandDone s = .next t ∧ ∀ a,
        (inside a → s.lineFree a = true → t.readMem a = result.getD (a - m.target) 0) ∧
        (¬ (inside a ∧ s.lineFree a = true) → t.readMem a = s.readMem a)) ∧
      (m.target % 64 = 0 → result ≠ [] → (∀ a, inside a → s.lineFree a = false) →
        ∃ as : List Access, exec .afnarCommandDone s =
          .next { s with fresh := s.fresh + as.length, flight := s.flight ++ as, mailbox := { m with writing := true } } ∧
          (∀ k b, as[k]? = some b → b.id = s.fresh + k ∧ b.op = .afnar ∧ b.stage = .issued ∧ b.scratch = false ∧ b.draft = false ∧
            b.scope = 3 ∧ b.size = b.bytes.length ∧ b.pa = m.target + 64 * k ∧ b.size ≤ 64 ∧ b.after = []) ∧
          ∀ a v, (∃ b ∈ as, b.pa ≤ a ∧ b.bytes[a - b.pa]? = some v) ↔ m.target ≤ a ∧ result[a - m.target]? = some v)) := by
  intro m ready thawed
  refine ⟨fun h => ?_, fun h hw => ?_, fun h hw hres => ?_⟩
  · have idle : s.afnarReady = false := Bool.eq_false_iff.2 fun hr => h ((afnarReady_iff s).1 hr)
    unfold exec execAfnarCommandDone
    simp [idle]
  · have writing : s.mailbox.writing = true := hw
    unfold exec execAfnarCommandDone
    simp only [(afnarReady_iff s).2 h, writing, State.commandDone]
    by_cases hc : s.mailbox.cmd = 3 <;> simp [hc, thawed, m]
  · have run : exec .afnarCommandDone s = .next (s.afnarResult result) :=
      afnarCommandDone_exec ((afnarReady_iff s).2 h) hw (commandResult_of hres)
    intro inside
    rw [run]
    refine ⟨fun wf hf => ⟨_, rfl, afnarResult_free h.2.1 wf hf⟩, fun ht wf hq => ⟨_, rfl, fun a => ?_⟩, fun _ hne hf => ?_⟩
    · rw [afnarResult_readMem_of_aligned h.2.1 ht wf hq]
      exact ⟨fun hi hl => if_pos ⟨hi.1, hi.2, hl⟩, fun hn => if_neg fun g => hn ⟨⟨g.1, g.2.1⟩, g.2.2⟩⟩
    · refine ⟨afnarAccesses s.fresh s.mailbox.target result (result.length / 64 + 1), ?_, fun k b hb => ?_,
        covered_afnarAccesses (by omega)⟩
      · exact congrArg Host.Outcome.next (afnarResult_held h.2.1 hne hf)
      · obtain ⟨bs, hl, rfl⟩ := getElem?_afnarAccesses hb
        exact ⟨rfl, rfl, rfl, rfl, rfl, rfl, rfl, rfl, hl, rfl⟩

/-! ### Mailbox commands -/

/-- The port's link is up and the boot has not stopped: the mailbox answers it. -/
def State.mailboxLive (s : State) (p : Port) : Prop := (s.portRegs p).linkUp = true ∧ s.bstate ≠ 0x80

/-- A command write of the port is taken in this tick. -/
def State.mailboxTakes (s : State) (p : Port) : Prop :=
  if p = .a then s.mailbox.status ≠ 1 ∨ s.mailbox.taken = some (.b, s.ticks)
  else s.mailbox.status ≠ 1 ∧ s.mailbox.taken ≠ some (.a, s.ticks)

/-- The mailbox with a command of the port in it. -/
def State.commanded (s : State) (p : Port) (dom cmd : Nat) : Mailbox :=
  { s.mailbox with domain := dom, cmd := cmd, target := s.mailbox.buffer, taken := some (p, s.ticks) }

/-- The result has a place in installed memory at the buffer address. -/
def State.fits (s : State) (result : List Byte) : Prop :=
  result = [] ∨ s.mailbox.buffer / 2 ^ 44 = 0 ∧ s.admits s.mailbox.buffer result.length = true

/-- The status of a command that is taken. -/
def State.commandStatus (s : State) (dom cmd : Nat) : Nat :=
  match s.commandResult dom cmd with
  | none => 3
  | some bytes => if s.resultFits s.mailbox.buffer bytes.length then 1 else 3

/-- What an instruction does that is the write of a command, with the result that the command has now and in a later state. -/
def CommandRuns (s : State) (p : Port) (i : Instr) (dom cmd : Nat) (known : Prop) (result : List Byte) (gives : State → List Byte) :
    Prop :=
  let m := s.commanded p dom cmd
  let own := if p = .a then 1 else 2
  (¬ s.mailboxLive p ∨ ¬ s.mailboxTakes p → cmd ≠ 3 ∨ s.msem = own → exec i s = .next s) ∧
  (s.mailboxLive p → s.mailboxTakes p → ¬ (known ∧ s.fits result) → cmd ≠ 3 →
    exec i s = .next { s with mailbox := { m with status := 3 } }) ∧
  (s.mailboxLive p → s.mailboxTakes p → known → s.fits result → cmd ≠ 3 ∨ s.msem = own →
    exec i s = .next { s with mailbox := { m with status := 1 } }) ∧
  (s.mailboxLive p → s.mailboxTakes p → known → s.fits result → cmd ≠ 3 ∨ s.msem = own → s.mailbox.writing = false →
    ∃ t, exec i s = .next t ∧ t.mailbox = { m with status := 1 } ∧
      ∀ u : State, u.mailbox = t.mailbox → t.ticks < u.ticks → (∀ e ∈ u.flight, e.op ≠ .afnar) → Memory.wf u.mem = true →
        let inside (a : Nat) : Prop := m.buffer ≤ a ∧ a < m.buffer + (gives u).length
        (∀ a, inside a → u.lineFree a = true ∧ u.NoPacketAt a) → ∃ v, exec .afnarCommandDone u = .next v ∧
          v.mailbox = { m with status := 2, writing := false } ∧ v.frozen = (if cmd = 3 then false else u.frozen) ∧
          ∀ a, v.readMem a = if inside a then (gives u).getD (a - m.buffer) 0 else u.readMem a)

theorem Mailbox.takes_iff (s : State) (p : Port) : s.mailbox.takes p s.ticks = true ↔ s.mailboxTakes p := by
  cases p <;> simp [Mailbox.takes, State.mailboxTakes]

theorem State.owns_iff (s : State) (p : Port) : s.owns p = true ↔ s.msem = if p = .a then 1 else 2 := by
  cases p <;> simp [State.owns, portCode]

theorem State.resultFits_iff (s : State) (result : List Byte) :
    s.resultFits s.mailbox.buffer result.length = true ↔ s.fits result := by
  simp [State.resultFits, State.fits, paRegion]

/-- A command write to a port that the mailbox answers. -/
theorem State.mailboxCommand_of_live {s : State} {p : Port} (hl : s.mailboxLive p) (dom cmd : Nat) : s.mailboxCommand p dom cmd =
    if cmd = 3 ∧ s.owns p = false then s.notOwner p
    else if s.mailbox.takes p s.ticks = false then s
    else { s with mailbox := { s.commanded p dom cmd with status := s.commandStatus dom cmd } } := by
  have acts : s.portActs p = true := hl.1
  have alive : s.dead = false := by simpa [State.dead] using hl.2
  unfold State.mailboxCommand
  simp only [acts, alive, Bool.not_true, Bool.or_self, Bool.false_eq_true, if_false, Bool.and_eq_true, beq_iff_eq, Bool.not_eq_true']
  split
  · rfl
  · split
    · rfl
    · unfold State.commandStatus
      cases s.commandResult dom cmd <;> rfl

theorem State.mailboxCommand_of_not_live {s : State} {p : Port} (hl : ¬ s.mailboxLive p) (dom cmd : Nat) :
    s.mailboxCommand p dom cmd = s := by
  have still : (!s.portActs p || s.dead) = true := by
    by_cases h : (s.portRegs p).linkUp = true
    · have stopped : s.bstate = 0x80 := not_not.1 fun hb => hl ⟨h, hb⟩
      simp [State.dead, stopped]
    · simp [State.portActs, h]
  rw [State.mailboxCommand, if_pos still]

/-- The write of a command that its port may give and the mailbox takes. -/
theorem State.mailboxCommand_taken {s : State} {p : Port} {dom cmd : Nat} (hl : s.mailboxLive p) (ht : s.mailboxTakes p)
    (ho : cmd ≠ 3 ∨ s.msem = if p = .a then 1 else 2) : s.mailboxCommand p dom cmd =
      { s with mailbox := { s.commanded p dom cmd with status := s.commandStatus dom cmd } } := by
  have takes := (Mailbox.takes_iff s p).2 ht
  rw [State.mailboxCommand_of_live hl, if_neg, if_neg (by simp [takes])]
  rintro ⟨h3, hn⟩
  rcases ho with h | h
  · exact h h3
  · simp [(s.owns_iff p).2 h] at hn

/-- The command done in a later state, where nothing hinders Afnar's writes. -/
theorem afnarCommandDone_of_commanded {s u : State} {p : Port} {dom cmd : Nat} {result : List Byte}
    (hu : u.mailbox = { s.commanded p dom cmd with status := 1 }) (ht : s.ticks < u.ticks) (hw : s.mailbox.writing = false)
    (none : ∀ e ∈ u.flight, e.op ≠ .afnar) (wf : Memory.wf u.mem = true) (hr : u.commandResult dom cmd = some result)
    (hf : ∀ a, s.mailbox.buffer ≤ a ∧ a < s.mailbox.buffer + result.length → u.lineFree a = true ∧ u.NoPacketAt a) :
    ∃ v, exec .afnarCommandDone u = .next v ∧ v.mailbox = { s.commanded p dom cmd with status := 2, writing := false } ∧
      v.frozen = (if cmd = 3 then false else u.frozen) ∧
      ∀ a, v.readMem a = if s.mailbox.buffer ≤ a ∧ a < s.mailbox.buffer + result.length
        then result.getD (a - s.mailbox.buffer) 0 else u.readMem a := by
  have target : u.mailbox.target = s.mailbox.buffer := congrArg Mailbox.target hu
  have command : u.mailbox.cmd = cmd := congrArg Mailbox.cmd hu
  have domain : u.mailbox.domain = dom := congrArg Mailbox.domain hu
  have writing : u.mailbox.writing = false := (congrArg Mailbox.writing hu).trans hw
  have ready : u.afnarReady = true := (afnarReady_iff u).2 ⟨congrArg Mailbox.status hu, none, fun q hq => by
    rw [hu] at hq
    cases hq
    exact ht⟩
  rw [afnarCommandDone_exec ready writing (by rw [domain, command, hr])]
  obtain ⟨mailbox, frozen, read⟩ := afnarResult_free (result := result) none wf (by rw [target]; exact hf)
  refine ⟨_, rfl, ?_, ?_, fun a => ?_⟩
  · rw [mailbox, hu]
  · rw [frozen, command]
  · rw [read, target]

theorem commandRuns {s : State} {p : Port} {i : Instr} {dom cmd : Nat} {known : Prop} {result : List Byte} {gives : State → List Byte}
    (hi : exec i s = .next (s.mailboxCommand p dom cmd)) (hn : ¬ known → s.commandResult dom cmd = none)
    (hk : known → s.commandResult dom cmd = some result) (hg : known → ∀ u : State, u.commandResult dom cmd = some (gives u)) :
    CommandRuns s p i dom cmd known result gives := by
  have accepted (hl : s.mailboxLive p) (ht : s.mailboxTakes p) (h : known) (hf : s.fits result)
      (ho : cmd ≠ 3 ∨ s.msem = if p = .a then 1 else 2) :
      exec i s = .next { s with mailbox := { s.commanded p dom cmd with status := 1 } } := by
    rw [hi, State.mailboxCommand_taken hl ht ho, State.commandStatus, hk h]
    simp only [(s.resultFits_iff result).2 hf, if_true]
  refine ⟨fun h ho => ?_, fun hl ht hf h3 => ?_, accepted, fun hl ht h hf ho hw => ⟨_, accepted hl ht h hf ho, rfl, ?_⟩⟩
  · rw [hi]
    by_cases hl : s.mailboxLive p
    · have untaken : s.mailbox.takes p s.ticks = false :=
        Bool.eq_false_iff.2 fun ht => h.elim (fun g => g hl) fun g => g ((Mailbox.takes_iff s p).1 ht)
      rw [State.mailboxCommand_of_live hl, if_neg, if_pos untaken]
      rintro ⟨h3, hn⟩
      rcases ho with ho | ho
      · exact ho h3
      · simp [(s.owns_iff p).2 ho] at hn
    · rw [State.mailboxCommand_of_not_live hl]
  · rw [hi, State.mailboxCommand_taken hl ht (.inl h3), State.commandStatus]
    by_cases h : known
    · have misfit : s.resultFits s.mailbox.buffer result.length = false :=
        Bool.eq_false_iff.2 fun g => hf ⟨h, (s.resultFits_iff result).1 g⟩
      rw [hk h]
      simp only [misfit, Bool.false_eq_true, if_false]
    · rw [hn h]
  · intro u hu ht none wf inside hfree
    exact afnarCommandDone_of_commanded hu ht hw none wf (hg h u) hfree

theorem mailboxCommands (s : State) (p : Port) (domain : Nat) :
    let key := (List.range 2592).map Config.identityKey ++ Config.certificate
    (s.mailboxLive p → s.msem ≠ (if p = .a then 1 else 2) →
      exec (.unfreeze p) s = .next (s.modPort p fun q => { q with notowner := true })) ∧
    CommandRuns s p (.readRecorder p domain) (domain % 256) 1 (domain % 256 < 84) (s.recorderBytes (domain % 256))
      (fun u => u.recorderBytes (domain % 256)) ∧
    CommandRuns s p (.attestationReport p) s.mailbox.domain 2 True s.report (fun u => u.report) ∧
    CommandRuns s p (.unfreeze p) s.mailbox.domain 3 True [] (fun _ => []) ∧
    CommandRuns s p (.identityPublicKey p) s.mailbox.domain 4 True key (fun _ => key) := by
  intro key
  refine ⟨fun hl hn => ?_, ?_, ?_, ?_, ?_⟩
  · have stranger : s.owns p = false := Bool.eq_false_iff.2 fun h => hn ((s.owns_iff p).1 h)
    have run : exec (.unfreeze p) s = .next (s.mailboxCommand p s.mailbox.domain 3) := rfl
    rw [run, State.mailboxCommand_of_live hl, if_pos ⟨rfl, stranger⟩]
    rfl
  · exact commandRuns rfl (fun h => by simp [State.commandResult, h]) (fun h => by simp [State.commandResult, h])
      (fun h u => by simp [State.commandResult, h])
  · exact commandRuns rfl (fun h => absurd trivial h) (fun _ => rfl) fun _ _ => rfl
  · exact commandRuns rfl (fun h => absurd trivial h) (fun _ => rfl) fun _ _ => rfl
  · exact commandRuns rfl (fun h => absurd trivial h) (fun _ => by rw [State.commandResult]) fun _ _ => by rw [State.commandResult]

/-! ### The bytes of a recorder and of a report -/

@[simp] theorem zeros_length (n : Nat) : (zeros n).length = n := List.length_replicate

theorem numberAt_congr {f g : Nat → Byte} {a b n : Nat} (h : ∀ k, k < n → f (a + k) = g (b + k)) : numberAt f a n = numberAt g b n := by
  unfold numberAt
  rw [List.map_congr_left fun k hk => h k (List.mem_range.1 hk)]

/-- A number read past the first part of a list stands in the second. -/
theorem numberAt_skip {x y : List Byte} {off n : Nat} (h : x.length ≤ off) :
    numberAt (fun k => (x ++ y).getD k 0) off n = numberAt (fun k => y.getD k 0) (off - x.length) n :=
  numberAt_congr fun k _ => by
    rw [List.getD_append_right _ _ _ _ (by omega)]
    congr 1
    omega

/-- The number at the start of a list that begins with its bytes. -/
theorem numberAt_leBytes {y : List Byte} {n v off : Nat} (h : off = 0) :
    numberAt (fun k => (leBytes n v ++ y).getD k 0) off n = v % 256 ^ n := by
  subst h
  rw [← leNat_leBytes]
  unfold numberAt
  congr 1
  refine List.ext_getElem (by simp) fun k h1 h2 => ?_
  simp only [List.getElem_map, List.getElem_range, Nat.zero_add]
  rw [List.getD_append _ _ _ _ h2, List.getD_eq_getElem _ _ h2]

/-- A list of pieces of one length, read in piece `k`. -/
theorem getD_flatMap {α : Type} {f : α → List Byte} {m : Nat} (hf : ∀ e, (f e).length = m) {l : List α} {k j : Nat} {e : α} (y : List Byte)
    (hk : l[k]? = some e) (hj : j < m) : (l.flatMap f ++ y).getD (m * k + j) 0 = (f e).getD j 0 := by
  induction l generalizing k with
  | nil => simp at hk
  | cons d l ih =>
    rw [List.flatMap_cons, List.append_assoc]
    cases k with
    | zero =>
      obtain rfl : d = e := by simpa using hk
      rw [Nat.mul_zero, Nat.zero_add, List.getD_append _ _ _ _ (by rw [hf]; exact hj)]
    | succ k =>
      rw [List.getD_append_right _ _ _ _ (by rw [hf, Nat.mul_succ]; omega), hf, ← ih (k := k) (by simpa using hk)]
      congr 1
      rw [Nat.mul_succ]
      omega

@[simp] theorem RecEntry.bytes_length (e : RecEntry) : e.bytes.length = 32 := by simp [RecEntry.bytes]

theorem flatMap_bytes_length (l : List RecEntry) : (l.flatMap RecEntry.bytes).length = 32 * l.length := by
  simp [List.length_flatMap, Nat.mul_comm]

theorem recorderBytes_length {s : State} {d : Nat} (h : (s.dom d).ring.length ≤ 4096) : (s.recorderBytes d).length = 131136 := by
  simp only [State.recorderBytes, List.length_append, leBytes_length, zeros_length, flatMap_bytes_length]
  omega

/-- An entry of a recorder stands in 32 bytes of its own. -/
theorem getD_recorderBytes {s : State} {d k j : Nat} {e : RecEntry} (hk : (s.dom d).ring[k]? = some e) (hj : j < 32) :
    (s.recorderBytes d).getD (64 + 32 * k + j) 0 = e.bytes.getD j 0 := by
  rw [← getD_flatMap RecEntry.bytes_length (zeros (32 * (4096 - (s.dom d).ring.length))) hk hj, State.recorderBytes, List.append_assoc,
    List.getD_append_right _ _ _ _ (by simp; omega)]
  congr 1
  simp
  omega

theorem numberAt_recorderBytes {s : State} {d k off n : Nat} {e : RecEntry} (hk : (s.dom d).ring[k]? = some e) (hn : off + n ≤ 32) :
    numberAt (fun k => (s.recorderBytes d).getD k 0) (64 + 32 * k + off) n = numberAt (fun k => e.bytes.getD k 0) off n :=
  numberAt_congr fun j hj => by rw [Nat.add_assoc, getD_recorderBytes hk (by omega)]

theorem numberAt_bytes {e : RecEntry} (ht : e.time < 2 ^ 64) (hy : e.type < 256) (hd : e.domain < 256) (hc : e.core < 2 ^ 32)
    (hp : e.payload < 2 ^ 128) :
    let long (off n : Nat) : Nat := numberAt (fun k => e.bytes.getD k 0) off n
    long 0 8 = e.time ∧ long 8 1 = e.type ∧ long 9 1 = (if e.fatal then 1 else 0) ∧ long 10 1 = e.domain ∧ long 12 4 = e.core ∧
      long 16 16 = e.payload := by
  have last : leBytes 16 e.payload = leBytes 16 e.payload ++ [] := (List.append_nil _).symm
  have flag : boolBit e.fatal 0 % 256 ^ 1 = if e.fatal then 1 else 0 := by cases e.fatal <;> rfl
  simp only [RecEntry.bytes, List.append_assoc]
  rw [last]
  simp (disch := simp) only [numberAt_skip, numberAt_leBytes]
  exact ⟨Nat.mod_eq_of_lt (by omega), Nat.mod_eq_of_lt (by omega), flag, Nat.mod_eq_of_lt (by omega), Nat.mod_eq_of_lt (by omega),
    Nat.mod_eq_of_lt (by omega)⟩

theorem recorderBytes_layout (s : State) (d : Nat) :
    let x := s.dom d
    let b := s.recorderBytes d
    let long (off n : Nat) : Nat := numberAt (fun k => b.getD k 0) off n
    x.ring.length ≤ 4096 → x.events < 2 ^ 64 →
      b.length = 131136 ∧ long 0 4 = x.events % 4096 ∧ b.getD 4 0 = (if s.frozen then 1 else 0) ∧ long 8 8 = x.events ∧
      ∀ k e, x.ring[k]? = some e → e.time < 2 ^ 64 → e.type < 256 → e.domain < 256 → e.core < 2 ^ 32 → e.payload < 2 ^ 128 →
        let o := 64 + 32 * k
        long o 8 = e.time ∧ long (o + 8) 1 = e.type ∧ long (o + 9) 1 = (if e.fatal then 1 else 0) ∧ long (o + 10) 1 = e.domain ∧
          long (o + 12) 4 = e.core ∧ long (o + 16) 16 = e.payload := by
  intro x b long hr he
  refine ⟨recorderBytes_length hr, ?_, ?_, ?_, fun k e hk ht hy hd hc hp => ?_⟩
  · simp only [long, b, State.recorderBytes, List.append_assoc]
    rw [numberAt_leBytes rfl, Nat.mod_eq_of_lt (by omega)]
  · simp only [b, State.recorderBytes, List.append_assoc]
    rw [List.getD_append_right _ _ _ _ (by simp), List.getD_append _ _ _ _ (by simp)]
    cases s.frozen <;> rfl
  · simp only [long, b, State.recorderBytes, List.append_assoc]
    simp (disch := simp) only [numberAt_skip, numberAt_leBytes]
    exact Nat.mod_eq_of_lt (by omega)
  · obtain ⟨time, type, fatal, domain, core, payload⟩ := numberAt_bytes ht hy hd hc hp
    exact ⟨(numberAt_recorderBytes (off := 0) hk (by omega)).trans time, (numberAt_recorderBytes hk (by omega)).trans type,
      (numberAt_recorderBytes hk (by omega)).trans fatal, (numberAt_recorderBytes hk (by omega)).trans domain,
      (numberAt_recorderBytes hk (by omega)).trans core, (numberAt_recorderBytes hk (by omega)).trans payload⟩

theorem report_layout (s : State) (hn : s.mailbox.nonce.length = 64) :
    let b := s.report
    let long (off n : Nat) : Nat := numberAt (fun k => b.getD k 0) off n
    b.length = 4883 ∧ long 0 8 = 1 ∧ (∀ k, k < 64 → b.getD (8 + k) 0 = s.mailbox.nonce.getD k 0 ∧
      b.getD (72 + k) 0 = Config.firmwareDigest s.fwslot k ∧ b.getD (136 + k) 0 = Config.mapDigest s.mapcopy k) ∧
    long 0xC8 4 = s.chart.gcores % 2 ^ 32 ∧ long 0xCC 4 = s.chart.gbisect % 2 ^ 32 ∧ long 0xD0 4 = s.chart.gsram % 2 ^ 32 ∧
    long 0xD4 4 = s.chart.gdetour % 2 ^ 32 ∧
    long 0xD8 8 = (s.bstate + s.chart.grade * 2 ^ 10 + s.fwslot * 2 ^ 12 + s.mapcopy * 2 ^ 13) % 2 ^ 64 ∧
    long 0xE0 8 = s.ticks % 2 ^ 64 ∧ long 0xE8 8 = s.nv.boots % 2 ^ 64 := by
  have nonce : s.mailbox.nonceBytes = s.mailbox.nonce := by rw [Mailbox.nonceBytes, ← hn, List.take_left]
  intro b long
  have laid : b = leBytes 8 1 ++ (s.mailbox.nonce ++ ((List.range 64).map (Config.firmwareDigest s.fwslot) ++
      ((List.range 64).map (Config.mapDigest s.mapcopy) ++ (leBytes 4 s.chart.gcores ++ (leBytes 4 s.chart.gbisect ++
      (leBytes 4 s.chart.gsram ++ (leBytes 4 s.chart.gdetour ++ (leBytes 8 s.bstat ++ (leBytes 8 s.ticks ++ (leBytes 8 s.nv.boots ++
      (leBytes 16 0 ++ (List.range 4627).map (Config.signature s.draw)))))))))))) := by
    simp only [b, State.report, nonce, List.append_assoc]
  have digest (f : Nat → Byte) (y : List Byte) {k : Nat} (hk : k < 64) : ((List.range 64).map f ++ y).getD k 0 = f k := by
    rw [List.getD_append _ _ _ _ (by simpa using hk), List.getD_eq_getElem _ _ (by simpa using hk)]
    simp
  simp only [long]
  rw [laid]
  refine ⟨?_, numberAt_leBytes rfl, fun k hk => ⟨?_, ?_, ?_⟩, ?_, ?_, ?_, ?_, ?_, ?_, ?_⟩
  · simp only [List.length_append, List.length_map, List.length_range, leBytes_length, hn]
  · rw [List.getD_append_right _ _ _ _ (by simp), List.getD_append _ _ _ _ (by simp [hn, hk])]
    simp
  · rw [List.getD_append_right _ _ _ _ (by simp; omega), List.getD_append_right _ _ _ _ (by simp [hn]; omega)]
    rw [digest _ _ (by simp [hn]; omega)]
    congr 1
    simp [hn]
    omega
  · rw [List.getD_append_right _ _ _ _ (by simp; omega), List.getD_append_right _ _ _ _ (by simp [hn]; omega),
      List.getD_append_right _ _ _ _ (by simp [hn]; omega)]
    rw [digest _ _ (by simp [hn]; omega)]
    congr 1
    simp [hn]
    omega
  all_goals
    simp (disch := simp [hn]) only [numberAt_skip, numberAt_leBytes]
    rfl

/-- Settles O55, clause by clause: a reset, the steps of the boot, a fatal event, the completion of a command, the writes of commands, and
the bytes of a recorder and of a report. -/
theorem bootMailboxAndFatalEvents : Obligations.BootMailboxAndFatalEvents :=
  ⟨reset_exec, fun _ ha hs hf hm _ hb => step_of_booting ha hs hf hm hb, bootStep_cases, fatalEvent_exec, afnarCommandDone_cases,
    mailboxCommands, recorderBytes_layout, report_layout⟩

end Sys2Proof.Machine

namespace Sys2Proof.Machine

/-! ## Decoding and encoding (O8, O7)

Each format has one lemma for each direction, over the table of its opcodes; the instructions are cases of these. -/

/-! ### The fields of a packed word -/

/-- A field of the upper half of a packed word. -/
theorem upper_packWord (op : BitVec 9) (h : Hdr) (low : BitVec 32) {k n : Nat} (hk : 32 ≤ k) :
    (packWord op h low).extractLsb' k n = (op ++ h.gap ++ h.wait ++ h.set ++ h.guard).extractLsb' (k - 32) n :=
  BitVec.extractLsb'_append_eq_of_le hk

/-- A field of the lower half of a packed word. -/
theorem lower_packWord (op : BitVec 9) (h : Hdr) (low : BitVec 32) {k n : Nat} (hk : k + n ≤ 32) :
    (packWord op h low).extractLsb' k n = low.extractLsb' k n :=
  BitVec.extractLsb'_append_eq_of_add_le hk

@[simp] theorem opcodeField_packWord (op : BitVec 9) (h : Hdr) (low : BitVec 32) : opcodeField (packWord op h low) = op := by
  simp (disch := omega) only [opcodeField, upper_packWord, BitVec.extractLsb'_append_eq_of_le, Nat.reduceSub, BitVec.extractLsb'_eq_self]

@[simp] theorem hdrField_packWord (op : BitVec 9) (h : Hdr) (low : BitVec 32) : hdrField (packWord op h low) = h := by
  simp (disch := omega) only [hdrField, upper_packWord, BitVec.extractLsb'_append_eq_of_le, BitVec.extractLsb'_append_eq_of_add_le,
    Nat.reduceSub, BitVec.extractLsb'_eq_self]

theorem opAField_packA (op : Nat) (o : OpA) : opAField (packA op o) = o := by
  simp (disch := omega) only [opAField, packA, hdrField_packWord, lower_packWord, BitVec.extractLsb'_append_eq_of_le,
    BitVec.extractLsb'_append_eq_of_add_le, Nat.reduceSub, BitVec.extractLsb'_eq_self]

theorem opBField_packB (op : Nat) (o : OpB) : opBField (packB op o) = o := by
  simp (disch := omega) only [opBField, packB, hdrField_packWord, lower_packWord, BitVec.extractLsb'_append_eq_of_le,
    BitVec.extractLsb'_append_eq_of_add_le, Nat.reduceSub, BitVec.extractLsb'_eq_self]

theorem opCField_packC (op : Nat) (o : OpC) : opCField (packC op o) = o := by
  simp (disch := omega) only [opCField, packC, hdrField_packWord, lower_packWord, BitVec.extractLsb'_append_eq_of_le,
    BitVec.extractLsb'_append_eq_of_add_le, Nat.reduceSub, BitVec.extractLsb'_eq_self]

theorem opJField_packJ (op : Nat) (o : OpJ) : opJField (packJ op o) = o := by
  simp (disch := omega) only [opJField, packJ, hdrField_packWord, lower_packWord, BitVec.extractLsb'_eq_self]

theorem opMField_packM (op : Nat) (o : OpM) : opMField (packM op o) = o := by
  simp (disch := omega) only [opMField, packM, hdrField_packWord, lower_packWord, BitVec.extractLsb'_append_eq_of_le,
    BitVec.extractLsb'_append_eq_of_add_le, Nat.reduceSub, BitVec.extractLsb'_eq_self]

theorem opUField_packWord (o : OpU) : opUField (packWord o.op o.h o.low) = o := by
  simp (disch := omega) only [opUField, opcodeField_packWord, hdrField_packWord, lower_packWord, BitVec.extractLsb'_eq_self]

/-! ### A word is its fields, packed -/

theorem packWord_fields (w : DWord) : packWord (opcodeField w) (hdrField w) (w.extractLsb' 0 32) = w := by
  simp only [packWord, opcodeField, hdrField]
  repeat rw [BitVec.extractLsb'_append_extractLsb'_eq_extractLsb' (by rfl)]
  exact BitVec.extractLsb'_eq_self

/-- The word whose fields are read is that of its opcode and common fields with the low half that is read. -/
theorem packWord_of_low {w : DWord} {op : Nat} {low : BitVec 32} (hop : (opcodeField w).toNat = op) (hl : low = w.extractLsb' 0 32) :
    packWord (BitVec.ofNat 9 op) (hdrField w) low = w := by
  subst hop hl
  simp [packWord_fields]

/-- A format of one word (R18): `field` reads the operands that `pack` packs under an opcode, and loses none. -/
structure Packs {α : Type} (pack : Nat → α → DWord) (field : DWord → α) : Prop where
  opcode : ∀ op o, op < 0x1FF → (opcodeField (pack op o)).toNat = op
  field_pack : ∀ op o, field (pack op o) = o
  pack_field : ∀ w op, (opcodeField w).toNat = op → pack op (field w) = w

theorem opcodeField_ofNat {op : Nat} (h : op < 0x1FF) (o : Hdr) (low : BitVec 32) :
    (opcodeField (packWord (BitVec.ofNat 9 op) o low)).toNat = op := by
  rw [opcodeField_packWord, BitVec.toNat_ofNat, Nat.mod_eq_of_lt (by omega)]

theorem packsA : Packs packA opAField where
  opcode _ _ h := opcodeField_ofNat h _ _
  field_pack := opAField_packA
  pack_field _ _ h := packWord_of_low h (by
    simp only [opAField]
    repeat rw [BitVec.extractLsb'_append_extractLsb'_eq_extractLsb' (by rfl)])

theorem packsB : Packs packB opBField where
  opcode _ _ h := opcodeField_ofNat h _ _
  field_pack := opBField_packB
  pack_field _ _ h := packWord_of_low h (by
    simp only [opBField]
    repeat rw [BitVec.extractLsb'_append_extractLsb'_eq_extractLsb' (by rfl)])

theorem packsC : Packs packC opCField where
  opcode _ _ h := opcodeField_ofNat h _ _
  field_pack := opCField_packC
  pack_field _ _ h := packWord_of_low h (by
    simp only [opCField]
    rw [BitVec.extractLsb'_append_extractLsb'_eq_extractLsb' (by rfl)])

theorem packsJ : Packs packJ opJField where
  opcode _ _ h := opcodeField_ofNat h _ _
  field_pack := opJField_packJ
  pack_field _ _ h := packWord_of_low h rfl

theorem packsM : Packs packM opMField where
  opcode _ _ h := opcodeField_ofNat h _ _
  field_pack := opMField_packM
  pack_field _ _ h := packWord_of_low h (by
    simp only [opMField]
    repeat rw [BitVec.extractLsb'_append_extractLsb'_eq_extractLsb' (by rfl)])

/-! ### The tables of opcodes -/

/-- A table of one word's instructions: its opcodes have no other meaning and `encode` packs its instructions under them. -/
structure TableOf {α : Type} (pack : Nat → α → DWord) (t : List (Nat × (α → Instr))) : Prop where
  opcode : ∀ p ∈ t, p.1 < 0x1FF ∧ p.1 ≠ 0x166 ∧ inlineCount p.1 = 0
  encodes : ∀ p ∈ t, ∀ o, encode (p.2 o) = [pack p.1 o] ∧ inlineWords (p.2 o) = 0

theorem mem_of_lookup {β : Type} {t : List (Nat × β)} {op : Nat} {f : β} (h : t.lookup op = some f) : (op, f) ∈ t := by
  obtain ⟨l, r, rfl, -⟩ := List.lookup_eq_some_iff.1 h
  simp

theorem TableOf.nil {α : Type} {pack : Nat → α → DWord} : TableOf pack [] := ⟨by simp, by simp⟩

theorem TableOf.cons {α : Type} {pack : Nat → α → DWord} {op : Nat} {f : α → Instr} {t : List (Nat × (α → Instr))}
    (ho : op < 0x1FF ∧ op ≠ 0x166 ∧ inlineCount op = 0) (he : ∀ o, encode (f o) = [pack op o] ∧ inlineWords (f o) = 0)
    (ht : TableOf pack t) : TableOf pack ((op, f) :: t) where
  opcode := List.forall_mem_cons.2 ⟨ho, ht.opcode⟩
  encodes := List.forall_mem_cons.2 ⟨he, ht.encodes⟩

theorem tableOf_opcodesA : TableOf packA opcodesA := by
  repeat refine .cons (by decide) (fun _ => ⟨rfl, rfl⟩) ?_
  exact .nil

theorem tableOf_opcodesM : TableOf packM opcodesM := by
  repeat refine .cons (by decide) (fun _ => ⟨rfl, rfl⟩) ?_
  exact .nil

theorem tableOf_opcodesB : TableOf packB opcodesB := by
  repeat refine .cons (by decide) (fun _ => ⟨rfl, rfl⟩) ?_
  exact .nil

theorem tableOf_opcodesJ : TableOf packJ opcodesJ := by
  repeat refine .cons (by decide) (fun _ => ⟨rfl, rfl⟩) ?_
  exact .nil

theorem tableOf_opcodesC : TableOf packC opcodesC := by
  repeat refine .cons (by decide) (fun _ => ⟨rfl, rfl⟩) ?_
  exact .nil

/-- The instruction that the tables give a word under an opcode. -/
def tableInstr (op : Nat) (w : DWord) : Option Instr :=
  (((((opcodesA.lookup op).map (· (opAField w))).or ((opcodesM.lookup op).map (· (opMField w)))).or
    ((opcodesB.lookup op).map (· (opBField w)))).or ((opcodesJ.lookup op).map (· (opJField w)))).or
    ((opcodesC.lookup op).map (· (opCField w)))

theorem Packs.encode_of_lookup {α : Type} {pack : Nat → α → DWord} {field : DWord → α} {t : List (Nat × (α → Instr))} {w : DWord}
    {i : Instr} (p : Packs pack field) (ht : TableOf pack t)
    (h : (t.lookup (opcodeField w).toNat).map (· (field w)) = some i) : encode i = [w] ∧ inlineWords i = 0 := by
  obtain ⟨f, hf, rfl⟩ := Option.map_eq_some_iff.1 h
  simpa [p.pack_field w _ rfl] using ht.encodes _ (mem_of_lookup hf) (field w)

/-- The instruction of a table stands for its word. -/
theorem encode_of_tableInstr {w : DWord} {i : Instr} (h : tableInstr (opcodeField w).toNat w = some i) :
    encode i = [w] ∧ inlineWords i = 0 := by
  simp only [tableInstr, Option.or_eq_some_iff] at h
  obtain (((h | ⟨-, h⟩) | ⟨-, h⟩) | ⟨-, h⟩) | ⟨-, h⟩ := h
  · exact packsA.encode_of_lookup tableOf_opcodesA h
  · exact packsM.encode_of_lookup tableOf_opcodesM h
  · exact packsB.encode_of_lookup tableOf_opcodesB h
  · exact packsJ.encode_of_lookup tableOf_opcodesJ h
  · exact packsC.encode_of_lookup tableOf_opcodesC h

/-! ### What `decode` does with a word, by its opcode -/

/-- An opcode of no header, no HMOV and no inline words is looked up in the tables. -/
theorem decode_of_tableInstr {w : DWord} (ws : List DWord) (h : (opcodeField w).toNat ≠ 0x1FF ∧ (opcodeField w).toNat ≠ 0x166 ∧
    inlineCount (opcodeField w).toNat = 0) :
    decode (w :: ws) = .ok ((tableInstr (opcodeField w).toNat w).getD (.unimplementedOpcode (opUField w)), ws) := by
  obtain ⟨h1, h2, h3⟩ := h
  simp only [decode, h1, h2, h3, if_false, ne_eq, not_true_eq_false, tableInstr]
  cases opcodesA.lookup (opcodeField w).toNat with
  | some f => rfl
  | none =>
    cases opcodesM.lookup (opcodeField w).toNat with
    | some f => rfl
    | none =>
      cases opcodesB.lookup (opcodeField w).toNat with
      | some f => rfl
      | none =>
        cases opcodesJ.lookup (opcodeField w).toNat with
        | some f => rfl
        | none => cases opcodesC.lookup (opcodeField w).toNat <;> rfl

theorem decode_of_hmov {w : DWord} (ws : List DWord) (h : (opcodeField w).toNat = 0x166) :
    decode (w :: ws) = (hmovForm (opAField w)).elim (.error .modifier) fun i => .ok (i, ws) := by
  simp only [decode, h, if_true]
  cases hmovForm (opAField w) <;> rfl

theorem decode_of_inline {w : DWord} (ws : List DWord) (h : inlineCount (opcodeField w).toNat ≠ 0) :
    decode (w :: ws) = decodeX (opcodeField w).toNat w ws := by
  have h1 : (opcodeField w).toNat ≠ 0x1FF := fun e => h (by rw [e]; rfl)
  have h2 : (opcodeField w).toNat ≠ 0x166 := fun e => h (by rw [e]; rfl)
  simp [decode, h, h1, h2]

/-! ### From an instruction to its words and back -/

theorem Packs.decode_pack {α : Type} {pack : Nat → α → DWord} {field : DWord → α} {op : Nat} {f : α → Instr} (p : Packs pack field)
    (ho : op < 0x1FF ∧ op ≠ 0x166 ∧ inlineCount op = 0) (h : ∀ w, tableInstr op w = some (f (field w))) (o : α) (ws : List DWord) :
    decode (pack op o :: ws) = .ok (f o, ws) := by
  obtain ⟨hlt, hmov, hin⟩ := ho
  have hop := p.opcode op o hlt
  rw [decode_of_tableInstr ws (by rw [hop]; exact ⟨hlt.ne, hmov, hin⟩), hop, h, p.field_pack]
  rfl

theorem hmov_decode {o : OpA} {i : Instr} (h : hmovForm o = some i) (ws : List DWord) : decode (packA 0x166 o :: ws) = .ok (i, ws) := by
  rw [decode_of_hmov ws (packsA.opcode _ o (by decide)), packsA.field_pack, h]
  rfl

theorem inline_decode {op : Nat} (o : OpA) (ws : List DWord) (h : op < 0x1FF ∧ inlineCount op ≠ 0) :
    decode (packA op o :: ws) = decodeX op (packA op o) ws := by
  have hop := packsA.opcode op o h.1
  rw [decode_of_inline ws (by rw [hop]; exact h.2), hop]

theorem unimplementedOpcode_decode {o : OpU} (h : (Instr.unimplementedOpcode o).formOk = true) (ws : List DWord) :
    decode (packWord o.op o.h o.low :: ws) = .ok (.unimplementedOpcode o, ws) := by
  simp only [Instr.formOk, assigned, Bool.and_eq_true, Bool.not_eq_true', Bool.or_eq_false_iff, Option.isSome_eq_false_iff,
    Option.isNone_iff_eq_none, bne_iff_ne, beq_eq_false_iff_ne, bne_eq_false_iff_eq] at h
  obtain ⟨⟨⟨⟨⟨⟨⟨hA, hB⟩, hC⟩, hJ⟩, hM⟩, hmov⟩, hin⟩, hlast⟩ := h
  rw [decode_of_tableInstr ws (by rw [opcodeField_packWord]; exact ⟨hlast, hmov, hin⟩), opcodeField_packWord, opUField_packWord]
  simp [tableInstr, hA, hB, hC, hJ, hM]

theorem decode_encode {i : Instr} (hi : WellFormed i) (ws : List DWord) : encode i ≠ [] ∧ decode (encode i ++ ws) = .ok (i, ws) := by
  obtain ⟨hf, -, -⟩ := hi
  cases i with
  | mov o | iadd o | iadd3 o | isub o | imul o | imulh o | imad o | imadw o | idiv o | irem o | imin o | imax o | iabs o | ineg o
  | and o | or o | xor o | andn o | not o | shl o | shr o | sar o | rot o | fshl o | bfx o | bfi o | popc o | clz o | brev o | sel o
  | isetp o | plop o | lea o | nadd o | fadd o | fsub o | fmul o | ffma o | fmin o | fmax o | fsetp o | fclass o | frnd o | fexp o
  | fldexp o | frcp o | frsq o | fsqrt o | ex2 o | lg2 o | sin o | cos o | f2i o | i2f o | f2f o | cvtq o | cvtx o | prmt o | hadd2 o
  | hmul2 o | hfma2 o | vadd2 o | vsub2 o | vmax2 o | vmin2 o | acs2 o | shfl o | vote o | redx o | umov o | elect o | ovclr o | brx o
  | callx o | ret o | exit o | yield o | nop o | atomGlobal o | atomScratchpad o | atomCasB128 o | redGlobal o | redScratchpad o
  | fence o | bar o | barbInit o | barbArrive o | barbWait o | qpush o | qpop o | qtry o | ckpt o | htest o | hcancel o | qfence o
  | qbind o | qfree o | mmaBf16 o | mmaF16 o | mmaE4m3 o | mmaE5m2 o | mmaE3m2 o | mmaE2m3 o | mmaE2m1 o | mmaE4m3Qn4 o | mmaE2m1Qn4 o
  | mmasBf16 o | mmasF16 o | mmasE4m3 o | mmasE5m2 o | mmasE2m1 o | accld o | accst o | accz o | scacc o | unsub o | subsync o
  | launch o | tready o | sret o | hret o | tlbi o | gridend o | ebreak o | illegal o =>
    exact ⟨List.cons_ne_nil _ _, packsA.decode_pack (by decide) (fun _ => rfl) o ws⟩
  | movh o | iaddImmediate o | imulImmediate o | andImmediate o | orImmediate o | xorImmediate o | isetpImmediate o | sread o
  | swrite o | pread o | pwrite o =>
    exact ⟨List.cons_ne_nil _ _, packsB.decode_pack (by decide) (fun _ => rfl) o ws⟩
  | movi o | sysc o | hcall o =>
    exact ⟨List.cons_ne_nil _ _, packsC.decode_pack (by decide) (fun _ => rfl) o ws⟩
  | bra o | brp o | bru o | call o =>
    exact ⟨List.cons_ne_nil _ _, packsJ.decode_pack (by decide) (fun _ => rfl) o ws⟩
  | ldI8 o | ldN8 o | ldI16 o | ldN16 o | ldB32 o | ldB64 o | ldB128 o | stB8 o | stB16 o | stB32 o | stB64 o | stB128 o | ldsI8 o
  | ldsN8 o | ldsI16 o | ldsN16 o | ldsB32 o | ldsB64 o | ldsB128 o | stsB8 o | stsB16 o | stsB32 o | stsB64 o | stsB128 o | ldwB32 o
  | ldwB64 o | ldwB128 o | pref o | waitm o =>
    exact ⟨List.cons_ne_nil _ _, packsM.decode_pack (by decide) (fun _ => rfl) o ws⟩
  | hmovH o | hmovS o | hmovC o | hmovA o => exact ⟨List.cons_ne_nil _ _, hmov_decode (by simp_all [Instr.formOk, hmovForm]) ws⟩
  | copy x | tcopy x | tcopyPeer x | fill x | subscribe x =>
    refine ⟨List.cons_ne_nil _ _, (inline_decode x.op _ (by decide)).trans ?_⟩
    simp only [decodeX, packsA.field_pack]
    rfl
  | unimplementedOpcode o => exact ⟨List.cons_ne_nil _ _, unimplementedOpcode_decode hf ws⟩
  | _ => cases hf

theorem decode_header {w : DWord} (ws : List DWord) (h : (opcodeField w).toNat = 0x1FF) : decode (w :: ws) = .error .header := by
  simp [decode, h]

theorem encode_of_hmovForm {o : OpA} {i : Instr} (h : hmovForm o = some i) : encode i = [packA 0x166 o] ∧ inlineWords i = 0 := by
  simp only [hmovForm] at h
  split_ifs at h <;> cases h <;> exact ⟨rfl, rfl⟩

/-- What a word of format X and the words behind it decode to is encoded by them. -/
theorem encode_of_decodeX {w : DWord} {ws rest : List DWord} {i : Instr} (hop : inlineCount (opcodeField w).toNat ≠ 0)
    (h : decodeX (opcodeField w).toNat w ws = .ok (i, rest)) : encode i ++ rest = w :: ws ∧ (encode i).length = 1 + inlineWords i := by
  have hw {op : Nat} (h : (opcodeField w).toNat = op) : packA op (opAField w) = w := packsA.pack_field w op h
  simp only [decodeX] at h
  split_ifs at h with h0 h3 h1 h2
  · obtain _ | ⟨w0, r⟩ := ws <;> cases h
    exact ⟨congrArg (· :: _) (hw h0), rfl⟩
  · obtain _ | ⟨w0, r⟩ := ws <;> cases h
    exact ⟨congrArg (· :: _) (hw h3), rfl⟩
  · obtain _ | ⟨w0, _ | ⟨w1, _ | ⟨w2, _ | ⟨w3, r⟩⟩⟩⟩ := ws <;> cases h
    exact ⟨congrArg (· :: _) (hw h1), rfl⟩
  · obtain _ | ⟨w0, _ | ⟨w1, _ | ⟨w2, _ | ⟨w3, r⟩⟩⟩⟩ := ws <;> cases h
    exact ⟨congrArg (· :: _) (hw h2), rfl⟩
  · have h4 : (opcodeField w).toNat = 0x1A0 := by
      simp only [inlineCount] at hop
      split_ifs at hop <;> omega
    obtain _ | ⟨w0, _ | ⟨w1, r⟩⟩ := ws <;> cases h
    exact ⟨congrArg (· :: _) (hw h4), rfl⟩

theorem encode_unimplementedOpcode (w : DWord) : encode (.unimplementedOpcode (opUField w)) = [w] :=
  congrArg (· :: []) (packWord_fields w)

theorem encode_of_decode {ws rest : List DWord} {i : Instr} (h : decode ws = .ok (i, rest)) :
    encode i ++ rest = ws ∧ (encode i).length = 1 + inlineWords i := by
  obtain _ | ⟨w, ws⟩ := ws
  · cases h
  by_cases hhead : (opcodeField w).toNat = 0x1FF
  · rw [decode_header ws hhead] at h
    cases h
  by_cases hmov : (opcodeField w).toNat = 0x166
  · rw [decode_of_hmov ws hmov] at h
    cases hf : hmovForm (opAField w) with
    | none => rw [hf] at h; cases h
    | some j =>
      rw [hf] at h
      cases h
      obtain ⟨he, hn⟩ := encode_of_hmovForm hf
      simp [he, hn, packsA.pack_field w _ hmov]
  by_cases hin : inlineCount (opcodeField w).toNat = 0
  · rw [decode_of_tableInstr ws ⟨hhead, hmov, hin⟩] at h
    cases ht : tableInstr (opcodeField w).toNat w with
    | none =>
      rw [ht] at h
      cases h
      simp [encode_unimplementedOpcode, inlineWords]
    | some j =>
      rw [ht] at h
      cases h
      obtain ⟨he, hn⟩ := encode_of_tableInstr ht
      simp [he, hn]
  · rw [decode_of_inline ws hin] at h
    exact encode_of_decodeX hin h

/-- Settles O8: `decode` inverts `encode` instruction by instruction, each through the format of its words, and what a table gives a word
is encoded by that word. -/
theorem decodeOfEncode : Obligations.DecodeOfEncode :=
  ⟨fun _ ws hi => decode_encode hi ws, fun _ _ _ h => encode_of_decode h⟩

/-- Settles O7, each word by its opcode's entry. -/
theorem sampleWordsDecode : Obligations.SampleWordsDecode := by
  unfold Obligations.SampleWordsDecode
  decide

end Sys2Proof.Machine

namespace Sys2Proof.Machine

/-! ## What a chosen split fetches (O9) -/

/-- The words from an address on, where each translates. -/
theorem State.fetchWords_eq {s : State} {core : Nat} {g : Grid} {m : Mode} {ws : List DWord} {a : DWord}
    (h : ∀ k (hk : k < ws.length), s.codeWord core g m (a + BitVec.ofNat 64 (8 * k)) = .ok ws[k]) :
    s.fetchWords core g m a ws.length = ws := by
  induction ws generalizing a with
  | nil => rfl
  | cons w ws ih =>
    have h0 : s.codeWord core g m a = .ok w := by
      have h0 := h 0 (by simp)
      rw [Nat.mul_zero, BitVec.add_zero] at h0
      exact h0
    have hs : s.fetchWords core g m (a + 8) ws.length = ws := ih fun k hk => by
      have hk' := h (k + 1) (by simpa using hk)
      rw [Nat.mul_succ, Nat.add_comm, BitVec.ofNat_add, ← BitVec.add_assoc] at hk'
      exact hk'
    simp only [List.length_cons, State.fetchWords, h0, hs]

/-- A block that reaches past `n` inline words at `pc` has room for them. -/
theorem inline_room {pc e : DWord} {n : Nat} (h : e = 0 ∨ pc.toNat + 8 * (1 + n) ≤ e.toNat) :
    ¬ (if (e == 0) = true then n else (e - pc).toNat / 8 - 1) < n := by
  split
  · exact Nat.lt_irrefl _
  · next he =>
    have hle : pc.toNat + 8 * (1 + n) ≤ e.toNat := h.resolve_left (by simpa using he)
    rw [BitVec.toNat_sub_of_le (by rw [BitVec.le_def]; omega)]
    omega

section
variable {s : State} {r : SRef} {g : Grid} {c : Cohort} {sp : Split}
  (hg : s.grid? r.c.b.grid = some g) (hc : s.cohort? r.c = some c) (hp : s.split? r = some sp)
include hg hc hp

theorem State.fetched_of_miss (h : (s.fetchMiss r).isSome = true ∨ (s.fetchLine r).isSome = true) : s.fetched r = .gone := by
  simp [State.fetched, hg, hc, hp, h]

theorem State.fetched_of_entering (hm : s.fetchMiss r = none) (hl : s.fetchLine r = none) (he : sp.entering = true) :
    s.fetched r = .fault := by
  simp [State.fetched, hg, hc, hp, hm, hl, he]

theorem State.fetched_of_error (hm : s.fetchMiss r = none) (hl : s.fetchLine r = none) (he : sp.entering = false) {f : XFault}
    (hw : s.codeWord c.core g sp.mode sp.pc = .error f) : s.fetched r = .fault := by
  simp [State.fetched, hg, hc, hp, hm, hl, he, hw]

/-- Words that translate and lie in the block are decoded. -/
theorem State.fetched_of_words (hm : s.fetchMiss r = none) (hl : s.fetchLine r = none) (he : sp.entering = false) {w : DWord}
    {ws : List DWord} (hw : s.codeWord c.core g sp.mode sp.pc = .ok w) (hn : ws.length = inlineCount (opcodeField w).toNat)
    (hws : ∀ k (hk : k < ws.length), s.codeWord c.core g sp.mode (sp.pc + 8 + BitVec.ofNat 64 (8 * k)) = .ok ws[k])
    (hr : sp.blkEnd = 0 ∨ sp.pc.toNat + 8 * (1 + ws.length) ≤ sp.blkEnd.toNat) :
    (∀ i, decode (w :: ws) = .ok (i, []) → s.fetched r = .instr i ((hdr? i).getD (hdrField w))) ∧
      ∀ e, decode (w :: ws) = .error e → s.fetched r = .bad w := by
  have hroom := inline_room hr
  have hfetch := State.fetchWords_eq hws
  constructor <;> intro _ hd <;>
    simp only [State.fetched, hg, hc, hp, hm, hl, he, hw, ← hn, hroom, hfetch, hd, Option.isSome_none, Bool.or_self, Bool.false_eq_true,
      if_false, Nat.lt_irrefl]

end

/-- A step whose chosen split comes before the suspended ones of its cohort is its issue. -/
theorem step_of_chosen {s : State} {r : SRef} {rest : List SRef} (ha : s.agenda = []) (hs : s.selected = r :: rest)
    (hb : s.beforeChosen r = none) : step s = issueStep r s := by
  simp only [step, ha, innerStep, hs, hb]

/-- Settles O9: a step of a chosen split issues what it fetches, which is one of `gone`, a fault, or the decoded words. -/
theorem stepRunsDecodedInstruction : Obligations.StepRunsDecodedInstruction := by
  intro s r rest g c sp w ws ha hs hg hc hp hb word
  have hstep := step_of_chosen ha hs hb
  have word0 : word 0 = s.codeWord c.core g sp.mode sp.pc := by simp [word]
  have wordSucc (k : Nat) : word (k + 1) = s.codeWord c.core g sp.mode (sp.pc + 8 + BitVec.ofNat 64 (8 * k)) := by
    simp only [word]
    rw [Nat.mul_succ, Nat.add_comm, BitVec.ofNat_add, ← BitVec.add_assoc]
    rfl
  rw [hstep, issueStep]
  refine ⟨fun h => ?_, fun hm hl => ⟨fun he => ?_, fun f he hw => ?_, fun he hw hn hws hr => ?_⟩⟩
  · rw [State.fetched_of_miss hg hc hp h, hs]
    rfl
  · rw [State.fetched_of_entering hg hc hp hm hl he]
  · rw [State.fetched_of_error hg hc hp hm hl he (word0 ▸ hw)]
  · obtain ⟨decoded, bad⟩ :=
      State.fetched_of_words hg hc hp hm hl he (word0 ▸ hw) hn (fun k hk => wordSucc k ▸ hws k hk) hr
    exact ⟨fun i h hd _ => by rw [decoded i hd], fun e hd => by rw [bad e hd]⟩

end Sys2Proof.Machine

namespace Sys2Proof.Machine

/-! ## A register table that lists one register twice (O6) -/

/-- The fields of an instruction without waits, guard or flag. -/
def plainHdr : Hdr := ⟨0, 0, 15, 7⟩

/-- A NOP of these fields. -/
def plainNop : Instr := .nop ⟨plainHdr, 0, 0, 0, 0⟩

/-- A result 0 for v0 in lane 0, visible at once. -/
def zeroOwed : Pend :=
  { uid := 0, reg := .vec 0, lanes := 1, vals := [], bits := 0, due := some 0, flag := 15, landed := false }

/-- The placed cohort (log 10) with a register table that is not in canonical form: it lists lane 0 of v0 twice. -/
def twiceListed : Cohort :=
  { id := 1, threads := 0xFFFFFFFF, splits := [placedSplit 0], vregs := [(0, 5), (0, 7)], pend := [zeroOwed] }

/-- The placed grid and this cohort, whose split has been chosen. -/
def twiceListedState : State :=
  { cycle := 8, grids := [placedGrid], blocks := [{ ref := ⟨1, 0⟩, cohorts := [twiceListed] }], selected := [⟨⟨⟨1, 0⟩, 1⟩, 1⟩] }

/-- Refutes O6: the statement asks nothing of the register table. Where it lists a lane of a register twice, the write of a visible 0 takes
one entry away, and the other is read: 7, where the latest visible result is 0. -/
theorem not_readsSeeWhatIsVisible : ¬ Obligations.ReadsSeeWhatIsVisible := by
  intro h
  have read := (h plainNop plainHdr twiceListedState _ twiceListed (placedSplit 0) _ rfl rfl rfl rfl (List.pairwise_singleton _ _)
    0 0 (by decide)).1 0 (by decide)
  revert read
  decide

end Sys2Proof.Machine

namespace Sys2Proof.Machine

/-! ## A uniform register that the register table lists twice (O51) -/

/-- A uniform result 0 for sreg 0, owed by instruction 1 to no lane any more. -/
def uniformZeroOwed : Pend :=
  { uid := 1, reg := .uni 0, lanes := 0, vals := [], bits := 0xFFFFFFFF, due := some 0, flag := 15, landed := false }

/-- The placed cohort (log 10) with a uniform register table that is not in canonical form: it lists sreg 0 twice. -/
def twiceListedUniform : Cohort :=
  { id := 1, threads := 0xFFFFFFFF, splits := [placedSplit 0], sregs := [(0, 5), (0, 7)], pend := [uniformZeroOwed] }

/-- The placed grid and this cohort, and the latency of the instruction that owes the result is over. -/
def twiceListedUniformState : State :=
  { cycle := 8, grids := [placedGrid], blocks := [{ ref := ⟨1, 0⟩, cohorts := [twiceListedUniform] }]
    issued := [{ uid := 1, c := ⟨⟨1, 0⟩, 1⟩, split := 1, lanes := 1, flag := none, fin := .latency 0 }] }

/-- Refutes O51: where an instruction's latency ends, the statement asks the canonical form of the cohort's flags alone. Where the uniform
register table lists a register twice, the write of a result 0 takes one entry away, and the other is read: 7, where the result is 0. -/
theorem not_issueStageChoosesAndEnds : ¬ Obligations.IssueStageChoosesAndEnds := by
  intro h
  obtain ⟨-, -, -, -, -, ends, -⟩ := h twiceListedUniformState (List.pairwise_singleton _ _)
    (by decide) (by decide)
  obtain ⟨t, ht, -, -, hc⟩ := ends (List.pairwise_singleton _ _)
  obtain ⟨d, hd, ⟨-, -, value, -⟩, -⟩ := hc ⟨⟨1, 0⟩, 1⟩ twiceListedUniform rfl rfl
  have read := value 0 uniformZeroOwed (by decide) rfl (by decide) rfl (by decide) 0
  cases ht
  cases hd
  revert read
  decide

end Sys2Proof.Machine

namespace Sys2Proof.Machine

/-! ## Two grids of one identifier (O45) -/

/-- A launch of one block of 32 threads at 0x20000, as the registrar has accepted it, by its depkind and the word of its dependence. -/
def queuedLaunch (depkind producer : DWord) : Grid :=
  { id := 2, record := [0x20000 + depkind <<< 56, 0x0001000100000001, 0x0000000100010020, 0, 0, 0, producer, 0], st := .queued }

/-- The grid that the first launch names as its producer. -/
def runningProducer : Grid := { placedGrid with id := 3 }

/-- Page tables for the low 2^27 bytes, an entry header at 0x20000 and the placed descriptor (log 10) after it; the running producer, a
launch that depends on it, and a second one of the same identifier that depends on none. -/
def twinLaunches : State :=
  ((((({ cycle := 8, grids := [runningProducer, queuedLaunch 2 3, queuedLaunch 0 0] } : State).writeRun 0
    (leBytes 8 0x8001)).writeRun 0x8000 (leBytes 8 0xFB)).writeRun 0x20000 (leBytes 8 0xFF80800000040000)).writeRun 0x20008
    (leBytes 8 placedDesc.toNat))

/-- The states of the grids after the first launch's entry to dispatch: the second one's release has let both run. -/
theorem twinLaunches_run :
    (match exec (.dispatchEntry 2) twinLaunches with
     | .next t => t.grids.map (·.st)
     | _ => []) = [.running, .running, .running] := by
  decide +kernel

/-- The first launch reads its header and its descriptor, and no manifest; the banks serve its reads. -/
theorem twinLaunches_reads :
    twinLaunches.entryWord (queuedLaunch 2 3) (queuedLaunch 2 3).entry = .ok 0xFF80800000040000 ∧
    twinLaunches.entryWord (queuedLaunch 2 3) ((queuedLaunch 2 3).entry + 8) = .ok placedDesc ∧
    twinLaunches.manifest (queuedLaunch 2 3) = .ok (some []) ∧
    twinLaunches.regReady (twinLaunches.launchReads (queuedLaunch 2 3)) = true := by
  decide +kernel

/-- Refutes O45: the statement does not ask that identifiers of grids differ. Where a second launch has the identifier of one that waits
for its producer, the release of the second lets the first run too, where the statement has it wait. -/
theorem not_launchesEnterDispatch : ¬ Obligations.LaunchesEnterDispatch := by
  intro h
  obtain ⟨-, -, -, -, dispatch, -⟩ := h
  obtain ⟨header, desc, manifest, ready⟩ := twinLaunches_reads
  obtain ⟨-, enter⟩ := dispatch twinLaunches (queuedLaunch 2 3) rfl rfl (by decide +kernel) (by intro b hb; cases hb)
  obtain ⟨-, checks⟩ := enter (by unfold twinLaunches; decide +kernel) (by decide +kernel) ready (by decide +kernel)
  obtain ⟨-, -, -, outcome⟩ := checks _ header
  obtain ⟨-, waits, -⟩ := outcome _ _ rfl manifest (by decide +kernel) desc
  obtain ⟨t, ht, hs⟩ := waits ⟨by decide +kernel, by simp, fun a => absurd a.1 (by decide +kernel), by decide +kernel, by decide +kernel⟩
    (.inl ⟨rfl, runningProducer, rfl, by decide⟩)
  have run := twinLaunches_run
  change exec (.dispatchEntry 2) twinLaunches = _ at ht
  rw [ht] at run
  have waiting : t.grids.map (·.st) = [.running, .awaiting, .awaiting] := by rw [hs]; rfl
  exact absurd (run.symm.trans waiting) (by decide)

end Sys2Proof.Machine

namespace Sys2Proof.Machine

/-! ## A state with one cohort put in the place of another -/

/-- Where a search finds an element, it finds what the element has been changed to, if it still fits. -/
theorem find?_map_found {α : Type} {p : α → Bool} {f : α → α} {a : α} :
    ∀ {l : List α}, l.find? p = some a → p (f a) = true → (l.map fun x => if p x then f x else x).find? p = some (f a)
  | x :: l, h, hf => by
    by_cases hx : p x = true
    · obtain rfl : x = a := by simpa [List.find?_cons, hx] using h
      simp [hx, hf]
    · rw [List.find?_cons_of_neg hx] at h
      simp [hx, find?_map_found h hf]

/-- Where names differ, an element that a search by its name finds is the only one of that name. -/
theorem eq_of_find?_name {α β : Type} [BEq β] [LawfulBEq β] {n : α → β} {k : β} {l : List α} (hn : (l.map n).Nodup) {a x : α}
    (h : (l.find? fun y => n y == k) = some a) (hx : x ∈ l) (hk : n x = k) : x = a :=
  List.inj_on_of_nodup_map hn hx (List.mem_of_find?_eq_some h) (hk.trans (Eq.symm (by simpa using List.find?_some h)))

theorem State.cohort?_id {s : State} {cr : CRef} {c : Cohort} (h : s.cohort? cr = some c) : c.id = cr.cohort := by
  obtain ⟨b, -, hc⟩ := Option.bind_eq_some_iff.1 h
  simpa using List.find?_some hc

theorem State.cohort?_modCohort {s : State} {cr : CRef} {c : Cohort} {f : Cohort → Cohort} (h : s.cohort? cr = some c)
    (hf : (f c).id = cr.cohort) : (s.modCohort cr f).cohort? cr = some (f c) := by
  obtain ⟨b, hb, hc⟩ := Option.bind_eq_some_iff.1 h
  have hb' : (s.modCohort cr f).block? cr.b = some (b.modCohort cr.cohort f) :=
    find?_map_found hb (by simpa using List.find?_some hb)
  have hc' : (b.modCohort cr.cohort f).cohort? cr.cohort = some (f c) := find?_map_found hc (by simpa using hf)
  unfold State.cohort?
  rw [hb']
  exact hc'

/-- Where names differ, changing a cohort is putting the changed one in its place. -/
theorem State.modCohort_const {s : State} {cr : CRef} {b : Block} {c : Cohort} (hr : (s.blocks.map (·.ref)).Nodup)
    (hi : (b.cohorts.map (·.id)).Nodup) (hb : s.block? cr.b = some b) (hc : s.cohort? cr = some c) (f : Cohort → Cohort) :
    s.modCohort cr f = s.modCohort cr fun _ => f c := by
  have hc' : b.cohort? cr.cohort = some c := by simpa [State.cohort?, hb] using hc
  unfold State.modCohort State.modBlock
  congr 1
  apply List.map_congr_left
  intro y hy
  by_cases hyr : y.ref = cr.b
  · obtain rfl := eq_of_find?_name hr hb hy hyr
    simp only [hyr, beq_self_eq_true, if_true, Block.modCohort]
    congr 1
    apply List.map_congr_left
    intro z hz
    by_cases hzi : z.id = cr.cohort
    · rw [eq_of_find?_name hi hc' hz hzi]
    · simp [hzi]
  · simp [hyr]

/-! ## Entering a block (R39, R40, R185) -/

/-- The word of a header that may be entered is at hand. -/
structure Enters (s : State) (c : Cohort) (g : Grid) (m : Mode) (a w : DWord) : Prop where
  mapped : s.codeMiss c.core g m a = false
  cached : s.codeLine c.core g m a = none
  word : s.codeWord c.core g m a = .ok w
  header : isHeader w = true
  inner : hdrEntry w = false
  good : headerBad g w = false

theorem Enters.headerAt {s : State} {c : Cohort} {g : Grid} {p : Split} {w : DWord} (h : Enters s c g p.mode p.pc w) :
    s.headerAt c g p = some w := by
  simp [State.headerAt, h.mapped, h.cached, h.word]

theorem Enters.headerTrap {s : State} {c : Cohort} {g : Grid} {p : Split} {w : DWord} (h : Enters s c g p.mode p.pc w) :
    s.headerTrap c g p w = none := by
  simp [State.headerTrap, h.header, h.inner, h.good]

/-- The part of a split that a division may send off stands at no header of its own: it is neither spawned nor formed. -/
structure Stands (s : State) (r : SRef) (c : Cohort) (g : Grid) (p : Split) : Prop where
  cohort : s.cohort? r.c = some c
  split : c.split? r.split = some p
  grid : s.grid? r.c.b.grid = some g
  spawn : p.spawn = none
  joined : p.joined = none

theorem Stands.split? {s : State} {r : SRef} {c : Cohort} {g : Grid} {p : Split} (h : Stands s r c g p) : s.split? r = some p := by
  simp [State.split?, h.cohort, h.split]

/-- A split that has entered the block whose header word `w` lies at `a`. -/
def Split.inBlock (p : Split) (a w : DWord) : Split :=
  { p with pc := a + 8, header := a, blkEnd := a + BitVec.ofNat 64 (8 * (1 + hdrLength w)), blkReconv := reconvOf a w,
           parked := none, entering := false }

/-- A split that enters a block at another header than its reconvergence header runs on in it. -/
theorem enterBlock_enters {s : State} {r : SRef} {c : Cohort} {g : Grid} {p : Split} {w : DWord} (h : Stands s r c g p)
    (hw : Enters s c g p.mode p.pc w) (hs : hdrSpawn w = false) (hr : p.reconv ≠ p.pc ∨ p.reconv = 0) :
    s.enterBlock r = s.modSplit r fun q => { q.inBlock p.pc w with joined := none } := by
  have hno : (p.reconv != 0 && p.pc == p.reconv) = false := by
    rcases hr with hr | hr
    · simp [Ne.symm hr]
    · simp [hr]
  unfold State.enterBlock
  simp only [h.cohort, h.split?, h.grid, Split.isSpawning, h.spawn, h.joined, hno, Option.isSome_none, Bool.false_eq_true, if_false]
  unfold State.enterHeader
  simp only [h.cohort, h.split?, h.grid, hw.headerAt, hw.headerTrap, State.enterAt, hs, Bool.false_and, Bool.false_eq_true, if_false]
  rfl

/-- A split that arrives at its reconvergence header parks there, and the cohort merges what can merge. -/
theorem enterBlock_parks {s : State} {r : SRef} {c : Cohort} {g : Grid} {p : Split} {w : DWord} (h : Stands s r c g p)
    (hw : Enters s c g p.mode p.pc w) (hr : p.reconv = p.pc) (h0 : p.reconv ≠ 0) :
    s.enterBlock r = (s.modSplit r fun q => { q with parked := some s.cycle, entering := false }).remerge r.c := by
  have hyes : (p.reconv != 0 && p.pc == p.reconv) = true := by simp [hr] ; rw [← hr]; exact h0
  unfold State.enterBlock
  simp only [h.cohort, h.split?, h.grid, Split.isSpawning, h.spawn, h.joined, hyes, Option.isSome_none, Bool.false_eq_true, if_false,
    if_true, hw.headerAt, hw.headerTrap]

/-! ## Division (R184) -/

/-- What a division leaves of the split that the lanes `ls` have left. -/
def Split.remains (p : Split) (ls all : Mask) : Split := { p with lanes := p.lanes &&& ~~~ls, reconv := p.blkReconv, join := all }

/-- The part that the lanes `ls` of a split make, at `pc`. -/
def Split.leaves (p : Split) (id : Nat) (ls all : Mask) (pc : DWord) : Split :=
  { p with id := id, lanes := ls, pc := pc, reconv := p.blkReconv, join := all, hold := none, passed := 0, starved := false
           forced := false, spawn := none }

/-- A cohort after the lanes `ls` have left its split `k` as the split `n`. -/
def Cohort.divided (c : Cohort) (k : Nat) (ls all : Mask) (n : Split) : Cohort :=
  { c with splits := (c.splits.map fun p => if p.id == k then p.remains ls all else p) ++ [n] }

/-- A cohort whose live splits fit the table stays as it is. -/
theorem capTo_fits {cap n : Nat} {c : Cohort} (h : n = 0 ∨ c.liveSplits ≤ cap) : Cohort.capTo cap n c = some c := by
  cases n with
  | zero => rfl
  | succ n => simp [Cohort.capTo, h.resolve_left (Nat.succ_ne_zero n)]

/-- A division whose parts fit the split table changes nothing more. -/
theorem capSplits_fits {v : State} {r : SRef} {c : Cohort} {g : Grid} {n : Nat} {need : Mask} (hid : c.id = r.c.cohort)
    (hc : (v.modCohort r.c fun _ => c).cohort? r.c = some c) (hg : v.grid? r.c.b.grid = some g)
    (h : n = 0 ∨ c.liveSplits ≤ (v.part g.part).scap) :
    (v.modCohort r.c fun _ => c).capSplits r need n = v.modCohort r.c fun _ => c := by
  obtain ⟨b, hb, -⟩ := Option.bind_eq_some_iff.1 hc
  have hg' : (v.modCohort r.c fun _ => c).grid? r.c.b.grid = some g := hg
  have hp : (v.modCohort r.c fun _ => c).part g.part = v.part g.part := rfl
  unfold State.capSplits
  simp only [hb, hc, hg', hp, capTo_fits h]
  exact State.modCohort_twice v r.c c (fun _ => c) hid

/-- A division adds one live split. -/
theorem liveSplits_divided (c : Cohort) (k : Nat) (ls all : Mask) (n : Split) (hn : n.spawn = none) :
    (c.divided k ls all n).liveSplits = c.liveSplits + 1 := by
  have keeps (p : Split) : (if p.id == k then p.remains ls all else p).isSpawning = p.isSpawning := by
    split <;> rfl
  unfold Cohort.liveSplits Cohort.divided
  simp only [List.filter_append, List.filter_map, List.length_append, List.length_map]
  congr 1
  · congr 2
    funext p
    exact congrArg (!·) (keeps p)
  · simp [Split.isSpawning, hn]

/-- Where a division takes place: the split, its cohort, its block and its grid stand, and names of blocks and cohorts differ. -/
structure Divides (s : State) (r : SRef) (c : Cohort) (sp : Split) (g : Grid) (b : Block) : Prop where
  cohort : s.cohort? r.c = some c
  split : s.split? r = some sp
  grid : s.grid? r.c.b.grid = some g
  block : s.block? r.c.b = some b
  refs : (s.blocks.map (·.ref)).Nodup
  ids : (b.cohorts.map (·.id)).Nodup
  spawn : sp.spawn = none
  joined : sp.joined = none

section
variable {s : State} {r : SRef} {c : Cohort} {sp : Split} {g : Grid} {b : Block}

theorem Divides.id (h : Divides s r c sp g b) : c.id = r.c.cohort := State.cohort?_id h.cohort

theorem Divides.split? (h : Divides s r c sp g b) : c.split? r.split = some sp := by simpa [State.split?, h.cohort] using h.split

theorem Divides.modCohort (h : Divides s r c sp g b) (f : Cohort → Cohort) : s.modCohort r.c f = s.modCohort r.c fun _ => f c :=
  State.modCohort_const h.refs h.ids h.block h.cohort f

theorem Divides.bump (h : Divides s r c sp g b) : Divides s.bump r c sp g b :=
  ⟨h.cohort, h.split, h.grid, h.block, h.refs, h.ids, h.spawn, h.joined⟩

/-- Lanes that are the whole split only move: the split enters the block at their target. -/
theorem goTo_whole (h : Divides s r c sp g b) (all : Mask) (target : DWord) :
    goTo s r all [(target, sp.lanes)] = (s.modSplit r fun p => { p with pc := target }).enterBlock r := by
  let d := c.modSplit r.split fun p => { p with pc := target }
  have hd : (s.modSplit r fun p => { p with pc := target }) = s.modCohort r.c fun _ => d := h.modCohort _
  have hcd : (s.modCohort r.c fun _ => d).cohort? r.c = some d := State.cohort?_modCohort h.cohort h.id
  unfold goTo
  simp only [List.foldl_cons, List.foldl_nil, State.part?, h.split, beq_self_eq_true, if_true, List.nil_append, BitVec.zero_or,
    Option.map_some, Option.getD_some, List.length_cons, List.length_nil]
  rw [hd, capSplits_fits (c := d) h.id hcd h.grid (.inl rfl)]

/-- Lanes that leave a split become a split of their own, which enters the block at their target. -/
theorem goTo_part (h : Divides s r c sp g b) (hcap : c.liveSplits < (s.part g.part).scap) {ls : Mask} (hls : ls ≠ sp.lanes)
    (all : Mask) (target : DWord) :
    goTo s r all [(target, ls)] = (s.bump.modCohort r.c fun _ =>
      c.divided r.split ls all (sp.leaves s.fresh ls all target)).enterBlock { r with split := s.fresh } := by
  let n := sp.leaves s.fresh ls all target
  let d := c.divided r.split ls all n
  have hd : (s.bump.modCohort r.c fun c => c.divided r.split ls all n) = s.bump.modCohort r.c fun _ => d := h.bump.modCohort _
  have hcd : (s.bump.modCohort r.c fun _ => d).cohort? r.c = some d := State.cohort?_modCohort h.bump.cohort h.id
  have hno : (ls == sp.lanes) = false := by simpa using hls
  have hlive : d.liveSplits ≤ (s.part g.part).scap := by
    rw [liveSplits_divided _ _ _ _ _ rfl]
    exact hcap
  have capped (need : Mask) (k : Nat) : (s.bump.modCohort r.c fun _ => d).capSplits r need k = s.bump.modCohort r.c fun _ => d :=
    capSplits_fits (v := s.bump) h.id hcd h.grid (.inr hlive)
  unfold goTo
  simp only [List.foldl_cons, List.foldl_nil, State.part?, h.split, hno, Bool.false_eq_true, if_false, List.nil_append, BitVec.zero_or,
    Option.map_some, Option.getD_some, List.length_cons, List.length_nil]
  change ((s.bump.modCohort r.c fun c => c.divided r.split ls all n).capSplits r _ _).enterBlock _ = _
  rw [hd, capped]

end

/-- Where the numbers of splits differ, changing a split is putting the changed one in its place. -/
theorem Cohort.modSplit_const {c : Cohort} {k : Nat} {p : Split} (hn : (c.splits.map (·.id)).Nodup) (hp : c.split? k = some p)
    (f : Split → Split) : c.modSplit k f = c.modSplit k fun _ => f p := by
  unfold Cohort.modSplit
  congr 1
  apply List.map_congr_left
  intro q hq
  by_cases hk : q.id = k
  · rw [eq_of_find?_name hn hp hq hk]
  · simp [hk]

theorem Cohort.modSplit_twice (c : Cohort) (k : Nat) (p : Split) (f : Split → Split) (hp : p.id = k) :
    (c.modSplit k fun _ => p).modSplit k f = c.modSplit k fun _ => f p := by
  unfold Cohort.modSplit
  simp only [List.map_map]
  congr 1
  apply List.map_congr_left
  intro q _
  by_cases hk : q.id = k <;> simp [hk, hp]

/-- Changing the part that has left changes no other split. -/
theorem Cohort.divided_modSplit {c : Cohort} {k : Nat} {ls all : Mask} {n : Split} (hn : ∀ q ∈ c.splits, q.id ≠ n.id)
    (f : Split → Split) : (c.divided k ls all n).modSplit n.id f = c.divided k ls all (f n) := by
  unfold Cohort.modSplit Cohort.divided
  simp only [List.map_append, List.map_map, List.map_cons, List.map_nil, beq_self_eq_true, if_true]
  congr 2
  apply List.map_congr_left
  intro q hq
  by_cases hk : q.id = k
  · have : (q.remains ls all).id ≠ n.id := hn q hq
    simp [hk, this]
  · simp [hk, hn q hq]

theorem Cohort.divided_split? {c : Cohort} {k : Nat} {ls all : Mask} {n : Split} (hn : ∀ q ∈ c.splits, q.id ≠ n.id) :
    (c.divided k ls all n).split? n.id = some n := by
  unfold Cohort.split? Cohort.divided
  rw [List.find?_append]
  have : ((c.splits.map fun p => if p.id == k then p.remains ls all else p).find? fun q => q.id == n.id) = none := by
    rw [List.find?_eq_none]
    intro q hq
    obtain ⟨p, hp, rfl⟩ := List.mem_map.1 hq
    have hid : (if p.id == k then p.remains ls all else p).id = p.id := by split <;> rfl
    rw [hid]
    simpa using hn p hp
  rw [this]
  simp

section
variable {s : State} {r : SRef} {c : Cohort} {sp : Split} {g : Grid} {b : Block} {target w : DWord}

/-- Lanes that are the whole split move into the block at their target. -/
theorem goTo_whole_enters (h : Divides s r c sp g b) (hw : Enters s c g sp.mode target w) (hn : (c.splits.map (·.id)).Nodup)
    (hs : hdrSpawn w = false) (all : Mask) (hne : sp.reconv ≠ target ∨ sp.reconv = 0) :
    goTo s r all [(target, sp.lanes)] = s.modSplit r fun p => p.inBlock target w := by
  have hspid : sp.id = r.split := by simpa using List.find?_some h.split?
  let p : Split := { sp with pc := target }
  let d := c.modSplit r.split fun _ => p
  have hd : (s.modSplit r fun p => { p with pc := target }) = s.modCohort r.c fun _ => d :=
    (h.modCohort _).trans (by rw [Cohort.modSplit_const hn h.split?])
  have stands : Stands (s.modCohort r.c fun _ => d) r d g p :=
    ⟨State.cohort?_modCohort h.cohort h.id, find?_map_found h.split? (by simpa using hspid), h.grid, h.spawn, h.joined⟩
  have enters : Enters (s.modCohort r.c fun _ => d) d g p.mode p.pc w := ⟨hw.mapped, hw.cached, hw.word, hw.header, hw.inner, hw.good⟩
  have same : { p.inBlock target w with joined := none } = sp.inBlock target w := by simp [p, Split.inBlock, h.joined]
  rw [goTo_whole h, hd, enterBlock_enters stands enters hs hne]
  unfold State.modSplit
  rw [State.modCohort_twice s r.c d _ h.id, h.modCohort fun c => c.modSplit r.split fun p => p.inBlock target w]
  congr 1
  funext _
  rw [Cohort.modSplit_const hn h.split?, ← same]
  exact Cohort.modSplit_twice c r.split p _ hspid

/-- Where the lanes `ls` leave as a part, that part stands about to enter the block at its target. -/
theorem goTo_part_stands (h : Divides s r c sp g b) (hw : Enters s c g sp.mode target w) (hfresh : ∀ q ∈ c.splits, q.id ≠ s.fresh)
    (hcap : c.liveSplits < (s.part g.part).scap) {ls : Mask} (all : Mask) (hls : ls ≠ sp.lanes) :
    let n := sp.leaves s.fresh ls all target
    let t := s.bump.modCohort r.c fun _ => c.divided r.split ls all n
    Stands t { r with split := s.fresh } (c.divided r.split ls all n) g n ∧
      Enters t (c.divided r.split ls all n) g n.mode n.pc w ∧ goTo s r all [(target, ls)] = t.enterBlock { r with split := s.fresh } :=
  ⟨⟨State.cohort?_modCohort h.bump.cohort h.id, Cohort.divided_split? hfresh, h.grid, rfl, h.joined⟩,
    ⟨hw.mapped, hw.cached, hw.word, hw.header, hw.inner, hw.good⟩, goTo_part h hcap hls all target⟩

/-- The part is changed where it stands, and the rest of the cohort is that of the division. -/
theorem modSplit_part (h : Divides s r c sp g b) (hfresh : ∀ q ∈ c.splits, q.id ≠ s.fresh) (ls all : Mask) (f : Split → Split) :
    (s.bump.modCohort r.c fun _ => c.divided r.split ls all (sp.leaves s.fresh ls all target)).modSplit { r with split := s.fresh } f =
      s.bump.modCohort r.c fun c => c.divided r.split ls all (f (sp.leaves s.fresh ls all target)) := by
  have hid : (c.divided r.split ls all (sp.leaves s.fresh ls all target)).id = r.c.cohort := h.id
  unfold State.modSplit
  rw [State.modCohort_twice _ _ _ _ hid,
    h.bump.modCohort fun c => c.divided r.split ls all (f (sp.leaves s.fresh ls all target))]
  congr 1
  funext _
  exact Cohort.divided_modSplit hfresh f

end

/-! ## EXIT, YIELD and NOP (R98, R99) -/

theorem Cohort.foldAll_frame (c : Cohort) : c.foldAll = { c with sregs := c.foldAll.sregs, pend := c.foldAll.pend } := by
  have step (d : Cohort) (p : Pend) (hd : d = { c with sregs := d.sregs, pend := d.pend }) :
      (match p.reg with | .uni r => d.foldUni r | _ => d) =
        { c with sregs := (match p.reg with | .uni r => d.foldUni r | _ => d).sregs
                 pend := (match p.reg with | .uni r => d.foldUni r | _ => d).pend } := by
    cases p.reg with
    | uni r => rw [hd]; rfl
    | vec n => exact hd
    | prd n => exact hd
  have all (ps : List Pend) (d : Cohort) (hd : d = { c with sregs := d.sregs, pend := d.pend }) :
      let e := ps.foldl (fun d p => match p.reg with | .uni r => d.foldUni r | _ => d) d
      e = { c with sregs := e.sregs, pend := e.pend } := by
    induction ps generalizing d with
    | nil => exact hd
    | cons p ps ih => exact ih _ (step d p hd)
  exact all c.pend c rfl

/-- Owed results that are dropped change neither the threads of a cohort nor its splits. -/
theorem Cohort.dropOwed_threads (c : Cohort) (ls : Mask) : (c.dropOwed ls).threads = c.threads := by
  unfold Cohort.dropOwed
  rw [Cohort.foldAll_frame]

theorem Cohort.dropOwed_splits (c : Cohort) (ls : Mask) : (c.dropOwed ls).splits = c.splits := by
  unfold Cohort.dropOwed
  rw [Cohort.foldAll_frame]

/-- The cohorts for which a YIELD gives way: those of its quadrant, but for its own, that stand ready. -/
theorem mem_others {x : Ctx} {u : State} {k : Nat} :
    k ∈ (u.blocks.flatMap fun b => (b.cohorts.filter fun c => c.core == x.c.core && c.quad == x.c.quad &&
        (b.ref != x.r.c.b || c.id != x.c.id) && c.readySince.isSome).map (·.slot)) ↔
      ∃ b ∈ u.blocks, ∃ c ∈ b.cohorts, c.core = x.c.core ∧ c.quad = x.c.quad ∧ (b.ref ≠ x.r.c.b ∨ c.id ≠ x.c.id) ∧
        c.readySince.isSome = true ∧ c.slot = k := by
  simp [List.mem_flatMap, and_assoc]

/-- What is left of a cohort after the lanes `ls` of its split `k` have ended their threads. -/
theorem exitLanes_eq (s : State) (r : SRef) (ls : Mask) :
    exitLanes s r ls = ((s.modBlock r.c.b fun b => { b with exited := b.exited + population ls }).modCohort r.c fun c =>
      { c.dropOwed ls with
        threads := c.threads &&& ~~~ls
        splits := (c.splits.map fun p => if p.id = r.split then { p with lanes := p.lanes &&& ~~~ls } else p).filter
          fun p => p.lanes != 0#64 }).remerge r.c := by
  simp only [exitLanes, Cohort.dropOwed_threads, Cohort.dropOwed_splits, beq_iff_eq]

/-- The exit of a block's last thread takes a checkpoint where checkpointing is on (R396). -/
def State.afterExit (s : State) (x : Ctx) : State :=
  if x.g.ckpt && ((s.block? x.r.c.b).map fun b => b.exited == x.g.ntid).getD false then s.askCheckpoint x.r.c.b none else s

theorem State.afterExit_other {s : State} {x : Ctx} (h : x.g.ckpt = false ∨ ∃ b, s.block? x.r.c.b = some b ∧ b.exited ≠ x.g.ntid) :
    s.afterExit x = s := by
  unfold State.afterExit
  rcases h with h | ⟨b, hb, hn⟩
  · simp [h]
  · simp [hb, hn]

theorem State.afterExit_last {s : State} {x : Ctx} {b : Block} (hb : s.block? x.r.c.b = some b) (hg : x.g.ckpt = true)
    (hn : b.exited = x.g.ntid) : s.afterExit x = s.askCheckpoint x.r.c.b none := by
  simp [State.afterExit, hb, hg, hn]

theorem exit_next {o : OpA} {s u : State} {x : Ctx} (h : Issues (.exit o) s x u) (hm : x.sp.mode = .user) :
    exec (.exit o) s = .next ((((freeCohort (exitLanes (x.note u x.ex .complete) x.r x.ex) x.r.c).settleAll).afterExit x).settle x.r) :=
  issueIf_next h (by simp [hm]) rfl _

/-- An instruction that a rule of its own makes illegal raises 0x05 in every executing lane. -/
theorem issueIf_illegal {i : Instr} {s u : State} {x : Ctx} (h : Issues i s x u) {ready ok : Ctx → State → Bool}
    (hok : ok x u = false) (k : Ctx → State → State) : issueIf i s ready ok k = .next ((x.raiseAll u 0x05).settle x.r) := by
  unfold issueIf
  rw [h.begins]
  simp [h.lanes, h.legal, hok]

/-- Settles O24: a division's parts fit the split table and keep their names apart, so that each enters its block, or parks, as it does
alone; EXIT, YIELD and NOP are the shared path of issue with their own effects. -/
theorem splitsDivideEnterExitAndYield : Obligations.SplitsDivideEnterExitAndYield := by
  refine ⟨?divide, fun o s x u => ⟨?exit, ?illegal, ?yield, fun h => gives_compute h rfl (by decide)⟩⟩
  case divide =>
    intro s r c sp g b ls all target w hc hsp hg hb _ hfresh hcap hspawn hjoined hr hi hn hmiss hline hword hhead hent hbad hsw
    have h : Divides s r c sp g b := ⟨hc, hsp, hg, hb, hr, hi, hspawn, hjoined⟩
    have hw : Enters s c g sp.mode target w := ⟨hmiss, hline, hword, hhead, hent, hbad⟩
    have hne : ∀ q ∈ c.splits, q.id ≠ s.fresh := fun q hq => (hfresh q hq).ne
    have hcap' : c.liveSplits < (s.part g.part).scap := by
      unfold Cohort.liveSplits Split.isSpawning
      simpa using hcap
    have part := goTo_part_stands h hw hne hcap' all (ls := ls)
    have change := modSplit_part (target := target) h hne ls all
    refine ⟨?whole, ?onward, ?parked⟩
    case whole =>
      rintro rfl hrec
      exact goTo_whole_enters h hw hn hsw all hrec
    case onward =>
      intro hls hrec
      obtain ⟨stands, enters, go⟩ := part hls
      rw [go, enterBlock_enters stands enters hsw hrec, change]
      simp only [Split.leaves, Split.inBlock, Split.remains, Cohort.divided, hspawn, hjoined, beq_iff_eq]
    case parked =>
      intro hls heq h0
      obtain ⟨stands, enters, go⟩ := part hls
      rw [go, enterBlock_parks stands enters heq h0, change]
      simp only [Split.leaves, Split.remains, Cohort.divided, hspawn, beq_iff_eq]
      rfl
  case exit =>
    intro h hm
    refine ⟨x.note u x.ex .complete, note_effect h.begins _ _ _, ?_⟩
    intro left freed
    have next := exit_next h hm
    rw [exitLanes_eq] at next
    refine ⟨fun hk => ?_, fun b hb hg hn => ?_⟩
    · exact next.trans (by rw [State.afterExit_other hk])
    · exact next.trans (by rw [State.afterExit_last hb hg hn]; rfl)
  case illegal => exact fun h hm => issueIf_illegal h (by simpa using hm) _
  case yield =>
    intro h
    refine ⟨x.note u x.ex .complete, _, note_effect h.begins _ _ _, fun k => mem_others, ?_⟩
    refine (issue_next h _).trans ?_
    simp only [List.isEmpty_iff]

end Sys2Proof.Machine

namespace Sys2Proof.Machine

/-! ## Waiting for pages and lines of code (R235, R373, R375) -/

theorem State.split?_modSplit {s : State} {r : SRef} {p : Split} {f : Split → Split} (h : s.split? r = some p)
    (hf : (f p).id = r.split) : (s.modSplit r f).split? r = some (f p) := by
  obtain ⟨c, hc, hp⟩ := Option.bind_eq_some_iff.1 h
  have hc' : (s.modSplit r f).cohort? r.c = some (c.modSplit r.split f) := State.cohort?_modCohort hc (show c.id = _ from State.cohort?_id hc)
  have hp' : (c.modSplit r.split f).split? r.split = some (f p) := find?_map_found hp (by simpa using hf)
  unfold State.split?
  rw [hc']
  exact hp'

theorem State.split?_id {s : State} {r : SRef} {p : Split} (h : s.split? r = some p) : p.id = r.split := by
  obtain ⟨c, -, hp⟩ := Option.bind_eq_some_iff.1 h
  simpa using List.find?_some hp

/-- The split that issues stands in the state. -/
theorem beginIssue_split {i : Instr} {s u : State} {x : Ctx} (h : s.beginIssue i = .go x u) : ∃ p, s.split? x.r = some p := by
  unfold State.beginIssue at h
  split at h
  · cases h
  · dsimp only at h
    split at h
    · next hsp _ =>
      split at h
      · injection h with hx _
        subst hx
        exact ⟨_, hsp⟩
      · cases h
    · cases h

/-- Walks that are asked for are under way, with those that were; nothing else changes. -/
theorem askWalks_frame (qs : List WalkReq) (s : State) : ∃ f ws, qs.foldl State.askWalk s = { s with fresh := f, walks := ws } ∧
    (∀ q ∈ qs, ∃ w ∈ ws, w.req = q) ∧ ∀ w ∈ s.walks, w ∈ ws := by
  induction qs generalizing s with
  | nil => exact ⟨s.fresh, s.walks, rfl, by simp, fun _ h => h⟩
  | cons q qs ih =>
    obtain ⟨f, ws, he, hq, hw⟩ := ih (s.askWalk q)
    have first : ∃ f' ws', s.askWalk q = { s with fresh := f', walks := ws' } ∧ (∃ w ∈ ws', w.req = q) ∧ ∀ w ∈ s.walks, w ∈ ws' := by
      unfold State.askWalk
      split
      · next h => exact ⟨_, _, rfl, by simpa using h, fun _ h => h⟩
      · exact ⟨_, _, rfl, ⟨_, List.mem_append_right _ List.mem_cons_self, rfl⟩, fun _ h => List.mem_append_left _ h⟩
    obtain ⟨f', ws', ha, ⟨w', hw', hr⟩, hold⟩ := first
    rw [ha] at hw
    refine ⟨f, ws, ?_, ?_, fun w h => hw w (hold w h)⟩
    · rw [List.foldl_cons, he, ha]
    · intro p hp
      rcases List.mem_cons.1 hp with rfl | hp
      · exact ⟨w', hw w' hw', hr⟩
      · exact hq p hp

/-- Lines of code that are asked for set out; nothing else changes. -/
theorem askCodes_frame (core : Nat) (ls : List Nat) (s : State) :
    ∃ f as, ls.foldl (fun (t : State) l => t.askCode core l) s = { s with fresh := f, flight := as } := by
  induction ls generalizing s with
  | nil => exact ⟨s.fresh, s.flight, rfl⟩
  | cons l ls ih =>
    obtain ⟨f, as, he⟩ := ih (s.askCode core l)
    have first : ∃ f' as', s.askCode core l = { s with fresh := f', flight := as' } := by
      unfold State.askCode
      split
      · exact ⟨_, _, rfl⟩
      · exact ⟨_, _, rfl⟩
    obtain ⟨f', as', ha⟩ := first
    exact ⟨f, as, by rw [List.foldl_cons, he, ha]⟩

/-- The chosen split waits at the instruction, which has not issued. -/
def Ctx.Held (x : Ctx) (s t : State) : Prop :=
  ∃ p k, s.split? x.r = some p ∧ t.split? x.r = some { p with hold := some ⟨k, 0, x.ex, s.cycle⟩ } ∧
    ((∃ qs, k = .walk qs) ∨ ∃ ls, k = .code ls) ∧ t.mem = s.mem ∧ t.issued = s.issued

/-- What is asked for in `v` leaves the split as it stood in `s`, but that it is held. -/
theorem held_modSplit {x : Ctx} {s v : State} {p : Split} {k : HoldKind} (hp : s.split? x.r = some p) (hv : v.split? x.r = some p)
    (hm : v.mem = s.mem) (hi : v.issued = s.issued) (hk : (∃ qs, k = .walk qs) ∨ ∃ ls, k = .code ls) :
    x.Held s (v.modSplit x.r fun p => { p with hold := some ⟨k, 0, x.ex, s.cycle⟩ }) :=
  ⟨p, k, hp, State.split?_modSplit hv (show p.id = _ from State.split?_id hp), hk, hm, hi⟩

section
variable {i : Instr} {s u : State} {x : Ctx} {mode : Ctx → Mode} {addrs : Ctx → List DWord}
  {go : State → Host.Outcome State Fault Refusal}

theorem withWalksFor_waits (h : Issues i s x u) (hm : ∃ a ∈ addrs x, u.codeMiss x.c.core x.g (mode x) a = true) :
    ∃ t, withWalksFor mode i addrs s go = .next t ∧ x.Held s t := by
  obtain ⟨a, ha, hmiss⟩ := hm
  have hne : ((addrs x).filter fun a => u.codeMiss x.c.core x.g (mode x) a) ≠ [] :=
    List.ne_nil_of_mem (List.mem_filter.2 ⟨ha, hmiss⟩)
  obtain ⟨p, hp⟩ := beginIssue_split h.begins
  let misses := (addrs x).filter fun a => u.codeMiss x.c.core x.g (mode x) a
  let qs := (misses.map fun a => WalkReq.mk x.c.core x.g.id (a.toNat / 32768)).dedup
  have hc : (x.ex != 0#64 && x.legal && !x.underGap && !misses.isEmpty) = true := by simp [h.lanes, h.legal, h.gap, misses, hne]
  unfold withWalksFor
  rw [h.begins]
  refine ⟨_, if_pos hc, ?_⟩
  obtain ⟨f, ws, he, -, -⟩ := askWalks_frame qs { s with selected := s.selected.drop 1 }
  rw [he]
  exact held_modSplit hp hp rfl rfl (.inl ⟨_, rfl⟩)

theorem withWalksFor_passes (h : s.beginIssue i = .go x u) (hm : ∀ a ∈ addrs x, u.codeMiss x.c.core x.g (mode x) a = false) {t : State}
    (hg : go s = .next t) : withWalksFor mode i addrs s go = .next (x.walked (addrs x) t) := by
  have hnil : ((addrs x).filter fun a => u.codeMiss x.c.core x.g (mode x) a) = [] := by
    rw [List.filter_eq_nil_iff]
    intro a ha
    simp [hm a ha]
  unfold withWalksFor
  rw [h]
  simp only [hnil, List.isEmpty_nil, Bool.not_true, Bool.and_false, Bool.false_eq_true, if_false, hg]
  rfl

theorem withCode_passes (h : s.beginIssue i = .go x u) (hm : ∀ a ∈ addrs x, u.codeLine x.c.core x.g (mode x) a = none) :
    withCode mode i addrs s go = go s := by
  have hnil : (addrs x).filterMap (u.codeLine x.c.core x.g (mode x)) = [] := List.filterMap_eq_nil_iff.2 hm
  unfold withCode
  rw [h]
  simp [hnil]

theorem withCode_waits (h : Issues i s x u) (hm : ∃ a ∈ addrs x, u.codeLine x.c.core x.g (mode x) a ≠ none) :
    ∃ t, withCode mode i addrs s go = .next t ∧ x.Held s t := by
  obtain ⟨a, ha, hline⟩ := hm
  obtain ⟨l, hl⟩ := Option.ne_none_iff_exists'.1 hline
  have hne : ((addrs x).filterMap (u.codeLine x.c.core x.g (mode x))).dedup ≠ [] :=
    List.ne_nil_of_mem (List.mem_dedup.2 (List.mem_filterMap.2 ⟨a, ha, hl⟩))
  obtain ⟨p, hp⟩ := beginIssue_split h.begins
  let lines := ((addrs x).filterMap (u.codeLine x.c.core x.g (mode x))).dedup
  have hc : (x.ex != 0#64 && x.legal && !x.underGap && !lines.isEmpty) = true := by simp [h.lanes, h.legal, h.gap, lines, hne]
  unfold withCode
  rw [h.begins]
  refine ⟨_, if_pos hc, ?_⟩
  obtain ⟨f, as, he⟩ := askCodes_frame x.c.core lines { s with selected := s.selected.drop 1 }
  rw [he]
  exact held_modSplit hp hp rfl rfl (.inr ⟨_, rfl⟩)

/-- A branch whose words of code are not at hand waits for them. -/
theorem withTargets_waits (h : Issues i s x u) (hm : ¬ x.Fetched x.sp.mode u (addrs x)) :
    ∃ t, withTargets i addrs s go = .next t ∧ x.Held s t := by
  unfold withTargets withTargetsFor
  by_cases hw : ∀ a ∈ addrs x, u.codeMiss x.c.core x.g x.sp.mode a = false
  · have hl : ∃ a ∈ addrs x, u.codeLine x.c.core x.g x.sp.mode a ≠ none := by
      by_contra hno
      exact hm fun a ha => ⟨hw a ha, by_contra fun hne => hno ⟨a, ha, hne⟩⟩
    obtain ⟨t, ht, held⟩ := withCode_waits (mode := fun x => x.sp.mode) (go := go) h hl
    exact ⟨_, withWalksFor_passes h.begins hw ht, held⟩
  · exact withWalksFor_waits h (by simpa using hw)

/-- A branch whose words of code are at hand goes on. -/
theorem withTargets_passes (h : s.beginIssue i = .go x u) (hf : x.Fetched x.sp.mode u (addrs x)) {t : State} (hg : go s = .next t) :
    withTargets i addrs s go = .next (x.walked (addrs x) t) := by
  have hcode : withCode (fun x => x.sp.mode) i addrs s go = .next t := (withCode_passes h fun a ha => (hf a ha).2).trans hg
  exact withWalksFor_passes (go := fun s => withCode (fun x => x.sp.mode) i addrs s go) h (fun a ha => (hf a ha).1) hcode

end

/-! ## Targets of branches (R20, R41, R42) -/

theorem jumpTarget_eq (pc : DWord) (off : BitVec 32) : jumpTarget pc off = pc + BitVec.ofInt 64 (8 * off.toInt) := by
  unfold jumpTarget
  rw [BitVec.shiftLeft_eq_mul_twoPow, BitVec.ofInt_mul, BitVec.mul_comm]
  rfl

theorem fld_mod8 (a : DWord) : fld a 2 0 = a.toNat % 8 := by simp [fld]

theorem fld_high_eq_zero (a : DWord) : fld a 63 51 = 0 ↔ a.toNat < 2 ^ 51 := by
  have := a.isLt
  simp only [fld, Nat.shiftRight_eq_div_pow]
  omega

/-- What a target raises: one that is misaligned, too large, untranslated or no header that may be entered. -/
def Ctx.badTarget (x : Ctx) (u : State) (a : DWord) : Option XFault :=
  if a.toNat % 8 ≠ 0 ∨ 2 ^ 51 ≤ a.toNat then some { cause := 4 }
  else match u.codeWord x.c.core x.g x.sp.mode a with
    | .error f => some f
    | .ok w => if isHeader w = true ∧ hdrEntry w = false then none else some { cause := 4 }

theorem targetFault_eq (x : Ctx) (u : State) (a : DWord) : u.targetFault x.c.core x.g x.sp.mode a = x.badTarget u a := by
  unfold State.targetFault Ctx.badTarget
  have hiff : (fld a 2 0 != 0 || fld a 63 51 != 0) = true ↔ a.toNat % 8 ≠ 0 ∨ 2 ^ 51 ≤ a.toNat := by
    rw [fld_mod8, Bool.or_eq_true, bne_iff_ne, bne_iff_ne, Ne, Ne, fld_high_eq_zero, Nat.not_lt]
  by_cases h : a.toNat % 8 ≠ 0 ∨ 2 ^ 51 ≤ a.toNat
  · rw [if_pos h, if_pos (hiff.2 h)]
  · rw [if_neg h, if_neg fun hf => h (hiff.1 hf)]
    cases u.codeWord x.c.core x.g x.sp.mode a with
    | error f => rfl
    | ok w => simp

theorem reconvFault_eq (x : Ctx) (u : State) : u.reconvFault x.c.core x.g x.sp =
    if x.sp.blkReconv = 0 then none
    else match u.codeWord x.c.core x.g x.sp.mode x.sp.blkReconv with
      | .error f => some f
      | .ok w => if isHeader w = true then none else some { cause := 4 } := by
  unfold State.reconvFault
  simp only [beq_iff_eq] <;> rfl

theorem branchAddrs_eq (x : Ctx) (ts : List DWord) : x.branchAddrs ts =
    (ts.filter fun a => decide (a.toNat % 8 = 0)) ++
      if (ts.filter fun a => decide (a.toNat % 8 = 0)) = [] ∨ x.sp.blkReconv = 0 then [] else [x.sp.blkReconv] := by
  have : (fun a : DWord => fld a 2 0 == 0) = fun a => decide (a.toNat % 8 = 0) := by
    funext a
    rw [fld_mod8]
    rfl
  unfold Ctx.branchAddrs
  simp only [this, Bool.or_eq_true, List.isEmpty_iff, beq_iff_eq]

/-! ## BRA, BRP, BRU and CALL (R94, R97) -/

theorem lanesOf_eq_nil {m : Mask} : lanesOf m = [] ↔ m = 0#64 := by
  constructor
  · intro h
    apply BitVec.eq_of_getLsbD_eq
    intro l _
    have hl : l ∉ lanesOf m := by simp [h]
    simpa [mem_lanesOf] using hl
  · rintro rfl
    simp [lanesOf]

section
variable {x : Ctx} {u : State} {ls : Mask} {target : DWord} {fin : State → State}

theorem branch_raises {fs : List LaneFault} (hls : ls ≠ 0#64) (hf : branchFaults x u ls target = fs) (hn : fs ≠ []) :
    branch x u ls target fin = x.raise u fs := by
  obtain ⟨f, fs', rfl⟩ := List.exists_cons_of_ne_nil hn
  simp [branch, hls, hf]

theorem branch_raises_target (hls : ls ≠ 0#64) {f : XFault} (hf : u.targetFault x.c.core x.g x.sp.mode target = some f) :
    branch x u ls target fin = x.raise u ((lanesOf ls).map fun l => ⟨l, f.cause, target, f.gpa⟩) :=
  branch_raises hls (by simp [branchFaults, hf]) (by simpa [lanesOf_eq_nil] using hls)

theorem branch_raises_reconv (hls : ls ≠ 0#64) {f : XFault} (hn : u.targetFault x.c.core x.g x.sp.mode target = none)
    (hd : x.divides ls target = true) (hf : u.reconvFault x.c.core x.g x.sp = some f) :
    branch x u ls target fin = x.raise u ((lanesOf ls).map fun l => ⟨l, f.cause, x.sp.blkReconv, f.gpa⟩) :=
  branch_raises hls (by simp [branchFaults, hn, hd, hf]) (by simpa [lanesOf_eq_nil] using hls)

theorem branch_goes (hls : ls ≠ 0#64) (hn : u.targetFault x.c.core x.g x.sp.mode target = none)
    (hf : x.divides ls target = true → u.reconvFault x.c.core x.g x.sp = none) :
    branch x u ls target fin = if target = x.sp.pc + 8 then fin u else goTo (fin u) x.r x.sp.lanes [(target, ls)] := by
  have hnil : branchFaults x u ls target = [] := by
    by_cases hd : x.divides ls target = true <;> simp [branchFaults, hn, hd, hf]
  simp only [branch, beq_iff_eq, hls, if_false, hnil]
  rw [show (if ls = x.sp.lanes then ls else x.sp.lanes) = x.sp.lanes by simp]

theorem divides_iff : x.divides ls target = true ↔ target ≠ x.sp.pc + 8 ∧ ls ≠ x.sp.lanes := by simp [Ctx.divides]

end

/-- What the lanes `ls` of a split do that take a branch to `target` (R94): `leads v` says that the branch may leave `v`. -/
structure Takes (x : Ctx) (u : State) (ls : Mask) (target : DWord) (os : List (Reg × (Nat → Word))) (fin : Finish)
    (leads : State → Prop) : Prop where
  misses : ∀ f, x.badTarget u target = some f → leads (x.raise u ((lanesOf ls).map fun l => ⟨l, f.cause, target, f.gpa⟩))
  parts : ∀ f, x.badTarget u target = none → target ≠ x.sp.pc + 8 ∧ ls ≠ x.sp.lanes → u.reconvFault x.c.core x.g x.sp = some f →
    leads (x.raise u ((lanesOf ls).map fun l => ⟨l, f.cause, x.sp.blkReconv, f.gpa⟩))
  goes : x.badTarget u target = none → (target ≠ x.sp.pc + 8 ∧ ls ≠ x.sp.lanes → u.reconvFault x.c.core x.g x.sp = none) →
    ∃ t, x.Effect u t .v x.ex os fin ∧ leads (if target = x.sp.pc + 8 then t else goTo t x.r x.sp.lanes [(target, ls)])

/-- A branch takes its lanes where the state that it leaves is that of `branch`. -/
theorem takes_of_branch {x : Ctx} {u : State} {ls : Mask} {target : DWord} {os : List (Reg × (Nat → Word))} {e : Finish}
    {leads : State → Prop} {fin : State → State} (hls : ls ≠ 0#64) (he : x.Effect u (fin u) .v x.ex os e)
    (h : leads (branch x u ls target fin)) : Takes x u ls target os e leads where
  misses f hf := by rwa [branch_raises_target hls (f := f) (by rwa [targetFault_eq])] at h
  parts f hn hd hf := by rwa [branch_raises_reconv hls (by rwa [targetFault_eq]) (divides_iff.2 hd) hf] at h
  goes hn hf := ⟨fin u, he, by rwa [branch_goes hls (by rwa [targetFault_eq]) fun hd => hf (divides_iff.1 hd)] at h⟩

theorem bra_next {o : OpJ} {s u : State} {x : Ctx} (h : Issues (.bra o) s x u)
    (hf : x.Fetched x.sp.mode u (x.branchAddrs [jumpTarget x.sp.pc o.off])) :
    exec (.bra o) s = .next (x.walked (x.branchAddrs [jumpTarget x.sp.pc o.off])
      ((branch x u x.ex (jumpTarget x.sp.pc o.off) fun s => x.note s x.ex .complete).settle x.r)) :=
  withTargets_passes (addrs := fun x => x.branchAddrs [jumpTarget x.sp.pc o.off]) h.begins hf (issue_next h _)

theorem call_next {o : OpJ} {s u : State} {x : Ctx} (h : Issues (.call o) s x u)
    (hf : x.Fetched x.sp.mode u (x.branchAddrs [jumpTarget x.sp.pc o.off])) :
    exec (.call o) s = .next (x.walked (x.branchAddrs [jumpTarget x.sp.pc o.off])
      ((branch x u x.ex (jumpTarget x.sp.pc o.off) fun s => x.complete s (x.link 0)).settle x.r)) :=
  withTargets_passes (addrs := fun x => x.branchAddrs [jumpTarget x.sp.pc o.off]) h.begins hf (issue_next h _)

/-- What a branch of the whole split does besides going: one that no lane executes only counts its flag. -/
def Ctx.wholeFin (x : Ctx) (s : State) : State := if x.ex == 0#64 then x.pulse s else x.note s x.ex .complete

theorem wholeFin_effect {i : Instr} {s u : State} {x : Ctx} (h : s.beginIssue i = .go x u) :
    x.Effect u (x.wholeFin u) .v x.ex [] (if x.ex = 0#64 then .latency (u.cycle + 1) else .complete) := by
  unfold Ctx.wholeFin Ctx.pulse
  by_cases h0 : x.ex = 0#64
  · have := note_effect h 0#64 .v (.latency (u.cycle + 1))
    simpa [h0] using this
  · simpa [h0] using note_effect h x.ex .v .complete

theorem branchWhole_next {i : Instr} {o : OpJ} {cond : Ctx → Bool} {s u : State} {x : Ctx} (h : s.beginIssue i = .go x u)
    (hl : ({ x with ex := x.sp.lanes } : Ctx).legal = true) (hg : ({ x with ex := x.sp.lanes } : Ctx).underGap = false)
    (hf : x.Fetched x.sp.mode u (if cond x then x.branchAddrs [jumpTarget x.sp.pc o.off] else [])) :
    branchWhole i o cond s = .next (x.walked (if cond x then x.branchAddrs [jumpTarget x.sp.pc o.off] else [])
      ((branch x u (if cond x then x.sp.lanes else 0#64) (jumpTarget x.sp.pc o.off) x.wholeFin).settle x.r)) := by
  refine withTargets_passes (addrs := fun x => if cond x then x.branchAddrs [jumpTarget x.sp.pc o.off] else []) h hf ?_
  rw [h]
  simp only [hl, hg, Bool.not_true, Bool.false_eq_true, if_false]
  rfl

/-! ## Groups of lanes by target (R96) -/

theorem lanesOf_pairwise (m : Mask) : (lanesOf m).Pairwise (· < ·) := List.Pairwise.filter _ List.pairwise_lt_range

theorem lanesOf_lt {m : Mask} {l : Nat} (h : l ∈ lanesOf m) : l < 64 := by
  simpa using List.mem_of_mem_filter h

theorem getLsbD_bitMask {k l : Nat} : (bitMask k).getLsbD l = true ↔ l < 64 ∧ l = k := by
  simp only [bitMask, BitVec.getLsbD_shiftLeft, BitVec.getLsbD_one, Bool.and_eq_true, decide_eq_true_eq, Bool.not_eq_true',
    decide_eq_false_iff_not]
  omega

theorem getLsbD_maskOf {ls : List Nat} {l : Nat} : (maskOf ls).getLsbD l = true ↔ l < 64 ∧ l ∈ ls := by
  have key (ls : List Nat) (m : Mask) :
      (ls.foldl (fun m l => m ||| bitMask l) m).getLsbD l = true ↔ m.getLsbD l = true ∨ l < 64 ∧ l ∈ ls := by
    induction ls generalizing m with
    | nil => simp
    | cons k ls ih =>
      rw [List.foldl_cons, ih, BitVec.getLsbD_or, Bool.or_eq_true, getLsbD_bitMask, List.mem_cons]
      tauto
  exact (key ls 0#64).trans (by simp)

theorem maskOf_lanesOf (m : Mask) : maskOf (lanesOf m) = m := by
  refine BitVec.eq_of_getLsbD_eq fun l hl => Bool.eq_iff_iff.2 ?_
  rw [getLsbD_maskOf, mem_lanesOf, and_iff_right hl]

/-- Rising lanes are the lanes of their mask. -/
theorem lanesOf_maskOf {ls : List Nat} (hp : ls.Pairwise (· < ·)) (hl : ∀ l ∈ ls, l < 64) : lanesOf (maskOf ls) = ls := by
  have hperm : (lanesOf (maskOf ls)).Perm ls := by
    rw [List.perm_ext_iff_of_nodup ((lanesOf_pairwise _).imp fun h => Nat.ne_of_lt h) (hp.imp fun h => Nat.ne_of_lt h)]
    intro l
    rw [mem_lanesOf, getLsbD_maskOf]
    simpa using hl l
  exact hperm.eq_of_pairwise (fun a b _ _ h k => absurd h (Nat.lt_asymm k)) (lanesOf_pairwise _) hp

theorem lowest_maskOf {l : Nat} {ls : List Nat} (hp : (l :: ls).Pairwise (· < ·)) (hl : ∀ k ∈ l :: ls, k < 64) :
    lowest (maskOf (l :: ls)) = l := by
  unfold lowest
  rw [lanesOf_maskOf hp hl]
  rfl

/-- The group of a lane among others: those that go where it goes. -/
def groupOf (f : Nat → DWord) (ls : List Nat) (l : Nat) : DWord × Mask := (f l, maskOf (ls.filter fun k => f k == f l))

/-- The lanes of another target than one's have their groups among themselves. -/
theorem groupOf_filter_ne {f : Nat → DWord} {ls : List Nat} {k l : Nat} (h : f k ≠ f l) :
    groupOf f (ls.filter fun j => f j != f l) k = groupOf f ls k := by
  unfold groupOf
  rw [List.filter_filter]
  congr 2
  apply List.filter_congr
  intro j _
  by_cases hj : f j = f k
  · simp [hj, h]
  · simp [hj]

theorem mem_targetGroups {f : Nat → DWord} {q : DWord × Mask} : ∀ {n : Nat} {ls : List Nat}, ls.length ≤ n →
    (q ∈ targetGroups f n ls ↔ ∃ l ∈ ls, q = groupOf f ls l)
  | 0, ls, h => by
    obtain rfl := List.length_eq_zero_iff.1 (Nat.le_zero.1 h)
    simp [targetGroups]
  | n + 1, [], _ => by simp [targetGroups]
  | n + 1, l :: ls, h => by
    have hlen : ((l :: ls).filter fun k => f k != f l).length ≤ n := by
      rw [List.filter_cons_of_neg (by simp)]
      exact (List.length_filter_le _ _).trans (by simpa using h)
    unfold targetGroups
    rw [List.mem_cons, mem_targetGroups hlen]
    constructor
    · rintro (rfl | ⟨k, hk, rfl⟩)
      · exact ⟨l, List.mem_cons_self, rfl⟩
      · obtain ⟨hk, hne⟩ := List.mem_filter.1 hk
        exact ⟨k, hk, groupOf_filter_ne (by simpa using hne)⟩
    · rintro ⟨k, hk, rfl⟩
      by_cases hkl : f k = f l
      · exact .inl (by simp [groupOf, hkl])
      · exact .inr ⟨k, List.mem_filter.2 ⟨hk, by simpa using hkl⟩, (groupOf_filter_ne hkl).symm⟩

/-- A group's lowest lane is one of its own. -/
theorem lowest_groupOf {f : Nat → DWord} {ls : List Nat} (hp : ls.Pairwise (· < ·)) (hl : ∀ l ∈ ls, l < 64) {l : Nat} (h : l ∈ ls) :
    lowest (groupOf f ls l).2 ∈ ls ∧ f (lowest (groupOf f ls l).2) = f l := by
  have hmem : l ∈ ls.filter fun k => f k == f l := List.mem_filter.2 ⟨h, by simp⟩
  obtain ⟨k, ks, hk⟩ := List.exists_cons_of_ne_nil (List.ne_nil_of_mem hmem)
  have hlow : lowest (groupOf f ls l).2 = k := by
    unfold groupOf
    rw [hk]
    exact lowest_maskOf (hk ▸ hp.filter _) fun j hj => hl j (List.mem_of_mem_filter (hk ▸ hj))
  obtain ⟨hk', hf⟩ := List.mem_filter.1 (hk ▸ (List.mem_cons_self : k ∈ k :: ks))
  rw [hlow]
  exact ⟨hk', by simpa using hf⟩

/-- The groups stand in the order of their lowest lanes. -/
theorem targetGroups_pairwise {f : Nat → DWord} : ∀ {n : Nat} {ls : List Nat}, ls.length ≤ n → ls.Pairwise (· < ·) → (∀ l ∈ ls, l < 64) →
    (targetGroups f n ls).Pairwise fun p q => lowest p.2 < lowest q.2
  | 0, _, _, _, _ => by simp [targetGroups]
  | n + 1, [], _, _, _ => by simp [targetGroups]
  | n + 1, l :: ls, h, hp, hl => by
    let rest := (l :: ls).filter fun k => f k != f l
    have hlen : rest.length ≤ n := by
      simp only [rest]
      rw [List.filter_cons_of_neg (by simp)]
      exact (List.length_filter_le _ _).trans (by simpa using h)
    have hrest : rest.Pairwise (· < ·) := hp.filter _
    have hrl : ∀ k ∈ rest, k < 64 := fun k hk => hl k (List.mem_of_mem_filter hk)
    unfold targetGroups
    refine List.pairwise_cons.2 ⟨?_, targetGroups_pairwise hlen hrest hrl⟩
    intro q hq
    obtain ⟨k, hk, rfl⟩ := (mem_targetGroups hlen).1 hq
    have hfirst : lowest (maskOf ((l :: ls).filter fun k => f k == f l)) = l := by
      have hcons : ((l :: ls).filter fun k => f k == f l) = l :: ls.filter fun k => f k == f l := List.filter_cons_of_pos (by simp)
      rw [hcons]
      exact lowest_maskOf (hcons ▸ hp.filter _) fun j hj => hl j (List.mem_of_mem_filter (hcons ▸ hj))
    obtain ⟨hmem, hf⟩ := lowest_groupOf hrest hrl hk
    obtain ⟨hin, hne⟩ := List.mem_filter.1 hmem
    simp only [hfirst]
    rcases List.mem_cons.1 hin with heq | hin
    · simp [heq] at hne
    · exact List.rel_of_pairwise_cons hp hin

/-- The groups of the lanes `good` by target are the only list of them in the order of their lowest lanes. -/
theorem eq_targetGroups {f : Nat → DWord} {good : Mask} {gs : List (DWord × Mask)}
    (hp : gs.Pairwise fun p q => lowest p.2 < lowest q.2)
    (hg : ∀ q ∈ gs, q.2 ≠ 0#64 ∧ ∀ l, q.2.getLsbD l = true ↔ good.getLsbD l = true ∧ f l = q.1)
    (hc : ∀ l, good.getLsbD l = true → ∃ q ∈ gs, q.1 = f l) : gs = targetGroups f 64 (lanesOf good) := by
  have hlen : (lanesOf good).length ≤ 64 := (List.length_filter_le _ _).trans (by simp)
  have hmask {q : DWord × Mask} (hq : q ∈ gs) {l : Nat} (hl : f l = q.1) : q = groupOf f (lanesOf good) l := by
    refine Prod.ext hl.symm (BitVec.eq_of_getLsbD_eq fun k hk => Bool.eq_iff_iff.2 ?_)
    rw [(hg q hq).2 k, groupOf, getLsbD_maskOf, and_iff_right hk, List.mem_filter, mem_lanesOf, beq_iff_eq, hl]
  have hmem (q : DWord × Mask) : q ∈ gs ↔ q ∈ targetGroups f 64 (lanesOf good) := by
    rw [mem_targetGroups hlen]
    constructor
    · intro hq
      obtain ⟨l, hl⟩ := List.exists_mem_of_ne_nil _ (mt lanesOf_eq_nil.1 (hg q hq).1)
      obtain ⟨hgood, hf⟩ := ((hg q hq).2 l).1 (mem_lanesOf.1 hl)
      exact ⟨l, mem_lanesOf.2 hgood, hmask hq hf⟩
    · rintro ⟨l, hl, rfl⟩
      obtain ⟨q, hq, hf⟩ := hc l (mem_lanesOf.1 hl)
      rwa [← hmask hq hf.symm]
  have hsort := targetGroups_pairwise (f := f) hlen (lanesOf_pairwise good) fun l hl => lanesOf_lt hl
  have hperm : gs.Perm (targetGroups f 64 (lanesOf good)) :=
    (List.perm_ext_iff_of_nodup (hp.imp fun h e => absurd (e ▸ h) (Nat.lt_irrefl _))
      (hsort.imp fun h e => absurd (e ▸ h) (Nat.lt_irrefl _))).2 hmem
  exact hperm.eq_of_pairwise (fun a b _ _ h k => absurd h (Nat.lt_asymm k)) hp hsort

/-! ## BRX, RET and CALLX (R96) -/

/-- What the lane `l` raises where its target fails its check, or else where `e` keeps all lanes from dividing. -/
def Ctx.targetFail (x : Ctx) (u : State) (f : Nat → DWord) (e : Option XFault) (l : Nat) : Option LaneFault :=
  match x.badTarget u (f l) with
  | some b => some ⟨l, b.cause, f l, b.gpa⟩
  | none => e.map fun b => ⟨l, b.cause, x.sp.blkReconv, b.gpa⟩

/-- What the executing lanes raise. -/
def Ctx.targetFails (x : Ctx) (u : State) (f : Nat → DWord) (e : Option XFault) : List LaneFault := x.lanes.filterMap (x.targetFail u f e)

theorem targetFail_lane {x : Ctx} {u : State} {f : Nat → DWord} {e : Option XFault} {l : Nat} {q : LaneFault}
    (h : x.targetFail u f e l = some q) : q.lane = l := by
  unfold Ctx.targetFail at h
  split at h
  · cases h; rfl
  · obtain ⟨b, -, rfl⟩ := Option.map_eq_some_iff.1 h
    rfl

/-- The lanes that raise. -/
theorem targetFails_lanes (x : Ctx) (u : State) (f : Nat → DWord) (e : Option XFault) :
    (x.targetFails u f e).map (·.lane) = x.lanes.filter fun l => (x.targetFail u f e l).isSome := by
  unfold Ctx.targetFails
  induction x.lanes with
  | nil => rfl
  | cons l ls ih =>
    cases h : x.targetFail u f e l with
    | none => simpa [h] using ih
    | some q => simpa [h, targetFail_lane h] using ih

theorem badTargets_eq (x : Ctx) (u : State) (f : Nat → DWord) : x.badTargets u f = x.targetFails u f none := by
  unfold Ctx.badTargets Ctx.targetFails
  congr 1
  funext l
  rw [targetFault_eq]
  unfold Ctx.targetFail
  cases x.badTarget u (f l) <;> rfl

/-- The lanes whose targets pass are those that a BRX, RET or CALLX sends. -/
theorem minus_targetFails {x : Ctx} {u : State} {f : Nat → DWord} {good : Mask}
    (hgood : ∀ l, good.getLsbD l = true ↔ x.ex.getLsbD l = true ∧ x.badTarget u (f l) = none) :
    x.minus (x.targetFails u f none) = x.only good := by
  have hex : x.ex &&& ~~~maskOf ((x.targetFails u f none).map (·.lane)) = good := by
    refine BitVec.eq_of_getLsbD_eq fun l hl => Bool.eq_iff_iff.2 ?_
    have hm : (maskOf ((x.targetFails u f none).map (·.lane))).getLsbD l = true ↔
        x.ex.getLsbD l = true ∧ x.badTarget u (f l) ≠ none := by
      rw [getLsbD_maskOf, targetFails_lanes, List.mem_filter, and_iff_right hl]
      unfold Ctx.lanes Ctx.targetFail
      rw [mem_lanesOf]
      cases x.badTarget u (f l) <;> simp
    rw [BitVec.getLsbD_and, BitVec.getLsbD_not, Bool.and_eq_true, hgood, Bool.and_eq_true, decide_eq_true hl]
    cases hb : (maskOf ((x.targetFails u f none).map (·.lane))).getLsbD l
    · have := mt hm.2 (by simp [hb])
      tauto
    · have := hm.1 hb
      simp [this]
  unfold Ctx.minus Ctx.only
  rw [hex]

/-- Where a bad reconvergence header keeps the lanes from dividing, every one raises. -/
theorem allFail_eq (x : Ctx) (u : State) (f : Nat → DWord) (e : XFault) :
    (x.lanes.filterMap fun l => ((x.badTargets u f).find? fun q => q.lane == l).or (some ⟨l, e.cause, x.sp.blkReconv, e.gpa⟩)) =
      x.targetFails u f (some e) := by
  have found (ls : List Nat) (l : Nat) (h : l ∈ ls) :
      (ls.filterMap (x.targetFail u f none)).find? (fun q => q.lane == l) = x.targetFail u f none l := by
    induction ls with
    | nil => cases h
    | cons k ls ih =>
      by_cases hk : k = l
      · subst hk
        cases hq : x.targetFail u f none k with
        | some q => simp [hq, targetFail_lane hq]
        | none =>
          rw [List.filterMap_cons_none hq, List.find?_eq_none]
          intro q hq'
          obtain ⟨j, -, hj⟩ := List.mem_filterMap.1 hq'
          intro hlane
          rw [targetFail_lane hj, beq_iff_eq] at hlane
          simp [hlane, hq] at hj
      · have h' := ih ((List.mem_cons.1 h).resolve_left (Ne.symm hk))
        cases hq : x.targetFail u f none k with
        | some q => rw [List.filterMap_cons_some hq, List.find?_cons_of_neg (by simp [targetFail_lane hq, hk]), h']
        | none => rw [List.filterMap_cons_none hq, h']
  unfold Ctx.targetFails
  apply List.filterMap_congr
  intro l hl
  rw [badTargets_eq, Ctx.targetFails, found _ l hl]
  unfold Ctx.targetFail
  cases x.badTarget u (f l) <;> rfl

/-- The lanes go to the next word together, which is no division (log 68). -/
def Ctx.Onward (x : Ctx) (gs : List (DWord × Mask)) : Prop := ∃ q, gs = [q] ∧ q.1 = x.sp.pc + 8

theorem dividesEach_iff {x : Ctx} {gs : List (DWord × Mask)} :
    x.dividesEach gs = true ↔ 2 ≤ gs.length ∨ gs ≠ [] ∧ x.ex ≠ x.sp.lanes ∧ ¬ x.Onward gs := by
  unfold Ctx.dividesEach Ctx.Onward
  match gs with
  | [] => simp
  | [q] => simp
  | p :: q :: r => simp

section
variable {x : Ctx} {u : State} {f : Nat → DWord} {good : Mask} {gs : List (DWord × Mask)} {fin : Ctx → State → State}
  (hgood : ∀ l, good.getLsbD l = true ↔ x.ex.getLsbD l = true ∧ x.badTarget u (f l) = none)
  (hgs : gs = targetGroups f 64 (lanesOf good))
include hgood hgs

theorem eachFaults_reconv {e : XFault} (hd : x.dividesEach gs = true) (he : u.reconvFault x.c.core x.g x.sp = some e) :
    eachFaults x u f = x.targetFails u f (some e) := by
  have hl : (x.minus (x.badTargets u f)).lanes = lanesOf good := by rw [badTargets_eq, minus_targetFails hgood]; rfl
  unfold eachFaults
  simp only [hl, ← hgs, hd, he, if_true]
  exact allFail_eq x u f e

theorem eachFaults_none (hd : x.dividesEach gs = true → u.reconvFault x.c.core x.g x.sp = none) :
    eachFaults x u f = x.targetFails u f none := by
  have hl : (x.minus (x.badTargets u f)).lanes = lanesOf good := by rw [badTargets_eq, minus_targetFails hgood]; rfl
  unfold eachFaults
  simp only [hl, ← hgs]
  by_cases h : x.dividesEach gs = true
  · simp only [h, hd h, if_true, badTargets_eq]
  · simp only [h, if_false, badTargets_eq, Bool.false_eq_true]

/-- Where the lanes would divide and the reconvergence header is bad, all of them trap. -/
theorem branchEach_reconv {e : XFault} (hd : x.dividesEach gs = true) (he : u.reconvFault x.c.core x.g x.sp = some e) :
    branchEach x u f fin = x.raise u (x.targetFails u f (some e)) := by
  have hall : ∀ l, (x.targetFail u f (some e) l).isSome = true := by
    intro l
    unfold Ctx.targetFail
    cases x.badTarget u (f l) <;> rfl
  have hlanes : (x.targetFails u f (some e)).map (·.lane) = lanesOf x.ex := by
    rw [targetFails_lanes]
    exact List.filter_eq_self.2 fun l _ => hall l
  have hex : (x.minus (x.targetFails u f (some e))).ex = 0#64 := by
    unfold Ctx.minus
    rw [hlanes, maskOf_lanesOf, BitVec.and_not_self]
    rfl
  have hnil : (x.minus (x.targetFails u f (some e))).lanes = [] := by
    unfold Ctx.lanes
    rw [hex]
    exact lanesOf_eq_nil.2 rfl
  unfold branchEach
  simp only [eachFaults_reconv hgood hgs hd he, hex, hnil, targetGroups, List.isEmpty_nil, Bool.true_or, beq_self_eq_true, if_true]

/-- Else the lanes whose targets fail trap, and the others do `fin` and go. -/
theorem branchEach_goes (hd : x.dividesEach gs = true → u.reconvFault x.c.core x.g x.sp = none) :
    branchEach x u f fin =
      let t := x.raise (if good == 0#64 then u else fin (x.only good) u) (x.targetFails u f none)
      if gs.isEmpty || (!x.dividesEach gs && (gs.headD (0, 0)).1 == x.sp.pc + 8) then t
      else goTo t x.r (x.sp.lanes &&& ~~~maskOf ((x.targetFails u f none).map (·.lane))) gs := by
  unfold branchEach
  simp only [eachFaults_none hgood hgs hd, minus_targetFails hgood]
  have hl : (x.only good).lanes = lanesOf good := rfl
  simp only [hl, ← hgs]
  rfl

omit hgood in
theorem groups_eq_nil : gs = [] ↔ good = 0#64 := by
  have hlen : (lanesOf good).length ≤ 64 := (List.length_filter_le _ _).trans (by simp)
  rw [hgs, ← lanesOf_eq_nil, List.eq_nil_iff_forall_not_mem, List.eq_nil_iff_forall_not_mem]
  constructor
  · exact fun h l hl => h _ ((mem_targetGroups hlen).2 ⟨l, hl, rfl⟩)
  · intro h q hq
    obtain ⟨l, hl, -⟩ := (mem_targetGroups hlen).1 hq
    exact h l hl

/-- Where no lane's target passes, all of them trap. -/
theorem branchEach_nobody (h0 : good = 0#64) : branchEach x u f fin = x.raise u (x.targetFails u f none) := by
  have hnil : gs = [] := (groups_eq_nil hgs).2 h0
  have hd : x.dividesEach gs = true → u.reconvFault x.c.core x.g x.sp = none := by simp [hnil, dividesEach_iff]
  simp [branchEach_goes hgood hgs hd, hnil, h0]

/-- Lanes that all go to the next word go on with the split. -/
theorem branchEach_onward (h0 : good ≠ 0#64) (ho : x.Onward gs) :
    branchEach x u f fin = x.raise (fin (x.only good) u) (x.targetFails u f none) := by
  have hd : x.dividesEach gs = false := by
    rw [Bool.eq_false_iff, Ne, dividesEach_iff]
    rintro (hlen | ⟨-, -, hno⟩)
    · obtain ⟨q, rfl, -⟩ := ho
      simp at hlen
    · exact hno ho
  obtain ⟨q, rfl, hq⟩ := ho
  simp [branchEach_goes hgood hgs (fun h => absurd h (by simp [hd])), hd, hq, h0]

/-- Lanes that part go to their targets, from what the lanes that trap leave of the split. -/
theorem branchEach_parts (h0 : good ≠ 0#64) (ho : ¬ x.Onward gs) (hd : x.dividesEach gs = true → u.reconvFault x.c.core x.g x.sp = none) :
    branchEach x u f fin = goTo (x.raise (fin (x.only good) u) (x.targetFails u f none)) x.r
      (x.sp.lanes &&& ~~~maskOf ((x.targetFails u f none).map (·.lane))) gs := by
  have hne : gs ≠ [] := mt (groups_eq_nil hgs).1 h0
  have hstay : (!x.dividesEach gs && (gs.headD (0, 0)).1 == x.sp.pc + 8) = false := by
    match gs, hne with
    | [q], _ => exact Bool.and_eq_false_iff.2 (.inr (beq_eq_false_iff_ne.2 fun h => ho ⟨q, rfl, h⟩))
    | p :: q :: r, _ => exact Bool.and_eq_false_iff.2 (.inl (by rw [dividesEach_iff.2 (.inl (by simp))]; rfl))
  have hemp : gs.isEmpty = false := by simpa using hne
  simp only [branchEach_goes hgood hgs hd, hemp, hstay, Bool.or_self, Bool.false_eq_true, if_false, beq_iff_eq, h0]

end

theorem branchPair_next {i : Instr} {o : OpA} {link : Ctx → List (Reg × (Nat → Word))} {s u : State} {x : Ctx} (h : Issues i s x u)
    (hf : x.Fetched x.sp.mode u (x.branchAddrs (x.lanes.map (x.rdD o.a)))) :
    branchPair i o link s = .next (x.walked (x.branchAddrs (x.lanes.map (x.rdD o.a)))
      ((branchEach x u (x.rdD o.a) fun y s => y.complete s (link x)).settle x.r)) :=
  withTargets_passes (addrs := fun x => x.branchAddrs (x.lanes.map (x.rdD o.a))) h.begins hf (issue_next h _)

/-- The lanes that a BRX, RET or CALLX sends write its link. -/
theorem only_effect {i : Instr} {s u : State} {x : Ctx} (h : Issues i s x u) {good : Mask} (h0 : good ≠ 0#64)
    (os : List (Reg × (Nat → Word))) : (x.only good).Effect u ((x.only good).complete u os) .v good os .complete :=
  effect_owe_note h.begins .v good os (.inl h0) .complete

/-- Settles O23: each branch is its wrapper, which waits for its words of code or passes, around `branch` or `branchEach`, whose cases are
those of the statement; the groups of lanes by target are the only ones in the order of their lowest lanes. -/
theorem branchesAndCalls : Obligations.BranchesAndCalls := by
  intro s x u on next fault joins words ends waits
  have hwords : ∀ ts, x.branchAddrs ts = words ts := branchAddrs_eq x
  have hjoins : u.reconvFault x.c.core x.g x.sp = joins := reconvFault_eq x u
  refine ⟨fun o => ?jumps, fun o => ?pairs⟩
  case jumps =>
    intro target traps takes all whole
    have htarget : jumpTarget x.sp.pc o.off = target := jumpTarget_eq _ _
    have took {i : Instr} {ls : Mask} {os : List (Reg × (Nat → Word))} {fin : Finish} (h : Takes x u ls target os fin (ends i [target])) :
        takes i ls os fin :=
      ⟨h.misses, fun f hn hd hj => h.parts f hn hd (hjoins.trans hj), fun hn hd => h.goes hn fun hp => hjoins.trans (hd hp)⟩
    have fetched (hf : x.Fetched x.sp.mode u (words [target])) : x.Fetched x.sp.mode u (x.branchAddrs [jumpTarget x.sp.pc o.off]) := by
      rwa [htarget, hwords]
    have held {i : Instr} {go : State → Host.Outcome State Fault Refusal}
        (he : exec i s = withTargets i (fun x => x.branchAddrs [jumpTarget x.sp.pc o.off]) s go) (h : Issues i s x u) :
        waits i [target] := by
      intro hn
      rw [← hwords, ← htarget] at hn
      obtain ⟨t, ht, p, k, held⟩ := withTargets_waits (addrs := fun x => x.branchAddrs [jumpTarget x.sp.pc o.off]) h hn
      exact ⟨t, p, k, he.trans ht, held⟩
    have whole_of {i : Instr} {cond : Ctx → Bool} {p : Prop} (he : exec i s = branchWhole i o cond s) (hc : cond x = true ↔ p) :
        whole i p := by
      intro hb hl hg h0 fin
      refine ⟨fun hp hf => took (takes_of_branch h0 (wholeFin_effect hb) ?_), fun hp => ⟨_, wholeFin_effect hb, ?_⟩⟩
      · have next := branchWhole_next (cond := cond) hb hl hg (by rw [if_pos (hc.2 hp)]; exact fetched hf)
        rwa [← he, if_pos (hc.2 hp), if_pos (hc.2 hp), htarget, hwords] at next
      · have hno : ¬ cond x = true := mt hc.1 hp
        have next := branchWhole_next (cond := cond) (o := o) hb hl hg (by rw [if_neg hno]; intro a ha; cases ha)
        rw [← he, if_neg hno, if_neg hno] at next
        have hnil : words [] = [] := (hwords []).symm
        change exec i s = .next (x.walked (words []) _)
        rw [hnil]
        exact next
    refine ⟨fun h => ⟨held rfl h, fun hf => took (takes_of_branch (fin := fun s => x.note s x.ex .complete) h.lanes (note_effect h.begins _ _ _) ?_)⟩,
      fun h => ⟨held rfl h, fun hf => took (takes_of_branch (fin := fun s => x.complete s (x.link 0)) h.lanes (complete_effect h _) ?_)⟩,
      whole_of rfl (by simp), whole_of rfl (by simp)⟩
    · have next := bra_next h (fetched hf)
      rwa [htarget, hwords] at next
    · have next := call_next h (fetched hf)
      rwa [htarget, hwords] at next
  case pairs =>
    intro pair targets sends
    have each {i : Instr} {link : Ctx → List (Reg × (Nat → Word))} (he : exec i s = branchPair i o link s) : sends i (link x) := by
      intro h
      refine ⟨fun hn => ?_, ?_⟩
      · rw [← hwords] at hn
        obtain ⟨t, ht, p, k, held⟩ := withTargets_waits (addrs := fun x => x.branchAddrs (x.lanes.map (x.rdD o.a))) h hn
        exact ⟨t, p, k, he.trans ht, held⟩
      intro hf good gs hgood _ hp hg hc onward divides fails
      have hgs : gs = targetGroups (x.rdD o.a) 64 (lanesOf good) := eq_targetGroups hp hg hc
      have hgood' : ∀ l, good.getLsbD l = true ↔ x.ex.getLsbD l = true ∧ x.badTarget u (x.rdD o.a l) = none := hgood
      have hd : x.dividesEach gs = true ↔ divides := dividesEach_iff
      have leads {v : State} (hv : branchEach x u (x.rdD o.a) (fun y s => y.complete s (link x)) = v) : ends i targets v := by
        rw [← hwords] at hf
        have next := branchPair_next (link := link) h hf
        rw [hv, ← he] at next
        change exec i s = .next (x.walked (words targets) _)
        rw [← hwords]
        exact next
      refine ⟨fun f hdiv hj => ?_, fun hok => ?_⟩
      · exact leads (branchEach_reconv hgood' hgs (hd.2 hdiv) (hjoins.trans hj))
      · have ok : x.dividesEach gs = true → u.reconvFault x.c.core x.g x.sp = none := fun h => hjoins.trans (hok (hd.1 h))
        refine ⟨fun h0 => leads (branchEach_nobody hgood' hgs h0), fun h0 => ⟨_, only_effect h h0 (link x), fun ho => ?_, fun ho => ?_⟩⟩
        · exact leads (branchEach_onward hgood' hgs h0 ho)
        · exact leads (branchEach_parts hgood' hgs h0 ho ok)
    exact ⟨each (link := fun _ => []) rfl, each (link := fun _ => []) rfl, each (link := fun x => x.link o.d) rfl⟩

end Sys2Proof.Machine

namespace Sys2Proof.Machine

/-! ## What entering blocks and traps keep: numbers given out, and handles -/

/-- `t` comes after `s`: no number is given back, and each cohort stands with its handles. -/
def State.Before (s t : State) : Prop :=
  s.fresh ≤ t.fresh ∧ ∀ cr c, s.cohort? cr = some c → ∃ d, t.cohort? cr = some d ∧ d.handles = c.handles

theorem State.Before.rfl {s : State} : s.Before s := ⟨Nat.le_refl _, fun _ c h => ⟨c, h, Eq.refl _⟩⟩

theorem State.Before.trans {s t v : State} (h : s.Before t) (k : t.Before v) : s.Before v := by
  refine ⟨h.1.trans k.1, fun cr c hc => ?_⟩
  obtain ⟨d, hd, hdc⟩ := h.2 cr c hc
  obtain ⟨e, he, hed⟩ := k.2 cr d hd
  exact ⟨e, he, hed.trans hdc⟩

theorem State.before_of_blocks {s t : State} (hf : s.fresh ≤ t.fresh) (hb : t.blocks = s.blocks) : s.Before t := by
  refine ⟨hf, fun cr c hc => ⟨c, ?_, rfl⟩⟩
  unfold State.cohort? State.block? at hc ⊢
  rwa [hb]

/-- A search by a name that a change keeps finds the changed element. -/
theorem find?_map_named {α β : Type} [BEq β] [LawfulBEq β] {n : α → β} {f : α → α} {k : β} {l : List α}
    (hf : ∀ x ∈ l, n (f x) = n x) {a : α} (h : (l.find? fun x => n x == k) = some a) :
    ((l.map f).find? fun x => n x == k) = some (f a) := by
  induction l with
  | nil => cases h
  | cons x l ih =>
    have hx := hf x List.mem_cons_self
    by_cases hk : n x = k
    · obtain rfl : x = a := by simpa [List.find?_cons, hk] using h
      simp [hx, hk]
    · rw [List.find?_cons_of_neg (by simpa using hk)] at h
      rw [List.map_cons, List.find?_cons_of_neg (by simpa [hx] using hk)]
      exact ih (fun y hy => hf y (List.mem_cons_of_mem _ hy)) h

/-- Changing a cohort to another with its name and its handles keeps what stands. -/
theorem State.before_modCohort {s : State} {cr : CRef} {f : Cohort → Cohort} (hi : ∀ c, c.id = cr.cohort → (f c).id = cr.cohort)
    (hh : ∀ c, s.cohort? cr = some c → (f c).handles = c.handles) : s.Before (s.modCohort cr f) := by
  refine ⟨Nat.le_refl _, fun cr' c hc => ?_⟩
  obtain ⟨b, hb, hcb⟩ := Option.bind_eq_some_iff.1 hc
  have hb' : (s.modCohort cr f).block? cr'.b = some (if b.ref == cr.b then b.modCohort cr.cohort f else b) :=
    find?_map_named (f := fun x : Block => if x.ref == cr.b then x.modCohort cr.cohort f else x)
      (fun x _ => by split <;> rfl) hb
  have hbr : b.ref = cr'.b := by simpa using List.find?_some hb
  have hci : c.id = cr'.cohort := by simpa using List.find?_some hcb
  unfold State.cohort?
  rw [hb']
  by_cases hr : b.ref = cr.b
  · have hc' : (b.modCohort cr.cohort f).cohort? cr'.cohort = some (if c.id == cr.cohort then f c else c) :=
      find?_map_named (f := fun x : Cohort => if x.id == cr.cohort then f x else x)
        (fun x _ => by
          by_cases hx : x.id = cr.cohort
          · simp [hx, hi x hx]
          · simp [hx]) hcb
    simp only [hr, beq_self_eq_true, if_true]
    refine ⟨_, hc', ?_⟩
    by_cases hk : c.id = cr.cohort
    · have hcr : cr' = cr := by
        cases cr; cases cr'
        simp_all
      simp only [hk, beq_self_eq_true, if_true]
      exact hh c (hcr ▸ hc)
    · simp [hk]
  · simp only [beq_eq_false_iff_ne.2 hr, Bool.false_eq_true, if_false]
    exact ⟨c, hcb, rfl⟩

theorem State.before_modSplit (s : State) (r : SRef) (f : Split → Split) : s.Before (s.modSplit r f) :=
  State.before_modCohort (fun _ h => h) fun _ _ => rfl

theorem State.before_bump {s t : State} (h : s.bump.Before t) : s.Before t :=
  State.Before.trans (State.before_of_blocks (t := s.bump) (Nat.le_succ _) rfl) h

/-! ### Results that become visible change no handle -/

theorem Cohort.putAll_handles (ls : List Nat) (c : Cohort) (r : Reg) (v : Nat → Word) :
    (ls.foldl (fun c l => c.put r l (v l)) c).handles = c.handles :=
  foldl_keeps Cohort.handles (fun c l => by
    unfold Cohort.put
    split
    · rfl
    · rfl
    · split <;> rfl) ls c

@[simp] theorem Cohort.commit_handles (c : Cohort) (p : Pend) (ls : Mask) : (c.commit p ls).handles = c.handles := by
  unfold Cohort.commit
  split
  · rfl
  · exact Cohort.putAll_handles _ _ _ _

@[simp] theorem Cohort.commitWhere_handles (c : Cohort) (ls : Mask) (vis : Pend → Bool) : (c.commitWhere ls vis).handles = c.handles :=
  foldl_keeps Cohort.handles (fun c p => c.commit_handles p ls) _ c

theorem Cohort.cap_named {c d : Cohort} {n : Nat} (h : c.cap n = some d) : d.id = c.id ∧ d.handles = c.handles := by
  unfold Cohort.cap at h
  split at h
  · cases h; exact ⟨rfl, rfl⟩
  · split at h
    · cases h
    · cases h; exact ⟨rfl, rfl⟩

/-! ### Traps, entries of blocks and merges -/

theorem State.before_endByTrap (s : State) (g : Grid) (b : Block) (c : Cohort) (lane cause : Nat) (team : Bool) :
    s.Before (s.endByTrap g b c lane cause team) := by
  have noted (d ty core pay : Nat) : (s.record d ty core pay).fresh = s.fresh ∧ (s.record d ty core pay).blocks = s.blocks := by
    unfold State.record
    split <;> exact ⟨rfl, rfl⟩
  exact State.before_of_blocks (noted ..).1.ge (noted ..).2

theorem State.before_trapEntry (s : State) (r : SRef) (ts : Mask) (t : Trap) : s.Before (s.trapEntry r ts t) := by
  unfold State.trapEntry
  split
  · next c _ _ _ hc _ _ =>
    have hid := State.cohort?_id hc
    split
    · exact .rfl
    · dsimp only
      split
      · exact State.before_endByTrap ..
      · split
        · exact State.before_endByTrap ..
        · split
          · refine State.before_modCohort (fun _ _ => ?_) fun d hd => ?_
            · simpa [Cohort.settleAB] using hid
            · cases hc.symm.trans hd
              simp [Cohort.settleAB]
          · split
            · exact State.before_endByTrap ..
            · next c3 hcap =>
              obtain ⟨h3, hh⟩ := Cohort.cap_named hcap
              refine State.before_bump (State.before_modCohort (fun _ _ => ?_) fun d hd => ?_)
              · simpa [h3, Cohort.settleAB] using hid
              · cases hc.symm.trans hd
                simpa [Cohort.settleAB] using hh
  · exact .rfl

theorem State.before_enterAt (s : State) (r : SRef) (a w : DWord) (merged : Bool) : s.Before (s.enterAt r a w merged) :=
  State.before_modSplit ..

theorem State.before_enterHeader (s : State) (r : SRef) (merged : Bool) : s.Before (s.enterHeader r merged) := by
  unfold State.enterHeader
  split
  · split
    · exact State.before_modSplit ..
    · split
      · exact State.before_trapEntry ..
      · exact State.before_enterAt ..
  · exact .rfl

theorem State.before_mergeGroup (s : State) (cr : CRef) (g : List Split) : s.Before (s.mergeGroup cr g) := by
  unfold State.mergeGroup
  split
  · exact .rfl
  · refine State.Before.trans (State.before_modCohort (fun c hc => ?_) fun c _ => ?_) (State.before_enterHeader ..)
    · simpa [Cohort.settleMerge] using hc
    · simp [Cohort.settleMerge]

theorem State.before_remerge (s : State) (cr : CRef) : s.Before (s.remerge cr) := by
  have all (n : Nat) (s : State) : s.Before (State.mergeAll cr n s) := by
    induction n generalizing s with
    | zero => exact .rfl
    | succ n ih =>
      unfold State.mergeAll
      split
      · exact .rfl
      · exact (State.before_mergeGroup ..).trans (ih _)
  exact all 9 s

theorem State.before_enterBlock (s : State) (r : SRef) : s.Before (s.enterBlock r) := by
  unfold State.enterBlock
  split
  · split
    · exact State.before_modSplit ..
    · split
      · exact State.before_enterHeader ..
      · split
        · split
          · exact State.before_modSplit ..
          · split
            · exact State.before_trapEntry ..
            · exact (State.before_modSplit ..).trans (State.before_remerge ..)
        · exact State.before_enterHeader ..
  · exact .rfl

theorem State.before_settle (s : State) (r : SRef) : s.Before (s.settle r) := by
  unfold State.settle
  split
  · split
    · exact State.before_enterBlock ..
    · exact .rfl
  · exact .rfl

theorem Ctx.before_raise (x : Ctx) (s : State) (fs : List LaneFault) : s.Before (x.raise s fs) := by
  unfold Ctx.raise
  split
  · exact .rfl
  · exact State.before_trapEntry ..

end Sys2Proof.Machine

namespace Sys2Proof.Machine

/-! ## Wrappers of issue: walks and checkpoints (R235, R398) -/

section
variable {i : Instr} {s u : State} {x : Ctx} {addrs : Ctx → List DWord} {go : State → Host.Outcome State Fault Refusal}

/-- An instruction with a page that is still to be walked waits, and has not issued. -/
theorem withWalks_suspends (h : Issues i s x u) (hm : ¬ x.Mapped u (addrs x)) :
    ∃ t, withWalks i addrs s go = .next t ∧ x.Suspends s t (addrs x) := by
  let misses := (addrs x).filter fun a => u.codeMiss x.c.core x.g x.sp.mode a
  let qs := (misses.map fun a => WalkReq.mk x.c.core x.g.id (a.toNat / 32768)).dedup
  have hne : misses ≠ [] := by
    intro hnil
    refine hm fun a ha => Bool.eq_false_iff.2 fun hmiss => ?_
    have hin : a ∈ misses := List.mem_filter.2 ⟨ha, hmiss⟩
    rw [hnil] at hin
    cases hin
  have hc : (x.ex != 0#64 && x.legal && !x.underGap && !misses.isEmpty) = true := by simp [h.lanes, h.legal, h.gap, hne]
  obtain ⟨p, hp⟩ := beginIssue_split h.begins
  obtain ⟨f, ws, he, hq, hw⟩ := askWalks_frame qs { s with selected := s.selected.drop 1 }
  have hmiss : ∀ a, u.codeMiss x.c.core x.g x.sp.mode a = s.codeMiss x.c.core x.g x.sp.mode a := by
    rw [(beginIssue_go h.begins).2.2.2.2]
    exact fun _ => rfl
  unfold withWalks withWalksFor
  rw [h.begins]
  refine ⟨_, if_pos hc, ?_⟩
  rw [he]
  refine ⟨qs, p, hp, State.split?_modSplit hp (show p.id = _ from State.split?_id hp), ?_, fun q => ?_, hq, hw⟩
  · rw [← List.drop_one]
    rfl
  · simp only [qs, misses, List.mem_dedup, List.mem_map, List.mem_filter, hmiss, and_assoc, eq_comm]

theorem withWalks_passes (h : s.beginIssue i = .go x u) (hm : x.Mapped u (addrs x)) {t : State} (hg : go s = .next t) :
    withWalks i addrs s go = .next (x.walked (addrs x) t) :=
  withWalksFor_passes (mode := fun x => x.sp.mode) h hm hg

/-- An instruction that forces no checkpoint, or has taken it, goes on. -/
theorem forced_passes {force : Ctx → State → Bool} (h : s.beginIssue i = .go x u)
    (hf : x.sp.forced = true ∨ x.g.ckpt = false ∨ force x u = false) {t : State} (hg : go s = .next t) (hn : s.fresh < t.fresh) :
    forced i s force go = .next (x.after t) := by
  unfold forced Ctx.after
  rw [h]
  by_cases hx : x.sp.forced = true
  · simp [hx, hg, hn.ne']
  · have hno : (x.g.ckpt && force x u) = false := by
      rcases hf with hf | hf | hf
      · exact absurd hf hx
      · simp [hf]
      · simp [hf]
    simp only [Bool.and_eq_false_iff] at hno
    rcases hno with hno | hno <;> simp [hx, hno, hg]

theorem beginIssue_fresh (h : s.beginIssue i = .go x u) : s.fresh < u.fresh := by
  rw [(beginIssue_go h).2.2.2.2]
  exact Nat.lt_succ_self _

end

/-! ## Effects under a number of their own -/

theorem Ctx.Effect.bump {x : Ctx} {u t : State} {k : Cls} {ls : Mask} {os : List (Reg × (Nat → Word))} {fin : Finish}
    (h : x.Effect u t k ls os fin) : x.Effect u.bump t.bump k ls os fin := by
  obtain ⟨d, ht, hd⟩ := h
  exact ⟨d, by rw [ht]; rfl, hd⟩

theorem Ctx.note_bump (x : Ctx) (s : State) (ls : Mask) (fin : Finish) : x.note s.bump ls fin = (x.note s ls fin).bump := by
  unfold Ctx.note
  split <;> rfl

theorem Ctx.complete_bump (x : Ctx) (s : State) (os : List (Reg × (Nat → Word))) : x.complete s.bump os = (x.complete s os).bump := by
  have owed : x.owe s.bump .v x.ex os = (x.owe s .v x.ex os).bump := by
    unfold Ctx.owe
    split <;> rfl
  rw [Ctx.complete, owed, Ctx.note_bump]
  rfl

/-! ## Issue of a copy (R215, R221) -/

/-- No access of the lowest executing lane is under way. -/
def Ctx.Calm (x : Ctx) (u : State) : Prop := ∀ a ∈ u.flight, a.c = x.r.c → a.hasLane (lowest x.ex) = true → a.isFixed = true

theorem Ctx.Calm.unperformed {x : Ctx} {u : State} (h : x.Calm u) : (u.unperformed x.r.c x.low).isEmpty = true := by
  rw [List.isEmpty_iff, State.unperformed, List.filter_eq_nil_iff]
  intro a ha
  by_cases hc : a.c = x.r.c
  · by_cases hl : a.hasLane x.low = true
    · simp [hc, hl, h a ha hc hl]
    · simp [hl]
  · simp [hc]

/-- The addresses whose pages a copy begins at. -/
def pagesOf (m : Option Moves) : List DWord := (m.map Moves.firsts).getD []

/-- The operation that a copy puts in its queue. -/
def Ctx.copyOp (x : Ctx) (u : State) (o : OpA) (queue : Nat) (m : Moves) (box : Nat) : CopyOp :=
  { id := u.fresh, b := x.r.c.b, c := x.r.c.cohort, core := x.c.core, queue := queue, scope := fld o.m 3 2, route := fld o.m 7 4,
    moves := m, mode := x.sp.mode, box := box }

/-- A COPY or a FILL, which moves nothing where it has no run. -/
def plainMove (i : Instr) : Bool := match i with | .copy _ => true | .fill _ => true | _ => false

/-- What a copy does once it has issued. -/
def copyBody (i : Instr) (o : OpA) (queue : Nat) (plan : Ctx → State → Plan) (box : Ctx → Nat) (x : Ctx) (u : State) : State :=
  match plan x u with
  | .error (c, a, gpa) => x.raiseAll u c (BitVec.ofNat 64 a) gpa
  | .ok m =>
    let v := (x.complete u.bump []).setHandle x.r.c (fld o.d 3 0) (.pending u.fresh)
    match m with
    | .runs _ _ fill _ rs =>
      if rs.isEmpty && plainMove i then v.resolve x.r.c.b u.fresh 0 false 0 0
      else
        let w := if fill then rs.foldl (fun s r => unfill x s r.dst r.n) v else v
        { w with copies := w.copies ++ [x.copyOp u o queue m (box x)] }
    | _ => { v with copies := v.copies ++ [x.copyOp u o queue m (box x)] }

section
variable {i : Instr} {s u : State} {x : Ctx} {o : OpA} {queue : Nat} {force : Ctx → State → Bool} {sides : Ctx → Option Moves}
  {plan : Ctx → State → Plan} {box : Ctx → Nat}

theorem copyIssue_eq : copyIssue i o queue force sides plan s box =
    withWalks i (fun x => pagesOf (sides x)) s fun s => forced i s (fun x s => planIs (plan x s) (fun _ => true) && force x s) fun s =>
      issueIf i s (fun x s => (s.unperformed x.r.c x.low).isEmpty) (fun _ _ => true) (copyBody i o queue plan box) := by
  rfl

theorem copyIssue_suspends (h : Issues i s x u) (hm : ¬ x.Mapped u (pagesOf (sides x))) :
    ∃ t, copyIssue i o queue force sides plan s box = .next t ∧ x.Suspends s t (pagesOf (sides x)) :=
  withWalks_suspends (addrs := fun x => pagesOf (sides x)) h hm

theorem copyIssue_next (h : Issues i s x u) (hc : x.Calm u) (hm : x.Mapped u (pagesOf (sides x)))
    (hf : x.sp.forced = true ∨ x.g.ckpt = false ∨ (planIs (plan x u) (fun _ => true) && force x u) = false)
    (hv : u.fresh ≤ (copyBody i o queue plan box x u).fresh) :
    copyIssue i o queue force sides plan s box =
      .next (x.walked (pagesOf (sides x)) (x.after ((copyBody i o queue plan box x u).settle x.r))) := by
  have next := issueIf_next h (ready := fun x s => (s.unperformed x.r.c x.low).isEmpty) (ok := fun _ _ => true) rfl hc.unperformed
    (copyBody i o queue plan box)
  have grows : s.fresh < ((copyBody i o queue plan box x u).settle x.r).fresh :=
    (beginIssue_fresh h.begins).trans_le (hv.trans (State.before_settle _ _).1)
  rw [copyIssue_eq]
  exact withWalks_passes (addrs := fun x => pagesOf (sides x)) h.begins hm
    (forced_passes (go := fun s => issueIf i s _ _ (copyBody i o queue plan box)) h.begins hf next grows)

/-- A copy whose plan fails traps its executing lanes. -/
theorem copyIssue_traps (h : Issues i s x u) (hc : x.Calm u) (hm : x.Mapped u (pagesOf (sides x))) {c a gpa : Nat}
    (hp : plan x u = .error (c, a, gpa)) : copyIssue i o queue force sides plan s box =
      .next (x.walked (pagesOf (sides x)) (x.after ((x.raiseAll u c (BitVec.ofNat 64 a) gpa).settle x.r))) := by
  have body : copyBody i o queue plan box x u = x.raiseAll u c (BitVec.ofNat 64 a) gpa := by simp only [copyBody, hp]
  have next := copyIssue_next (queue := queue) (force := force) (plan := plan) (sides := sides) (box := box) (o := o) h hc hm (.inr (.inr (by simp [hp, planIs]))) (by
    rw [body]
    exact (Ctx.before_raise ..).1)
  rw [body] at next
  exact next

/-- The operation is in its queue, and its handle follows it. -/
def Ctx.queued (x : Ctx) (u : State) (h : Option Nat) (op : CopyOp) : State :=
  let t := x.complete u.bump []
  let v := match h with
    | some h => t.modCohort x.r.c fun c => { c with handles := tput .empty h (.pending u.fresh) c.handles }
    | none => t
  { v with copies := v.copies ++ [op] }

/-- What a copy does that is no FILL, and moves something. -/
theorem copyBody_queues {m : Moves} (hp : plan x u = .ok m)
    (hm : ∀ tg fg fill s9 rs, m = .runs tg fg fill s9 rs →
      fill = false ∧ (rs ≠ [] ∨ plainMove i = false)) :
    copyBody i o queue plan box x u = x.queued u (some (fld o.d 3 0)) (x.copyOp u o queue m (box x)) := by
  unfold copyBody
  simp only [hp]
  cases m with
  | runs tg fg fill s9 rs =>
    obtain ⟨rfl, hrs⟩ := hm _ _ _ _ _ rfl
    have hno : (rs.isEmpty && plainMove i) = false := by
      rcases hrs with hrs | hrs
      · simp [hrs]
      · simp [hrs]
    simp only [hno, Bool.false_eq_true, if_false]
    rfl
  | peer fg s9 rs bar ds => rfl
  | fence mask => rfl

end

end Sys2Proof.Machine

namespace Sys2Proof.Machine

/-! ## What an issued copy is to do -/

section
variable (x : Ctx) (u s : State) (i : Instr) (pages : List DWord)

/-- The operation has entered its queue, and the handle, where there is one, follows it. -/
def Ctx.Queues (op : CopyOp) (h : Option Nat) : Prop :=
  ∃ t, x.Effect u.bump t .v x.ex [] .complete ∧
    let v := match h with
      | some h => t.modCohort x.r.c fun c => { c with handles := tput .empty h (.pending u.fresh) c.handles }
      | none => t
    exec i s = .next (x.walked pages (x.after (({ v with copies := v.copies ++ [op] } : State).settle x.r)))

/-- The executing lanes trap. -/
def Ctx.TrapsWith (c a gpa : Nat) : Prop :=
  exec i s = .next (x.walked pages (x.after ((x.raiseAll u c (BitVec.ofNat 64 a) gpa).settle x.r)))

/-- The copy issues: no access of its lane is under way, and no page of it has still to be walked. -/
def Ctx.Starts : Prop := Issues i s x u ∧ x.Calm u ∧ x.Mapped u pages

/-- Its checkpoint has been taken, or none is due (R225). -/
def Ctx.Free (force : Prop) : Prop := x.sp.forced = true ∨ x.g.ckpt = false ∨ ¬ force

/-- It waits for the walks of its pages. -/
def Ctx.Waits : Prop := Issues i s x u → ¬ x.Mapped u pages → ∃ t, exec i s = .next t ∧ x.Suspends s t pages

end

section
variable {x : Ctx} {u s : State} {i : Instr} {o : OpA} {queue : Nat} {force : Ctx → State → Bool} {sides : Ctx → Option Moves}
  {plan : Ctx → State → Plan} {box : Ctx → Nat} {pages : List DWord} {m : Moves}

theorem completes_bump (h : Issues i s x u) : x.Effect u.bump (x.complete u.bump []) .v x.ex [] .complete := by
  rw [Ctx.complete_bump]
  exact (complete_effect h []).bump

/-- What `plainMove`, the checks and the force of a checkpoint have to be for a copy to enter its queue. -/
theorem copyIssue_queues (he : exec i s = copyIssue i o queue force sides plan s box) (hpg : pagesOf (sides x) = pages)
    (h : x.Starts u s i pages) (hp : plan x u = .ok m)
    (hm : ∀ tg fg fill s9 rs, m = .runs tg fg fill s9 rs → fill = false ∧ (rs ≠ [] ∨ plainMove i = false))
    (hf : x.Free (force x u = true)) : x.Queues u s i pages (x.copyOp u o queue m (box x)) (some (fld o.d 3 0)) := by
  obtain ⟨hi, hc, hmap⟩ := h
  subst hpg
  have body := copyBody_queues (o := o) (queue := queue) (box := box) (i := i) hp hm
  have free : x.sp.forced = true ∨ x.g.ckpt = false ∨ (planIs (plan x u) (fun _ => true) && force x u) = false :=
    hf.imp id (Or.imp id fun hn => by simp [hn])
  have next := copyIssue_next (queue := queue) (force := force) (box := box) (o := o) hi hc hmap free (by
    rw [body]
    obtain ⟨d, ht, -⟩ := completes_bump hi
    show u.fresh ≤ (x.complete u.bump []).fresh
    rw [ht]
    exact Nat.le_succ u.fresh)
  rw [body, ← he] at next
  exact ⟨_, completes_bump hi, next⟩

theorem copyIssue_fails (he : exec i s = copyIssue i o queue force sides plan s box) (hpg : pagesOf (sides x) = pages)
    (h : x.Starts u s i pages) {c a gpa : Nat} (hp : plan x u = .error (c, a, gpa)) : x.TrapsWith u s i pages c a gpa := by
  obtain ⟨hi, hc, hmap⟩ := h
  subst hpg
  unfold Ctx.TrapsWith
  rw [he]
  exact copyIssue_traps hi hc hmap hp

theorem copyIssue_waits (he : exec i s = copyIssue i o queue force sides plan s box) (hpg : pagesOf (sides x) = pages) :
    x.Waits u s i pages := by
  subst hpg
  intro hi hm
  rw [he]
  exact copyIssue_suspends hi hm

end

/-! ## The checks of a side (R221) -/

/-- The cause that the region of an address gives a byte of a copy. -/
theorem copyRegion_eq (sys fill isDst : Bool) (pa : Nat) (ws : Bool) : copyRegion sys fill isDst pa ws =
    if paRegion pa = 3 ∨ (paRegion pa = 2 ∨ paRegion pa = 4) ∧ sys = false then some 2
    else if isDst = true ∧ fill = true then (if ws = true then none else some 2)
    else if isDst = true ∧ paRegion pa = 1 then some 0x0A else none := by
  simp [copyRegion, and_comm]

section
variable {x : Ctx} {u : State} {sys fill isDst : Bool} {a : Nat}

theorem sideFault_high (h : 2 ^ 51 ≤ a) : sideFault x u true sys fill isDst a = some { cause := 2 } := by
  unfold sideFault State.copyXlate
  rw [if_pos rfl, if_pos h]

theorem sideFault_translated (h : a < 2 ^ 51) {p : Phys}
    (hp : u.xlate x.c.core x.g x.sp.mode (if isDst then .wr else .rd) (BitVec.ofNat 64 a) = .ok p) :
    sideFault x u true sys fill isDst a =
      ((copyRegion sys fill isDst p.gpa p.ws).or (copyRegion sys fill isDst p.pa p.ws)).map fun c => { cause := c } := by
  unfold sideFault State.copyXlate
  simp only [if_true, if_neg h.not_ge, hp]
  cases (copyRegion sys fill isDst p.gpa p.ws).or (copyRegion sys fill isDst p.pa p.ws) <;> rfl

theorem sideFault_untranslated (h : a < 2 ^ 51) {e : XFault}
    (he : u.xlate x.c.core x.g x.sp.mode (if isDst then .wr else .rd) (BitVec.ofNat 64 a) = .error e) :
    sideFault x u true sys fill isDst a = some (if e.leaf.isSome then
      (match copyRegion sys fill isDst e.gpa (paRegion e.gpa == 1) with
        | some c => { cause := c }
        | none => e) else e) := by
  unfold sideFault State.copyXlate
  simp only [if_true, if_neg h.not_ge, he]
  by_cases hl : e.leaf.isSome
  · simp only [hl, if_true]
    cases copyRegion sys fill isDst e.gpa (paRegion e.gpa == 1) <;> rfl
  · simp only [hl, if_false, Bool.false_eq_true]

theorem sideFault_scratch : sideFault x u false sys fill isDst a = none ↔ inScratch x.g a 1 = true := by
  simp [sideFault]

end

/-- The check of one side of a copy: its alignment, then its first byte. -/
def sideCheck (x : Ctx) (s : State) (sys fill glob isDst : Bool) (a align : Option Nat) : Option (Nat × Nat × Nat) :=
  match align with
  | some v => some (3, v, 0)
  | none => a.bind fun v => (sideFault x s glob sys fill isDst v).map fun f => (f.cause, v, f.gpa)

theorem sideFaults_eq (x : Ctx) (s : State) (sys fg tg fill : Bool) (src dst sa da : Option Nat) :
    sideFaults x s sys fg tg fill src dst sa da = (sideCheck x s sys fill fg false src sa).or (sideCheck x s sys fill tg true dst da) := rfl

section
variable {x : Ctx} {s : State} {sys fill glob isDst : Bool} {a : Option Nat} {v : Nat}

@[simp] theorem sideCheck_misaligned : sideCheck x s sys fill glob isDst a (some v) = some (3, v, 0) := rfl

theorem sideCheck_fault {f : XFault} (h : sideFault x s glob sys fill isDst v = some f) :
    sideCheck x s sys fill glob isDst (some v) none = some (f.cause, v, f.gpa) := by simp [sideCheck, h]

theorem sideCheck_none (h : ∀ v, a = some v → sideFault x s glob sys fill isDst v = none) : sideCheck x s sys fill glob isDst a none = none := by
  cases a with
  | none => rfl
  | some v => simp [sideCheck, h v rfl]

end

end Sys2Proof.Machine

namespace Sys2Proof.Machine

/-! ## COPY (R217) -/

/-- The count that the inline word of a COPY or a FILL gives. -/
def copyNumber (x : Ctx) (w : DWord) : Nat :=
  if fld w 47 40 = 0xF0 then fld w 39 0 else x.rdN 2 (BitVec.ofNat 8 (fld w 47 40)) (lowest x.ex)

theorem copyCount_eq (x : Ctx) (w : DWord) : copyCount x w = if 2 ^ 40 ≤ copyNumber x w then none else some (copyNumber x w) := by
  unfold copyCount copyNumber
  by_cases h : fld w 47 40 = 0xF0
  · have small : ¬ 2 ^ 40 ≤ fld w 39 0 := Nat.not_le.2 (Nat.mod_lt _ (by decide))
    simp only [h, if_true, beq_self_eq_true, if_neg small]
  · simp only [h, if_false, beq_eq_false_iff_ne.2 h, Bool.false_eq_true]
    rfl

theorem copyCount_none {x : Ctx} {w : DWord} (h : 2 ^ 40 ≤ copyNumber x w) : copyCount x w = none := by rw [copyCount_eq, if_pos h]

theorem copyCount_some {x : Ctx} {w : DWord} (h : copyNumber x w < 2 ^ 40) : copyCount x w = some (copyNumber x w) := by
  rw [copyCount_eq, if_neg h.not_ge]

section
variable (x : Ctx) (y : OpX1)

def copyToGlob : Bool := decide (fld y.op.m 1 0 ≤ 1)
def copyFromGlob : Bool := decide (fld y.op.m 1 0 % 2 = 0)
def copyDst : Nat := x.rdN (if copyToGlob y then 2 else 1) y.op.a (lowest x.ex)
def copySrc : Nat := x.rdN (if copyFromGlob y then 2 else 1) y.op.b (lowest x.ex)

/-- The pages that a COPY begins at. -/
def copyPages : List DWord :=
  if copyNumber x y.w0 = 0 ∨ 2 ^ 40 ≤ copyNumber x y.w0 then [] else
    (if copyFromGlob y then [BitVec.ofNat 64 (copySrc x y)] else []) ++ if copyToGlob y then [BitVec.ofNat 64 (copyDst x y)] else []

/-- What a COPY of some bytes moves. -/
def copyMoves : Moves :=
  .runs (copyToGlob y) (copyFromGlob y) false false [⟨copyDst x y, some (copySrc x y), copyNumber x y.w0⟩]

end

section
variable {x : Ctx} {y : OpX1} {u s : State}

theorem copySides_some (h : copyNumber x y.w0 < 2 ^ 40) : copySides x y.op y.w0 = some (if copyNumber x y.w0 = 0 then
    .runs (copyToGlob y) (copyFromGlob y) false false [] else copyMoves x y) := by
  unfold copySides
  rw [copyCount_some h]
  by_cases h0 : copyNumber x y.w0 = 0
  · simp only [h0, if_true, beq_self_eq_true, Option.map_some]
    rfl
  · simp only [h0, if_false, beq_eq_false_iff_ne.2 h0, Bool.false_eq_true, Option.map_some]
    rfl

theorem copySides_none (h : 2 ^ 40 ≤ copyNumber x y.w0) : copySides x y.op y.w0 = none := by
  unfold copySides
  rw [copyCount_none h]
  rfl

theorem copySides_pages (x : Ctx) (y : OpX1) : pagesOf (copySides x y.op y.w0) = copyPages x y := by
  unfold copyPages
  by_cases hb : 2 ^ 40 ≤ copyNumber x y.w0
  · rw [copySides_none hb, if_pos (.inr hb)]
    rfl
  · rw [copySides_some (Nat.not_le.1 hb)]
    by_cases h0 : copyNumber x y.w0 = 0
    · rw [if_pos h0, if_pos (.inl h0)]
      cases hf : copyFromGlob y <;> cases ht : copyToGlob y <;> rfl
    · rw [if_neg h0, if_neg (by tauto)]
      cases hf : copyFromGlob y <;> cases ht : copyToGlob y <;> simp [pagesOf, copyMoves, Moves.firsts, hf, ht]

theorem copyPlan_huge (h : 2 ^ 40 ≤ copyNumber x y.w0) : copyPlan x u y.op y.w0 = .error (5, 0, 0) := by
  unfold copyPlan
  rw [copySides_none h]

theorem copyPlan_empty (h : copyNumber x y.w0 = 0) :
    copyPlan x u y.op y.w0 = .ok (.runs (copyToGlob y) (copyFromGlob y) false false []) := by
  unfold copyPlan
  rw [copySides_some (by omega), if_pos h]
  rfl

theorem copyPlan_some (h : 0 < copyNumber x y.w0) (hb : copyNumber x y.w0 < 2 ^ 40) : copyPlan x u y.op y.w0 =
    match (sideCheck x u (fld y.op.m 3 2 == 3) false (copyFromGlob y) false (some (copySrc x y)) none).or
      (sideCheck x u (fld y.op.m 3 2 == 3) false (copyToGlob y) true (some (copyDst x y)) none) with
    | some f => .error f
    | none => .ok (copyMoves x y) := by
  unfold copyPlan
  rw [copySides_some hb, if_neg h.ne']
  rfl

theorem exec_copy : exec (.copy y) s = copyIssue (.copy y) y.op (queueOf y.op)
    (fun x s => decide (fld y.op.m 1 0 ≤ 1) || planIs (copyPlan x s y.op y.w0) (toPartner x)) (fun x => copySides x y.op y.w0)
    (fun x s => copyPlan x s y.op y.w0) s := rfl

/-! ### A copy of nothing (R217) -/

/-- Looking up in a table whose values were changed, where the default stands. -/
theorem tget_map {β : Type} {d : β} {f : β → β} (hd : f d = d) (t : Sparse β) (k : Nat) :
    tget d (t.map fun p => (p.1, f p.2)) k = f (tget d t k) := by
  induction t with
  | nil => exact hd.symm
  | cons p t ih =>
    rw [List.map_cons]
    unfold tget
    by_cases hk : k = p.1
    · rw [if_pos hk, if_pos hk]
    · rw [if_neg hk, if_neg hk, ih]

/-- What an operation that ends makes of a handle (R215). -/
def Handle.resolvedBy (op code : Nat) (cancelled : Bool) (n : Nat) (a : DWord) (v : Handle) : Handle :=
  if v = .pending op then .resolved code cancelled n a else v

/-- A cohort whose handle follows the operation that ends finds it resolved. -/
theorem State.resolve_cohort? {s : State} {cr : CRef} {c : Cohort} (h : s.cohort? cr = some c) (op code : Nat) (cancelled : Bool) (n : Nat)
    (a : DWord) : ∃ d, (s.resolve cr.b op code cancelled n a).cohort? cr = some d ∧
      ∀ k, tget .empty d.handles k = Handle.resolvedBy op code cancelled n a (tget .empty c.handles k) := by
  obtain ⟨b, hb, hc⟩ := Option.bind_eq_some_iff.1 h
  let f (c : Cohort) : Cohort := { c with handles := c.handles.map fun p => (p.1, Handle.resolvedBy op code cancelled n a p.2) }
  have same : ∀ v : Nat × Handle, (if v.2 == .pending op then (v.1, Handle.resolved code cancelled n a) else v) =
      (v.1, Handle.resolvedBy op code cancelled n a v.2) := by
    intro v
    by_cases hv : v.2 = .pending op
    · simp [Handle.resolvedBy, hv]
    · simp [Handle.resolvedBy, hv]
  have blocks : (s.resolve cr.b op code cancelled n a).blocks =
      s.blocks.map fun b => if b.ref == cr.b then { b with cohorts := b.cohorts.map f } else b := by
    simp only [State.resolve, same, f]
  have hb' : (s.resolve cr.b op code cancelled n a).block? cr.b = some { b with cohorts := b.cohorts.map f } := by
    unfold State.block?
    rw [blocks]
    exact find?_map_found hb (by simpa using List.find?_some hb)
  have hc' : (b.cohorts.map f).find? (fun d => d.id == cr.cohort) = some (f c) :=
    find?_map_named (n := Cohort.id) (f := f) (fun _ _ => rfl) hc
  refine ⟨f c, ?_, fun k => tget_map rfl _ _⟩
  unfold State.cohort?
  rw [hb']
  exact hc'

theorem toPartner_runs (x : Ctx) (tg fg fill s9 : Bool) (rs : List Run) : toPartner x (.runs tg fg fill s9 rs) = true ↔
    tg = false ∧ ∃ q ∈ rs, x.b.coreOf q.dst ≠ x.c.core ∨ x.b.coreOf (q.dst + q.n - 1) ≠ x.c.core := by
  cases tg
  · simp [toPartner]
  · simp [toPartner]

@[simp] theorem State.settle_copies (s : State) (r : SRef) : (s.settle r).copies = s.copies := 
  congrArg (fun p => p.1.copies) (State.settle_outside s r)

theorem Ctx.after_copies (x : Ctx) (s : State) : (x.after s).copies = s.copies := by
  unfold Ctx.after
  split <;> rfl

theorem Ctx.after_mem (x : Ctx) (s : State) : (x.after s).mem = s.mem := by
  unfold Ctx.after
  split <;> rfl

theorem Ctx.before_after (x : Ctx) (s : State) : s.Before (x.after s) := by
  unfold Ctx.after
  split
  · refine .trans ?_ (State.before_modSplit ..)
    refine ⟨Nat.le_refl _, fun cr c hc => ⟨c, ?_, rfl⟩⟩
    obtain ⟨b, hb, hcb⟩ := Option.bind_eq_some_iff.1 hc
    unfold State.cohort? State.block? State.modBlock
    rw [find?_map_named (f := fun b => if b.ref == x.r.c.b then { b with st := .checkpointing, exposed := true, forcer := none } else b)
      (fun b _ => by split <;> rfl) hb]
    split <;> exact hcb
  · exact .rfl

/-- The cohort that issues stands where its effect begins. -/
theorem beginIssue_cohort {i : Instr} (h : s.beginIssue i = .go x u) : u.cohort? x.r.c = some x.c := by
  obtain ⟨p, hp⟩ := beginIssue_split h
  obtain ⟨c, hc, -⟩ := Option.bind_eq_some_iff.1 hp
  obtain ⟨-, -, -, hid, hu⟩ := beginIssue_go h
  rw [hu]
  exact State.cohort?_modCohort (s := ({ s with selected := s.selected.tail } : State).bump) (f := fun _ => x.c) hc hid

/-- Where a copy has issued, its cohort stands, and the handle follows the operation. -/
theorem handle_pending {i : Instr} (h : Issues i s x u) (k : Nat) :
    ∃ c, ((x.complete u.bump []).setHandle x.r.c k (.pending u.fresh)).cohort? x.r.c = some c ∧ tget .empty c.handles k = .pending u.fresh := by
  obtain ⟨d, ht, hd, -⟩ := completes_bump h
  have hid : d.id = x.r.c.cohort := by
    rw [hd]
    exact h.id
  have stands : (x.complete u.bump []).cohort? x.r.c = some d := by
    rw [ht]
    exact State.cohort?_modCohort (f := fun _ => d) (s := u) (beginIssue_cohort h.begins) hid
  refine ⟨_, State.cohort?_modCohort stands hid, ?_⟩
  rw [tget_tput_ne (by simp)]
  simp

theorem copy_of_nothing (h : x.Starts u s (.copy y) (copyPages x y)) (h0 : copyNumber x y.w0 = 0) (hf : x.Free (copyToGlob y = true)) :
    ∃ v c, exec (.copy y) s = .next v ∧ v.cohort? x.r.c = some c ∧ v.copies = u.copies ∧ v.mem = u.mem ∧
      tget .empty c.handles (fld y.op.d 3 0) = .resolved 0 false 0 0 := by
  obtain ⟨hi, hcalm, hm⟩ := h
  let v := (x.complete u.bump []).setHandle x.r.c (fld y.op.d 3 0) (.pending u.fresh)
  obtain ⟨c, hc, hp⟩ := handle_pending hi (fld y.op.d 3 0)
  obtain ⟨c', hc', hr⟩ := State.resolve_cohort? hc u.fresh 0 false 0 0
  obtain ⟨d, ht, -⟩ := completes_bump hi
  have body : copyBody (.copy y) y.op (queueOf y.op) (fun x s => copyPlan x s y.op y.w0) (fun _ => 0) x u =
      v.resolve x.r.c.b u.fresh 0 false 0 0 := by
    simp only [copyBody, copyPlan_empty h0, plainMove, List.isEmpty_nil, Bool.and_self, if_true, v]
  have kept : v.copies = u.copies ∧ v.mem = u.mem ∧ v.fresh = u.fresh + 1 := by
    simp only [v]
    rw [ht]
    exact ⟨rfl, rfl, rfl⟩
  have next := copyIssue_next (o := y.op) (queue := queueOf y.op) (force := fun x s => decide (fld y.op.m 1 0 ≤ 1) || planIs (copyPlan x s y.op y.w0) (toPartner x))
    (sides := fun x => copySides x y.op y.w0) (plan := fun x s => copyPlan x s y.op y.w0) (box := fun _ => 0) hi hcalm
    (by rw [copySides_pages]; exact hm) (hf.imp id (Or.imp id fun hn => ?_)) (by
      rw [body]
      exact kept.2.2 ▸ Nat.le_succ _)
  · rw [body, ← exec_copy, copySides_pages] at next
    obtain ⟨d, hd, hh⟩ := ((State.before_settle (v.resolve x.r.c.b u.fresh 0 false 0 0) x.r).trans (Ctx.before_after x _)).2 _ _ hc'
    refine ⟨_, d, next, hd, ?_, ?_, ?_⟩
    · exact (Ctx.after_copies x _).trans ((State.settle_copies _ _).trans kept.1)
    · exact (Ctx.after_mem x _).trans ((State.settle_mem _ _).trans kept.2.1)
    · rw [hh, hr, hp]
      exact if_pos rfl
  · have hg : copyToGlob y = false := Bool.not_eq_true _ ▸ hn
    have ht : decide (fld y.op.m 1 0 ≤ 1) = false := hg
    simp [copyPlan_empty h0, planIs, ht, hg, toPartner]

end

end Sys2Proof.Machine

namespace Sys2Proof.Machine

section
variable {x : Ctx} {y : OpX1} {u s : State}

/-! ### The checks of a COPY, and its entry (R217, R221) -/

theorem copy_huge (h : x.Starts u s (.copy y) (copyPages x y)) (hn : 2 ^ 40 ≤ copyNumber x y.w0) :
    x.TrapsWith u s (.copy y) (copyPages x y) 5 0 0 :=
  copyIssue_fails exec_copy (copySides_pages x y) h (copyPlan_huge hn)

section
variable (h : x.Starts u s (.copy y) (copyPages x y)) (h0 : 0 < copyNumber x y.w0) (hb : copyNumber x y.w0 < 2 ^ 40)
include h h0 hb

theorem copy_source_fault {f : XFault} (hf : sideFault x u (copyFromGlob y) (fld y.op.m 3 2 == 3) false false (copySrc x y) = some f) :
    x.TrapsWith u s (.copy y) (copyPages x y) f.cause (copySrc x y) f.gpa := by
  refine copyIssue_fails exec_copy (copySides_pages x y) h ?_
  rw [copyPlan_some h0 hb, sideCheck_fault hf]
  rfl

theorem copy_destination_fault (hs : sideFault x u (copyFromGlob y) (fld y.op.m 3 2 == 3) false false (copySrc x y) = none) {f : XFault}
    (hf : sideFault x u (copyToGlob y) (fld y.op.m 3 2 == 3) false true (copyDst x y) = some f) :
    x.TrapsWith u s (.copy y) (copyPages x y) f.cause (copyDst x y) f.gpa := by
  refine copyIssue_fails exec_copy (copySides_pages x y) h ?_
  rw [copyPlan_some h0 hb, sideCheck_none (by simpa using hs), sideCheck_fault hf]
  rfl

theorem copy_queues (hs : sideFault x u (copyFromGlob y) (fld y.op.m 3 2 == 3) false false (copySrc x y) = none)
    (hd : sideFault x u (copyToGlob y) (fld y.op.m 3 2 == 3) false true (copyDst x y) = none)
    (hf : x.Free (copyToGlob y = true ∨
      (x.b.coreOf (copyDst x y) ≠ x.c.core ∨ x.b.coreOf (copyDst x y + copyNumber x y.w0 - 1) ≠ x.c.core))) :
    x.Queues u s (.copy y) (copyPages x y) (x.copyOp u y.op (queueOf y.op) (copyMoves x y) 0) (some (fld y.op.d 3 0)) := by
  have plan : copyPlan x u y.op y.w0 = .ok (copyMoves x y) := by
    rw [copyPlan_some h0 hb, sideCheck_none (by simpa using hs), sideCheck_none (by simpa using hd)]
    rfl
  refine copyIssue_queues (box := fun _ => 0) exec_copy (copySides_pages x y) h plan ?_ (hf.imp id (Or.imp id fun hn hforce => hn ?_))
  · intro tg fg fill s9 rs he
    cases he
    exact ⟨rfl, .inl (List.cons_ne_nil _ _)⟩
  · rcases Bool.or_eq_true_iff.1 hforce with hg | hp
    · exact .inl hg
    · rw [plan] at hp
      obtain ⟨-, q, hq, ha⟩ := (toPartner_runs ..).1 hp
      obtain rfl := List.mem_singleton.1 hq
      exact .inr ha

end

/-! ## FILL (R220) -/

variable (x y) in
/-- The pages that a FILL begins at. -/
def fillPages : List DWord :=
  if x.rdN 2 y.op.b (lowest x.ex) % 4096 ≠ 0 ∨ x.rdN 2 y.op.a (lowest x.ex) % 4096 ≠ 0 ∨ copyNumber x y.w0 = 0 ∨ 2 ^ 40 ≤ copyNumber x y.w0
  then [] else [BitVec.ofNat 64 (x.rdN 2 y.op.b (lowest x.ex)), BitVec.ofNat 64 (x.rdN 2 y.op.a (lowest x.ex))]

variable (x y) in
/-- What a FILL of some bytes moves. -/
def fillMoves : Moves :=
  .runs true true true false [⟨x.rdN 2 y.op.a (lowest x.ex), some (x.rdN 2 y.op.b (lowest x.ex)), copyNumber x y.w0⟩]

theorem exec_fill : exec (.fill y) s = copyIssue (.fill y) y.op (queueOf y.op) (fun _ _ => true) (fun x => fillSides x y.op y.w0)
    (fun x s => fillPlan x s y.op y.w0) s := rfl

theorem fillSides_pages (x : Ctx) (y : OpX1) : pagesOf (fillSides x y.op y.w0) = fillPages x y := by
  have low : x.low = lowest x.ex := rfl
  unfold fillPages fillSides
  rw [copyCount_eq, low]
  by_cases hal : x.rdN 2 y.op.b (lowest x.ex) % 4096 = 0 ∧ x.rdN 2 y.op.a (lowest x.ex) % 4096 = 0
  · obtain ⟨hs, hd⟩ := hal
    simp only [hs, hd, bne_self_eq_false, Bool.or_self, Bool.false_eq_true, if_false, ne_eq, not_true_eq_false, false_or]
    by_cases hb : 2 ^ 40 ≤ copyNumber x y.w0
    · rw [if_pos hb, if_pos (.inr hb)]
      rfl
    · by_cases h0 : copyNumber x y.w0 = 0
      · rw [if_neg hb, if_pos (.inl h0), h0]
        rfl
      · rw [if_neg hb, if_neg (by tauto)]
        simp [h0, pagesOf, Moves.firsts]
  · rw [if_pos (by simp only [bne_iff_ne, Bool.or_eq_true]; omega), if_pos (by omega)]
    rfl

theorem fillPlan_huge (h : 2 ^ 40 ≤ copyNumber x y.w0) : fillPlan x u y.op y.w0 = .error (5, 0, 0) := by
  unfold fillPlan
  rw [copyCount_none h]

variable (x y) in
def fillSrc : Nat := x.rdN 2 y.op.b (lowest x.ex)

variable (x y) in
def fillDst : Nat := x.rdN 2 y.op.a (lowest x.ex)

/-- What is to be checked of an address of a FILL: its first byte, where it has one. -/
def fillByte (n v : Nat) : Option Nat := if n == 0 then none else some v

/-- What is wrong in the alignment of an address of a FILL. -/
def fillAlign (v : Nat) : Option Nat := if v % 4096 == 0 then none else some v

/-- The checks of a FILL, the source before the destination (R221). -/
def fillChecks (x : Ctx) (u : State) (y : OpX1) : Option (Nat × Nat × Nat) :=
  (sideCheck x u (fld y.op.m 3 2 == 3) true true false (fillByte (copyNumber x y.w0) (fillSrc x y)) (fillAlign (fillSrc x y))).or
    (sideCheck x u (fld y.op.m 3 2 == 3) true true true (fillByte (copyNumber x y.w0) (fillDst x y)) (fillAlign (fillDst x y)))

theorem fillPlan_some (hb : copyNumber x y.w0 < 2 ^ 40) : fillPlan x u y.op y.w0 =
    match fillChecks x u y with
    | some f => .error f
    | none => if copyNumber x y.w0 % 4096 != 0 then .error (3, 0, 0)
      else .ok (.runs true true true false
        (if copyNumber x y.w0 == 0 then [] else [Run.mk (fillDst x y) (some (fillSrc x y)) (copyNumber x y.w0)])) := by
  unfold fillPlan
  rw [copyCount_some hb]
  rfl

theorem fillAlign_of_aligned {v : Nat} (h : v % 4096 = 0) : fillAlign v = none := by simp [fillAlign, h]

theorem fillAlign_of_misaligned {v : Nat} (h : v % 4096 ≠ 0) : fillAlign v = some v := by simp [fillAlign, h]

theorem fill_huge (h : x.Starts u s (.fill y) (fillPages x y)) (hn : 2 ^ 40 ≤ copyNumber x y.w0) :
    x.TrapsWith u s (.fill y) (fillPages x y) 5 0 0 :=
  copyIssue_fails exec_fill (fillSides_pages x y) h (fillPlan_huge hn)

section
variable (h : x.Starts u s (.fill y) (fillPages x y)) (hb : copyNumber x y.w0 < 2 ^ 40)
include h hb

/-- The first check that fails traps the executing lanes. -/
theorem fill_fails {c a gpa : Nat} (hc : fillChecks x u y = some (c, a, gpa)) : x.TrapsWith u s (.fill y) (fillPages x y) c a gpa :=
  copyIssue_fails exec_fill (fillSides_pages x y) h (by rw [fillPlan_some hb, hc])

theorem fill_source_misaligned (hs : fillSrc x y % 4096 ≠ 0) : x.TrapsWith u s (.fill y) (fillPages x y) 3 (fillSrc x y) 0 :=
  fill_fails h hb (by rw [fillChecks, fillAlign_of_misaligned hs, sideCheck_misaligned, Option.some_or])

theorem fill_destination_misaligned (hs : fillSrc x y % 4096 = 0)
    (hf : copyNumber x y.w0 = 0 ∨ sideFault x u true (fld y.op.m 3 2 == 3) true false (fillSrc x y) = none) (hd : fillDst x y % 4096 ≠ 0) :
    x.TrapsWith u s (.fill y) (fillPages x y) 3 (fillDst x y) 0 := by
  refine fill_fails h hb ?_
  have source : sideCheck x u (fld y.op.m 3 2 == 3) true true false (fillByte (copyNumber x y.w0) (fillSrc x y)) none = none := by
    refine sideCheck_none fun v hv => ?_
    rcases hf with h0 | hf
    · simp [fillByte, h0] at hv
    · obtain ⟨-, rfl⟩ : ¬ copyNumber x y.w0 = 0 ∧ fillSrc x y = v := by simpa [fillByte] using hv
      exact hf
  rw [fillChecks, fillAlign_of_aligned hs, fillAlign_of_misaligned hd, source, sideCheck_misaligned, Option.none_or]

section
variable (hs : fillSrc x y % 4096 = 0) (hd : fillDst x y % 4096 = 0) (h0 : 0 < copyNumber x y.w0)
include hs hd h0

omit h hb in
theorem fillChecks_eq : fillChecks x u y =
    (sideCheck x u (fld y.op.m 3 2 == 3) true true false (some (fillSrc x y)) none).or
      (sideCheck x u (fld y.op.m 3 2 == 3) true true true (some (fillDst x y)) none) := by
  have byte : ∀ v, fillByte (copyNumber x y.w0) v = some v := fun v => by simp [fillByte, h0.ne']
  rw [fillChecks, fillAlign_of_aligned hs, fillAlign_of_aligned hd, byte, byte]

theorem fill_source_fault {f : XFault} (hf : sideFault x u true (fld y.op.m 3 2 == 3) true false (fillSrc x y) = some f) :
    x.TrapsWith u s (.fill y) (fillPages x y) f.cause (fillSrc x y) f.gpa :=
  fill_fails h hb (by rw [fillChecks_eq hs hd h0, sideCheck_fault hf, Option.some_or])

theorem fill_destination_fault (ho : sideFault x u true (fld y.op.m 3 2 == 3) true false (fillSrc x y) = none) {f : XFault}
    (hf : sideFault x u true (fld y.op.m 3 2 == 3) true true (fillDst x y) = some f) :
    x.TrapsWith u s (.fill y) (fillPages x y) f.cause (fillDst x y) f.gpa :=
  fill_fails h hb (by rw [fillChecks_eq hs hd h0, sideCheck_none (by simpa using ho), sideCheck_fault hf, Option.none_or])

section
variable (ho : sideFault x u true (fld y.op.m 3 2 == 3) true false (fillSrc x y) = none)
  (hw : sideFault x u true (fld y.op.m 3 2 == 3) true true (fillDst x y) = none)
include ho hw

omit h in
theorem fillPlan_checked : fillPlan x u y.op y.w0 = if copyNumber x y.w0 % 4096 ≠ 0 then .error (3, 0, 0) else .ok (fillMoves x y) := by
  rw [fillPlan_some hb, fillChecks_eq hs hd h0, sideCheck_none (by simpa using ho), sideCheck_none (by simpa using hw), Option.none_or]
  simp only [bne_iff_ne, beq_eq_false_iff_ne.2 h0.ne', Bool.false_eq_true, if_false]
  rfl

theorem fill_count_misaligned (hn : copyNumber x y.w0 % 4096 ≠ 0) : x.TrapsWith u s (.fill y) (fillPages x y) 3 0 0 :=
  copyIssue_fails exec_fill (fillSides_pages x y) h (by rw [fillPlan_checked hb hs hd h0 ho hw, if_pos hn])

end
end
end

/-! ### Unfilling the destination (R220, R248) -/

/-- A value of a table whose values were changed is a changed one, or the default. -/
theorem tget_tmap {β : Type} [DecidableEq β] (d : β) (f : β → β) (t : Sparse β) (k : Nat) :
    tget d (tmap d f t) k = d ∨ ∃ v, tget d (tmap d f t) k = f v := by
  induction t with
  | nil => exact .inl rfl
  | cons p t ih =>
    by_cases hp : f p.2 = d
    · simpa [tmap, hp] using ih
    · have cons : tmap d f (p :: t) = (p.1, f p.2) :: tmap d f t := by simp [tmap, hp]
      rw [cons, tget]
      by_cases hk : k = p.1
      · rw [if_pos hk]
        exact .inr ⟨p.2, rfl⟩
      · rw [if_neg hk]
        exact ih

theorem dropCopies_l1 {v : State} {lines : List Nat} {k : Nat} {e : L1Line} (he : e ∈ ((v.dropCopies lines).core k).l1) : e.line ∉ lines := by
  rcases tget_tmap ({} : Core) (fun k => { k with l1 := k.l1.filter fun e => !lines.contains e.line }) v.cores k with hk | ⟨c, hk⟩
  · have he' : e ∈ (tget ({} : Core) (tmap {} (fun k => { k with l1 := k.l1.filter fun e => !lines.contains e.line }) v.cores) k).l1 := he
    rw [hk] at he'
    cases he'
  · have he' : e ∈ (tget ({} : Core) (tmap {} (fun k => { k with l1 := k.l1.filter fun e => !lines.contains e.line }) v.cores) k).l1 := he
    rw [hk] at he'
    simpa using (List.mem_filter.1 he').2

theorem dropCopies_l2 {v : State} {lines : List Nat} {q : Nat × List L2Line} (hq : q ∈ (v.dropCopies lines).l2) {e : L2Line} (he : e ∈ q.2)
    (hl : e.line ∈ lines) : paDomain (128 * e.line) = q.1 / 16 ∧ paRegion (128 * e.line) ≠ 1 := by
  obtain ⟨b, -, hb⟩ := List.mem_filterMap.1 hq
  dsimp only at hb
  split at hb
  · cases hb
  · obtain rfl := Option.some.inj hb
    have kept := (List.mem_filter.1 he).2
    simpa [hl] using kept

end

end Sys2Proof.Machine

namespace Sys2Proof.Machine

section
variable {x : Ctx} {y : OpX1} {u s : State}

/-- A line that a FILL of `n` bytes makes unfilled. -/
def Gone (x : Ctx) (u : State) (dst n k : Nat) : Prop :=
  ∃ i p, i < n / 128 ∧ p.pa / 128 = k ∧ u.copyXlate x.c.core x.g x.sp.mode true true true (dst + 128 * i) = .ok p

/-- The lines that a FILL of `n` bytes makes unfilled. -/
def goneLines (x : Ctx) (u : State) (dst n : Nat) : List Nat := (List.range (n / 128)).filterMap fun i =>
  match u.copyXlate x.c.core x.g x.sp.mode true true true (dst + 128 * i) with
  | .ok p => some (p.pa / 128)
  | .error _ => none

theorem mem_goneLines {dst n k : Nat} : k ∈ goneLines x u dst n ↔ Gone x u dst n k := by
  constructor
  · intro h
    obtain ⟨i, hi, hk⟩ := List.mem_filterMap.1 h
    cases hx : u.copyXlate x.c.core x.g x.sp.mode true true true (dst + 128 * i) with
    | error f =>
      rw [hx] at hk
      cases hk
    | ok p =>
      rw [hx] at hk
      exact ⟨i, p, List.mem_range.1 hi, Option.some.inj hk, hx⟩
  · rintro ⟨i, p, hi, hk, hx⟩
    refine List.mem_filterMap.2 ⟨i, List.mem_range.2 hi, ?_⟩
    rw [hx]
    exact congrArg some hk

theorem unfill_eq (x : Ctx) (v : State) (dst n : Nat) : unfill x v dst n =
    { v.dropCopies (goneLines x v dst n) with filled := v.filled.filter fun l => !(goneLines x v dst n).contains l } := rfl

/-- The state of a FILL that has just entered its queue. -/
def fillEntered (x : Ctx) (u : State) (y : OpX1) : State :=
  let v := unfill x ((x.complete u.bump []).setHandle x.r.c (fld y.op.d 3 0) (.pending u.fresh)) (fillDst x y) (copyNumber x y.w0)
  { v with copies := v.copies ++ [x.copyOp u y.op (queueOf y.op) (fillMoves x y) 0] }

theorem fillEntered_spec (h : Issues (.fill y) s x u) : ∃ c, (fillEntered x u y).cohort? x.r.c = some c ∧
    tget .empty c.handles (fld y.op.d 3 0) = .pending u.fresh ∧ (fillEntered x u y).mem = u.mem ∧
    (fillEntered x u y).copies = u.copies ++ [x.copyOp u y.op (queueOf y.op) (fillMoves x y) 0] ∧
    u.fresh ≤ (fillEntered x u y).fresh ∧
    (∀ k, k ∈ (fillEntered x u y).filled ↔ k ∈ u.filled ∧ ¬ Gone x u (fillDst x y) (copyNumber x y.w0) k) ∧
    (∀ k e, e ∈ ((fillEntered x u y).core k).l1 → ¬ Gone x u (fillDst x y) (copyNumber x y.w0) e.line) ∧
    ∀ q ∈ (fillEntered x u y).l2, ∀ e ∈ q.2, Gone x u (fillDst x y) (copyNumber x y.w0) e.line →
      paDomain (128 * e.line) = q.1 / 16 ∧ paRegion (128 * e.line) ≠ 1 := by
  obtain ⟨c, hc, hp⟩ := handle_pending h (fld y.op.d 3 0)
  let v := (x.complete u.bump []).setHandle x.r.c (fld y.op.d 3 0) (.pending u.fresh)
  let lines := goneLines x u (fillDst x y) (copyNumber x y.w0)
  obtain ⟨d, ht, -⟩ := completes_bump h
  have kept : v = { u.bump with blocks := v.blocks, issued := v.issued } := by
    simp only [v]
    rw [ht]
    rfl
  have same : goneLines x v (fillDst x y) (copyNumber x y.w0) = lines := by
    rw [kept]
    rfl
  have entered : fillEntered x u y = { v.dropCopies lines with
      filled := v.filled.filter fun l => !lines.contains l
      copies := v.copies ++ [x.copyOp u y.op (queueOf y.op) (fillMoves x y) 0] } := by
    rw [← same]
    rfl
  have filled : v.filled = u.filled := by rw [kept]; rfl
  rw [entered]
  refine ⟨c, hc, hp, ?_, ?_, ?_, fun k => ?_, fun k e he hg => ?_, fun q hq e he hg => ?_⟩
  · show v.mem = u.mem
    rw [kept]
    rfl
  · show v.copies ++ _ = _
    rw [kept]
    rfl
  · show u.fresh ≤ v.fresh
    rw [kept]
    exact Nat.le_succ _
  · rw [← mem_goneLines, filled, List.mem_filter]
    simp [lines]
  · exact dropCopies_l1 (v := v) he (mem_goneLines.2 hg)
  · exact dropCopies_l2 (v := v) hq he (mem_goneLines.2 hg)

/-- A FILL whose checks pass enters its queue, and its destination is unfilled. -/
theorem fill_enters (h : x.Starts u s (.fill y) (fillPages x y)) (hp : fillPlan x u y.op y.w0 = .ok (fillMoves x y))
    (hf : x.Free True) : exec (.fill y) s = .next (x.walked (fillPages x y) (x.after ((fillEntered x u y).settle x.r))) := by
  obtain ⟨hi, hc, hm⟩ := h
  have body : copyBody (.fill y) y.op (queueOf y.op) (fun x s => fillPlan x s y.op y.w0) (fun _ => 0) x u = fillEntered x u y := by
    simp only [copyBody, hp] <;> rfl
  have hfree : x.sp.forced = true ∨ x.g.ckpt = false := hf.imp id fun h => h.resolve_right fun hn => hn trivial
  obtain ⟨c, -, -, -, -, later, -⟩ := fillEntered_spec hi
  have next := copyIssue_next (o := y.op) (queue := queueOf y.op) (force := fun _ _ => true) (sides := fun x => fillSides x y.op y.w0)
    (plan := fun x s => fillPlan x s y.op y.w0) (box := fun _ => 0) hi hc (by rw [fillSides_pages]; exact hm) (hfree.imp id .inl) (by
      rw [body]
      exact later)
  rwa [body, fillSides_pages] at next

/-! ## Queue fences (R223) -/

theorem qfence_queues {o : OpA} (h : Issues (.qfence o) s x u) (hf : x.sp.forced = false) : x.Queues u s (.qfence o) []
    { x.copyOp u { o with m := 0 } 8 (.fence o.m.toNat) 0 with scope := 0, route := 0 }
    (if o.d.getLsbD 4 then some (fld o.d 3 0) else none) := by
  refine ⟨_, completes_bump h, ?_⟩
  have next : exec (.qfence o) s = _ := issue_next h _
  have after : ∀ t, x.after t = t := fun t => by simp [Ctx.after, hf]
  have walked : ∀ t, x.walked [] t = t := fun t => by simp [Ctx.walked]
  refine next.trans ?_
  simp only [after, walked]
  cases o.d.getLsbD 4 <;> rfl

end

end Sys2Proof.Machine

namespace Sys2Proof.Machine

/-! ## The box of a shape record (R46, R218) -/

theorem recordBits_cases (f : Nat) : recordBits f = 4 ∨ recordBits f = 8 ∨ recordBits f = 16 ∨ recordBits f = 32 ∨ recordBits f = 64 := by
  unfold recordBits
  split <;> simp

section
variable (r : ShapeRec) (o : Nat × Nat × Nat × Nat) (off : Nat)

/-- The bytes of `n` elements. -/
def ShapeRec.bytes (n : Nat) : Nat := n * recordBits r.format / 8

/-- Elements of four bits come in pairs (R47). -/
def ShapeRec.Paired (origin0 : Nat) : Prop :=
  recordBits r.format = 4 → r.ext.1 % 2 = 0 ∧ r.box.1 % 2 = 0 ∧ origin0 % 2 = 0

/-- The elements of a row that lie inside the extents: the first ones. -/
def ShapeRec.inner (i1 i2 i3 : Nat) : Nat :=
  if o.2.1 + i1 < r.ext.2.1 ∧ o.2.2.1 + i2 < r.ext.2.2.1 ∧ o.2.2.2 + i3 < r.ext.2.2.2 then min r.box.1 (r.ext.1 - o.1) else 0

/-- A row's place in the scratchpad, which holds the box's rows one after another. -/
def ShapeRec.pad (i1 i2 i3 : Nat) : Nat := off + r.bytes (r.box.1 * (i1 + r.box.2.1 * (i2 + r.box.2.2.1 * i3)))

/-- A row's place in the tensor. -/
def ShapeRec.place (i1 i2 i3 : Nat) : Nat :=
  r.base + r.bytes o.1 + r.stride1 * (o.2.1 + i1) + r.stride2 * (o.2.2.1 + i2) + r.stride2 * r.ext.2.2.1 * (o.2.2.2 + i3)

/-- The runs of a row of a store. -/
def ShapeRec.storeRow (i1 i2 i3 : Nat) : List Run :=
  if r.inner o i1 i2 i3 == 0 then [] else [⟨r.place o i1 i2 i3, some (r.pad off i1 i2 i3), r.bytes (r.inner o i1 i2 i3)⟩]

/-- The runs of a row of a load. -/
def ShapeRec.loadRow (i1 i2 i3 : Nat) : List Run :=
  (if r.inner o i1 i2 i3 == 0 then [] else [⟨r.pad off i1 i2 i3, some (r.place o i1 i2 i3), r.bytes (r.inner o i1 i2 i3)⟩]) ++
    if r.inner o i1 i2 i3 == r.box.1 || !r.fill then []
    else [⟨r.pad off i1 i2 i3 + r.bytes (r.inner o i1 i2 i3), none, r.bytes (r.box.1 - r.inner o i1 i2 i3)⟩]

/-- The runs of all rows of the box. -/
def ShapeRec.rows (row : Nat → Nat → Nat → List Run) : List Run :=
  (List.range r.box.2.2.2).flatMap fun i3 => (List.range r.box.2.2.1).flatMap fun i2 => (List.range r.box.2.1).flatMap fun i1 => row i1 i2 i3

theorem ShapeRec.runs_store : r.runs o off true = (r.rows (r.storeRow o off)).foldl (fun l q => insertRun q l) [] := rfl

theorem ShapeRec.runs_load : r.runs o off false = r.rows (r.loadRow o off) := rfl

end

section
variable {r : ShapeRec} {o : Nat × Nat × Nat × Nat} {off i1 i2 i3 : Nat}

theorem ShapeRec.mem_rows {row : Nat → Nat → Nat → List Run} {q : Run} :
    q ∈ r.rows row ↔ ∃ i1 i2 i3, i1 < r.box.2.1 ∧ i2 < r.box.2.2.1 ∧ i3 < r.box.2.2.2 ∧ q ∈ row i1 i2 i3 := by
  simp only [ShapeRec.rows, List.mem_flatMap, List.mem_range]
  constructor
  · rintro ⟨i3, h3, i2, h2, i1, h1, hq⟩
    exact ⟨i1, i2, i3, h1, h2, h3, hq⟩
  · rintro ⟨i1, i2, i3, h1, h2, h3, hq⟩
    exact ⟨i3, h3, i2, h2, i1, h1, hq⟩

/-! ### Bytes of elements -/

theorem ShapeRec.inner_le (i1 i2 i3 : Nat) : r.inner o i1 i2 i3 ≤ r.box.1 := by
  unfold ShapeRec.inner
  split
  · exact Nat.min_le_left ..
  · exact Nat.zero_le _

theorem ShapeRec.inner_even (h : r.Paired o.1) (h4 : recordBits r.format = 4) (i1 i2 i3 : Nat) : r.inner o i1 i2 i3 % 2 = 0 := by
  obtain ⟨he, hb, ho⟩ := h h4
  unfold ShapeRec.inner
  split
  · omega
  · rfl

theorem ShapeRec.bytes_mono {m n : Nat} (h : m ≤ n) : r.bytes m ≤ r.bytes n := Nat.div_le_div_right (Nat.mul_le_mul_right _ h)

/-- A row's inner bytes and the others are all its bytes. -/
theorem ShapeRec.bytes_inner_add (h : r.Paired o.1) (i1 i2 i3 : Nat) :
    r.bytes (r.inner o i1 i2 i3) + r.bytes (r.box.1 - r.inner o i1 i2 i3) = r.bytes r.box.1 := by
  have hle : r.inner o i1 i2 i3 ≤ r.box.1 := ShapeRec.inner_le ..
  have hev := ShapeRec.inner_even (i1 := i1) (i2 := i2) (i3 := i3) h
  unfold ShapeRec.bytes
  rcases recordBits_cases r.format with hb | hb | hb | hb | hb <;> rw [hb]
  · have := hev hb
    omega
  all_goals omega

/-- A byte lies in the inner elements of its row when its element lies inside the extents. -/
theorem ShapeRec.lt_bytes_inner (h : r.Paired o.1) {p : Nat} (hp : p < r.bytes r.box.1) : p < r.bytes (r.inner o i1 i2 i3) ↔
    o.1 + p * 8 / recordBits r.format < r.ext.1 ∧ o.2.1 + i1 < r.ext.2.1 ∧ o.2.2.1 + i2 < r.ext.2.2.1 ∧ o.2.2.2 + i3 < r.ext.2.2.2 := by
  have elements : p < r.bytes (min r.box.1 (r.ext.1 - o.1)) ↔ o.1 + p * 8 / recordBits r.format < r.ext.1 := by
    unfold ShapeRec.bytes at hp ⊢
    rcases recordBits_cases r.format with hb | hb | hb | hb | hb
    · obtain ⟨he, hx, ho⟩ := h hb
      rw [hb] at hp ⊢
      omega
    all_goals
      rw [hb] at hp ⊢
      omega
  unfold ShapeRec.inner
  split
  · next hin => rw [elements, and_iff_left hin]
  · next hin =>
    refine iff_of_false ?_ fun hall => hin hall.2
    simp [ShapeRec.bytes]

/-! ### The bytes of a row -/

theorem ShapeRec.storeRow_bytes {d : Nat} {src : Option Nat} :
    (∃ q ∈ r.storeRow o off i1 i2 i3, ∃ k, k < q.n ∧ d = q.dst + k ∧ src = q.src.map (· + k)) ↔
      ∃ p, p < r.bytes (r.inner o i1 i2 i3) ∧ d = r.place o i1 i2 i3 + p ∧ src = some (r.pad off i1 i2 i3 + p) := by
  unfold ShapeRec.storeRow
  by_cases h0 : r.inner o i1 i2 i3 = 0
  · simp [h0, ShapeRec.bytes]
  · simp [h0]

theorem ShapeRec.loadRow_bytes (h : r.Paired o.1) {d : Nat} {src : Option Nat} :
    (∃ q ∈ r.loadRow o off i1 i2 i3, ∃ k, k < q.n ∧ d = q.dst + k ∧ src = q.src.map (· + k)) ↔
      ∃ p, p < r.bytes r.box.1 ∧ d = r.pad off i1 i2 i3 + p ∧ (p < r.bytes (r.inner o i1 i2 i3) ∧ src = some (r.place o i1 i2 i3 + p) ∨
        ¬ p < r.bytes (r.inner o i1 i2 i3) ∧ r.fill = true ∧ src = none) := by
  have hsum := ShapeRec.bytes_inner_add h i1 i2 i3
  have inner : (∃ q ∈ (if r.inner o i1 i2 i3 == 0 then [] else
        [(⟨r.pad off i1 i2 i3, some (r.place o i1 i2 i3), r.bytes (r.inner o i1 i2 i3)⟩ : Run)]),
      ∃ k, k < q.n ∧ d = q.dst + k ∧ src = q.src.map (· + k)) ↔
        ∃ p, p < r.bytes (r.inner o i1 i2 i3) ∧ d = r.pad off i1 i2 i3 + p ∧ src = some (r.place o i1 i2 i3 + p) := by
    by_cases h0 : r.inner o i1 i2 i3 = 0
    · simp [h0, ShapeRec.bytes]
    · simp [h0]
  have outer : (∃ q ∈ (if r.inner o i1 i2 i3 == r.box.1 || !r.fill then [] else
        [(⟨r.pad off i1 i2 i3 + r.bytes (r.inner o i1 i2 i3), none, r.bytes (r.box.1 - r.inner o i1 i2 i3)⟩ : Run)]),
      ∃ k, k < q.n ∧ d = q.dst + k ∧ src = q.src.map (· + k)) ↔
        ∃ k, k < r.bytes (r.box.1 - r.inner o i1 i2 i3) ∧ d = r.pad off i1 i2 i3 + (r.bytes (r.inner o i1 i2 i3) + k) ∧
          r.fill = true ∧ src = none := by
    by_cases hb : r.inner o i1 i2 i3 = r.box.1
    · simp [hb, ShapeRec.bytes]
    · cases hf : r.fill
      · simp
      · simp [hb, Nat.add_assoc]
  unfold ShapeRec.loadRow
  simp only [List.mem_append, or_and_right, exists_or, inner, outer]
  constructor
  · rintro (⟨p, hp, hd, hs⟩ | ⟨k, hk, hd, hf, hs⟩)
    · exact ⟨p, by omega, hd, .inl ⟨hp, hs⟩⟩
    · exact ⟨r.bytes (r.inner o i1 i2 i3) + k, by omega, hd, .inr ⟨by omega, hf, hs⟩⟩
  · rintro ⟨p, hp, hd, ⟨hi, hs⟩ | ⟨hi, hf, hs⟩⟩
    · exact .inl ⟨p, hi, hd, hs⟩
    · exact .inr ⟨p - r.bytes (r.inner o i1 i2 i3), by omega, by omega, hf, hs⟩

/-! ### Ascending destinations (R215) -/

theorem mem_insertRun {p q : Run} {l : List Run} : q ∈ insertRun p l ↔ q = p ∨ q ∈ l := by
  induction l with
  | nil => simp [insertRun]
  | cons a l ih =>
    unfold insertRun
    split
    · exact List.mem_cons
    · rw [List.mem_cons, ih, List.mem_cons]
      tauto

theorem insertRun_ascends {p : Run} {l : List Run} (h : l.Pairwise fun p q => p.dst ≤ q.dst) :
    (insertRun p l).Pairwise fun p q => p.dst ≤ q.dst := by
  induction l with
  | nil => exact List.pairwise_singleton ..
  | cons a l ih =>
    obtain ⟨ha, hl⟩ := List.pairwise_cons.1 h
    unfold insertRun
    split
    · next hlt =>
      refine List.pairwise_cons.2 ⟨fun q hq => ?_, h⟩
      rcases List.mem_cons.1 hq with rfl | hq
      · exact hlt.le
      · exact hlt.le.trans (ha q hq)
    · next hle =>
      refine List.pairwise_cons.2 ⟨fun q hq => ?_, ih hl⟩
      rcases mem_insertRun.1 hq with rfl | hq
      · exact Nat.not_lt.1 hle
      · exact ha q hq

theorem mem_sortedRuns {q : Run} {l t : List Run} : q ∈ l.foldl (fun l q => insertRun q l) t ↔ q ∈ l ∨ q ∈ t := by
  induction l generalizing t with
  | nil => simp
  | cons a l ih =>
    rw [List.foldl_cons, ih, mem_insertRun, List.mem_cons]
    tauto

theorem sortedRuns_ascend {l t : List Run} (h : t.Pairwise fun p q => p.dst ≤ q.dst) :
    (l.foldl (fun l q => insertRun q l) t).Pairwise fun p q => p.dst ≤ q.dst := by
  induction l generalizing t with
  | nil => exact h
  | cons a l ih => exact ih (insertRun_ascends h)

/-- The place of a digit string grows with its leading digit. -/
theorem digits_lt {b i j k l : Nat} (hi : i < b) (hj : k < l) : i + b * k < j + b * l := by
  have : b * k + b ≤ b * l := by
    rw [← Nat.mul_succ]
    exact Nat.mul_le_mul_left b hj
  omega

/-- The runs of a load's row lie between the row's place and the next row's. -/
theorem ShapeRec.loadRow_between {q : Run} (h : q ∈ r.loadRow o off i1 i2 i3) :
    r.pad off i1 i2 i3 ≤ q.dst ∧ q.dst ≤ r.pad off i1 i2 i3 + r.bytes r.box.1 := by
  have hi : r.bytes (r.inner o i1 i2 i3) ≤ r.bytes r.box.1 := ShapeRec.bytes_mono (ShapeRec.inner_le ..)
  unfold ShapeRec.loadRow at h
  rcases List.mem_append.1 h with h | h
  · split at h
    · cases h
    · obtain rfl := List.mem_singleton.1 h
      exact ⟨Nat.le_refl _, Nat.le_add_right ..⟩
  · split at h
    · cases h
    · obtain rfl := List.mem_singleton.1 h
      exact ⟨Nat.le_add_right .., Nat.add_le_add_left hi _⟩

theorem ShapeRec.loadRow_ascends : (r.loadRow o off i1 i2 i3).Pairwise fun p q => p.dst ≤ q.dst := by
  unfold ShapeRec.loadRow
  split
  · split
    · exact .nil
    · exact List.pairwise_singleton ..
  · split
    · exact List.pairwise_singleton ..
    · simp

/-- A row ends where a later one begins, or before. -/
theorem ShapeRec.pad_lt {j1 j2 j3 : Nat} (h : i1 + r.box.2.1 * (i2 + r.box.2.2.1 * i3) < j1 + r.box.2.1 * (j2 + r.box.2.2.1 * j3)) :
    r.pad off i1 i2 i3 + r.bytes r.box.1 ≤ r.pad off j1 j2 j3 := by
  unfold ShapeRec.pad
  have hm : r.box.1 * (i1 + r.box.2.1 * (i2 + r.box.2.2.1 * i3)) + r.box.1 ≤ r.box.1 * (j1 + r.box.2.1 * (j2 + r.box.2.2.1 * j3)) := by
    rw [← Nat.mul_succ]
    exact Nat.mul_le_mul_left _ h
  have hb := ShapeRec.bytes_mono (r := r) hm
  have ha : ∀ m n, r.bytes m + r.bytes n ≤ r.bytes (m + n) := fun m n => by
    unfold ShapeRec.bytes
    rw [Nat.add_mul]
    exact Nat.div_add_div_le_add_div ..
  have := ha (r.box.1 * (i1 + r.box.2.1 * (i2 + r.box.2.2.1 * i3))) r.box.1
  omega

theorem ShapeRec.loadRows_ascend : (r.rows (r.loadRow o off)).Pairwise fun p q => p.dst ≤ q.dst := by
  have later : ∀ {i1 i2 i3 j1 j2 j3 : Nat}, i1 + r.box.2.1 * (i2 + r.box.2.2.1 * i3) < j1 + r.box.2.1 * (j2 + r.box.2.2.1 * j3) →
      ∀ p ∈ r.loadRow o off i1 i2 i3, ∀ q ∈ r.loadRow o off j1 j2 j3, p.dst ≤ q.dst := by
    intro i1 i2 i3 j1 j2 j3 h p hp q hq
    exact (ShapeRec.loadRow_between hp).2.trans ((ShapeRec.pad_lt h).trans (ShapeRec.loadRow_between hq).1)
  unfold ShapeRec.rows
  refine List.pairwise_flatMap.2 ⟨fun i3 _ => List.pairwise_flatMap.2 ⟨fun i2 _ => List.pairwise_flatMap.2 ⟨fun i1 _ => ?_, ?_⟩, ?_⟩, ?_⟩
  · exact ShapeRec.loadRow_ascends
  · exact List.pairwise_lt_range.imp fun h => later (Nat.add_lt_add_right h _)
  · refine List.pairwise_lt_range.imp fun h p hp q hq => ?_
    obtain ⟨i1, h1, hp⟩ := List.mem_flatMap.1 hp
    obtain ⟨j1, -, hq⟩ := List.mem_flatMap.1 hq
    exact later (digits_lt (List.mem_range.1 h1) (Nat.add_lt_add_right h _)) p hp q hq
  · refine List.pairwise_lt_range.imp fun h p hp q hq => ?_
    obtain ⟨i2, h2, hp⟩ := List.mem_flatMap.1 hp
    obtain ⟨i1, h1, hp⟩ := List.mem_flatMap.1 hp
    obtain ⟨j2, -, hq⟩ := List.mem_flatMap.1 hq
    obtain ⟨j1, -, hq⟩ := List.mem_flatMap.1 hq
    exact later (digits_lt (List.mem_range.1 h1) (digits_lt (List.mem_range.1 h2) h)) p hp q hq

theorem ShapeRec.runs_ascend (store : Bool) : (r.runs o off store).Pairwise fun p q => p.dst ≤ q.dst := by
  cases store
  · exact ShapeRec.loadRows_ascend
  · exact sortedRuns_ascend .nil

/-- The bytes that the runs of a box move: byte `p` of each row. -/
theorem ShapeRec.runs_bytes (h : r.Paired o.1) (store : Bool) {d : Nat} {src : Option Nat} :
    (∃ q ∈ r.runs o off store, ∃ k, k < q.n ∧ d = q.dst + k ∧ src = q.src.map (· + k)) ↔
      ∃ p i1 i2 i3, p < r.bytes r.box.1 ∧ i1 < r.box.2.1 ∧ i2 < r.box.2.2.1 ∧ i3 < r.box.2.2.2 ∧
        if store then p < r.bytes (r.inner o i1 i2 i3) ∧ d = r.place o i1 i2 i3 + p ∧ src = some (r.pad off i1 i2 i3 + p)
        else d = r.pad off i1 i2 i3 + p ∧ (p < r.bytes (r.inner o i1 i2 i3) ∧ src = some (r.place o i1 i2 i3 + p) ∨
          ¬ p < r.bytes (r.inner o i1 i2 i3) ∧ r.fill = true ∧ src = none) := by
  have row : ∀ row : Nat → Nat → Nat → List Run,
      (∃ q ∈ r.rows row, ∃ k, k < q.n ∧ d = q.dst + k ∧ src = q.src.map (· + k)) ↔
        ∃ i1 i2 i3, i1 < r.box.2.1 ∧ i2 < r.box.2.2.1 ∧ i3 < r.box.2.2.2 ∧
          ∃ q ∈ row i1 i2 i3, ∃ k, k < q.n ∧ d = q.dst + k ∧ src = q.src.map (· + k) := by
    intro row
    constructor
    · rintro ⟨q, hq, hk⟩
      obtain ⟨i1, i2, i3, h1, h2, h3, hq⟩ := ShapeRec.mem_rows.1 hq
      exact ⟨i1, i2, i3, h1, h2, h3, q, hq, hk⟩
    · rintro ⟨i1, i2, i3, h1, h2, h3, q, hq, hk⟩
      exact ⟨q, ShapeRec.mem_rows.2 ⟨i1, i2, i3, h1, h2, h3, hq⟩, hk⟩
  cases store with
  | false =>
    simp only [ShapeRec.runs_load, row, ShapeRec.loadRow_bytes h, Bool.false_eq_true, if_false]
    constructor
    · rintro ⟨i1, i2, i3, h1, h2, h3, p, hp, hb⟩
      exact ⟨p, i1, i2, i3, hp, h1, h2, h3, hb⟩
    · rintro ⟨p, i1, i2, i3, hp, h1, h2, h3, hb⟩
      exact ⟨i1, i2, i3, h1, h2, h3, p, hp, hb⟩
  | true =>
    simp only [ShapeRec.runs_store, mem_sortedRuns, List.not_mem_nil, or_false, row, ShapeRec.storeRow_bytes, if_true]
    constructor
    · rintro ⟨i1, i2, i3, h1, h2, h3, p, hp, hb⟩
      exact ⟨p, i1, i2, i3, hp.trans_le (ShapeRec.bytes_mono (ShapeRec.inner_le ..)), h1, h2, h3, hp, hb⟩
    · rintro ⟨p, i1, i2, i3, -, h1, h2, h3, hp, hb⟩
      exact ⟨i1, i2, i3, h1, h2, h3, p, hp, hb⟩

end

end Sys2Proof.Machine

namespace Sys2Proof.Machine

/-! ## TCOPY (R218) -/

/-- A source of one register is that register. -/
theorem Ctx.rdN_one (x : Ctx) (code : BitVec 8) (l : Nat) : x.rdN 1 code l = (x.rd code l).toNat := by
  unfold Ctx.rdN Ctx.rd Cohort.srcN Cohort.src32
  cases opnd code with
  | none => rfl
  | some v =>
    cases v with
    | vec n => simp [List.range_succ]
    | uni n => simp [List.range_succ]
    | konst k =>
      by_cases hk : k = 0xF3
      · subst hk
        rfl
      · simp [hk]

theorem quad_digits (v : Nat) : quad v 65536 = (v / 65536 ^ 0 % 65536, v / 65536 ^ 1 % 65536, v / 65536 ^ 2 % 65536, v / 65536 ^ 3 % 65536) := by
  simp [quad, Nat.div_div_eq_div_mul]

/-- R45-R47 and R49 of a record. -/
def ShapeRec.WellFormed (r : ShapeRec) (origin0 : Nat) : Prop :=
  r.format ≤ 0x0E ∧ (0 < r.ext.1 ∧ 0 < r.ext.2.1 ∧ 0 < r.ext.2.2.1 ∧ 0 < r.ext.2.2.2) ∧
    (0 < r.box.1 ∧ 0 < r.box.2.1 ∧ 0 < r.box.2.2.1 ∧ 0 < r.box.2.2.2) ∧ r.Paired origin0

theorem ShapeRec.legal_iff {r : ShapeRec} {origin0 : Nat} : r.legal origin0 = true ↔ r.WellFormed origin0 := by
  simp only [ShapeRec.legal, ShapeRec.WellFormed, ShapeRec.Paired, allPos, Bool.and_eq_true, Bool.or_eq_true, decide_eq_true_eq, bne_iff_ne,
    beq_iff_eq, Nat.pos_iff_ne_zero, and_assoc, ne_eq, imp_iff_not_or]

section
variable {x : Ctx} {z : OpX4} {u s : State} {r : ShapeRec}

variable (x z) in
/-- The box's origin. -/
def tcopyOrigin : Nat × Nat × Nat × Nat :=
  let org (k : Nat) : Nat := x.rdN 2 z.op.b (lowest x.ex) / 65536 ^ k % 65536
  (org 0, org 1, org 2, org 3)

variable (x z) in
/-- The box's place in the scratchpad. -/
def tcopyOff : Nat := x.rdN 1 z.op.a (lowest x.ex)

variable (x z) in
/-- The pages that a TCOPY begins at. -/
def tcopyPages : List DWord := pagesOf (tcopySides x z.op z.w0 z.w1 z.w2 z.w3)

variable (x z r) in
/-- The runs of a TCOPY. -/
def tcopyRuns : List Run := r.runs (tcopyOrigin x z) (tcopyOff x z) (z.op.d.getLsbD 7)

variable (z) in
/-- What a TCOPY moves. -/
def tcopyMoves (r : ShapeRec) (rs : List Run) : Moves := .runs (z.op.d.getLsbD 7) (!z.op.d.getLsbD 7) false (r.format == 0x0E) rs

theorem exec_tcopy : exec (.tcopy z) s = copyIssue (.tcopy z) z.op (queueOf z.op)
    (fun x s => z.op.d.getLsbD 7 || planIs (tcopyPlan x s z.op z.w0 z.w1 z.w2 z.w3) (toPartner x))
    (fun x => tcopySides x z.op z.w0 z.w1 z.w2 z.w3) (fun x s => tcopyPlan x s z.op z.w0 z.w1 z.w2 z.w3) s := rfl

theorem tcopyPlan_none (h : substituted x z.w0 z.w1 z.w2 z.w3 = none) : tcopyPlan x u z.op z.w0 z.w1 z.w2 z.w3 = .error (5, 0, 0) := by
  unfold tcopyPlan
  rw [h]

theorem tcopyPages_none (h : substituted x z.w0 z.w1 z.w2 z.w3 = none) : tcopyPages x z = [] := by
  unfold tcopyPages tcopySides
  rw [h]
  rfl

/-- The checks of a TCOPY, the source before the destination (R218, R221). -/
def tcopyChecks (x : Ctx) (u : State) (z : OpX4) (rs : List Run) : Option (Nat × Nat × Nat) :=
  let bad : Option Nat := if tcopyOff x z % 16 == 0 then none else some (tcopyOff x z)
  (sideCheck x u (fld z.op.m 3 2 == 3) false (!z.op.d.getLsbD 7) false (rs.findSome? (·.src)) (if z.op.d.getLsbD 7 then bad else none)).or
    (sideCheck x u (fld z.op.m 3 2 == 3) false (z.op.d.getLsbD 7) true (rs.head?.map (·.dst)) (if z.op.d.getLsbD 7 then none else bad))

theorem tcopyPlan_some (h : substituted x z.w0 z.w1 z.w2 z.w3 = some r) : tcopyPlan x u z.op z.w0 z.w1 z.w2 z.w3 =
    if !r.legal (tcopyOrigin x z).1 then .error (5, 0, 0)
    else if r.stride1 % 16 != 0 || r.stride2 % 16 != 0 then .error (3, 0, 0)
    else match tcopyChecks x u z (tcopyRuns x z r) with
      | some f => .error f
      | none => .ok (tcopyMoves z r (tcopyRuns x z r)) := by
  unfold tcopyPlan tcopyRuns tcopyChecks tcopyOff
  rw [h, Ctx.rdN_one, quad_digits]
  rfl

section
variable (hr : substituted x z.w0 z.w1 z.w2 z.w3 = some r) (h : x.Starts u s (.tcopy z) (tcopyPages x z))
include hr h

theorem tcopy_illegal (hw : ¬ r.WellFormed (tcopyOrigin x z).1) : x.TrapsWith u s (.tcopy z) (tcopyPages x z) 5 0 0 := by
  refine copyIssue_fails exec_tcopy rfl h ?_
  rw [tcopyPlan_some hr, if_pos]
  simpa [← ShapeRec.legal_iff] using hw

section
variable (hw : r.WellFormed (tcopyOrigin x z).1)
include hw

theorem tcopy_strides (hs : r.stride1 % 16 ≠ 0 ∨ r.stride2 % 16 ≠ 0) : x.TrapsWith u s (.tcopy z) (tcopyPages x z) 3 0 0 := by
  refine copyIssue_fails exec_tcopy rfl h ?_
  rw [tcopyPlan_some hr, ShapeRec.legal_iff.2 hw, if_neg (by simp), if_pos (by simpa using hs)]

section
variable (h1 : r.stride1 % 16 = 0) (h2 : r.stride2 % 16 = 0)
include h1 h2

omit h in
theorem tcopyPlan_checks : tcopyPlan x u z.op z.w0 z.w1 z.w2 z.w3 = match tcopyChecks x u z (tcopyRuns x z r) with
    | some f => .error f
    | none => .ok (tcopyMoves z r (tcopyRuns x z r)) := by
  rw [tcopyPlan_some hr, ShapeRec.legal_iff.2 hw, if_neg (by simp), if_neg (by simp [h1, h2])]

theorem tcopy_fails {c a gpa : Nat} (hc : tcopyChecks x u z (tcopyRuns x z r) = some (c, a, gpa)) :
    x.TrapsWith u s (.tcopy z) (tcopyPages x z) c a gpa :=
  copyIssue_fails exec_tcopy rfl h (by rw [tcopyPlan_checks hr hw h1 h2, hc])

theorem tcopy_store_misaligned (ho : tcopyOff x z % 16 ≠ 0) (hst : z.op.d.getLsbD 7 = true) :
    x.TrapsWith u s (.tcopy z) (tcopyPages x z) 3 (tcopyOff x z) 0 := by
  refine tcopy_fails hr h hw h1 h2 ?_
  simp only [tcopyChecks, hst, if_true, beq_eq_false_iff_ne.2 ho, Bool.false_eq_true, if_false, sideCheck_misaligned, Option.some_or]

section
variable (ho : tcopyOff x z % 16 = 0)
include ho

omit hr h hw h1 h2 in
theorem tcopyChecks_aligned (rs : List Run) : tcopyChecks x u z rs =
    (sideCheck x u (fld z.op.m 3 2 == 3) false (!z.op.d.getLsbD 7) false (rs.findSome? (·.src)) none).or
      (sideCheck x u (fld z.op.m 3 2 == 3) false (z.op.d.getLsbD 7) true (rs.head?.map (·.dst)) none) := by
  simp only [tcopyChecks, ho, beq_self_eq_true, if_true, ite_self]

theorem tcopy_source_fault {a : Nat} {f : XFault} (ha : (tcopyRuns x z r).findSome? (·.src) = some a)
    (hf : sideFault x u (!z.op.d.getLsbD 7) (fld z.op.m 3 2 == 3) false false a = some f) :
    x.TrapsWith u s (.tcopy z) (tcopyPages x z) f.cause a f.gpa :=
  tcopy_fails hr h hw h1 h2 (by rw [tcopyChecks_aligned ho, ha, sideCheck_fault hf, Option.some_or])

theorem tcopy_queues
    (hs : ∀ a, (tcopyRuns x z r).findSome? (·.src) = some a → sideFault x u (!z.op.d.getLsbD 7) (fld z.op.m 3 2 == 3) false false a = none)
    (hd : ∀ q, (tcopyRuns x z r).head? = some q → sideFault x u (z.op.d.getLsbD 7) (fld z.op.m 3 2 == 3) false true q.dst = none)
    (hf : x.Free (z.op.d.getLsbD 7 = true ∨
      ∃ q ∈ tcopyRuns x z r, x.b.coreOf q.dst ≠ x.c.core ∨ x.b.coreOf (q.dst + q.n - 1) ≠ x.c.core)) :
    x.Queues u s (.tcopy z) (tcopyPages x z) (x.copyOp u z.op (queueOf z.op) (tcopyMoves z r (tcopyRuns x z r)) 0)
      (some (fld z.op.d 3 0)) := by
  have dst : ∀ a, (tcopyRuns x z r).head?.map (·.dst) = some a → sideFault x u (z.op.d.getLsbD 7) (fld z.op.m 3 2 == 3) false true a = none := by
    intro a ha
    obtain ⟨q, hq, rfl⟩ := Option.map_eq_some_iff.1 ha
    exact hd q hq
  have plan : tcopyPlan x u z.op z.w0 z.w1 z.w2 z.w3 = .ok (tcopyMoves z r (tcopyRuns x z r)) := by
    rw [tcopyPlan_checks hr hw h1 h2, tcopyChecks_aligned ho, sideCheck_none hs, sideCheck_none dst]
    rfl
  refine copyIssue_queues (box := fun _ => 0) exec_tcopy rfl h plan ?_ (hf.imp id (Or.imp id fun hn hforce => hn ?_))
  · intro tg fg fill s9 rs he
    cases he
    exact ⟨rfl, .inr rfl⟩
  · rcases Bool.or_eq_true_iff.1 hforce with hg | hp
    · exact .inl hg
    · rw [plan] at hp
      exact .inr ((toPartner_runs ..).1 hp).2

end
end
end
end

/-- The bytes of a TCOPY, as its extents and its box give them. -/
theorem tcopyRuns_bytes (hw : r.WellFormed (tcopyOrigin x z).1) {d : Nat} {src : Option Nat} :
    (∃ p i1 i2 i3, p < r.box.1 * recordBits r.format / 8 ∧ i1 < r.box.2.1 ∧ i2 < r.box.2.2.1 ∧ i3 < r.box.2.2.2 ∧
      let inside : Prop := (tcopyOrigin x z).1 + p * 8 / recordBits r.format < r.ext.1 ∧ (tcopyOrigin x z).2.1 + i1 < r.ext.2.1 ∧
        (tcopyOrigin x z).2.2.1 + i2 < r.ext.2.2.1 ∧ (tcopyOrigin x z).2.2.2 + i3 < r.ext.2.2.2
      let pad := r.pad (tcopyOff x z) i1 i2 i3 + p
      let place := r.place (tcopyOrigin x z) i1 i2 i3 + p
      if z.op.d.getLsbD 7 = true then inside ∧ d = place ∧ src = some pad
      else d = pad ∧ (inside ∧ src = some place ∨ ¬ inside ∧ r.fill = true ∧ src = none)) ↔
    ∃ q ∈ tcopyRuns x z r, ∃ k, k < q.n ∧ d = q.dst + k ∧ src = q.src.map (· + k) := by
  obtain ⟨-, -, -, paired⟩ := hw
  refine Iff.trans ?_ (ShapeRec.runs_bytes paired _).symm
  refine exists_congr fun p => exists_congr fun i1 => exists_congr fun i2 => exists_congr fun i3 => and_congr_right fun hp => ?_
  rw [ShapeRec.lt_bytes_inner (i1 := i1) (i2 := i2) (i3 := i3) paired hp]

end

end Sys2Proof.Machine

namespace Sys2Proof.Machine

/-! ## The peer form (R219) -/

/-- The block of a grid that holds a core, the lowest of them: one step of the search. -/
def lowerBlock (best : Option BRef) (b : Block) : Option BRef :=
  match best with
  | none => some b.ref
  | some r => if b.ref.block < r.block then some b.ref else some r

/-- `best` is the lowest block of `bs`, where there is one. -/
def LowestOf (bs : List Block) (best : Option BRef) : Prop :=
  (best = none ↔ bs = []) ∧ ∀ r, best = some r → (∃ b ∈ bs, b.ref = r) ∧ ∀ b ∈ bs, r.block ≤ b.ref.block

theorem LowestOf.step {bs : List Block} {best : Option BRef} (h : LowestOf bs best) (b : Block) : LowestOf (bs ++ [b]) (lowerBlock best b) := by
  obtain ⟨hn, hs⟩ := h
  cases best with
  | none =>
    obtain rfl := hn.1 rfl
    refine ⟨by simp [lowerBlock], fun r hr => ?_⟩
    obtain rfl := Option.some.inj hr
    simp
  | some r =>
    obtain ⟨⟨b0, hb0, hr0⟩, hle⟩ := hs r rfl
    unfold lowerBlock
    dsimp only
    split
    · next hlt =>
      refine ⟨by simp, fun r' hr' => ?_⟩
      obtain rfl := Option.some.inj hr'
      refine ⟨⟨b, by simp, rfl⟩, fun c hc => ?_⟩
      rcases List.mem_append.1 hc with hc | hc
      · exact hlt.le.trans (hle c hc)
      · rw [List.mem_singleton.1 hc]
    · next hge =>
      refine ⟨by simp, fun r' hr' => ?_⟩
      obtain rfl := Option.some.inj hr'
      refine ⟨⟨b0, List.mem_append_left _ hb0, hr0⟩, fun c hc => ?_⟩
      rcases List.mem_append.1 hc with hc | hc
      · exact hle c hc
      · rw [List.mem_singleton.1 hc]
        exact Nat.not_lt.1 hge

theorem lowestOf_foldl {l bs : List Block} {best : Option BRef} (h : LowestOf bs best) : LowestOf (bs ++ l) (l.foldl lowerBlock best) := by
  induction l generalizing bs best with
  | nil => simpa using h
  | cons b l ih =>
    have := ih (h.step b)
    rwa [List.append_assoc] at this

/-- A block of the grid is resident on a core. -/
def ResidentOn (u : State) (grid : Nat) (b : Block) (name : Nat) : Prop :=
  b ∈ u.blocks ∧ b.ref.grid = grid ∧ (b.core = name ∨ b.core2 = some name) ∧ b.st ≠ .saved ∧ b.st ≠ .restoring

theorem blockOn_lowest (u : State) (grid name : Nat) : ∃ bs, (∀ b, b ∈ bs ↔ ResidentOn u grid b name) ∧ LowestOf bs (u.blockOn grid name) := by
  refine ⟨_, fun b => ?_, lowestOf_foldl (bs := []) (best := none) ⟨by simp, by simp⟩⟩
  rw [List.nil_append, List.mem_filter]
  simp only [ResidentOn, Block.cores, Bool.and_eq_true, beq_iff_eq, bne_iff_ne, List.contains_iff_mem, List.mem_cons, Option.mem_toList,
    and_assoc, eq_comm (a := name)]

section
variable {x : Ctx} {z : OpX4} {u s : State} {r : ShapeRec}

/-- A bit that a peer mask names. -/
def Named (mask j : Nat) : Prop := j < 64 ∧ mask.testBit j = true

def peerRow (x : Ctx) (j : Nat) : Nat := x.c.core / 256 % 256 / 8 * 8 + j / 8
def peerCol (x : Ctx) (j : Nat) : Nat := x.c.core % 256 / 8 * 8 + j % 8

/-- The core of a bit of a peer mask. -/
def peerName (x : Ctx) (j : Nat) : Nat := x.c.core / 65536 * 65536 + peerRow x j * 256 + peerCol x j

/-- The bits of a peer mask, in order. -/
def peerBits (mask : Nat) : List Nat := (List.range 64).filter fun j => mask.testBit j

theorem mem_peerBits {mask j : Nat} : j ∈ peerBits mask ↔ Named mask j := by simp [peerBits, Named]

theorem peerBits_ascend (mask : Nat) : (peerBits mask).Pairwise (· < ·) := List.pairwise_lt_range.filter _

section
variable {rect : Rect} {mask : Nat} (hrect : u.chart.rects[x.c.core / 65536]? = some rect)
include hrect

theorem peerNames_none (h : ∃ j, Named mask j ∧ ¬ (peerRow x j < rect.rows ∧ peerCol x j < rect.cols)) :
    peerNames u x.c.core mask = none := by
  obtain ⟨j, hj, hn⟩ := h
  unfold peerNames
  rw [hrect]
  refine if_neg fun hall => hn ?_
  have := List.all_eq_true.1 hall j (mem_peerBits.2 hj)
  simpa [peerRow, peerCol] using this

theorem peerNames_some (h : ∀ j, Named mask j → peerRow x j < rect.rows ∧ peerCol x j < rect.cols) :
    peerNames u x.c.core mask = some ((peerBits mask).map fun j => (j, peerName x j)) := by
  unfold peerNames
  rw [hrect]
  refine if_pos (List.all_eq_true.2 fun j hj => ?_)
  simpa [peerRow, peerCol] using h j (mem_peerBits.1 hj)

end

variable (x z) in
def peerOff : Nat := x.rdN 2 z.op.a (lowest x.ex) % 2 ^ 32

variable (x z) in
def peerBar : Nat := x.rdN 2 z.op.a (lowest x.ex) / 2 ^ 32

variable (x z) in
def peerMask : Nat := x.rdN 2 z.op.b (lowest x.ex)

variable (x z) in
/-- The pages that a peer copy begins at. -/
def peerPages : List DWord := pagesOf (peerSides x z.op z.w0 z.w1 z.w2 z.w3)

variable (x z r) in
/-- The runs of a peer copy. -/
def peerRuns : List Run := r.runs (0, 0, 0, 0) (peerOff x z) false

/-- The receiver of a bit, as the copy finds it when it issues. -/
def peerDest (x : Ctx) (u : State) (z : OpX4) (j : Nat) : Dest :=
  let d : Dest := { bit := j, name := peerName x j, block := u.blockOn x.g.id (peerName x j) }
  { d with code := destFault x.g (peerOff x z) (peerBar x z) d }

/-- The receivers of a peer copy. -/
def peerDests (x : Ctx) (u : State) (z : OpX4) : List Dest := (peerBits (peerMask x z)).map (peerDest x u z)

/-- What a peer copy moves. -/
def peerMoves (x : Ctx) (u : State) (z : OpX4) (r : ShapeRec) : Moves :=
  .peer (!z.op.d.getLsbD 7) (r.format == 0x0E) (peerRuns x z r) (peerBar x z) (peerDests x u z)

theorem exec_tcopyPeer : exec (.tcopyPeer z) s = copyIssue (.tcopyPeer z) z.op (queueOf z.op)
    (fun x s => planIs (peerPlan x s z.op z.w0 z.w1 z.w2 z.w3) (toPeer x s)) (fun x => peerSides x z.op z.w0 z.w1 z.w2 z.w3)
    (fun x s => peerPlan x s z.op z.w0 z.w1 z.w2 z.w3) s (fun x => boxBytes x z) := rfl

theorem peerPlan_none (h : substituted x z.w0 z.w1 z.w2 z.w3 = none) : peerPlan x u z.op z.w0 z.w1 z.w2 z.w3 = .error (5, 0, 0) := by
  unfold peerPlan
  rw [h]

theorem peerPages_none (h : substituted x z.w0 z.w1 z.w2 z.w3 = none) : peerPages x z = [] := by
  unfold peerPages peerSides
  rw [h]
  rfl

theorem peerPlan_some (h : substituted x z.w0 z.w1 z.w2 z.w3 = some r) : peerPlan x u z.op z.w0 z.w1 z.w2 z.w3 =
    if !r.legal 0 || (z.op.d.getLsbD 7 && decide (2 ^ 19 ≤ r.base)) then .error (5, 0, 0)
    else if r.stride1 % 16 != 0 || r.stride2 % 16 != 0 then .error (3, 0, 0)
    else match sideCheck x u (fld z.op.m 3 2 == 3) false (!z.op.d.getLsbD 7) false ((peerRuns x z r).findSome? (·.src)) none with
      | some f => .error f
      | none => match peerNames u x.c.core (peerMask x z) with
        | none => .error (2, 0, 0)
        | some ns => .ok (.peer (!z.op.d.getLsbD 7) (r.format == 0x0E) (peerRuns x z r) (peerBar x z) (ns.map fun p =>
            let d : Dest := { bit := p.1, name := p.2, block := u.blockOn x.g.id p.2 }
            { d with code := destFault x.g (peerOff x z) (peerBar x z) d })) := by
  unfold peerPlan
  rw [h]
  simp only [sideFaults_eq]
  have empty : sideCheck x u (fld z.op.m 3 2 == 3) false false true none none = none := rfl
  rw [empty, Option.or_none]
  rfl

section
variable (hr : substituted x z.w0 z.w1 z.w2 z.w3 = some r) (h : x.Starts u s (.tcopyPeer z) (peerPages x z))
include hr h

theorem peer_illegal (hw : r.legal 0 = false ∨ z.op.d.getLsbD 7 = true ∧ 2 ^ 19 ≤ r.base) :
    x.TrapsWith u s (.tcopyPeer z) (peerPages x z) 5 0 0 := by
  refine copyIssue_fails exec_tcopyPeer rfl h ?_
  rw [peerPlan_some hr, if_pos]
  simpa using hw

section
variable (hl : r.legal 0 = true) (hb : z.op.d.getLsbD 7 = true → r.base < 2 ^ 19) (h1 : r.stride1 % 16 = 0) (h2 : r.stride2 % 16 = 0)
  (hs : ∀ a, (peerRuns x z r).findSome? (·.src) = some a → sideFault x u (!z.op.d.getLsbD 7) (fld z.op.m 3 2 == 3) false false a = none)
  {rect : Rect} (hrect : u.chart.rects[x.c.core / 65536]? = some rect)
include hl hb h1 h2 hs

omit h in
theorem peerPlan_checked : peerPlan x u z.op z.w0 z.w1 z.w2 z.w3 = match peerNames u x.c.core (peerMask x z) with
    | none => .error (2, 0, 0)
    | some ns => .ok (.peer (!z.op.d.getLsbD 7) (r.format == 0x0E) (peerRuns x z r) (peerBar x z) (ns.map fun p =>
        let d : Dest := { bit := p.1, name := p.2, block := u.blockOn x.g.id p.2 }
        { d with code := destFault x.g (peerOff x z) (peerBar x z) d })) := by
  have base : (z.op.d.getLsbD 7 && decide (2 ^ 19 ≤ r.base)) = false := by
    simpa using hb
  rw [peerPlan_some hr, hl, base, if_neg (by simp), if_neg (by simp [h1, h2]), sideCheck_none hs]

include hrect

theorem peer_outside (hn : ∃ j, Named (peerMask x z) j ∧ ¬ (peerRow x j < rect.rows ∧ peerCol x j < rect.cols)) :
    x.TrapsWith u s (.tcopyPeer z) (peerPages x z) 2 0 0 :=
  copyIssue_fails exec_tcopyPeer rfl h (by rw [peerPlan_checked hr hl hb h1 h2 hs, peerNames_none hrect hn])

theorem peer_queues (hn : ∀ j, Named (peerMask x z) j → peerRow x j < rect.rows ∧ peerCol x j < rect.cols)
    (hf : x.Free (∃ d ∈ peerDests x u z, d.name ≠ x.c.core ∨ ∃ ref b, d.block = some ref ∧ u.block? ref = some b ∧
      ∃ q ∈ peerRuns x z r, b.coreOf q.dst ≠ x.c.core ∨ b.coreOf (q.dst + q.n - 1) ≠ x.c.core)) :
    x.Queues u s (.tcopyPeer z) (peerPages x z) (x.copyOp u z.op (queueOf z.op) (peerMoves x u z r)
      (r.box.1 * r.box.2.1 * r.box.2.2.1 * r.box.2.2.2 * recordBits r.format / 8)) (some (fld z.op.d 3 0)) := by
  have plan : peerPlan x u z.op z.w0 z.w1 z.w2 z.w3 = .ok (peerMoves x u z r) := by
    rw [peerPlan_checked hr hl hb h1 h2 hs, peerNames_some hrect hn]
    simp only [peerMoves, peerDests, List.map_map]
    rfl
  have size : boxBytes x z = r.box.1 * r.box.2.1 * r.box.2.2.1 * r.box.2.2.2 * recordBits r.format / 8 := by
    unfold boxBytes
    rw [hr]
  rw [← size]
  refine copyIssue_queues (box := fun x => boxBytes x z) exec_tcopyPeer rfl h plan ?_ (hf.imp id (Or.imp id fun hn hforce => hn ?_))
  · intro tg fg fill s9 rs he
    cases he
  · rw [plan] at hforce
    obtain ⟨d, hd, hq⟩ := List.any_eq_true.1 hforce
    refine ⟨d, hd, (Bool.or_eq_true_iff.1 hq).imp (by simp) fun hb => ?_⟩
    cases hbl : d.block.bind u.block? with
    | none => simp [hbl] at hb
    | some b =>
      obtain ⟨ref, hdr, hrb⟩ := Option.bind_eq_some_iff.1 hbl
      simp only [hbl] at hb
      obtain ⟨q, hq, ha⟩ := List.any_eq_true.1 hb
      exact ⟨ref, b, hdr, hrb, q, hq, by simpa using ha⟩

end
end

/-! ### The receivers -/

theorem peerDests_ascend : (peerDests x u z).Pairwise fun p q => p.bit < q.bit := List.pairwise_map.2 (peerBits_ascend _)

theorem peerDests_named (j : Nat) : Named (peerMask x z) j ↔ ∃ d ∈ peerDests x u z, d.bit = j := by
  rw [← mem_peerBits]
  constructor
  · intro hj
    exact ⟨_, List.mem_map_of_mem hj, rfl⟩
  · rintro ⟨d, hd, rfl⟩
    obtain ⟨j, hj, rfl⟩ := List.mem_map.1 hd
    exact hj

theorem peerDest_block (j : Nat) : ((peerDest x u z j).block = none ↔ ∀ b, ¬ ResidentOn u x.g.id b (peerName x j)) ∧
    ∀ ref, (peerDest x u z j).block = some ref → (∃ k, ResidentOn u x.g.id k (peerName x j) ∧ k.ref = ref) ∧
      ∀ k, ResidentOn u x.g.id k (peerName x j) → ref.block ≤ k.ref.block := by
  obtain ⟨bs, hm, hnone, hsome⟩ := blockOn_lowest u x.g.id (peerName x j)
  refine ⟨hnone.trans (List.eq_nil_iff_forall_not_mem.trans (forall_congr' fun b => not_congr (hm b))), fun ref href => ?_⟩
  obtain ⟨⟨b, hb, hbr⟩, hle⟩ := hsome ref href
  exact ⟨⟨b, (hm b).1 hb, hbr⟩, fun k hk => hle k ((hm k).2 hk)⟩

/-- How a receiver has failed when the copy issues (R219). -/
theorem destFault_iff (g : Grid) (off bar : Nat) (d : Dest) :
    (destFault g off bar d = some 2 ↔ d.block = none ∨ inScratch g bar 8 = false) ∧
    (destFault g off bar d = some 3 ↔ d.block ≠ none ∧ inScratch g bar 8 = true ∧ (bar % 8 ≠ 0 ∨ off % 16 ≠ 0)) ∧
    (destFault g off bar d = none ↔ d.block ≠ none ∧ inScratch g bar 8 = true ∧ bar % 8 = 0 ∧ off % 16 = 0) := by
  unfold destFault
  cases hb : d.block with
  | none => simp
  | some ref =>
    cases hi : inScratch g bar 8
    · simp
    · by_cases ha : bar % 8 = 0 ∧ off % 16 = 0
      · simp [ha]
      · have : (bar % 8 != 0 || off % 16 != 0) = true := by
          simp only [Bool.or_eq_true, bne_iff_ne]
          omega
        simp only [Option.isNone_some, Bool.not_true, Bool.or_self, Bool.false_eq_true, if_false, this, if_true]
        simp
        omega

end

end Sys2Proof.Machine

namespace Sys2Proof.Machine

section
variable (x : Ctx) (u s : State)

/-- R221: the checks of a side of a copy. -/
theorem sides_checked (sys fill isDst : Bool) (a : Nat) :
    let tr := u.xlate x.c.core x.g x.sp.mode (if isDst then .wr else .rd) (BitVec.ofNat 64 a)
    let f := sideFault x u true sys fill isDst a
    let region (pa : Nat) (ws : Bool) : Option Nat :=
      if paRegion pa = 3 ∨ (paRegion pa = 2 ∨ paRegion pa = 4) ∧ sys = false then some 2
      else if isDst = true ∧ fill = true then (if ws = true then none else some 2)
      else if isDst = true ∧ paRegion pa = 1 then some 0x0A else none
    (2 ^ 51 ≤ a → f = some { cause := 2 }) ∧
    (a < 2 ^ 51 →
      (∀ p, tr = .ok p → f = ((region p.gpa p.ws).or (region p.pa p.ws)).map fun c => { cause := c }) ∧
      (∀ e, tr = .error e →
        (e.leaf ≠ none → f = some (match region e.gpa (paRegion e.gpa == 1) with
          | some c => { cause := c }
          | none => e)) ∧
        (e.leaf = none → f = some e))) := by
  refine ⟨sideFault_high, fun ha => ⟨fun p hp => ?_, fun e he => ⟨fun hl => ?_, fun hl => ?_⟩⟩⟩
  · refine (sideFault_translated ha hp).trans ?_
    rw [copyRegion_eq, copyRegion_eq]
  · refine (sideFault_untranslated ha he).trans ?_
    rw [if_pos (Option.isSome_iff_ne_none.2 hl), copyRegion_eq] <;> rfl
  · refine (sideFault_untranslated ha he).trans ?_
    rw [hl]
    rfl

end

/-- Settles O36: each copy is `copyIssue` of its plan, and the plan is taken case by case. -/
theorem copiesIssue : Obligations.CopiesIssue := by
  unfold Obligations.CopiesIssue
  intro y z o s x u
  refine ⟨fun sys fill isDst a => ?_, ⟨?_, fun h => ?_⟩, ⟨?_, fun h => fill_huge h, fun h hb => ?_⟩, fun r hr => ⟨?_, fun h => ?_⟩,
    fun hr h => ?_, fun hr h => ?_, fun r rect hr hrect => ⟨?_, peer_illegal hr, fun h hl hb h1 h2 hs => ?_⟩, qfence_queues⟩
  · obtain ⟨high, low⟩ := sides_checked x u sys fill isDst a
    exact ⟨high, low, sideFault_scratch⟩
  · exact copyIssue_waits exec_copy (copySides_pages x y)
  · exact ⟨copy_huge h, copy_of_nothing h, fun h0 hb => ⟨fun f hf => copy_source_fault h h0 hb hf,
      fun f hs hf => copy_destination_fault h h0 hb hs hf, copy_queues h h0 hb⟩⟩
  · exact copyIssue_waits exec_fill (fillSides_pages x y)
  · refine ⟨fill_source_misaligned h hb, fill_destination_misaligned h hb, fun hs hd h0 => ⟨fun f hf => fill_source_fault h hb hs hd h0 hf,
      fun f ho hf => fill_destination_fault h hb hs hd h0 ho hf⟩, fun hs hd ho hw => ⟨fun hn => ?_, fun hn h0 hf => ?_⟩⟩
    · have h0 : 0 < copyNumber x y.w0 := Nat.pos_of_ne_zero fun h0 => hn (by
        show copyNumber x y.w0 % 4096 = 0
        rw [h0])
      exact fill_count_misaligned h hb hs hd h0 ho hw hn
    · obtain ⟨c, hc, hp, hmem, hcopies, -, hfilled, hl1, hl2⟩ := fillEntered_spec h.1
      have plan : fillPlan x u y.op y.w0 = .ok (fillMoves x y) := (fillPlan_checked hb hs hd h0 ho hw).trans (if_neg (not_not.2 hn))
      exact ⟨_, _, c, completes_bump h.1, fill_enters h plan hf, hmem, hc, hp, hcopies, hfilled, hl1, hl2⟩
  · exact copyIssue_waits exec_tcopy rfl
  · exact ⟨tcopy_illegal hr h, tcopy_strides hr h, fun hw h1 h2 => tcopy_store_misaligned hr h hw h1 h2, fun hw h1 h2 ho =>
      ⟨tcopyRuns x z r, fun d src => tcopyRuns_bytes hw, ShapeRec.runs_ascend _, tcopy_queues hr h hw h1 h2 ho,
        fun a f ha hf => tcopy_source_fault hr h hw h1 h2 ho ha hf⟩⟩
  · exact copyIssue_fails exec_tcopy (tcopyPages_none hr) h (tcopyPlan_none hr)
  · exact copyIssue_fails exec_tcopyPeer (peerPages_none hr) h (peerPlan_none hr)
  · exact copyIssue_waits exec_tcopyPeer rfl
  · refine ⟨peer_outside hr h hl hb h1 h2 hs hrect, fun hn => ⟨peerDests x u z, peer_queues hr h hl hb h1 h2 hs hrect hn, peerDests_ascend,
      peerDests_named, fun d hd => ?_⟩⟩
    obtain ⟨j, -, rfl⟩ := List.mem_map.1 hd
    obtain ⟨hnone, hsome⟩ := peerDest_block (x := x) (u := u) (z := z) j
    exact ⟨rfl, rfl, rfl, hnone, hsome, destFault_iff ..⟩

end Sys2Proof.Machine

namespace Sys2Proof.Machine

/-! ## What the banks change when they serve (R239-R244) -/

/-- The state without the accesses in flight and what the banks keep. -/
def State.offBanks (s : State) : State :=
  { s with flight := [], fresh := 0, domains := [], cores := [], leases := [], sigs := [], directory := [], l2 := [] }

/-- States alike off the banks are alike but for what the banks keep. -/
theorem State.eq_of_offBanks {s t : State} (h : t.offBanks = s.offBanks) : t = { s with
    flight := t.flight, fresh := t.fresh, domains := t.domains, cores := t.cores, leases := t.leases, sigs := t.sigs
    directory := t.directory, l2 := t.l2 } := by
  have : t = { t.offBanks with
    flight := t.flight, fresh := t.fresh, domains := t.domains, cores := t.cores, leases := t.leases, sigs := t.sigs
    directory := t.directory, l2 := t.l2 } := rfl
  rw [h] at this
  exact this

section
variable (s : State)

@[simp] theorem State.touchDomain_offBanks (d : Nat) : (s.touchDomain d).offBanks = s.offBanks := rfl

@[simp] theorem State.l2Place_offBanks (d pa part : Nat) (dirty : Bool) (hint : Nat) : (s.l2Place d pa part dirty hint).offBanks = s.offBanks := rfl

@[simp] theorem State.l2Bring_offBanks (d pa part : Nat) (dirty : Bool) (hint : Nat) : (s.l2Bring d pa part dirty hint).offBanks = s.offBanks := by
  unfold State.l2Bring
  split <;> rfl

@[simp] theorem State.dirAdd_offBanks (d pa : Nat) : (s.dirAdd d pa).offBanks = s.offBanks := rfl

@[simp] theorem State.grantLease_offBanks (d core pa llen hint : Nat) : (s.grantLease d core pa llen hint).offBanks = s.offBanks := rfl

@[simp] theorem State.setAccess_offBanks (id : Nat) (f : Access → Access) : (s.setAccess id f).offBanks = s.offBanks := rfl

@[simp] theorem State.bump_offBanks : s.bump.offBanks = s.offBanks := rfl

@[simp] theorem State.modCore_offBanks (k : Nat) (f : Core → Core) : (s.modCore k f).offBanks = s.offBanks := rfl

@[simp] theorem State.bankServed_offBanks (d pa part hint : Nat) : (s.bankServed d pa part hint).offBanks = s.offBanks := by
  unfold State.bankServed
  split
  · split <;> simp
  · rfl

@[simp] theorem State.allocate_offBanks (d : Nat) (a : Access) : (s.allocate d a).offBanks = s.offBanks := by
  unfold State.allocate
  split
  · rfl
  · split
    · rfl
    · split
      · rfl
      · rfl

/-- What a bank that has served a line leaves: the accesses, the cores, the leases and the signatures. -/
theorem State.bankServed_frame (d pa part hint : Nat) : s.bankServed d pa part hint =
    { s with domains := (s.bankServed d pa part hint).domains, l2 := (s.bankServed d pa part hint).l2,
             directory := (s.bankServed d pa part hint).directory } := by
  unfold State.bankServed State.l2Bring
  split
  · split <;> split <;> rfl
  · rfl

/-- What a served load leaves but its core's L1 and its bank's leases. -/
theorem State.allocate_frame (d : Nat) (a : Access) : s.allocate d a =
    { s with cores := (s.allocate d a).cores, leases := (s.allocate d a).leases, sigs := (s.allocate d a).sigs } := by
  unfold State.allocate
  split
  · rfl
  · split
    · rfl
    · split <;> rfl

/-- A lease that runs stays. -/
theorem State.allocate_leases (d : Nat) (a : Access) {r : LeaseRec} (h : r ∈ s.leases) (hr : s.ticks < r.expiry) : r ∈ (s.allocate d a).leases := by
  unfold State.allocate
  split
  · exact h
  · split
    · exact h
    · split
      · exact List.mem_append_left _ (List.mem_filter.2 ⟨h, decide_eq_true hr⟩)
      · exact h

end

/-! ## What an access reads (R397) -/

section
variable {s t : State}

/-- What a block reads depends on memory and on the writes that it has still to publish alone. -/
theorem State.accessBytes_congr (h : t.offBanks = s.offBanks) (hu : ∀ b, t.unpublished b = s.unpublished b) (a : Access) :
    t.accessBytes a = s.accessBytes a := by
  have sealed : ∀ b pa, t.sealedByte b pa = s.sealedByte b pa := fun b pa => by rw [State.sealedByte, hu, State.sealedByte]
  have seen : ∀ b pa n, t.seen b pa n = s.seen b pa n := fun b pa n => by
    unfold State.seen
    simp only [sealed]
    rw [State.eq_of_offBanks h]
    rfl
  unfold State.accessBytes
  simp only [seen]
  rw [State.eq_of_offBanks h]
  rfl

theorem Block.sread_eq (b : Block) (off n : Nat) : b.sread off n = (List.range n).map fun k => tget 0 b.scratch (off + k) := rfl

/-- A block's own draft of a byte, sealed or not. -/
def State.draftByte (s : State) (b : Block) (pa : Nat) : Option Byte := (tget none b.drafts pa).or (s.sealedByte b.ref pa)

theorem State.accessBytes_eq {a : Access} {b : Block} (hb : s.block? a.c.b = some b) : ∃ p,
    s.accessBytes a = ((List.range a.size).map fun k =>
      if a.scratch then tget 0 b.scratch (a.pa + k) else (s.draftByte b (a.pa + k)).getD (s.readPhys (a.pa + k)), p) ∧
    (p = true ↔ a.scratch = false ∧ ∃ k, k < a.size ∧ s.draftByte b (a.pa + k) = none ∧
      ((a.pa + k) / 64 ∈ s.poison ∨ paRegion (a.pa + k) = 1 ∧ (a.pa + k) / 128 ∉ s.filled)) := by
  unfold State.accessBytes
  rw [hb]
  cases hs : a.scratch with
  | true => exact ⟨false, by simp [Block.sread_eq], by simp⟩
  | false =>
    refine ⟨_, rfl, ?_⟩
    simp [State.draftByte, State.poisoned, State.lineFilled]

end

end Sys2Proof.Machine

namespace Sys2Proof.Machine

/-! ## When a load may be served (R103, R239, R243, R249, R253) -/

section
variable (s : State) (a : Access)

/-- The domain whose bank serves a load. -/
def State.loadDomain : Nat :=
  if a.covers = true ∨ a.scope = 0 ∨ a.scope ≤ 2 ∧ s.l2Has (s.coreDomain a.core) a.pa = true then s.coreDomain a.core else paDomain a.pa

/-- The line is not held at the bank of a domain, and the banks are powered (R240, R242, R258). -/
def State.LineFreeAt (k : Nat) : Prop :=
  (s.dom k).banks = .on ∧ ∀ e ∈ s.flight, e.scratch = false → e.pa / 128 = a.pa / 128 →
    (∀ t h vs, e.stage = .waiting t h vs → ∀ w ∈ h :: vs, w.domain = k → w.arrived = true → w.dropped = true) ∧
    (∀ bs p c, e.stage = .fixed bs p → e.op = .claim c → k ≠ paDomain a.pa)

/-- The weight bank of the address is in recess (R249). -/
def State.Recessed : Prop := paRegion a.pa = 1 ∧ s.recess = some (weightBank a.pa)

/-- The bank of a load has its packet and may serve it. -/
def State.BankServesLoad : Prop :=
  paRegion a.pa ≤ 1 ∧ (a.trip = none ∨ a.trip = s.tripOf a) ∧ s.atBank a = true ∧
    (if s.loadDomain a = paDomain a.pa then s.LineFreeAt a (paDomain a.pa) ∧ (¬ s.Recessed a ∨ s.l2Has (paDomain a.pa) a.pa = true)
     else s.LineFreeAt a (s.loadDomain a) ∧
       (s.l2Has (s.loadDomain a) a.pa = true ∨ s.LineFreeAt a (paDomain a.pa) ∧ ¬ s.Recessed a ∧ s.dirRoom a.pa = true))

/-- The core's L1 has the sector, under a lease with more than 8 ticks to run or without one (R239). -/
def State.HitsL1 : Prop :=
  (a.scope = 0 ∨ a.covers = true) ∧ ∃ e ∈ (s.core a.core).l1, e.line = a.pa / 128 ∧
    ∃ q ∈ e.sectors, q.1 = a.pa / 64 % 2 ∧ ∀ e, q.2 = some e → s.ticks + 8 < e

/-- A read of a fence register whose port has writes to perform (R273). -/
def State.FenceRead : Prop :=
  paRegion a.pa = 3 ∧ ∃ q, (∃ e ∈ s.flight, e.op = .host q) ∧
    let at' := (if q = .a then 0x10000 else 0x20000) + 0x40
    a.pa % 2 ^ 44 < at' + 8 ∧ at' < a.pa % 2 ^ 44 + a.size

end

section
variable {s : State} {a : Access}

theorem leaseOver_eq_false {ticks : Nat} {e : Option Nat} : leaseOver ticks e = false ↔ ∀ v, e = some v → ticks + 8 < v := by
  cases e with
  | none => simp [leaseOver]
  | some v => simp [leaseOver]

theorem l1Hit_iff (h : a.op = .load) : s.l1Hit a = true ↔ s.HitsL1 a := by
  simp [State.l1Hit, State.l1Holds, State.HitsL1, h, leaseOver_eq_false]

theorem domainUp_iff {d : Nat} : s.domainUp d = true ↔ (s.dom d).banks = .on := by simp [State.domainUp]

theorem inRecess_iff : s.inRecess a.pa = true ↔ s.Recessed a := by simp [State.inRecess, State.Recessed]

theorem State.LineFreeAt.held {k : Nat} (h : s.LineFreeAt a k) : s.held k a.pa = false := by
  unfold State.held
  refine List.any_eq_false.2 fun e he hheld => ?_
  rw [Bool.and_eq_true, Bool.and_eq_true, Bool.not_eq_true', beq_iff_eq] at hheld
  obtain ⟨⟨hs, hl⟩, hst⟩ := hheld
  obtain ⟨hw, hc⟩ := h.2 e he hs hl
  cases hstage : e.stage with
  | issued => simp [hstage] at hst
  | waiting t w vs =>
    rw [hstage] at hst
    obtain ⟨v, hv, hd⟩ := List.any_eq_true.1 hst
    simp only [Bool.and_eq_true, beq_iff_eq, Bool.not_eq_true'] at hd
    rw [hw t w vs hstage v hv hd.1.1 hd.1.2] at hd
    exact absurd hd.2 (by simp)
  | fixed bs p =>
    rw [hstage] at hst
    dsimp only at hst
    split at hst
    · next c hop => exact hc bs p c hstage hop (beq_iff_eq.1 hst).symm
    · cases hst

theorem State.LineFreeAt.lineWaits (h : s.LineFreeAt a (paDomain a.pa)) : s.lineWaits a.pa = false := by
  simp [State.lineWaits, State.banksUp, domainUp_iff.2 h.1, h.held]

theorem bankDomain_load (h : a.op = .load) : s.bankDomain a = s.loadDomain a := by
  simp [State.bankDomain, State.servingDomain, State.loadDomain, h, or_assoc]

theorem State.BankServesLoad.bankServes (h : s.BankServesLoad a) : s.bankServes (s.loadDomain a) a.pa = true := by
  obtain ⟨-, -, -, hb⟩ := h
  unfold State.bankServes
  by_cases hd : s.loadDomain a = paDomain a.pa
  · rw [if_pos hd] at hb
    obtain ⟨hf, hr⟩ := hb
    rw [hd]
    simp only [beq_self_eq_true, if_true, hf.lineWaits, Bool.not_false, Bool.true_and, Bool.or_eq_true, Bool.not_eq_true']
    exact hr.imp_left fun hn => Bool.eq_false_iff.2 fun h => hn (inRecess_iff.1 h)
  · rw [if_neg hd] at hb
    obtain ⟨hf, hr⟩ := hb
    simp only [beq_eq_false_iff_ne.2 hd, Bool.false_eq_true, if_false, domainUp_iff.2 hf.1, hf.held, Bool.not_false, Bool.true_and,
      Bool.or_eq_true, Bool.and_eq_true, Bool.not_eq_true']
    exact hr.imp_right fun ⟨hh, hn, hroom⟩ => ⟨⟨hh.lineWaits, Bool.eq_false_iff.2 fun h => hn (inRecess_iff.1 h)⟩, hroom⟩

theorem clear_of_after (h : ∀ e ∈ s.flight, e.id ∈ a.after → e.isFixed = true) : s.clear a = true := by
  refine List.all_eq_true.2 fun id hid => List.all_eq_true.2 fun e he => ?_
  by_cases hi : e.id = id
  · simp [h e he (hi ▸ hid)]
  · simp [hi]

/-- A load at its bank, which nothing holds back. -/
structure State.AtItsBank (s : State) (a : Access) : Prop where
  op : a.op = .load
  issued : a.stage = .issued
  clear : s.clear a = true
  plain : a.scratch = false
  miss : s.l1Hit a = false
  serves : s.BankServesLoad a

section
variable (h : s.AtItsBank a)
include h

theorem State.AtItsBank.writes : a.writes = false := by rw [Access.writes, h.op, AccOp.writes]

theorem State.AtItsBank.arrived : ∃ t, s.tripOf a = some t ∧ t.there = true := by
  have at' := h.serves.2.2.1
  unfold State.atBank at at'
  cases ht : s.tripOf a with
  | none => simp [ht] at at'
  | some t =>
    rw [ht] at at'
    exact ⟨t, rfl, (Bool.and_eq_true_iff.1 at').1⟩

theorem State.AtItsBank.not_sends : s.sends a = false := by
  obtain ⟨t, ht, -⟩ := h.arrived
  simp [State.sends, ht]

theorem State.AtItsBank.not_moves : s.moves a = false := by
  obtain ⟨t, ht, hthere⟩ := h.arrived
  obtain ⟨-, hturn, -⟩ := h.serves
  unfold State.moves
  rcases hturn with hn | hs
  · rw [hn]
  · rw [hs, ht]
    simp [State.portServes, hthere]

theorem State.AtItsBank.canServe : s.canServe a = true := by
  obtain ⟨hr, -, hat, -⟩ := h.serves
  have takes : s.bankTakes a = true := by
    simp only [State.bankTakes, h.issued, h.clear, h.writes, bankDomain_load h.op, h.serves.bankServes] <;> rfl
  simp [State.canServe, State.servable, h.writes, h.issued, h.clear, hr, hat, takes, h.op]

theorem State.AtItsBank.not_crowded : s.crowded a = false := by
  obtain ⟨-, -, -, hb⟩ := h.serves
  by_cases hd : s.loadDomain a = paDomain a.pa
  · simp [State.crowded, bankDomain_load h.op, hd]
  · rw [if_neg hd] at hb
    rcases hb.2 with hl | ⟨-, -, hroom⟩
    · simp [State.crowded, bankDomain_load h.op, hl]
    · simp [State.crowded, hroom]

theorem State.AtItsBank.serve : s.serve a = s.serveLoad a := by rw [State.serve, h.op]

end

/-! ### The events of packets and leases -/

theorem exec_packetService (h : s.access? a.id = some a) : exec (.packetService a.id) s = .next
    (if s.sends a then s.sendRequest a else if s.moves a then s.moveOn a else if s.crowded a then s.evict a
      else if s.canServe a then s.serve a else if s.lands a then s.land a else s) := by
  have unfolded : exec (.packetService a.id) s = execPacketService a.id s := rfl
  rw [unfolded, execPacketService, h]

theorem State.AtItsBank.packetService (h : s.AtItsBank a) (ha : s.access? a.id = some a) :
    exec (.packetService a.id) s = .next (s.serveLoad a) := by
  rw [exec_packetService ha, h.not_sends, h.not_moves, h.not_crowded, h.canServe, h.serve]
  rfl

theorem State.AtItsBank.leaseGrant (h : s.AtItsBank a) (ha : s.access? a.id = some a) (hc : a.covers = false) (hs : a.scope = 0) :
    exec (.leaseGrant a.id) s = .next (s.serveLoad a) := by
  have unfolded : exec (.leaseGrant a.id) s = execLeaseGrant a.id s := rfl
  have due : s.leaseDue a = true := by
    simp [State.leaseDue, h.op, h.plain, hc, hs, h.serves.1, h.miss, h.canServe]
  rw [unfolded, execLeaseGrant, ha]
  simp only [due, h.not_crowded, Bool.not_true, Bool.false_eq_true, if_false]

theorem fenceHolds_iff : (paRegion a.pa == 3 && s.fenceHolds (a.pa % 2 ^ 44) a.size) = true ↔ s.FenceRead a := by
  have writes : ∀ q, ((s.hostWrites q).isEmpty = false) ↔ ∃ e ∈ s.flight, e.op = .host q := by
    intro q
    rw [State.hostWrites, List.isEmpty_eq_false_iff_exists_mem]
    simp
  simp only [State.FenceRead, State.fenceHolds, List.any_cons, List.any_nil, Bool.or_false, Bool.and_eq_true, Bool.or_eq_true, beq_iff_eq,
    Bool.not_eq_true', writes, portBase]
  refine and_congr_right fun _ => ⟨?_, ?_⟩
  · rintro (⟨h, hw⟩ | ⟨h, hw⟩)
    · exact ⟨.a, hw, of_decide_eq_true h.1, of_decide_eq_true h.2⟩
    · exact ⟨.b, hw, of_decide_eq_true h.1, of_decide_eq_true h.2⟩
  · rintro ⟨q, hw, h⟩
    cases q with
    | a => exact .inl ⟨⟨decide_eq_true h.1, decide_eq_true h.2⟩, hw⟩
    | b => exact .inr ⟨⟨decide_eq_true h.1, decide_eq_true h.2⟩, hw⟩

/-- A load without a packet: of the scratchpad, of a sector that its L1 has, or of a region without a home bank. -/
structure State.Near (s : State) (a : Access) : Prop where
  op : a.op = .load
  issued : a.stage = .issued
  clear : s.clear a = true
  trip : a.trip = none
  place : a.scratch = true ∨ s.l1Hit a = true ∨ 2 ≤ paRegion a.pa ∧ ¬ s.FenceRead a

theorem State.Near.packetService (h : s.Near a) (ha : s.access? a.id = some a) : exec (.packetService a.id) s = .next (s.fixLoad a) := by
  have writes : a.writes = false := by rw [Access.writes, h.op, AccOp.writes]
  have stays : s.travels a = false ∧ s.crowded a = false := by
    rcases h.place with hs | hl | ⟨hr, -⟩
    · simp [State.travels, State.crowded, hs]
    · simp [State.travels, State.crowded, hl]
    · have : ¬ paRegion a.pa ≤ 1 := by omega
      simp [State.travels, State.crowded, this]
  have servable : s.servable a = true := by
    rcases h.place with hs | hl | ⟨hr, hf⟩
    · simp [State.servable, h.clear, hs]
    · simp [State.servable, h.clear, hl]
    · have far : ¬ paRegion a.pa ≤ 1 := by omega
      have open' : (paRegion a.pa == 3 && s.fenceHolds (a.pa % 2 ^ 44) a.size) = false :=
        Bool.eq_false_iff.2 fun hh => hf (fenceHolds_iff.1 hh)
      simp only [State.servable, h.clear, far, if_false, open', Bool.not_false, Bool.or_true, Bool.and_self]
  have sends : s.sends a = false := by simp [State.sends, stays.1]
  have moves : s.moves a = false := by simp [State.moves, h.trip]
  have canServe : s.canServe a = true := by simp [State.canServe, writes, h.issued, servable, h.op]
  have fixes : s.serve a = s.fixLoad a := by
    rw [State.serve, h.op]
    refine if_pos ?_
    rcases h.place with hs | hl | ⟨hr, -⟩
    · simp [hs]
    · simp [hl]
    · simp only [Bool.or_eq_true, decide_eq_true_eq]
      omega
  rw [exec_packetService ha, sends, moves, stays.2, canServe, fixes]
  rfl

end

end Sys2Proof.Machine

namespace Sys2Proof.Machine

/-! ## Serving a load and those that share its fill (R239, R243, R246) -/

/-- An access whose value is fixed, with its reply on the way. -/
def State.answered (s : State) (back : Trip) (e : Access) : Access :=
  { e with stage := .fixed (s.accessBytes e).1 (s.accessBytes e).2, trip := some back }

/-- The accesses in flight when those of `l` that nothing holds are answered. -/
def State.answeredIn (s : State) (back : Trip) (l : List Access) : List Access :=
  s.flight.map fun e => if e ∈ l ∧ s.clear e = true then s.answered back e else e

theorem filter_map_of_unmoved {α : Type} {p : α → Bool} {f : α → α} {l : List α}
    (h : ∀ e ∈ l, f e = e ∨ p (f e) = false ∧ p e = false) : (l.map f).filter p = l.filter p := by
  induction l with
  | nil => rfl
  | cons e l ih =>
    have rest := ih fun x hx => h x (List.mem_cons_of_mem _ hx)
    rw [List.map_cons]
    rcases h e List.mem_cons_self with he | ⟨hf, he⟩
    · rw [he, List.filter_cons, List.filter_cons, rest]
    · rw [List.filter_cons_of_neg (by simp [hf]), List.filter_cons_of_neg (by simp [he]), rest]

/-- `t` follows from `s` when a bank has answered the loads of `l`. -/
structure State.Answers (s t : State) (back : Trip) (l : List Access) : Prop where
  offBanks : t.offBanks = s.offBanks
  flight : t.flight = s.answeredIn back l
  fresh : t.fresh = s.fresh + 1
  loads : ∀ e ∈ l, e.op = .load

/-- One answer to the loads that share a fill. -/
def State.answerOne (s : State) (d : Nat) (back : Trip) (t : State) (b : Access) : State :=
  if s.clear b then ((t.fixLoad b).setAccess b.id fun x => { x with trip := some back }).allocate d b else t

section
variable {s t : State} {back : Trip} {l : List Access}

theorem State.Answers.accessBytes (h : s.Answers t back l) (a : Access) : t.accessBytes a = s.accessBytes a := by
  refine State.accessBytes_congr h.offBanks (fun b => ?_) a
  rw [State.unpublished, h.flight]
  refine filter_map_of_unmoved fun e _ => ?_
  split
  · next hl => exact .inr (by simp [State.answered, h.loads e hl.1])
  · exact .inl rfl

theorem State.Answers.step (h : s.Answers t back l) (hid : (s.flight.map (·.id)).Nodup) {b : Access} (hb : b ∈ s.flight) (hop : b.op = .load)
    (d : Nat) : s.Answers (s.answerOne d back t b) back (l ++ [b]) := by
  have same : ∀ e ∈ s.flight, e.id = b.id → e = b := fun e he hi => List.inj_on_of_nodup_map hid he hb hi
  have loads : ∀ e ∈ l ++ [b], e.op = .load := by
    intro e he
    rcases List.mem_append.1 he with he | he
    · exact h.loads e he
    · rw [List.mem_singleton.1 he, hop]
  unfold State.answerOne
  cases hc : s.clear b with
  | false =>
    refine ⟨h.offBanks, h.flight.trans (List.map_congr_left fun e he => ?_), h.fresh, loads⟩
    by_cases heb : e = b
    · simp [heb, hc]
    · simp [heb]
  | true =>
    rw [if_pos rfl, State.allocate_frame]
    refine ⟨h.offBanks, ?_, h.fresh, loads⟩
    simp only [State.fixLoad, State.setAccess, h.accessBytes b, h.flight, State.answeredIn, List.map_map]
    refine List.map_congr_left fun e he => ?_
    by_cases heb : e = b
    · subst heb
      by_cases hl : e ∈ l
      · simp [hl, hc, State.answered]
      · simp [hl, hc, State.answered]
    · have hne : e.id ≠ b.id := fun hi => heb (same e he hi)
      by_cases hl : e ∈ l ∧ s.clear e = true
      · simp [hl, hne, State.answered]
      · have : ¬ ((e ∈ l ∨ e = b) ∧ s.clear e = true) := by simpa [heb] using hl
        simp [hl, hne, heb]

theorem State.Answers.fold (hid : (s.flight.map (·.id)).Nodup) (d : Nat) {m : List Access} (hm : ∀ b ∈ m, b ∈ s.flight ∧ b.op = .load)
    (h : s.Answers t back l) : s.Answers (m.foldl (s.answerOne d back) t) back (l ++ m) := by
  induction m generalizing t l with
  | nil => simpa using h
  | cons b m ih =>
    obtain ⟨hb, hop⟩ := hm b List.mem_cons_self
    have := ih (fun c hc => hm c (List.mem_cons_of_mem _ hc)) (h.step hid hb hop d)
    simpa using this

end

end Sys2Proof.Machine

namespace Sys2Proof.Machine

/-! ## The line comes to the bank (R242, R244) -/

theorem mem_setAdd (k : Nat) (l : List Nat) : k ∈ setAdd k l := by
  induction l with
  | nil => exact List.mem_singleton_self k
  | cons x l ih =>
    unfold setAdd
    split
    · exact List.mem_cons_self
    · split
      · next hk => rw [hk]; exact List.mem_cons_self
      · exact List.mem_cons_of_mem _ ih

section
variable {s : State} {d pa part hint : Nat}

theorem l2Place_has (dirty : Bool) : (s.l2Place d pa part dirty hint).l2Has d pa = true := by
  have bank : (s.l2Place d pa part dirty hint).bankNumber d pa = s.bankNumber d pa := rfl
  unfold State.l2Has
  rw [bank, State.l2Place]
  dsimp only
  rw [tget_tput_ne (by simp), if_pos rfl]
  simp

theorem dirAdd_names : d ∈ tget [] (s.dirAdd d pa).directory (pa / 128) := by
  have added := mem_setAdd d (tget [] s.directory (pa / 128))
  unfold State.dirAdd
  dsimp only
  rw [tget_tput_ne (List.ne_nil_of_mem added), if_pos rfl]
  exact added

theorem bankServed_names (hr : paRegion pa ≤ 1) (hd : d ≠ paDomain pa) : d ∈ tget [] (s.bankServed d pa part hint).directory (pa / 128) := by
  unfold State.bankServed
  rw [if_pos hr]
  dsimp only
  rw [beq_eq_false_iff_ne.2 hd]
  exact dirAdd_names

theorem bankServed_has (hr : paRegion pa ≤ 1) (h : paRegion pa = 0 ∨ d ≠ paDomain pa) : (s.bankServed d pa part hint).l2Has d pa = true := by
  have brings : ((s.touchDomain d).l2Bring d pa part false hint).l2Has d pa = true := by
    unfold State.l2Bring
    rw [if_neg]
    · exact l2Place_has _
    · simp only [Bool.and_eq_true, beq_iff_eq, not_and]
      omega
  unfold State.bankServed
  rw [if_pos hr]
  dsimp only
  split
  · exact brings
  · exact brings

end

/-! ## A sector comes into an L1 (R231, R239) -/

/-- Does the L1 have the sector from an LDW, without a lease? -/
def Core.keepsSector (c : Core) (pa : Nat) : Bool := c.l1.any fun e => e.line == pa / 128 && e.sectors.contains (pa / 64 % 2, none)

theorem Core.keepsSector_iff {c : Core} {pa : Nat} :
    c.keepsSector pa = true ↔ ∃ e ∈ c.l1, e.line = pa / 128 ∧ (pa / 64 % 2, none) ∈ e.sectors := by
  simp [Core.keepsSector]

/-- The sectors that a core has of a line. -/
def Core.sectorsOf (c : Core) (ln : Nat) : List (Nat × Option Nat) := ((c.l1.find? fun e => e.line == ln).map (·.sectors)).getD []

/-- The line of a sector that comes in: the sectors that it had but for that one, and that one. -/
def Core.lineWith (c : Core) (pa : Nat) (expiry : Option Nat) (hint : Nat) : L1Line :=
  ⟨pa / 128, (c.sectorsOf (pa / 128)).filter (fun q => q.1 != pa / 64 % 2) ++ [(pa / 64 % 2, if c.keepsSector pa then none else expiry)], hint⟩

theorem Core.bring_l1 (c : Core) (pa : Nat) (expiry : Option Nat) (hint : Nat) :
    ∃ l, (c.bring pa expiry hint).l1 = l ++ [c.lineWith pa expiry hint] ∧ ∀ e ∈ l, e.line ≠ pa / 128 := by
  have sectors : ((c.l1.find? fun e => e.line == pa / 128).map fun e => e.sectors.filter fun q => q.1 != pa / 64 % 2).getD [] =
      (c.sectorsOf (pa / 128)).filter fun q => q.1 != pa / 64 % 2 := by
    unfold Core.sectorsOf
    cases c.l1.find? fun e => e.line == pa / 128 <;> rfl
  unfold Core.lineWith
  rw [← sectors]
  refine ⟨_, rfl, fun e he => ?_⟩
  have kept := List.mem_of_mem_filter he
  simpa using (List.mem_filter.1 kept).2

theorem Core.lineWith_mem (c : Core) (pa : Nat) (expiry : Option Nat) (hint : Nat) :
    c.lineWith pa expiry hint ∈ (c.bring pa expiry hint).l1 := by
  obtain ⟨l, hl, -⟩ := c.bring_l1 pa expiry hint
  simp [hl]

theorem Core.bring_ne_nil (c : Core) (pa : Nat) (expiry : Option Nat) (hint : Nat) : (c.bring pa expiry hint).l1 ≠ [] :=
  List.ne_nil_of_mem (c.lineWith_mem pa expiry hint)

theorem State.modCore_core {s : State} {k : Nat} {f : Core → Core} (h : (f (s.core k)).l1 ≠ []) : (s.modCore k f).core k = f (s.core k) := by
  unfold State.core State.modCore
  dsimp only
  refine (tget_tput_ne fun he => h ?_).trans (if_pos rfl)
  exact congrArg Core.l1 he

theorem grantLease_core (s : State) (d k pa llen hint : Nat) :
    (s.grantLease d k pa llen hint).core k = (s.core k).bring pa (some (s.ticks + llen)) hint :=
  State.modCore_core (s := { s with
    leases := (s.leases.filter fun r => decide (s.ticks < r.expiry)) ++ [LeaseRec.mk d (pa / 128) (s.ticks + llen)]
    sigs := s.sigs ++ [SigRec.mk d (s.bankIn d pa) k (sigBit pa) (s.ticks / 16384)] })
    (Core.bring_ne_nil _ pa (some (s.ticks + llen)) hint)

/-! ## What a served load leaves -/

section
variable {s : State} {a : Access}

/-- The reply to a load. -/
def State.loadReply (s : State) (a : Access) : Trip :=
  let place := bankRouter (s.bankNumber (s.loadDomain a) a.pa)
  { plane := 1, ts := s.ticks % 2 ^ 24, tick := s.ticks, src := place, seq := s.fresh, way := s.chart.way 1 0 place (s.coreRouter a.core) }

/-- The state in which the bank of a load has its line. -/
def State.loadBanked (s : State) (a : Access) : State := s.bump.bankServed (s.loadDomain a) a.pa (s.leaseOf a).2 a.hint

theorem State.loadBanked_answers (s : State) (a : Access) (back : Trip) : s.Answers (s.loadBanked a) back [] where
  offBanks := by simp [State.loadBanked]
  flight := by
    unfold State.loadBanked
    rw [State.bankServed_frame]
    simp [State.answeredIn, State.bump]
  fresh := by
    unfold State.loadBanked
    rw [State.bankServed_frame]
    rfl
  loads := by simp

theorem mem_sharers (ha : a ∈ s.flight) (hop : a.op = .load) : ∀ b ∈ s.sharers a, b ∈ s.flight ∧ b.op = .load := by
  intro b hb
  unfold State.sharers at hb
  split at hb
  · have filling := List.mem_of_mem_filter hb
    obtain ⟨hf, hp⟩ := List.mem_filter.1 filling
    simp only [Bool.and_eq_true, beq_iff_eq] at hp
    exact ⟨hf, hp.1.1.2⟩
  · obtain rfl := List.mem_singleton.1 hb
    exact ⟨ha, hop⟩

theorem mem_of_access? (h : s.access? a.id = some a) : a ∈ s.flight := List.mem_of_find?_eq_some h

theorem State.AtItsBank.serveLoad (h : s.AtItsBank a) :
    s.serveLoad a = (s.sharers a).foldl (s.answerOne (s.loadDomain a) (s.loadReply a)) (s.loadBanked a) := by
  have far : (a.scratch || s.l1Hit a || decide (1 < paRegion a.pa)) = false := by
    have := h.serves.1
    simp only [h.plain, h.miss, Bool.false_or, decide_eq_false_iff_not]
    omega
  unfold State.serveLoad State.loadBanked State.loadReply
  rw [far, bankDomain_load h.op, State.replyTrip, bankDomain_load h.op]
  rfl

theorem answerOne_frame (s : State) (d : Nat) (back : Trip) (t : State) (b : Access) :
    (s.answerOne d back t b).directory = t.directory ∧ (s.answerOne d back t b).l2 = t.l2 := by
  unfold State.answerOne
  split
  · rw [State.allocate_frame]
    exact ⟨rfl, rfl⟩
  · exact ⟨rfl, rfl⟩

theorem answerOne_leases (s : State) (d : Nat) (back : Trip) {t : State} (b : Access) {r : LeaseRec} (hr : r ∈ t.leases)
    (he : t.ticks < r.expiry) : r ∈ (s.answerOne d back t b).leases ∧ (s.answerOne d back t b).ticks = t.ticks := by
  unfold State.answerOne
  split
  · refine ⟨State.allocate_leases _ d b hr he, ?_⟩
    rw [State.allocate_frame]
    rfl
  · exact ⟨hr, rfl⟩

section
variable (h : s.AtItsBank a) (ha : s.access? a.id = some a) (hid : (s.flight.map (·.id)).Nodup)
include h

include ha hid in
theorem State.AtItsBank.answers : s.Answers (s.serveLoad a) (s.loadReply a) (s.sharers a) := by
  have := (s.loadBanked_answers a (s.loadReply a)).fold hid (s.loadDomain a) (mem_sharers (mem_of_access? ha) h.op)
  rwa [List.nil_append, ← h.serveLoad] at this

theorem State.AtItsBank.bank : (s.serveLoad a).directory = (s.loadBanked a).directory ∧ (s.serveLoad a).l2 = (s.loadBanked a).l2 := by
  rw [h.serveLoad]
  exact ⟨foldl_keeps State.directory (fun t b => (answerOne_frame s _ _ t b).1) .., foldl_keeps State.l2 (fun t b => (answerOne_frame s _ _ t b).2) ..⟩

theorem State.AtItsBank.leases {r : LeaseRec} (hr : r ∈ s.leases) (he : s.ticks < r.expiry) : r ∈ (s.serveLoad a).leases := by
  rw [h.serveLoad]
  have start : r ∈ (s.loadBanked a).leases ∧ (s.loadBanked a).ticks = s.ticks := by
    unfold State.loadBanked
    rw [State.bankServed_frame]
    exact ⟨hr, rfl⟩
  have kept := List.foldlRecOn (s.sharers a) (s.answerOne (s.loadDomain a) (s.loadReply a))
    (motive := fun t => r ∈ t.leases ∧ t.ticks = s.ticks) start fun t ⟨ht, hticks⟩ b _ => by
      obtain ⟨hl, hk⟩ := answerOne_leases s (s.loadDomain a) (s.loadReply a) b ht (hticks ▸ he)
      exact ⟨hl, hk.trans hticks⟩
  exact kept.1

theorem State.AtItsBank.names (hd : s.loadDomain a ≠ paDomain a.pa) : s.loadDomain a ∈ tget [] (s.serveLoad a).directory (a.pa / 128) := by
  rw [h.bank.1]
  exact bankServed_names h.serves.1 hd

theorem State.AtItsBank.holds (hd : paRegion a.pa = 0 ∨ s.loadDomain a ≠ paDomain a.pa) (ha : s.access? a.id = some a)
    (hid : (s.flight.map (·.id)).Nodup) : (s.serveLoad a).l2Has (s.loadDomain a) a.pa = true := by
  have banked : (s.loadBanked a).l2Has (s.loadDomain a) a.pa = true := bankServed_has h.serves.1 hd
  have chart : (s.serveLoad a).chart = (s.loadBanked a).chart :=
    (congrArg State.chart (h.answers ha hid).offBanks).trans (congrArg State.chart (s.loadBanked_answers a (s.loadReply a)).offBanks).symm
  unfold State.l2Has State.bankNumber State.bankIn at banked ⊢
  rwa [chart, h.bank.2]

/-! ### What a load that shares no fill leaves in its L1 -/

section
variable (hs : s.sharers a = [a])
include hs

theorem State.AtItsBank.allocates : ∃ t : State, s.serveLoad a = t.allocate (s.loadDomain a) a ∧ t.cores = s.cores ∧ t.leases = s.leases ∧
    t.ticks = s.ticks ∧ t.grids = s.grids := by
  rw [h.serveLoad, hs]
  refine ⟨_, if_pos h.clear, ?_⟩
  unfold State.loadBanked
  rw [State.bankServed_frame]
  exact ⟨rfl, rfl, rfl, rfl⟩

theorem State.AtItsBank.unallocated (hn : a.hint = 1) : (s.serveLoad a).leases = s.leases ∧ (s.serveLoad a).cores = s.cores := by
  obtain ⟨t, ht, hc, hl, -, -⟩ := h.allocates hs
  rw [ht, State.allocate, if_pos (by simp [hn])]
  exact ⟨hl, hc⟩

theorem State.AtItsBank.unleased (hn : a.hint ≠ 1) (hc : a.covers = true) : (s.serveLoad a).leases = s.leases ∧
    ∃ e ∈ ((s.serveLoad a).core a.core).l1, e.line = a.pa / 128 ∧ (a.pa / 64 % 2, none) ∈ e.sectors := by
  obtain ⟨t, ht, -, hl, -, -⟩ := h.allocates hs
  rw [ht, State.allocate, if_neg (by simpa using hn), if_pos hc]
  refine ⟨hl, (t.core a.core).lineWith a.pa none a.hint, ?_, rfl, ?_⟩
  · rw [State.modCore_core (f := fun c => c.bring a.pa none a.hint) (Core.bring_ne_nil _ a.pa none a.hint)]
    exact Core.lineWith_mem ..
  · simp [Core.lineWith]

theorem State.AtItsBank.leased {g : Grid} (hg : s.grid? a.c.b.grid = some g) (hn : a.hint ≠ 1) (hc : a.covers = false) (h0 : a.scope = 0) :
    ⟨s.loadDomain a, a.pa / 128, s.ticks + g.regs.llen.toNat⟩ ∈ (s.serveLoad a).leases ∧
    ∃ e ∈ ((s.serveLoad a).core a.core).l1, e.line = a.pa / 128 ∧ (a.pa / 64 % 2, some (s.ticks + g.regs.llen.toNat)) ∈ e.sectors := by
  obtain ⟨t, ht, hcores, hl, hticks, hgrids⟩ := h.allocates hs
  have llen : (t.leaseOf a).1 = g.regs.llen.toNat := by
    have found : t.grid? a.c.b.grid = some g := by
      unfold State.grid? at hg ⊢
      rwa [hgrids]
    simp [State.leaseOf, h.op, found]
  have core : t.core a.core = s.core a.core := by
    unfold State.core
    rw [hcores]
  have none' : (t.core a.core).keepsSector a.pa = false := by
    rw [core]
    refine Bool.eq_false_iff.2 fun hk => ?_
    obtain ⟨e, he, hline, hsec⟩ := Core.keepsSector_iff.1 hk
    have hit : s.l1Hit a = true := (l1Hit_iff h.op).2 ⟨.inl h0, e, he, hline, _, hsec, rfl, by simp⟩
    rw [h.miss] at hit
    cases hit
  rw [ht, State.allocate, if_neg (by simpa using hn), if_neg (by simp [hc]), if_pos (by simp [h0]), llen]
  refine ⟨?_, (t.core a.core).lineWith a.pa (some (t.ticks + g.regs.llen.toNat)) a.hint, ?_, rfl, ?_⟩
  · rw [← hticks]
    exact List.mem_append_right _ (List.mem_singleton_self _)
  · rw [grantLease_core]
    exact Core.lineWith_mem ..
  · rw [Core.lineWith, none', ← hticks]
    simp

end
end
end

end Sys2Proof.Machine

namespace Sys2Proof.Machine

section
variable {s : State} {a : Access}

theorem State.AtItsBank.shape (h : s.AtItsBank a) (ha : s.access? a.id = some a) (hid : (s.flight.map (·.id)).Nodup) :
    s.serveLoad a = { s with
      flight := s.answeredIn (s.loadReply a) (s.sharers a), fresh := s.fresh + 1, domains := (s.serveLoad a).domains
      cores := (s.serveLoad a).cores, leases := (s.serveLoad a).leases, sigs := (s.serveLoad a).sigs
      directory := (s.serveLoad a).directory, l2 := (s.serveLoad a).l2 } := by
  have answers := h.answers ha hid
  rw [← answers.flight, ← answers.fresh]
  exact State.eq_of_offBanks answers.offBanks

/-! ## The reply of a load (R374) -/

/-- The accesses of an instruction that a lane takes part in. -/
def State.laneAccesses (s : State) (uid l : Nat) : List Access := s.flight.filter fun a => a.uid = uid ∧ a.hasLane l = true

/-- The bytes of an access that a lane receives. -/
def lanePart (l : Nat) (a : Access) : List Byte :=
  match a.stage, a.op with
  | .fixed bs _, .atomic _ _ _ _ ls => (bs.drop (a.size * ls.findIdx fun p => p.1 == l)).take a.size
  | .fixed bs _, _ => bs
  | _, _ => []

/-- The bytes that a lane receives, as a number. -/
def State.laneRaw (s : State) (uid l : Nat) : Nat := leNat ((s.laneAccesses uid l).flatMap (lanePart l))

/-- The value that a lane receives, extended to 32 bits where it is signed. -/
def State.laneValue (s : State) (uid size : Nat) (sgn : Bool) (l : Nat) : Nat :=
  if sgn = true ∧ size < 4 then (asInt (8 * size) true (s.laneRaw uid l) % 2 ^ 32).toNat else s.laneRaw uid l

/-- Every access of the instruction has its value, without poison, and its reply is there. -/
def State.AllReplied (s : State) (uid : Nat) : Prop :=
  ∀ a ∈ s.flight, a.uid = uid → (∀ t, a.trip = some t → t.way.length ≤ 1) ∧ ∃ bs, a.stage = .fixed bs false ∧
    ∀ op w r q ls, a.op = .atomic op w r q ls → bs.length = a.size * ls.length

theorem laneAccesses_eq (s : State) (uid l : Nat) : (s.flight.filter fun a => a.uid == uid && a.hasLane l) = s.laneAccesses uid l :=
  List.filter_congr fun a _ => Bool.eq_iff_iff.2 (by simp)

/-- Each lane of an atomic has its share of the reply. -/
theorem share_eq {bs : List Byte} {size n : Nat} (h : bs.length = size * n) (k : Nat) :
    (bs.drop (k * (bs.length / max 1 n))).take (bs.length / max 1 n) = (bs.drop (size * k)).take size := by
  rcases Nat.eq_zero_or_pos n with hn | hn
  · have nil : bs = [] := List.length_eq_zero_iff.1 (by rw [h, hn, Nat.mul_zero])
    simp [nil]
  · have : bs.length / max 1 n = size := by
      rw [h, Nat.max_eq_right hn, Nat.mul_div_cancel _ hn]
    rw [this, Nat.mul_comm]

/-- A signed value of fewer than 4 bytes, as a word. -/
theorem asInt_word {v size : Nat} (hs : size < 4) (h : v < 2 ^ (8 * size)) :
    (asInt (8 * size) true v % 2 ^ 32).toNat = if 2 ^ (8 * size - 1) ≤ v then v + 2 ^ 32 - 2 ^ (8 * size) else v := by
  simp only [asInt, Bool.true_and, decide_eq_true_eq]
  interval_cases size
  all_goals
    simp only [Nat.reduceMul, Nat.reduceSub, Nat.reducePow, Int.reducePow] at h ⊢
    split <;> omega

section
variable {uid : Nat} (h : s.AllReplied uid)
include h

theorem State.AllReplied.ready : s.replyReady uid = true := by
  refine List.all_eq_true.2 fun a ha => ?_
  obtain ⟨hf, hu⟩ := List.mem_filter.1 ha
  obtain ⟨hway, bs, hst, -⟩ := h a hf (by simpa using hu)
  unfold Access.replied Access.isFixed
  rw [hst]
  cases ht : a.trip with
  | none => rfl
  | some t => simpa [Trip.there] using hway t ht

theorem State.AllReplied.clean (l : Nat) : (s.replyOf uid l).2.1 = false := by
  refine List.any_eq_false.2 fun a ha => ?_
  obtain ⟨hf, hu⟩ := List.mem_filter.1 ha
  obtain ⟨-, bs, hst, -⟩ := h a hf (beq_iff_eq.1 (Bool.and_eq_true_iff.1 hu).1)
  simp [hst]

theorem State.AllReplied.bytes (l : Nat) : (s.replyOf uid l).1 = (s.laneAccesses uid l).flatMap (lanePart l) := by
  unfold State.replyOf
  rw [laneAccesses_eq]
  refine List.flatMap_congr fun a ha => ?_
  obtain ⟨hf, hu⟩ := List.mem_filter.1 ha
  obtain ⟨-, bs, hst, hlen⟩ := h a hf (by simpa using And.left (by simpa using hu))
  unfold lanePart
  rw [hst]
  cases hop : a.op with
  | atomic op w r q ls => exact share_eq (hlen op w r q ls hop) _
  | _ => rfl

/-- The value of a load is its bytes' number, extended where it is signed (R100). -/
theorem State.AllReplied.value (l size : Nat) (sgn : Bool) (hr : sgn = true → s.laneRaw uid l < 2 ^ (8 * size)) :
    loadValue (s.replyOf uid l).1 size sgn = s.laneValue uid size sgn l := by
  rw [h.bytes]
  have raw : leNat ((s.laneAccesses uid l).flatMap (lanePart l)) = s.laneRaw uid l := rfl
  unfold loadValue State.laneValue
  rw [raw]
  by_cases hc : sgn = true ∧ size < 4
  · obtain ⟨rfl, hlt⟩ := hc
    rw [if_pos (And.intro rfl hlt), asInt_word hlt (hr rfl)]
    simp only [hlt, decide_true, Bool.true_and, decide_eq_true_eq]
  · rw [if_neg hc, if_neg (by simp only [Bool.and_eq_true, decide_eq_true_eq]; tauto)]

/-- A result owed by the instruction, with the values that its lanes receive. -/
def State.repliedPend (s : State) (uid : Nat) (d : BitVec 8) (n size : Nat) (sgn : Bool) (p : Pend) : Option Pend :=
  if p.uid == uid then
    match (outs d n fun l => loadValue (s.replyOf uid l).1 size sgn).find? fun o => o.1 == p.reg with
    | some o => if p.lanes == 0#64 then none else some { p with
        vals := (lanesOf p.lanes).filterMap fun l => if o.2 l = 0 then none else some (l, o.2 l) }
    | none => some p
  else some p

/-- What a cohort owes when the replies of an instruction have come. -/
def State.repliedPends (s : State) (uid : Nat) (d : BitVec 8) (n size : Nat) (sgn : Bool) (c : Cohort) : Cohort :=
  { c with pend := c.pend.filterMap (s.repliedPend uid d n size sgn) }

omit h in
theorem poisonTrap_nil (s : State) (c : CRef) (word pc : DWord) : s.poisonTrap c [] word pc = s := by
  unfold State.poisonTrap
  split <;> rfl

theorem State.AllReplied.replyTo {i : Issued} (hi : (s.issued.find? fun j => j.uid = uid) = some i) {d : BitVec 8} {n size : Nat} {sgn : Bool}
    {word pc : DWord} (hf : i.fin = .reply d n size sgn word pc) : replyTo s uid =
      (({ s with flight := s.flight.filter fun a => a.uid ≠ uid } : State).modCohort i.c (s.repliedPends uid d n size sgn)).finishIssue uid := by
  have clean : (lanesOf i.lanes).filter (fun l => (s.replyOf uid l).2.1) = [] := List.filter_eq_nil_iff.2 fun l _ => by simp [h.clean]
  have hi' : (s.issued.find? fun j => j.uid == uid) = some i := hi
  have others : s.flight.filter (fun a => a.uid != uid) = s.flight.filter fun a => a.uid ≠ uid :=
    List.filter_congr fun a _ => Bool.eq_iff_iff.2 (by simp)
  unfold Machine.replyTo
  simp only [hi', h.ready, hf, clean, List.map_nil, poisonTrap_nil, maskOf, List.foldl_nil, Bool.not_true, Bool.false_eq_true, if_false,
    BitVec.not_zero, BitVec.and_allOnes, others]
  rfl

omit h in
theorem regsOf_nodup (d : BitVec 8) (n : Nat) : (regsOf d n).Nodup := by
  unfold regsOf
  split
  · exact List.nodup_range.map fun i j hij => by simpa using hij
  · exact List.nodup_range.map fun i j hij => by simpa using hij
  · exact List.nodup_nil

omit h in
/-- The result for the register in place `k`. -/
theorem outs_find {d : BitVec 8} {n k : Nat} {r : Reg} (hk : (regsOf d n)[k]? = some r) (f : Nat → Nat) :
    ((outs d n f).find? fun o => o.1 == r) = some (r, fun l => BitVec.ofNat 32 (f l / 2 ^ (32 * k))) := by
  obtain ⟨hlt, hget⟩ := List.getElem?_eq_some_iff.1 hk
  unfold outs
  refine List.find?_eq_some_iff_getElem.2 ⟨by simp, k, by simpa using hlt, by simp [hget], fun j hj => ?_⟩
  have hne : (regsOf d n)[j]'(hj.trans hlt) ≠ r := fun he => hj.ne ((regsOf_nodup d n).getElem_inj_iff.1 (he.trans hget.symm))
  simpa using hne

/-- The value that a lane of a result owed by the instruction receives. -/
theorem State.AllReplied.owed {d : BitVec 8} {n size : Nat} {sgn : Bool} (hr : sgn = true → ∀ l, s.laneRaw uid l < 2 ^ (8 * size))
    {p : Pend} (hp : p.uid = uid → p.lanes ≠ 0#64) : ∃ q, s.repliedPend uid d n size sgn p = some q ∧ q = { p with vals := q.vals } ∧
      (p.uid ≠ uid → q = p) ∧ (p.uid = uid → ∀ k, (regsOf d n)[k]? = some p.reg → ∀ l, p.lanes.getLsbD l = true →
        tget 0 q.vals l = BitVec.ofNat 32 (s.laneValue uid size sgn l / 2 ^ (32 * k))) := by
  unfold State.repliedPend
  by_cases hu : p.uid = uid
  · have hl : (p.lanes == 0#64) = false := beq_eq_false_iff_ne.2 (hp hu)
    rw [if_pos (beq_iff_eq.2 hu)]
    cases ho : (outs d n fun l => loadValue (s.replyOf uid l).1 size sgn).find? fun o => o.1 == p.reg with
    | none =>
      refine ⟨p, rfl, rfl, fun _ => rfl, fun _ k hk => ?_⟩
      rw [outs_find hk] at ho
      cases ho
    | some o =>
      refine ⟨_, if_neg (by simp [hl]), rfl, fun hn => absurd hu hn, fun _ k hk l hlane => ?_⟩
      rw [outs_find hk] at ho
      obtain rfl := Option.some.inj ho
      rw [tget_lanes, if_pos (mem_lanesOf.2 hlane), ← h.value l size sgn fun hs => hr hs l]
  · rw [if_neg (by simpa using hu)]
    exact ⟨p, rfl, rfl, fun _ => rfl, fun hu' => absurd hu' hu⟩

/-- The results that a cohort owes, one by one. -/
theorem State.AllReplied.pends {d : BitVec 8} {n size : Nat} {sgn : Bool} (hr : sgn = true → ∀ l, s.laneRaw uid l < 2 ^ (8 * size))
    {ps : List Pend} (hp : ∀ p ∈ ps, p.uid = uid → p.lanes ≠ 0#64) :
    List.Forall₂ (fun p q : Pend => q = { p with vals := q.vals } ∧ (p.uid ≠ uid → q = p) ∧
      (p.uid = uid → ∀ k, (regsOf d n)[k]? = some p.reg → ∀ l, p.lanes.getLsbD l = true →
        tget 0 q.vals l = BitVec.ofNat 32 (s.laneValue uid size sgn l / 2 ^ (32 * k)))) ps
      (ps.filterMap (s.repliedPend uid d n size sgn)) := by
  induction ps with
  | nil => exact .nil
  | cons p ps ih =>
    obtain ⟨q, hq, hspec⟩ := h.owed (d := d) (n := n) hr (hp p List.mem_cons_self)
    rw [List.filterMap_cons_some hq]
    exact .cons hspec (ih fun r hr => hp r (List.mem_cons_of_mem _ hr))

end
end

end Sys2Proof.Machine

namespace Sys2Proof.Machine

/-! ## The way of a request (R236, R246, R252-R254) -/

section
variable {s : State} {a : Access}

/-- A load of the core that is being filled (R246). -/
def State.Filling (s : State) (core : Nat) (e : Access) : Prop :=
  e ∈ s.flight ∧ e.core = core ∧ e.op = .load ∧ e.stage = .issued ∧ e.miss.isSome = true

theorem mem_filling {core : Nat} {e : Access} : e ∈ s.filling core ↔ s.Filling core e := by
  unfold State.filling State.Filling
  rw [List.mem_filter]
  simp only [Bool.and_eq_true, beq_iff_eq, and_assoc]

/-- The service point of a load (R246). -/
def State.fillPoint (s : State) (a : Access) : Nat := if a.scope = 0 ∨ a.covers = true then 0 else 1 + s.bankDomain a

theorem missPoint_eq (s : State) (a : Access) : s.missPoint a = s.fillPoint a := by
  simp [State.missPoint, State.fillPoint]

/-- A fill that the load may join: of its line, from its service point, within 16 cycles, and not closed by a store. -/
def State.Joins (s : State) (a : Access) (m : Miss) : Prop := ∃ e, s.Filling a.core e ∧ e.pa / 128 = a.pa / 128 ∧ e.trip.isSome = true ∧
  e.miss = some m ∧ m.opened = true ∧ m.point = s.fillPoint a ∧ s.cycle < m.since + 16

theorem joins_some {m : Miss} (h : s.joins a = some m) : s.Joins a m := by
  obtain ⟨e, he, hm⟩ := List.exists_of_findSome?_eq_some h
  split at hm
  · next hc =>
    obtain ⟨v, hv, hg⟩ := Option.bind_eq_some_iff.1 hm
    simp only [Bool.and_eq_true, beq_iff_eq] at hc
    split at hg
    · next ho =>
      obtain rfl := Option.some.inj hg
      simp only [Bool.and_eq_true, beq_iff_eq, decide_eq_true_eq] at ho
      exact ⟨e, mem_filling.1 he, hc.1, hc.2, hv, ho.1.1, ho.1.2.trans (missPoint_eq s a), ho.2⟩
    · cases hg
  · cases hm

theorem joins_none (h : s.joins a = none) (m : Miss) : ¬ s.Joins a m := by
  rintro ⟨e, he, hl, ht, hm, ho, hp, hc⟩
  have none' := List.findSome?_eq_none_iff.1 h e (mem_filling.2 he)
  simp [hl, ht, hm, ho, hp, hc, missPoint_eq] at none'

/-- A miss-status entry is free for the load, and none before it waits for one (R246). -/
def State.MissRoom (s : State) (a : Access) : Prop :=
  Set.ncard { k | ∃ e m, s.Filling a.core e ∧ e.miss = some m ∧ m.id = k } < 128 ∧
    ∀ e ∈ s.flight, e.core = a.core → e.queued = true → e.stage = .issued → e.miss = none → a.id ≤ e.id

theorem missRoom_iff : s.missRoom a = true ↔ s.MissRoom a := by
  have entries : { k | ∃ e m, s.Filling a.core e ∧ e.miss = some m ∧ m.id = k } =
      ↑((s.filling a.core).filterMap fun b => b.miss.map (·.id)).toFinset := by
    ext k
    simp [mem_filling]
  unfold State.missRoom State.MissRoom
  rw [entries, Set.ncard_coe_finset, List.card_toFinset, Bool.and_eq_true, decide_eq_true_eq, Bool.not_eq_true', List.any_eq_false]
  simp

/-- The state after the event that changes one access, with `n` numbers given out. -/
def State.nowIs (s : State) (a : Access) (n : Nat) (f : Access → Access) : State :=
  { s with fresh := s.fresh + n, flight := s.flight.map fun e => if e.id = a.id then f e else e }

/-- The packet of a request. -/
def State.requestTrip (s : State) (a : Access) : Trip :=
  let bank := bankRouter (s.bankNumber (s.bankDomain a) a.pa)
  let src := if a.op.fromCore then s.coreRouter a.core else bank
  let named (id : Nat) : DWord := match s.copies.find? fun o => o.id == id with
    | some o => if o.route = 0 then 0 else tget 0 (s.core o.core).routes o.route
    | none => 0
  let route : DWord := match a.op with | .claim id => named id | .fetch id => named id | _ => 0
  { plane := 0, ts := s.ticks % 2 ^ 24, tick := s.ticks, src := src, seq := s.fresh, way := s.chart.way 0 route src bank }

theorem sendTrip_eq (s : State) (a : Access) : s.sendTrip a = s.requestTrip a := by
  unfold State.sendTrip State.requestTrip State.routeOf State.inject State.bankPlace
  simp only [beq_iff_eq] <;> rfl

theorem exec_sends (h : s.access? a.id = some a) (hs : s.sends a = true) : exec (.packetService a.id) s = .next (s.sendRequest a) := by
  rw [exec_packetService h, hs]
  rfl

/-- A change of one access. -/
theorem map_access (s : State) (a : Access) (f : Access → Access) :
    (s.flight.map fun b => if b.id == a.id then f b else b) = s.flight.map fun e => if e.id = a.id then f e else e := by
  simp only [beq_iff_eq]

theorem sendRequest_other (h : a.op ≠ .load) : s.sendRequest a = s.nowIs a 1 fun e => { e with trip := some (s.requestTrip a) } := by
  unfold State.sendRequest
  rw [if_pos (by simpa using h), ← sendTrip_eq]
  simp only [map_access] <;> rfl

section
variable (h : a.op = .load)
include h

theorem sendRequest_load : s.sendRequest a = match s.joins a with
    | some m => s.nowIs a 0 fun b => { b with miss := some m, trip := none, queued := false }
    | none => if s.missRoom a then s.nowIs a 1 fun b =>
          { b with trip := some (s.requestTrip a), queued := false, miss := some { id := s.fresh, since := s.cycle, point := s.fillPoint a } }
      else s.nowIs a 0 fun b => { b with queued := true } := by
  unfold State.sendRequest State.nowIs
  rw [if_neg (by simp [h]), ← sendTrip_eq, ← missPoint_eq]
  simp only [map_access] <;> rfl

theorem sendRequest_joins (hj : ∃ m, s.Joins a m) :
    ∃ m, s.Joins a m ∧ s.sendRequest a = s.nowIs a 0 fun e => { e with miss := some m, trip := none, queued := false } := by
  obtain ⟨m, hm⟩ := hj
  cases hs : s.joins a with
  | none => exact absurd hm (joins_none hs m)
  | some v =>
    refine ⟨v, joins_some hs, ?_⟩
    rw [sendRequest_load h, hs]

theorem sendRequest_alone (hj : ¬ ∃ m, s.Joins a m) : s.sendRequest a = if s.missRoom a then s.nowIs a 1 fun b =>
      { b with trip := some (s.requestTrip a), queued := false, miss := some { id := s.fresh, since := s.cycle, point := s.fillPoint a } }
    else s.nowIs a 0 fun b => { b with queued := true } := by
  rw [sendRequest_load h]
  cases hs : s.joins a with
  | none => rfl
  | some v => exact absurd ⟨v, joins_some hs⟩ hj

end

/-! ### A router port (R252, R253) -/

/-- The time that a packet has been on its way. -/
def State.tripAge (s : State) (v : Trip) : Nat := (s.ticks % 2 ^ 24 + 2 ^ 24 - v.ts) % 2 ^ 24

/-- The number of the router that a packet came from. -/
def tripIndex (v : Trip) : Nat := 48 * v.src.2 + v.src.1

/-- `u` is served before `v`. -/
def State.TripFirst (s : State) (u v : Trip) : Prop :=
  s.tripAge v < s.tripAge u ∨ s.tripAge u = s.tripAge v ∧ (tripIndex u < tripIndex v ∨ tripIndex u = tripIndex v ∧ u.seq < v.seq)

theorem before_iff {u v : Trip} : u.before v s.ticks = true ↔ s.TripFirst u v := by
  unfold Trip.before State.TripFirst
  simp only [Bool.or_eq_true, Bool.and_eq_true, beq_iff_eq, decide_eq_true_eq] <;> rfl

/-- A packet of its plane at the same port comes before it. -/
def State.TripWaits (s : State) (t : Trip) : Prop := ∃ v ∈ s.trips, v.plane = t.plane ∧ v.way.take 2 = t.way.take 2 ∧ s.TripFirst v t

theorem portServes_iff {t : Trip} (hw : 2 ≤ t.way.length) : s.portServes t = true ↔ ¬ s.TripWaits t := by
  have there : t.there = false := by simp [Trip.there]; omega
  unfold State.portServes State.TripWaits
  rw [there, Bool.not_false, Bool.true_and, List.all_eq_true]
  simp only [← before_iff]
  constructor
  · rintro h ⟨v, hv, hp, hway, hb⟩
    have := h v hv
    simp [hp, hway, hb] at this
  · intro h v hv
    by_contra hn
    simp only [Bool.or_eq_true, bne_iff_ne, Bool.not_eq_true', not_or, not_not, Bool.not_eq_false] at hn
    exact h ⟨v, hv, hn.1.1, hn.1.2, hn.2⟩

section
variable {t : Trip} (ha : s.access? a.id = some a) (ht : a.trip = some t) (hw : 2 ≤ t.way.length)
  (hi : a.stage = .issued → s.tripOf a = some t) (hs : a.scratch = false) (hr : paRegion a.pa ≤ 1) (hm : s.l1Hit a = false)
include ha ht hw hi hs hr hm

theorem exec_underway : exec (.packetService a.id) s = .next (if s.portServes t then s.moveOn a else s) := by
  have there : t.there = false := by simp [Trip.there]; omega
  have moves : s.moves a = s.portServes t := by rw [State.moves, ht]
  have away : a.stage = .issued → s.atBank a = false := fun h => by simp [State.atBank, hi h, there]
  have sends : s.sends a = false := by
    by_cases h : a.stage = .issued
    · simp [State.sends, hi h]
    · simp [State.sends, h]
  have crowded : s.crowded a = false := by
    by_cases h : a.stage = .issued
    · simp [State.crowded, away h]
    · simp [State.crowded, h]
  have canServe : s.canServe a = false := by
    by_cases h : a.stage = .issued
    · simp [State.canServe, State.servable, hs, hr, hm, away h]
    · simp [State.canServe, h]
  have lands : s.lands a = false := by simp [State.lands, Access.replied, ht, there]
  rw [exec_packetService ha, sends, moves, crowded, canServe, lands]
  rfl

end
end

end Sys2Proof.Machine

namespace Sys2Proof.Machine

/-! ## PREF (R107) -/

/-- The address of a format M access, as its instruction forms it. -/
theorem Ctx.at64_eq (x : Ctx) (o : OpM) (size l : Nat) : x.rdD o.a l + offsetOf o size = x.at64 o size l := by
  unfold Ctx.at64 offsetOf Ctx.rdD
  rw [BitVec.ofInt_mul, BitVec.mul_comm]
  rfl

/-- The state without the TLBs. -/
def State.offTlb (s : State) : State := { s with cores := [], tlb2 := [] }

theorem tlbFill_offTlb (s : State) (k : Nat) (g : Grid) (va : DWord) : (s.tlbFill k g va).offTlb = s.offTlb := by
  unfold State.tlbFill
  dsimp only
  split
  · rfl
  · split
    · rfl
    · unfold State.tlbPut
      dsimp only
      split <;> rfl

theorem fillTlb_offTlb (x : Ctx) (s : State) (ls : List Nat) (addr : Nat → DWord) : (x.fillTlb s ls addr).offTlb = s.offTlb := by
  unfold Ctx.fillTlb
  split
  · rfl
  · exact foldl_keeps State.offTlb (fun t l => tlbFill_offTlb t _ _ _) ls s

theorem Ctx.complete_frame (x : Ctx) (s : State) (os : List (Reg × (Nat → Word))) : x.complete s os =
    { s with blocks := (x.complete s os).blocks, issued := s.issued ++ [⟨x.uid, x.r.c, x.r.split, x.ex, setFlag x.h, .complete⟩] } := by
  unfold Ctx.complete Ctx.note Ctx.owe
  split <;> split <;> rfl

theorem Ctx.complete_blocks (x : Ctx) {s t : State} (h : t.blocks = s.blocks) (os : List (Reg × (Nat → Word))) :
    (x.complete t os).blocks = (x.complete s os).blocks := by
  unfold Ctx.complete Ctx.note Ctx.owe State.modCohort State.modBlock
  split <;> split <;> simp [h]

/-- An instruction completes from a state with the same blocks as it does where its effect begins. -/
theorem completes_beside {i : Instr} {s u t : State} {x : Ctx} (h : Issues i s x u) (ht : t.blocks = u.blocks) :
    x.Effect t (x.complete t []) .v x.ex [] .complete := by
  obtain ⟨d, hu, hd⟩ := complete_effect h []
  refine ⟨d, ?_, hd⟩
  have blocks : (x.complete t []).blocks = (t.modCohort x.r.c fun _ => d).blocks := by
    rw [Ctx.complete_blocks x ht, hu]
    unfold State.modCohort State.modBlock
    simp only [ht]
  rw [Ctx.complete_frame, blocks]
  rfl

/-- The accesses that are put in flight one after another. -/
theorem foldl_launchAccess {α : Type} (g : α → Access) (l : List α) (s : State) : l.foldl (fun t v => t.launchAccess (g v)) s =
    { s with fresh := s.fresh + l.length, flight := s.flight ++ l.mapIdx fun k v => { g v with id := s.fresh + k } } := by
  induction l generalizing s with
  | nil => simp
  | cons v l ih =>
    rw [List.foldl_cons, ih]
    simp [State.launchAccess, State.bump, List.mapIdx_cons, Nat.add_assoc, Nat.add_comm 1]

section
variable {x : Ctx} {o : OpM} {s u : State}

/-- A lane of a PREF could load from a line (R107). -/
def PrefLoads (x : Ctx) (u : State) (addr : Nat → DWord) (l ln : Nat) : Prop :=
  (∃ q, x.checkGlobal u .pref (addr l) 1 = .ok q ∧ q.pa / 128 = ln ∧ paRegion q.pa ≤ 1) ∧
    u.poisoned (128 * ln) = false ∧ u.poisoned (128 * ln + 64) = false ∧ u.lineFilled (128 * ln) = true

/-- May the lane load at its address? -/
def prefOk (x : Ctx) (u : State) (addr : Nat → DWord) (l : Nat) : Bool :=
  match x.checkGlobal u .pref (addr l) 1 with
  | .ok p =>
    let ln := p.pa / 128 * 128
    paRegion p.pa ≤ 1 && !u.poisoned ln && !u.poisoned (ln + 64) && u.lineFilled ln
  | .error _ => false

/-- The line of the lane's address. -/
def prefLine (x : Ctx) (u : State) (addr : Nat → DWord) (l : Nat) : Nat := paOf (fun l => x.checkGlobal u .pref (addr l) 1) l / 128

theorem prefLoads_iff {addr : Nat → DWord} {l ln : Nat} :
    PrefLoads x u addr l ln ↔ prefOk x u addr l = true ∧ prefLine x u addr l = ln := by
  unfold PrefLoads
  cases hc : x.checkGlobal u .pref (addr l) 1 with
  | error f => simp [prefOk, hc]
  | ok p =>
    have line : prefLine x u addr l = p.pa / 128 := by simp [prefLine, paOf, hc]
    rw [line]
    simp only [prefOk, hc, Except.ok.injEq, exists_eq_left', Bool.and_eq_true, Bool.not_eq_true', decide_eq_true_eq, Nat.mul_comm (p.pa / 128)]
    constructor
    · rintro ⟨⟨rfl, hr⟩, h1, h2, h3⟩
      exact ⟨⟨⟨⟨hr, h1⟩, h2⟩, h3⟩, rfl⟩
    · rintro ⟨⟨⟨⟨hr, h1⟩, h2⟩, h3⟩, rfl⟩
      exact ⟨⟨rfl, hr⟩, h1, h2, h3⟩

variable (x u) in
/-- The lanes that could load. -/
def prefLanes (addr : Nat → DWord) : List Nat := x.lanes.filter (prefOk x u addr)

variable (x u) in
/-- The lines that a PREF asks for: for block scope not those whose sectors the L1 has. -/
def prefLines (near : Bool) (addr : Nat → DWord) : List Nat :=
  (((prefLanes x u addr).map (prefLine x u addr)).dedup).filter fun ln =>
    !near || !u.l1Holds x.c.core (128 * ln) || !u.l1Holds x.c.core (128 * ln + 64)

variable (x u) in
/-- The address that a PREF gives a line: that of the lowest lane that could load from it. -/
def prefAddr (addr : Nat → DWord) (ln : Nat) : DWord :=
  (((prefLanes x u addr).find? fun l => prefLine x u addr l == ln).map addr).getD 0

theorem mem_prefLanes {addr : Nat → DWord} {l : Nat} :
    l ∈ prefLanes x u addr ↔ x.ex.getLsbD l = true ∧ ∃ ln, PrefLoads x u addr l ln := by
  simp [prefLanes, Ctx.lanes, mem_lanesOf, prefLoads_iff]

theorem mem_prefLines {near : Bool} {addr : Nat → DWord} {ln : Nat} : ln ∈ prefLines x u near addr ↔
    (∃ l ∈ prefLanes x u addr, PrefLoads x u addr l ln) ∧
      ¬ (near = true ∧ u.l1Holds x.c.core (128 * ln) = true ∧ u.l1Holds x.c.core (128 * ln + 64) = true) := by
  have line : (∃ l ∈ prefLanes x u addr, PrefLoads x u addr l ln) ↔ ∃ l ∈ prefLanes x u addr, prefLine x u addr l = ln := by
    refine exists_congr fun l => and_congr_right fun hl => ?_
    rw [prefLoads_iff, and_iff_right (List.mem_filter.1 hl).2]
  rw [line, prefLines, List.mem_filter, List.mem_dedup, List.mem_map]
  refine and_congr_right fun _ => ?_
  cases near <;> cases u.l1Holds x.c.core (128 * ln) <;> cases u.l1Holds x.c.core (128 * ln + 64) <;> simp

theorem prefLines_nodup (near : Bool) (addr : Nat → DWord) : (prefLines x u near addr).Nodup := (List.nodup_dedup _).filter _

theorem prefAddr_lowest {near : Bool} {addr : Nat → DWord} {ln : Nat} (h : ln ∈ prefLines x u near addr) :
    ∃ l ∈ prefLanes x u addr, PrefLoads x u addr l ln ∧ prefAddr x u addr ln = addr l ∧
      ∀ k ∈ prefLanes x u addr, PrefLoads x u addr k ln → l ≤ k := by
  obtain ⟨⟨l, hl, hp⟩, -⟩ := mem_prefLines.1 h
  have ascending : (prefLanes x u addr).Pairwise (· < ·) := (lanesOf_pairwise _).filter _
  cases hf : (prefLanes x u addr).find? fun l => prefLine x u addr l == ln with
  | none => exact absurd (prefLoads_iff.1 hp).2 (by simpa using List.find?_eq_none.1 hf l hl)
  | some k =>
    have hk := List.mem_of_find?_eq_some hf
    have hline : prefLine x u addr k = ln := by simpa using List.find?_some hf
    refine ⟨k, hk, prefLoads_iff.2 ⟨(List.mem_filter.1 hk).2, hline⟩, by simp [prefAddr, hf], fun j hj hpj => ?_⟩
    obtain ⟨-, l1, l2, hsplit, hbefore⟩ := List.find?_eq_some_iff_append.1 hf
    rw [hsplit] at hj ascending
    rcases List.mem_append.1 hj with hj | hj
    · exact absurd (prefLoads_iff.1 hpj).2 (by simpa using hbefore j hj)
    · rcases List.mem_cons.1 hj with rfl | hj
      · exact Nat.le_refl _
      · exact ((List.pairwise_cons.1 (List.pairwise_append.1 ascending).2.1).1 j hj).le

variable (x u o) in
/-- The request for a line. -/
def prefRequest (addr : Nat → DWord) (ln : Nat) : Access :=
  { id := 0, uid := 0, c := ⟨⟨0, 0⟩, 0⟩, core := x.c.core, lane := 0, scratch := false, pa := 128 * ln, va := prefAddr x u addr ln, tags := x.tags u
    op := .pref (o.scope == 0) x.g.regs.llen.toNat x.g.part, size := 128, scope := o.scope.toNat, hint := o.hint.toNat }

variable (x u o) in
/-- The requests of a PREF. -/
def prefRequests : List Access :=
  (prefLines x u (o.scope == 0) (x.at64 o 128)).mapIdx fun k ln => { prefRequest x o u (x.at64 o 128) ln with id := u.fresh + k }

/-- What a PREF does once it has issued. -/
def prefBody (o : OpM) (x : Ctx) (s : State) : State :=
  let addr (l : Nat) : DWord := x.rdD o.a l + offsetOf o 128
  x.complete ((prefLines x s (o.scope == 0) addr).foldl (fun (t : State) ln => t.launchAccess (prefRequest x o s addr ln))
    (x.fillTlb s (prefLanes x s addr) addr)) []

theorem exec_pref : exec (.pref o) s = withWalks (.pref o) (fun x => x.lanes.map fun l => x.rdD o.a l + offsetOf o 128) s
    fun s => issue (.pref o) s (prefBody o) := rfl

theorem pref_addrs (o : OpM) (x : Ctx) : (x.lanes.map fun l => x.rdD o.a l + offsetOf o 128) = x.lanes.map (x.at64 o 128) := by
  simp only [Ctx.at64_eq]

theorem prefBody_eq (o : OpM) (x : Ctx) (u : State) : prefBody o x u = x.complete { x.fillTlb u (prefLanes x u (x.at64 o 128)) (x.at64 o 128) with
    fresh := u.fresh + (prefRequests x o u).length, flight := u.flight ++ prefRequests x o u } [] := by
  have addr : (fun l => x.rdD o.a l + offsetOf o 128) = x.at64 o 128 := funext fun l => Ctx.at64_eq x o 128 l
  have off := fillTlb_offTlb x u (prefLanes x u (x.at64 o 128)) (x.at64 o 128)
  have fresh : (x.fillTlb u (prefLanes x u (x.at64 o 128)) (x.at64 o 128)).fresh = u.fresh := (congrArg State.fresh off :)
  have flight : (x.fillTlb u (prefLanes x u (x.at64 o 128)) (x.at64 o 128)).flight = u.flight := (congrArg State.flight off :)
  unfold prefBody
  simp only [addr, foldl_launchAccess, fresh, flight, prefRequests, List.length_mapIdx]

theorem pref_next (h : Issues (.pref o) s x u) (hm : x.Mapped u (x.lanes.map (x.at64 o 128))) :
    ∃ t, x.Effect { x.fillTlb u (prefLanes x u (x.at64 o 128)) (x.at64 o 128) with
        fresh := u.fresh + (prefRequests x o u).length, flight := u.flight ++ prefRequests x o u } t .v x.ex [] .complete ∧
      exec (.pref o) s = .next (x.walked (x.lanes.map (x.at64 o 128)) (t.settle x.r)) := by
  have off := fillTlb_offTlb x u (prefLanes x u (x.at64 o 128)) (x.at64 o 128)
  have blocks : (x.fillTlb u (prefLanes x u (x.at64 o 128)) (x.at64 o 128)).blocks = u.blocks := (congrArg State.blocks off :)
  refine ⟨_, completes_beside h blocks, ?_⟩
  have next := issue_next h (prefBody o)
  rw [prefBody_eq] at next
  rw [← pref_addrs] at hm ⊢
  rw [exec_pref]
  exact withWalks_passes (addrs := fun x => x.lanes.map fun l => x.rdD o.a l + offsetOf o 128) h.begins hm next

theorem pref_waits (h : Issues (.pref o) s x u) (hm : ¬ x.Mapped u (x.lanes.map (x.at64 o 128))) :
    ∃ t, exec (.pref o) s = .next t ∧ x.Suspends s t (x.lanes.map (x.at64 o 128)) := by
  rw [← pref_addrs] at hm ⊢
  rw [exec_pref]
  exact withWalks_suspends (addrs := fun x => x.lanes.map fun l => x.rdD o.a l + offsetOf o 128) h hm

end

/-! ### The request is served (R107) -/

section
variable {s : State} {a : Access} {near : Bool} {llen part : Nat}

/-- A request that its bank may serve now. -/
structure State.PrefAtBank (s : State) (a : Access) (near : Bool) (llen part : Nat) : Prop where
  found : s.access? a.id = some a
  op : a.op = .pref near llen part
  serves : s.canServe a = true
  stays : s.sends a = false ∧ s.moves a = false ∧ s.crowded a = false

theorem State.PrefAtBank.packetService (h : s.PrefAtBank a near llen part) : exec (.packetService a.id) s = .next (s.servePref a) := by
  obtain ⟨hs, hm, hc⟩ := h.stays
  have served : s.serve a = s.servePref a := by rw [State.serve, h.op]
  rw [exec_packetService h.found, hs, hm, hc, h.serves, served]
  rfl

/-- The state in which the bank of a PREF has its line: a home line of the weight store too, but for block scope. -/
def State.prefBanked (s : State) (a : Access) (near : Bool) (part : Nat) : State :=
  let t := ({ s with flight := s.flight.filter fun b => b.id != a.id } : State).bankServed (s.bankDomain a) a.pa part a.hint
  if near || paRegion a.pa != 1 then t else t.l2Place (s.bankDomain a) a.pa part false a.hint

/-- The line of the request can be fetched: no sector of it is poisoned, and it is filled. -/
def State.Fetchable (s : State) (a : Access) : Prop :=
  s.poisoned a.pa = false ∧ s.poisoned (a.pa + 64) = false ∧ s.lineFilled a.pa = true

theorem servePref_fetchable (hop : a.op = .pref near llen part) (h : s.Fetchable a) : s.servePref a =
    if near then ((s.prefBanked a near part).grantLease (s.bankDomain a) a.core a.pa llen a.hint).grantLease (s.bankDomain a) a.core
      (a.pa + 64) llen a.hint
    else s.prefBanked a near part := by
  obtain ⟨h1, h2, h3⟩ := h
  have lease : s.leaseOf a = (llen, part) := by rw [State.leaseOf, hop]
  unfold State.servePref State.prefBanked
  rw [h1, h2, h3, lease, hop]
  cases near <;> rfl

theorem servePref_unfetchable (h : ¬ s.Fetchable a) : s.servePref a = { s with flight := s.flight.filter fun b => b.id != a.id } := by
  refine if_pos ?_
  by_contra hn
  simp only [Bool.or_eq_true, Bool.not_eq_true', not_or, Bool.not_eq_true, Bool.not_eq_false] at hn
  exact h ⟨hn.1.1, hn.1.2, hn.2⟩

theorem prefBanked_frame (s : State) (a : Access) (near : Bool) (part : Nat) : s.prefBanked a near part =
    { s with flight := s.flight.filter (fun b => b.id != a.id), domains := (s.prefBanked a near part).domains
             l2 := (s.prefBanked a near part).l2, directory := (s.prefBanked a near part).directory } := by
  unfold State.prefBanked
  dsimp only
  rw [State.bankServed_frame]
  split <;> rfl

theorem prefBanked_has (hr : paRegion a.pa ≤ 1) (h : near = false ∨ paRegion a.pa = 0 ∨ s.bankDomain a ≠ paDomain a.pa) :
    (s.prefBanked a near part).l2Has (s.bankDomain a) a.pa = true := by
  unfold State.prefBanked
  dsimp only
  split
  · next hc =>
    refine bankServed_has hr ?_
    simp only [Bool.or_eq_true, bne_iff_ne] at hc
    rcases h with hn | h
    · exact .inl (by
        have := hc.resolve_left (by simp [hn])
        omega)
    · exact h
  · exact l2Place_has _

theorem servePref_flight (hop : a.op = .pref near llen part) : (s.servePref a).flight = s.flight.filter fun b => b.id != a.id := by
  by_cases h : s.Fetchable a
  · rw [servePref_fetchable hop h, prefBanked_frame]
    cases near <;> rfl
  · rw [servePref_unfetchable h]

theorem servePref_has (hop : a.op = .pref near llen part) (h : s.Fetchable a) (hr : paRegion a.pa ≤ 1)
    (hb : near = false ∨ paRegion a.pa = 0 ∨ s.bankDomain a ≠ paDomain a.pa) : (s.servePref a).l2Has (s.bankDomain a) a.pa = true := by
  have banked := prefBanked_has (part := part) hr hb
  rw [servePref_fetchable hop h]
  cases near with
  | false => exact banked
  | true => exact banked

/-! ### Both sectors of a line come to L1 -/

theorem mem_sectorsOf {c : Core} {ln : Nat} {v : Nat × Option Nat} (hn : (c.l1.map (·.line)).Nodup) :
    v ∈ c.sectorsOf ln ↔ ∃ q ∈ c.l1, q.line = ln ∧ v ∈ q.sectors := by
  unfold Core.sectorsOf
  cases hf : c.l1.find? fun e => e.line == ln with
  | none =>
    have absent := List.find?_eq_none.1 hf
    refine iff_of_false (by simp) ?_
    rintro ⟨q, hq, hl, -⟩
    exact absent q hq (by simp [hl])
  | some e =>
    have he := List.mem_of_find?_eq_some hf
    have hl : e.line = ln := by simpa using List.find?_some hf
    constructor
    · exact fun hv => ⟨e, he, hl, hv⟩
    · rintro ⟨q, hq, hlq, hv⟩
      obtain rfl : q = e := List.inj_on_of_nodup_map hn hq he (hlq.trans hl.symm)
      exact hv

theorem bring_sectorsOf (c : Core) (pa : Nat) (expiry : Option Nat) (hint : Nat) :
    (c.bring pa expiry hint).sectorsOf (pa / 128) = (c.lineWith pa expiry hint).sectors := by
  obtain ⟨l, hl, hne⟩ := c.bring_l1 pa expiry hint
  have before : l.find? (fun e => e.line == pa / 128) = none := List.find?_eq_none.2 fun e he => by simpa using hne e he
  have last : ([c.lineWith pa expiry hint].find? fun e => e.line == pa / 128) = some (c.lineWith pa expiry hint) := by simp [Core.lineWith]
  rw [Core.sectorsOf, hl, List.find?_append, before, last]
  rfl

/-- Of a line that has come in, the L1 keeps a sector without a lease when the line has it so. -/
theorem bring_keepsSector (c : Core) (pa : Nat) (expiry : Option Nat) (hint : Nat) {p : Nat} (hp : p / 128 = pa / 128) :
    (c.bring pa expiry hint).keepsSector p = true ↔ (p / 64 % 2, none) ∈ (c.lineWith pa expiry hint).sectors := by
  obtain ⟨l, hl, hne⟩ := c.bring_l1 pa expiry hint
  rw [Core.keepsSector_iff, hl, hp]
  constructor
  · rintro ⟨e, he, hline, hv⟩
    rcases List.mem_append.1 he with he | he
    · exact absurd hline (hne e he)
    · rwa [List.mem_singleton.1 he] at hv
  · exact fun hv => ⟨_, List.mem_append_right _ (List.mem_singleton_self _), rfl, hv⟩

/-- The two sectors of a line that come in one after the other stand in it together. -/
theorem bring_both {c : Core} {pa expiry hint : Nat} (hpa : pa % 128 = 0) (hn : (c.l1.map (·.line)).Nodup) :
    ∃ e ∈ ((c.bring pa (some expiry) hint).bring (pa + 64) (some expiry) hint).l1, e.line = pa / 128 ∧
      ∀ k, k < 2 → (k, if ∃ q ∈ c.l1, q.line = pa / 128 ∧ (k, none) ∈ q.sectors then none else some expiry) ∈ e.sectors := by
  have line : (pa + 64) / 128 = pa / 128 := by omega
  have low : pa / 64 % 2 = 0 := by omega
  have high : (pa + 64) / 64 % 2 = 1 := by omega
  have first : c.keepsSector pa = true ↔ ∃ q ∈ c.l1, q.line = pa / 128 ∧ (0, none) ∈ q.sectors := by rw [Core.keepsSector_iff, low]
  have second : (c.bring pa (some expiry) hint).keepsSector (pa + 64) = true ↔ ∃ q ∈ c.l1, q.line = pa / 128 ∧ (1, none) ∈ q.sectors := by
    rw [bring_keepsSector c pa (some expiry) hint line, high, ← mem_sectorsOf hn]
    simp [Core.lineWith, low]
  have kept : ∀ {b : Bool} {P : Prop} [Decidable P], (b = true ↔ P) → (if b then none else some expiry) = if P then none else some expiry :=
    fun h => if_congr h rfl rfl
  refine ⟨_, Core.lineWith_mem .., line, fun k hk => ?_⟩
  unfold Core.lineWith
  dsimp only
  rw [line, high, bring_sectorsOf, List.mem_append]
  rcases Nat.lt_succ_iff_lt_or_eq.1 hk with h0 | rfl
  · obtain rfl := Nat.lt_one_iff.1 h0
    refine .inl (List.mem_filter.2 ⟨?_, by simp⟩)
    rw [← kept first]
    simp [Core.lineWith, low]
  · rw [← kept second]
    exact .inr (List.mem_singleton_self _)

/-- A PREF of block scope brings both sectors of its line to L1. -/
theorem servePref_l1 (hop : a.op = .pref true llen part) (h : s.Fetchable a) (hpa : a.pa % 128 = 0)
    (hn : ((s.core a.core).l1.map (·.line)).Nodup) : ∃ e ∈ ((s.servePref a).core a.core).l1, e.line = a.pa / 128 ∧ ∀ k, k < 2 →
      (k, if ∃ q ∈ (s.core a.core).l1, q.line = a.pa / 128 ∧ (k, none) ∈ q.sectors then none else some (s.ticks + llen)) ∈ e.sectors := by
  have core : (s.prefBanked a true part).core a.core = s.core a.core := by
    rw [prefBanked_frame]
    rfl
  have ticks : (s.prefBanked a true part).ticks = s.ticks := by
    rw [prefBanked_frame]
    rfl
  have later : ((s.prefBanked a true part).grantLease (s.bankDomain a) a.core a.pa llen a.hint).ticks = s.ticks := ticks
  rw [servePref_fetchable hop h, if_pos rfl, grantLease_core, grantLease_core, core, ticks, later]
  exact bring_both hpa hn

end

end Sys2Proof.Machine

namespace Sys2Proof.Machine

section
variable {s : State} {a : Access}

/-- What the service of a load leaves. -/
structure State.LoadServed (s : State) (a : Access) (g : Grid) (t : State) : Prop where
  shape : t = { s with flight := s.answeredIn (s.loadReply a) (s.sharers a), fresh := s.fresh + 1, domains := t.domains, cores := t.cores
                       leases := t.leases, sigs := t.sigs, directory := t.directory, l2 := t.l2 }
  running : ∀ r ∈ s.leases, s.ticks < r.expiry → r ∈ t.leases
  named : s.loadDomain a ≠ paDomain a.pa → s.loadDomain a ∈ tget [] t.directory (a.pa / 128)
  held : paRegion a.pa = 0 ∨ s.loadDomain a ≠ paDomain a.pa → t.l2Has (s.loadDomain a) a.pa = true
  leased : s.sharers a = [a] → a.hint ≠ 1 → a.covers = false ∧ a.scope = 0 →
    ⟨s.loadDomain a, a.pa / 128, s.ticks + g.regs.llen.toNat⟩ ∈ t.leases ∧
      ∃ e ∈ (t.core a.core).l1, e.line = a.pa / 128 ∧ (a.pa / 64 % 2, some (s.ticks + g.regs.llen.toNat)) ∈ e.sectors
  unleased : s.sharers a = [a] → a.hint ≠ 1 → a.covers = true →
    t.leases = s.leases ∧ ∃ e ∈ (t.core a.core).l1, e.line = a.pa / 128 ∧ (a.pa / 64 % 2, none) ∈ e.sectors
  unallocated : s.sharers a = [a] → a.hint = 1 → t.leases = s.leases ∧ t.cores = s.cores

theorem State.AtItsBank.loadServed (h : s.AtItsBank a) (ha : s.access? a.id = some a) (hid : (s.flight.map (·.id)).Nodup) {g : Grid}
    (hg : s.grid? a.c.b.grid = some g) : s.LoadServed a g (s.serveLoad a) where
  shape := h.shape ha hid
  running _ := h.leases
  named := h.names
  held hd := h.holds hd ha hid
  leased hs hn hc := h.leased hs hg hn hc.1 hc.2
  unleased hs hn hc := h.unleased hs hn hc
  unallocated hs hn := h.unallocated hs hn

/-- The value of a load that needs no packet is fixed. -/
theorem fixLoad_eq (ha : s.access? a.id = some a) (hid : (s.flight.map (·.id)).Nodup) : s.fixLoad a = { s with
    flight := s.flight.map fun e => if e.id = a.id then { e with stage := .fixed (s.accessBytes e).1 (s.accessBytes e).2 } else e } := by
  have flight : (s.fixLoad a).flight =
      s.flight.map fun e => if e.id = a.id then { e with stage := .fixed (s.accessBytes e).1 (s.accessBytes e).2 } else e := by
    refine List.map_congr_left fun e he => ?_
    by_cases hi : e.id = a.id
    · obtain rfl := List.inj_on_of_nodup_map hid he (mem_of_access? ha) hi
      simp
    · simp [hi]
  rw [← flight]
  rfl

end

/-- Settles O27: what a bank may serve, what its service leaves, what the reply brings, and the way of the request and of a PREF. -/
theorem readsAreServedAndReplied : Obligations.ReadsAreServedAndReplied := by
  unfold Obligations.ReadsAreServedAndReplied
  refine ⟨fun s a b g ha hid hop hst hb hg => ?_, fun s uid i c d n size sgn word pc hi hf hc => ?_, fun s a ha hs => ?_,
    fun s a t ha ht hw hst hsc hr hm => ?_, fun o s x u => ?_, fun s a near llen part ha hop hserve hs hm hcr hsc hpa hr hn => ?_⟩
  · intro line own home d live hit free recess turn serves fence near draft bytes poison fixed place reply lease served hafter
    have clear := clear_of_after hafter
    have missed : ¬ hit → s.l1Hit a = false := fun hn => Bool.eq_false_iff.2 fun h => hn ((l1Hit_iff hop).1 h)
    refine ⟨State.accessBytes_eq hb, fun ⟨htrip, hplace⟩ => ?_, fun hsc hnh hserves => ?_⟩
    · have near' : s.Near a := ⟨hop, hst, clear, htrip, hplace.imp id (Or.imp (l1Hit_iff hop).2 id)⟩
      rw [near'.packetService ha, fixLoad_eq ha hid]
    · have atBank : s.AtItsBank a := ⟨hop, hst, clear, hsc, missed hnh, hserves⟩
      obtain ⟨shape, running, named, held, leased, unleased, unallocated⟩ := atBank.loadServed ha hid hg
      exact ⟨⟨_, atBank.packetService ha, shape, running, named, held, leased, unleased, unallocated⟩, fun hl =>
        ⟨_, atBank.leaseGrant ha hl.1 hl.2, shape, running, named, held, leased, unleased, unallocated⟩⟩
  · intro mine hall hlanes part raw hraw value
    have replied : s.AllReplied uid := hall
    have next : exec (.loadReply uid) s = .next (replyTo s uid) := rfl
    exact ⟨s.repliedPends uid d n size sgn, next.trans (congrArg _ (replied.replyTo hi hf)), rfl, replied.pends hraw hlanes⟩
  · intro bank src named route trip point filling joins now
    have next := exec_sends ha hs
    refine ⟨fun hop => next.trans (congrArg _ (sendRequest_other hop)), fun hop hj => ?_, fun hop hj => ⟨fun hroom => ?_, fun hroom => ?_⟩⟩
    · obtain ⟨m, hm, hsent⟩ := sendRequest_joins hop hj
      exact ⟨m, hm, next.trans (congrArg _ hsent)⟩
    · exact next.trans (congrArg _ ((sendRequest_alone hop hj).trans (if_pos (missRoom_iff.2 hroom))))
    · exact next.trans (congrArg _ ((sendRequest_alone hop hj).trans (if_neg fun hr => hroom (missRoom_iff.1 hr))))
  · intro age index first waits
    have next := exec_underway ha ht hw hst hsc hr hm
    refine ⟨fun hn => next.trans ?_, fun hwaits => next.trans ?_⟩
    · rw [if_pos ((portServes_iff hw).2 hn), State.moveOn, map_access]
      rfl
    · rw [if_neg fun hp => (portServes_iff hw).1 hp hwaits]
  · intro addr loads held near pages h
    refine ⟨pref_waits h, fun hm => ?_⟩
    obtain ⟨t, heffect, hnext⟩ := pref_next h hm
    exact ⟨t, prefLanes x u addr, prefLines x u near addr, prefAddr x u addr, prefRequests x o u, heffect, hnext,
      fun ln => prefAddr_lowest, fun l => mem_prefLanes, prefLines_nodup near addr, fun ln => mem_prefLines, rfl⟩
  · have atBank : s.PrefAtBank a near llen part := ⟨ha, hop, hserve, hs, hm, hcr⟩
    refine ⟨_, atBank.packetService, State.servePref_mem s a, fun e => ?_, fun h1 h2 h3 => ⟨servePref_has hop ⟨h1, h2, h3⟩ hr, fun hnear => ?_⟩⟩
    · rw [servePref_flight hop, List.mem_filter, bne_iff_ne]
    · subst hnear
      exact servePref_l1 hop ⟨h1, h2, h3⟩ hpa hn

end Sys2Proof.Machine

namespace Sys2Proof.Machine

/-! ## The checks of issue (R16, R37, R50) -/

/-- What an instruction comes to before it has an effect of its own: with no executing lane it counts its flag for a cycle, an illegal one
raises 0x05, and one that is under-gapped 0x09, unless a rule of its own, that `ok` stands for, makes it illegal first. -/
structure Ctx.Meets (x : Ctx) (u : State) (ok : Bool) (out : Host.Outcome State Fault Refusal) : Prop where
  empty : x.ex = 0#64 → out = .next ((x.pulse u).settle x.r)
  illegal : x.ex ≠ 0#64 → x.legal = false → out = .next ((x.raiseAll u 0x05).settle x.r)
  gap : x.ex ≠ 0#64 → x.legal = true → x.underGap = true → out = .next ((x.raiseAll u (if ok then 0x09 else 0x05)).settle x.r)

/-- One of the three holds. -/
def Ctx.Stopped (x : Ctx) : Prop := x.ex = 0#64 ∨ x.legal = false ∨ x.underGap = true

section
variable {i : Instr} {s u : State} {x : Ctx} {ok : Bool} {out out' : Host.Outcome State Fault Refusal}

/-- Outcomes that agree where an instruction is stopped meet the checks alike. -/
theorem Ctx.Meets.of_stopped (h : x.Meets u ok out) (he : x.Stopped → out' = out) : x.Meets u ok out' where
  empty hx := (he (.inl hx)).trans (h.empty hx)
  illegal hx hl := (he (.inr (.inl hl))).trans (h.illegal hx hl)
  gap hx hl hg := (he (.inr (.inr hg))).trans (h.gap hx hl hg)

/-- The test by which wrappers hold an instruction back fails where it is stopped. -/
theorem Ctx.Stopped.blocked (h : x.Stopped) : (x.ex != 0#64 && x.legal && !x.underGap) = false := by
  rcases h with h | h | h
  · simp [h]
  · simp [h]
  · simp [h]

/-- A wrapper's further test fails with it. -/
theorem Ctx.Stopped.held (h : x.Stopped) (b : Bool) : (x.ex != 0#64 && x.legal && !x.underGap && b) = false := by rw [h.blocked, Bool.false_and]

variable (h : s.beginIssue i = .go x u)
include h

theorem issue_meets (k : Ctx → State → State) : x.Meets u true (issue i s k) := by
  unfold issue
  rw [h]
  constructor
  · intro hx
    simp [hx]
  · intro hx hl
    simp [hx, hl]
  · intro hx hl hg
    simp [hx, hl, hg]

theorem issueIf_meets (ready ok : Ctx → State → Bool) (k : Ctx → State → State) : x.Meets u (ok x u) (issueIf i s ready ok k) := by
  unfold issueIf
  rw [h]
  constructor
  · intro hx
    simp [hx]
  · intro hx hl
    simp [hx, hl]
  · intro hx hl hg
    cases ho : ok x u
    · simp [hx, hl, hg, ho]
    · simp [hx, hl, hg, ho]

theorem forced_meets (hf : x.sp.forced = false) (force : Ctx → State → Bool) {go : State → Host.Outcome State Fault Refusal}
    (hg : x.Meets u ok (go s)) : x.Meets u ok (forced i s force go) := by
  refine hg.of_stopped fun hs => ?_
  have test : (x.g.ckpt && x.ex != 0#64 && x.legal && !x.underGap && force x u) = false := by
    rw [Bool.and_assoc x.g.ckpt, Bool.and_assoc x.g.ckpt, hs.blocked]
    simp
  unfold forced
  simp only [h, hf, test, Bool.false_eq_true, if_false]

theorem withCode_stopped (hs : x.Stopped) (mode : Ctx → Mode) (addrs : Ctx → List DWord) (go : State → Host.Outcome State Fault Refusal) :
    withCode mode i addrs s go = go s := by
  unfold withCode
  simp only [h, hs.held, Bool.false_eq_true, if_false]

theorem withCode_meets (mode : Ctx → Mode) (addrs : Ctx → List DWord) {go : State → Host.Outcome State Fault Refusal}
    (hg : x.Meets u ok (go s)) : x.Meets u ok (withCode mode i addrs s go) :=
  hg.of_stopped fun hs => withCode_stopped h hs mode addrs go

theorem matrixIssue_meets (ready ok : Ctx → State → Bool) (k : Ctx → State → State) :
    x.Meets u (x.sp.mode == .user && ok x u) (matrixIssue i s ready ok k) := by
  refine (issueIf_meets h ready (fun x s => x.sp.mode == .user && ok x s) k).of_stopped fun hs => ?_
  have test : (x.ex != 0#64 && x.legal && (x.sp.mode == .user && ok x u) && !x.underGap && x.c.latch.isSome) = false := by
    rcases hs with hs | hs | hs
    · simp [hs]
    · simp [hs]
    · simp [hs]
  unfold matrixIssue
  simp only [h, test, Bool.false_eq_true, if_false]

/-! ### Walks -/

omit h in
/-- A stop leaves the walks as they are. -/
theorem raiseAll_walks (x : Ctx) (u : State) (c : Nat) : ((x.raiseAll u c).settle x.r).walks = u.walks := by
  have raised : (x.raiseAll u c).outside = u.outside := by
    unfold Ctx.raiseAll Ctx.raise
    split
    · rfl
    · exact State.trapEntry_outside ..
  exact congrArg (fun p => p.1.walks) ((State.settle_outside _ _).trans raised)

omit h in
theorem pulse_walks (x : Ctx) (u : State) : ((x.pulse u).settle x.r).walks = u.walks := by
  have noted : (x.pulse u).walks = u.walks := by
    unfold Ctx.pulse Ctx.note
    split <;> rfl
  exact (congrArg (fun p => p.1.walks) (State.settle_outside _ _)).trans noted

theorem beginIssue_walks : u.walks = s.walks := by
  rw [(beginIssue_go h).2.2.2.2]
  rfl

/-- A stopped instruction leaves the walks as they are. -/
theorem Ctx.Meets.walks (hm : x.Meets u ok out) (hs : x.Stopped) : ∃ t, out = .next t ∧ t.walks = s.walks := by
  have same := beginIssue_walks h
  by_cases hx : x.ex = 0#64
  · exact ⟨_, hm.empty hx, (pulse_walks x u).trans same⟩
  · cases hl : x.legal with
    | false => exact ⟨_, hm.illegal hx hl, (raiseAll_walks x u _).trans same⟩
    | true =>
      have hg : x.underGap = true := (hs.resolve_left hx).resolve_left (by simp [hl])
      exact ⟨_, hm.gap hx hl hg, (raiseAll_walks x u _).trans same⟩

/-- A stopped instruction is not held back by walks; where none has failed, none is taken off. -/
theorem withWalksFor_stopped (hw : ∀ w ∈ s.walks, w.failed = false) (hs : x.Stopped) (mode : Ctx → Mode) (addrs : Ctx → List DWord)
    {go : State → Host.Outcome State Fault Refusal} {t : State} (ht : go s = .next t) (hwalks : t.walks = s.walks) :
    withWalksFor mode i addrs s go = .next t := by
  have kept : (t.walks.filter fun w => !(w.failed && w.req.core == x.c.core && w.req.grid == x.g.id &&
      (addrs x).any fun a => a.toNat / 32768 == w.req.va)) = t.walks :=
    List.filter_eq_self.2 fun w hin => by simp [hw w (hwalks ▸ hin)]
  unfold withWalksFor
  simp only [h, hs.held, Bool.false_eq_true, if_false, ht, kept]

theorem withWalksFor_meets (hw : ∀ w ∈ s.walks, w.failed = false) (mode : Ctx → Mode) (addrs : Ctx → List DWord)
    {go : State → Host.Outcome State Fault Refusal} (hg : x.Meets u ok (go s)) : x.Meets u ok (withWalksFor mode i addrs s go) :=
  hg.of_stopped fun hs =>
    have ⟨_, ht, hwalks⟩ := hg.walks h hs
    (withWalksFor_stopped h hw hs mode addrs ht hwalks).trans ht.symm

theorem withWalks_meets (hw : ∀ w ∈ s.walks, w.failed = false) (addrs : Ctx → List DWord)
    {go : State → Host.Outcome State Fault Refusal} (hg : x.Meets u ok (go s)) : x.Meets u ok (withWalks i addrs s go) :=
  withWalksFor_meets h hw _ addrs hg

theorem withTargets_meets (hw : ∀ w ∈ s.walks, w.failed = false) (mode : Ctx → Mode) (addrs : Ctx → List DWord)
    {go : State → Host.Outcome State Fault Refusal} (hg : x.Meets u ok (go s)) : x.Meets u ok (withTargetsFor mode i addrs s go) :=
  withWalksFor_meets h hw mode addrs (withCode_meets h mode addrs hg)

theorem copyIssue_meets (hf : x.sp.forced = false) (hw : ∀ w ∈ s.walks, w.failed = false) (o : OpA) (queue : Nat) (force : Ctx → State → Bool)
    (sides : Ctx → Option Moves) (plan : Ctx → State → Plan) (box : Ctx → Nat) :
    x.Meets u true (copyIssue i o queue force sides plan s box) := by
  rw [copyIssue_eq]
  exact withWalks_meets h hw _ (forced_meets h hf _ (issueIf_meets h _ (fun _ _ => true) _))

/-! ### Splits held by an instruction of their own -/

/-- The split that issues may issue. -/
theorem beginIssue_may : ∃ r rest sp, s.selected = r :: rest ∧ s.split? r = some sp ∧ (sp.walked = true ∨ sp.hold = none) := by
  unfold State.beginIssue at h
  split at h
  · cases h
  · next r rest hsel =>
    dsimp only at h
    split at h
    · next hsp hh =>
      split at h
      · next hmay =>
        refine ⟨r, rest, _, hsel, hsp, ?_⟩
        unfold canIssue at hmay
        simp only [Bool.and_eq_true] at hmay
        obtain ⟨-, hheld⟩ := hmay
        split at hheld
        · next hwalked => exact .inl hwalked
        · simp only [Bool.and_eq_true, Option.isNone_iff_eq_none] at hheld
          exact .inr hheld.1.1.2
      · cases h
    · cases h

/-- A split that issues is not held, but by walks or lines of code that have come. -/
theorem beginIssue_resuming {r : SRef} {hd : Hold} (hr : s.resuming = some (r, hd)) : (∃ l, hd.kind = .walk l) ∨ ∃ l, hd.kind = .code l := by
  obtain ⟨r', rest, sp, hsel, hsp, hmay⟩ := beginIssue_may h
  unfold State.resuming at hr
  rw [hsel] at hr
  dsimp only at hr
  rw [hsp, Option.bind_some, Option.map_eq_some_iff] at hr
  obtain ⟨hd', hhold, hpair⟩ := hr
  obtain ⟨-, rfl⟩ := Prod.mk.inj hpair
  rcases hmay with hwalked | hnone
  · unfold Split.walked at hwalked
    rw [hhold] at hwalked
    dsimp only at hwalked
    split at hwalked
    · next l hk => exact .inl ⟨l, hk⟩
    · next l hk => exact .inr ⟨l, hk⟩
    · cases hwalked
  · rw [hnone] at hhold
    cases hhold

theorem handleRead_meets (o : OpA) (n : Nat) (val : Handle → Nat) : x.Meets u true (handleRead i o n val s) := by
  unfold handleRead
  dsimp only
  split
  · next hr => rcases beginIssue_resuming h hr with ⟨l, hk⟩ | ⟨l, hk⟩ <;> cases hk
  · exact issue_meets h _

theorem queueIssue_meets (hf : x.sp.forced = false) (o : OpA) (push : Bool) : x.Meets u (x.sp.mode == .user) (queueIssue i o push s) :=
  forced_meets h hf _ (issueIf_meets h _ (fun x _ => x.sp.mode == .user) _)

theorem mma_meets (o : OpA) (n : Nat) : x.Meets u
    (x.sp.mode == .user && (x.c.team.isSome && x.c.ownsTile x.g (fld o.d 4 0) && (!(mmaForm n).sparse || (metaRecord x o.m).2))) (mma i o n s) :=
  matrixIssue_meets h _ (fun x _ => x.c.team.isSome && x.c.ownsTile x.g (fld o.d 4 0) && (!(mmaForm n).sparse || (metaRecord x o.m).2)) _

end

section
variable {s u : State} {x : Ctx}

theorem qpush_meets {o : OpA} (h : s.beginIssue (.qpush o) = .go x u) (hf : x.sp.forced = false) :
    x.Meets u (x.sp.mode == .user) (execQpush o s) := by
  unfold execQpush
  split
  · next hr => rcases beginIssue_resuming h hr with ⟨l, hk⟩ | ⟨l, hk⟩ <;> cases hk
  · exact queueIssue_meets h hf o true

theorem qpop_meets {o : OpA} (h : s.beginIssue (.qpop o) = .go x u) (hf : x.sp.forced = false) :
    x.Meets u (x.sp.mode == .user) (execQpop o s) := by
  unfold execQpop
  split
  · next hr => rcases beginIssue_resuming h hr with ⟨l, hk⟩ | ⟨l, hk⟩ <;> cases hk
  · exact queueIssue_meets h hf o false

/-- An instruction that issues has a header. -/
theorem beginIssue_hdr {i : Instr} (h : s.beginIssue i = .go x u) : hdr? i ≠ none := by
  intro hn
  unfold State.beginIssue at h
  split at h
  · cases h
  · dsimp only at h
    split at h
    · next hh =>
      rw [hn] at hh
      cases hh
    · cases h

end

end Sys2Proof.Machine

namespace Sys2Proof.Machine

/-! ## Every instruction meets its checks -/

/-- The rule of modes, teams, tiles or fields that each instruction has of its own, by which it is illegal before it is under-gapped (R50). -/
def Ctx.ownRule (x : Ctx) : Instr → Bool :=
  let user : Bool := x.sp.mode == .user
  let entered (m : Mode) : Bool := x.sp.mode == m && (match x.sp.frames with | f :: _ => f.entered == m | [] => false)
  let tiles (ns : List Nat) : Bool := user && ns.all fun n => x.c.ownsTile x.g n
  fun i => match i with
  | .waitm _ | .launch _ | .tready _ | .unsub _ | .subsync _ | .bar _ | .ckpt _ | .barbWait _ | .qpush _ | .qpop _ | .exit _ | .qfree _ => user
  | .subscribe y => user && subscribeOk x y
  | .sysc _ | .hcall _ | .ebreak _ => x.sp.mode != .hypervisor
  | .sret _ => entered .supervisor
  | .hret _ => entered .hypervisor
  | .vote o =>
    let n := if fld o.m 1 0 = 2 && x.g.width = 64 then 2 else 1
    decide (fld o.m 1 0 ≤ 1) || (dstOk o.d n .uniAny && allocOk x.g { dsts := [(o.d, n, .uniAny)] })
  | .pwrite o =>
    pwriteFault x.sp.mode x.sp.frames.length (fld o.imm 11 0)
      (if o.imm.getLsbD 12 then x.rdD o.a x.low else (x.rd o.a x.low).setWidth 64) != some 0x05
  | .qbind o =>
    let t := x.b.team (fld o.m 3 0)
    user && x.c.team.isNone && tget 0 t.members x.c.quad == 0 && (t.members.isEmpty || t.core == x.c.core)
  | .accz o | .accld o => tiles [fld o.d 4 0]
  | .accst o => tiles [fld o.a 4 0]
  | .scacc o => tiles [fld o.d 4 0, fld o.m 4 0]
  | .mmaBf16 o | .mmaF16 o | .mmaE4m3 o | .mmaE5m2 o | .mmaE3m2 o | .mmaE2m3 o | .mmaE2m1 o | .mmaE4m3Qn4 o | .mmaE2m1Qn4 o =>
    tiles [fld o.d 4 0] && x.c.team.isSome
  | .mmasBf16 o | .mmasF16 o | .mmasE4m3 o | .mmasE5m2 o | .mmasE2m1 o =>
    tiles [fld o.d 4 0] && x.c.team.isSome && decide (x.rdN 2 o.m x.low / 2 ^ 32 ≤ 1)
  | _ => true

/-- The rule of ACS2, that its decision registers are legal (R126). -/
def Ctx.decisionsOk (x : Ctx) : Instr → Bool
  | .acs2 o =>
    let pairs : BitVec 8 × Nat × DstKind := (o.m, if x.g.width = 64 then 4 else 2, .uniOnly)
    dstOk pairs.1 pairs.2.1 .uniOnly && allocOk x.g { dsts := [pairs] }
  | _ => true

/-- Do the lanes of the guard execute the instruction? BRP and BRU are the whole split's, and a word without an instruction has no fields. -/
def LaneGuarded : Instr → Prop
  | .brp _ | .bru _ | .unimplementedOpcode _ => False
  | _ => True

section
variable {i : Instr} {s u : State} {x : Ctx} {ok ok' : Bool} {out : Host.Outcome State Fault Refusal}

theorem Ctx.Meets.rule_eq (hm : x.Meets u ok out) (he : ok = ok') : x.Meets u ok' out := he ▸ hm

variable (h : s.beginIssue i = .go x u)
include h

/-- An MMA is for a member of a team, on a tile that its cohort owns. -/
theorem mma_dense_meets (o : OpA) (n : Nat) (hd : (mmaForm n).sparse = false) :
    x.Meets u ((x.sp.mode == .user && [fld o.d 4 0].all fun n => x.c.ownsTile x.g n) && x.c.team.isSome) (mma i o n s) :=
  (mma_meets h o n).rule_eq (by simp [hd, Bool.and_comm, Bool.and_left_comm])

/-- An MMAS is so too, and its metadata record must be legal (R291). -/
theorem mma_sparse_meets (o : OpA) (n : Nat) (hs : (mmaForm n).sparse = true) :
    x.Meets u ((x.sp.mode == .user && [fld o.d 4 0].all fun n => x.c.ownsTile x.g n) && x.c.team.isSome &&
      decide (x.rdN 2 o.m x.low / 2 ^ 32 ≤ 1)) (mma i o n s) :=
  (mma_meets h o n).rule_eq (by simp [hs, metaRecord, Bool.and_comm, Bool.and_left_comm, Bool.and_assoc])

section
variable (hf : x.sp.forced = false)
include hf

theorem storeScratch_meets (o : OpM) (size n : Nat) : x.Meets u true (storeScratch i o size n s) := by
  unfold storeScratch
  dsimp only
  exact forced_meets h hf _ (issueIf_meets h _ (fun _ _ => true) _)

theorem barbChange_meets (o : OpA) (init : Bool) : x.Meets u true (barbChange i o init s) :=
  forced_meets h hf _ (issueIf_meets h _ (fun _ _ => true) _)

theorem callMode_meets (cause : Nat) : x.Meets u (x.sp.mode != .hypervisor) (callMode i cause s) :=
  forced_meets h hf _ (issueIf_meets h _ (fun x _ => x.sp.mode != .hypervisor) _)

end

section
variable (hw : ∀ w ∈ s.walks, w.failed = false)
include hw

theorem loadGlobal_meets (o : OpM) (k : MemKind) (size n : Nat) (signed : Bool) : x.Meets u true (loadGlobal i o k size n signed s) :=
  withWalks_meets h hw _ (issue_meets h _)

theorem storeGlobal_meets (o : OpM) (size n : Nat) : x.Meets u true (storeGlobal i o size n s) :=
  withWalks_meets h hw _ (issue_meets h _)

theorem branchPair_meets (o : OpA) (link : Ctx → List (Reg × (Nat → Word))) : x.Meets u true (branchPair i o link s) :=
  withTargets_meets h hw _ _ (issue_meets h _)

theorem returnFrom_meets (m : Mode) :
    x.Meets u (x.sp.mode == m && (match x.sp.frames with | f :: _ => f.entered == m | [] => false)) (returnFrom i m s) :=
  withTargets_meets h hw _ _
    (issueIf_meets h _ (fun x _ => x.sp.mode == m && (match x.sp.frames with | f :: _ => f.entered == m | [] => false)) _)

theorem atomic_meets (hf : x.sp.forced = false) (o : OpA) (wide red scratch : Bool) : x.Meets u true (atomic i o wide red scratch s) := by
  unfold atomic
  cases scratch
  · simp only [Bool.false_eq_true, if_false]
    exact withWalks_meets h hw _ (forced_meets h hf _ (issueIf_meets h _ (fun _ _ => true) _))
  · simp only [if_true]
    exact forced_meets h hf _ (issueIf_meets h _ (fun _ _ => true) _)

end

/-- An instruction of class A or B issues as soon as it is chosen; nothing forces a checkpoint before it, and no walk holds it back. -/
theorem alu_meets (hc : cls i ≠ .v) : x.Meets u (x.decisionsOk i) (exec i s) := by
  cases i with
  | mov o | movi o | movh o | iadd o | iaddImmediate o | iadd3 o | isub o | imin o | imax o | iabs o | ineg o | and o
  | andImmediate o | or o | orImmediate o | xor o | xorImmediate o | andn o | not o | shl o | shr o | sar o | rot o | fshl o
  | bfx o | bfi o | popc o | clz o | brev o | sel o | isetp o | isetpImmediate o | plop o | lea o | nadd o | prmt o | nop o
  | imul o | imulImmediate o | imulh o | imad o | imadw o | fadd o | fsub o | fmul o | ffma o | fmin o | fmax o | fsetp o
  | fclass o | frnd o | fexp o | fldexp o | f2i o | i2f o | f2f o | cvtq o | cvtx o | hadd2 o | hmul2 o | hfma2 o | vadd2 o
  | vsub2 o | vmax2 o | vmin2 o => exact issue_meets h _
  | acs2 o => exact (issueIf_meets h _ _ _).rule_eq (by simp [Ctx.decisionsOk])
  | _ => exact absurd rfl hc

/-- An instruction of class V meets its checks, unless its split has forced a checkpoint or a walk has failed. -/
theorem classV_meets (hc : cls i = .v) (hf : x.sp.forced = false) (hw : ∀ w ∈ s.walks, w.failed = false) (hn : LaneGuarded i) :
    x.Meets u (x.ownRule i) (exec i s) := by
  have hdr := beginIssue_hdr h
  cases i with
  | mov o | movi o | movh o | iadd o | iaddImmediate o | iadd3 o | isub o | imin o | imax o | iabs o | ineg o | and o
  | andImmediate o | or o | orImmediate o | xor o | xorImmediate o | andn o | not o | shl o | shr o | sar o | rot o | fshl o
  | bfx o | bfi o | popc o | clz o | brev o | sel o | isetp o | isetpImmediate o | plop o | lea o | nadd o | prmt o | nop o
  | imul o | imulImmediate o | imulh o | imad o | imadw o | fadd o | fsub o | fmul o | ffma o | fmin o | fmax o | fsetp o
  | fclass o | frnd o | fexp o | fldexp o | f2i o | i2f o | f2f o | cvtq o | cvtx o | hadd2 o | hmul2 o | hfma2 o | vadd2 o
  | vsub2 o | vmax2 o | vmin2 o | acs2 o => cases hc
  | brp o | bru o | unimplementedOpcode o => exact hn.elim
  | idiv o | irem o | frcp o | frsq o | fsqrt o | ex2 o | lg2 o | sin o | cos o | shfl o | redx o | umov o | elect o | yield o
  | ldsI8 o | ldsN8 o | ldsI16 o | ldsN16 o | ldsB32 o | ldsB64 o | ldsB128 o | htest o | hcancel o | hmovH o | qfence o
  | pread o | gridend o | illegal o => exact issue_meets h _
  | sread o | swrite o | ovclr o | tlbi o => exact issueIf_meets h _ (fun _ _ => true) _
  | exit o | bar o | ckpt o | barbWait o | unsub o | subsync o => exact issueIf_meets h _ (fun x _ => x.sp.mode == .user) _
  | ldI8 o | ldN8 o | ldI16 o | ldN16 o | ldB32 o | ldB64 o | ldB128 o | ldwB32 o | ldwB64 o | ldwB128 o => exact loadGlobal_meets h hw _ _ _ _ _
  | stB8 o | stB16 o | stB32 o | stB64 o | stB128 o => exact storeGlobal_meets h hw _ _ _
  | brx o | callx o | ret o => exact branchPair_meets h hw _ _
  | stsB8 o | stsB16 o | stsB32 o | stsB64 o | stsB128 o => exact storeScratch_meets h hf _ _ _
  | barbInit o | barbArrive o => exact barbChange_meets h hf _ _
  | atomGlobal o => exact atomic_meets h hw hf o false false false
  | atomScratchpad o => exact atomic_meets h hw hf o false false true
  | atomCasB128 o => exact atomic_meets h hw hf o true false false
  | redGlobal o => exact atomic_meets h hw hf o false true false
  | redScratchpad o => exact atomic_meets h hw hf o false true true
  | pref o =>
    show x.Meets u _ (execPref o s)
    exact withWalks_meets h hw _ (issue_meets h _)
  | bra o =>
    show x.Meets u _ (execBra o s)
    exact withTargets_meets h hw _ _ (issue_meets h _)
  | call o =>
    show x.Meets u _ (execCall o s)
    exact withTargets_meets h hw _ _ (issue_meets h _)
  | fence o =>
    show x.Meets u true (execFence o s)
    unfold execFence
    dsimp only
    exact forced_meets h hf _ (issue_meets h _)
  | qtry o =>
    show x.Meets u _ (execQtry o s)
    exact forced_meets h hf _ (issueIf_meets h _ (fun _ _ => true) _)
  | waitm o =>
    show x.Meets u _ (execWaitm o s)
    exact withWalks_meets h hw _ (issueIf_meets h _ (fun x _ => x.sp.mode == .user) _)
  | launch o =>
    show x.Meets u _ (execLaunch o s)
    exact withWalks_meets h hw _ (forced_meets h hf _ (issueIf_meets h _ (fun x _ => x.sp.mode == .user) _))
  | tready o =>
    show x.Meets u _ (execTready o s)
    exact withWalks_meets h hw _ (forced_meets h hf _ (issueIf_meets h _ (fun x _ => x.sp.mode == .user) _))
  | qpush o => exact qpush_meets h hf
  | qpop o => exact qpop_meets h hf
  | copy o | tcopy o | tcopyPeer o | fill o => exact copyIssue_meets h hf hw _ _ _ _ _ _
  | hmovS o | hmovC o | hmovA o => exact handleRead_meets h _ _ _
  | vote o => exact (issueIf_meets h _ _ _).rule_eq rfl
  | subscribe y => exact issueIf_meets h _ (fun x _ => x.sp.mode == .user && subscribeOk x y) _
  | sysc o | hcall o => exact callMode_meets h hf _
  | ebreak o => exact issueIf_meets h _ (fun x _ => x.sp.mode != .hypervisor) _
  | sret o | hret o => exact returnFrom_meets h hw _
  | pwrite o => exact (issueIf_meets h _ _ _).rule_eq rfl
  | qbind o => exact (matrixIssue_meets h _ _ _).rule_eq (by rw [← Bool.and_assoc, ← Bool.and_assoc]; rfl)
  | qfree o => exact (matrixIssue_meets h _ _ _).rule_eq (Bool.and_true _)
  | accz o | accld o | accst o => exact (matrixIssue_meets h _ _ _).rule_eq (congrArg (_ && ·) (Bool.and_true _).symm)
  | scacc o =>
    exact (matrixIssue_meets h _ _ _).rule_eq
      (congrArg (fun b => x.sp.mode == .user && (x.c.ownsTile x.g (fld o.d 4 0) && b)) (Bool.and_true _).symm)
  | mmaBf16 o | mmaF16 o | mmaE4m3 o | mmaE5m2 o | mmaE3m2 o | mmaE2m3 o | mmaE2m1 o | mmaE4m3Qn4 o | mmaE2m1Qn4 o =>
    exact mma_dense_meets h _ _ rfl
  | mmasBf16 o | mmasF16 o | mmasE4m3 o | mmasE5m2 o | mmasE2m1 o => exact mma_sparse_meets h _ _ rfl
  | _ => exact absurd rfl hdr

end

end Sys2Proof.Machine

namespace Sys2Proof.Machine

/-! ## What the checks of issue come to (R16, R37, R50) -/

section
variable {i : Instr} {s u : State} {x : Ctx} (h : s.beginIssue i = .go x u)
include h

/-- Every instruction that its guard's lanes execute meets its checks under some rule of its own. -/
theorem guarded_meets (hf : x.sp.forced = false) (hw : ∀ w ∈ s.walks, w.failed = false) (hn : LaneGuarded i) :
    ∃ ok, x.Meets u ok (exec i s) := by
  by_cases hc : cls i = .v
  · exact ⟨_, classV_meets h hc hf hw hn⟩
  · exact ⟨_, alu_meets h hc⟩

/-- With no executing lane an instruction only counts its flag for a cycle (R16). -/
theorem pulse_effect : x.Effect u (x.pulse u) .v 0#64 [] (.latency (u.cycle + 1)) := note_effect h 0#64 .v _

/-! ### BRP and BRU -/

/-- A whole split that is under-gapped at its branch raises 0x09 in every lane (R94). -/
theorem branchWhole_underGap (hw : ∀ w ∈ s.walks, w.failed = false) (o : OpJ) (cond : Ctx → Bool) (hl : x.legal = true)
    (hx : x.underGap = true) (hall : ({ x with ex := x.sp.lanes } : Ctx).underGap = true) :
    branchWhole i o cond s = .next ((({ x with ex := x.sp.lanes } : Ctx).raiseAll u 0x09).settle x.r) := by
  have hs : x.Stopped := .inr (.inr hx)
  have hlegal : ({ x with ex := x.sp.lanes } : Ctx).legal = true := hl
  unfold branchWhole withTargets withTargetsFor
  refine withWalksFor_stopped h hw hs _ _ ?_ ((raiseAll_walks _ u _).trans (beginIssue_walks h))
  rw [withCode_stopped h hs]
  simp only [h, hlegal, hall, Bool.not_true, Bool.false_eq_true, if_false, if_true]

/-- An instruction without sources is under-gapped by its guard alone, whatever lanes execute it. -/
theorem underGap_allLanes {o : OpJ} (hi : i = .brp o ∨ i = .bru o) : ({ x with ex := x.sp.lanes } : Ctx).underGap = x.underGap := by
  obtain ⟨-, hxi, -⟩ := beginIssue_go h
  have none : (shape i).srcs = [] ∧ (shape i).preds = [] := by rcases hi with rfl | rfl <;> exact ⟨rfl, rfl⟩
  simp only [Ctx.underGap, hxi, none, List.zip_nil_left, List.drop_nil, List.flatMap_nil, List.any_nil]

theorem branch_underGap {o : OpJ} (hi : i = .brp o ∨ i = .bru o) (hw : ∀ w ∈ s.walks, w.failed = false) (hl : x.legal = true)
    (hx : x.underGap = true) : exec i s = .next ((({ x with ex := x.sp.lanes } : Ctx).raiseAll u 0x09).settle x.r) := by
  have hall := (underGap_allLanes h hi).trans hx
  rcases hi with rfl | rfl
  · exact branchWhole_underGap h hw o _ hl hx hall
  · exact branchWhole_underGap h hw o _ hl hx hall

end

/-! ### What is under-gapped (R37) -/

theorem Ctx.underGap_unchecked {x : Ctx} (hc : x.g.check = false) : x.underGap = false := by simp [Ctx.underGap, hc]

/-- The lanes that supply every source of an instruction: a result owed in one of them counts (R289, R294, R296). -/
def supplyOf : Instr → Mask
  | .scacc _ => 0xFFFF#64
  | .accld _ | .mmaBf16 _ | .mmaF16 _ | .mmaE4m3 _ | .mmaE5m2 _ | .mmaE3m2 _ | .mmaE2m3 _ | .mmaE2m1 _ | .mmaE4m3Qn4 _
  | .mmaE2m1Qn4 _ | .mmasBf16 _ | .mmasF16 _ | .mmasE4m3 _ | .mmasE5m2 _ | .mmasE2m1 _ => 0xFFFFFFFF#64
  | _ => BitVec.allOnes 64

/-- Every reader mask of an instruction has the lanes of its supply. -/
theorem supplyOf_and {i : Instr} {m : Mask} (hm : m ∈ srcLanes i) : supplyOf i &&& m = supplyOf i := by
  unfold srcLanes at hm
  dsimp only at hm
  split at hm
  case h_2 =>
    rcases List.mem_pair.1 hm with rfl | rfl
    · exact BitVec.and_self
    · show 0xFFFF#64 &&& 0xFFFFFFFF#64 = 0xFFFF#64
      decide
  case h_17 => cases hm
  case h_1 => exact List.mem_singleton.1 hm ▸ BitVec.and_self
  all_goals
    obtain rfl | rfl := List.mem_pair.1 hm <;> exact BitVec.and_self

theorem mem_zip_or_drop {α β : Type} {a : α} : ∀ {as : List α} (bs : List β), a ∈ as → (∃ b ∈ bs, (a, b) ∈ as.zip bs) ∨ a ∈ as.drop bs.length
  | _, [], ha => .inr ha
  | c :: as, b :: bs, ha => by
    rcases List.mem_cons.1 ha with rfl | ha
    · exact .inl ⟨b, by simp, by simp⟩
    · rcases mem_zip_or_drop bs ha with ⟨d, hd, hz⟩ | hd
      · exact .inl ⟨d, by simp [hd], by simp [hz]⟩
      · exact .inr (by simpa using hd)

/-- A result owed in a lane that supplies the instruction makes it under-gapped. -/
theorem Ctx.underGap_of_owed {x : Ctx} {p : Pend} {code : BitVec 8} {k n : Nat} (hp : p ∈ x.c.pend) (hs : (code, k) ∈ (shape x.i).srcs)
    (hr : p.reg ∈ regsOf code k) (hv : p.reg = .vec n) (hl : p.lanes &&& x.ex &&& supplyOf x.i ≠ 0#64) (hc : x.g.check = true) :
    x.underGap = true := by
  have covers (m : Mask) (hm : supplyOf x.i &&& m = supplyOf x.i) : p.covers (.vec n) (x.ex &&& m) = true := by
    have hne : p.lanes &&& (x.ex &&& m) ≠ 0#64 := by
      intro h0
      apply hl
      rw [← hm, ← BitVec.and_assoc, BitVec.and_comm _ (supplyOf x.i), BitVec.and_assoc, BitVec.and_assoc p.lanes, h0]
      simp
    simp [Pend.covers, hv, hne]
  unfold Ctx.underGap
  simp only [hc, Bool.true_and, Bool.or_eq_true, List.any_eq_true, List.mem_flatMap]
  rcases mem_zip_or_drop (srcLanes x.i) hs with ⟨m, hm, hz⟩ | hd
  · exact .inl (.inl (.inl ⟨_, hz, _, hr, p, hp, by rw [hv]; exact covers m (supplyOf_and hm)⟩))
  · have hall := covers (BitVec.allOnes 64) BitVec.and_allOnes
    rw [BitVec.and_allOnes] at hall
    exact .inl (.inl (.inr ⟨_, ⟨_, hd, hr⟩, p, hp, by rw [hv]; exact hall⟩))

/-- A code that names no uniform register names vector registers alone. -/
theorem regsOf_vec {code : BitVec 8} {k : Nat} {r : Reg} (hu : ∀ n, opnd code ≠ some (.uni n)) (hr : r ∈ regsOf code k) : ∃ n, r = .vec n := by
  unfold regsOf at hr
  split at hr
  · obtain ⟨n, -, rfl⟩ := List.mem_map.1 hr
    exact ⟨_, rfl⟩
  · exact absurd ‹_› (hu _)
  · cases hr

/-- ACCLD reads its fragment in lanes 0-31 alone (R294). -/
theorem accld_notUnderGap {o : OpA} {s u : State} {x : Ctx} (h : s.beginIssue (.accld o) = .go x u)
    (hp : ∀ p ∈ x.c.pend, p.lanes &&& 0xFFFFFFFF#64 = 0#64 ∧ ∀ k, p.reg ≠ .prd k) (hu : ∀ n, opnd o.a ≠ some (.uni n)) : x.underGap = false := by
  obtain ⟨-, hxi, -⟩ := beginIssue_go h
  have low (p : Pend) (hin : p ∈ x.c.pend) (r : Reg) : p.covers r (x.ex &&& 0xFFFFFFFF#64) = false := by
    have h0 : p.lanes &&& (x.ex &&& 0xFFFFFFFF#64) = 0#64 := by
      rw [BitVec.and_comm x.ex, ← BitVec.and_assoc, (hp p hin).1]
      simp
    rw [Pend.covers, h0]
    simp
  have guard (k : Nat) (ls : Mask) : (x.c.pend.any fun p => p.covers (.prd k) ls) = false :=
    List.any_eq_false.2 fun p hin => by simp [Pend.covers, (hp p hin).2 k]
  have hsrc : (shape x.i).srcs = [(o.a, 4)] ∧ (shape x.i).preds = [] ∧ srcLanes x.i = [0xFFFFFFFF#64] := by
    rw [hxi]
    exact ⟨rfl, rfl, rfl⟩
  obtain ⟨hsrcs, hpreds, hlanes⟩ := hsrc
  unfold Ctx.underGap
  simp only [hsrcs, hpreds, hlanes, guard, List.zip_cons_cons, List.zip_nil_right, List.any_cons, List.any_nil, List.length_singleton,
    List.drop_succ_cons, List.drop_nil, List.flatMap_nil, Bool.or_false]
  refine Bool.and_eq_false_iff.2 (.inr (List.any_eq_false.2 fun r hr => ?_))
  obtain ⟨n, rfl⟩ := regsOf_vec hu hr
  simpa using fun p hin => low p hin (.vec n)

end Sys2Proof.Machine

namespace Sys2Proof.Machine

/-! ## When an instruction issues, and what issue does (R28-R30, R179) -/

/-! ### Results that become visible change registers and the results owed, and nothing else -/

/-- A cohort without its registers and the results owed to them. -/
def Cohort.besideRegs (c : Cohort) : Cohort := { c with vregs := [], sregs := [], preds := [], pend := [] }

theorem Cohort.besideRegs_put (c : Cohort) (r : Reg) (l : Nat) (v : Word) : (c.put r l v).besideRegs = c.besideRegs := by
  unfold Cohort.put
  split
  · rfl
  · rfl
  · split <;> rfl

theorem Cohort.besideRegs_commit (c : Cohort) (p : Pend) (ls : Mask) : (c.commit p ls).besideRegs = c.besideRegs := by
  unfold Cohort.commit
  split
  · rfl
  · exact foldl_keeps Cohort.besideRegs (fun c l => c.besideRegs_put p.reg l (tget 0 p.vals l)) _ c

theorem Cohort.besideRegs_commitWhere (c : Cohort) (ls : Mask) (vis : Pend → Bool) : (c.commitWhere ls vis).besideRegs = c.besideRegs :=
  foldl_keeps Cohort.besideRegs (fun c p => c.besideRegs_commit p ls) _ c

theorem Cohort.eq_of_besideRegs {c d : Cohort} (h : d.besideRegs = c.besideRegs) :
    d = { c with vregs := d.vregs, sregs := d.sregs, preds := d.preds, pend := d.pend } := by
  cases c
  cases d
  simp only [Cohort.besideRegs, Cohort.mk.injEq] at h ⊢
  simpa using h

/-! ### The lanes that execute -/

theorem guardMask_getLsbD (c : Cohort) (lanes : Mask) (guard : BitVec 4) (l : Nat) :
    (guardMask c lanes guard).getLsbD l = (lanes.getLsbD l && (c.pred (fld guard 2 0) l != guard.getLsbD 3)) := by
  have inside (hl : lanes.getLsbD l = true) : l < 64 := BitVec.lt_of_getLsbD hl
  unfold guardMask Cohort.pred
  dsimp only
  by_cases h7 : fld guard 2 0 = 7
  · cases hn : guard.getLsbD 3 <;> simp [h7]
  · have h7' : (fld guard 2 0 == 7) = false := beq_false_of_ne h7
    cases hl : lanes.getLsbD l with
    | false => cases hn : guard.getLsbD 3 <;> simp [h7', hl]
    | true => cases hn : guard.getLsbD 3 <;> simp [h7', hl, inside hl, -BitVec.getLsbD_eq_getElem]

/-! ### May the split issue? -/

theorem waitsClear_iff (c : Cohort) (wait : BitVec 12) :
    waitsClear c wait = true ↔ ∀ f, f < 12 → wait.getLsbD f = true → c.flagCount f = 0 := by
  unfold waitsClear
  simp only [List.all_eq_true, List.mem_range, Bool.or_eq_true, Bool.not_eq_true', beq_iff_eq]
  refine forall_congr' fun f => forall_congr' fun _ => ?_
  cases wait.getLsbD f <;> simp

/-- R28-R30, R179 and R388, as `canIssue` decides them. -/
def MayIssue (s : State) (g : Grid) (b : Block) (c : Cohort) (sp : Split) (h : Hdr) : Prop :=
  g.st = .running ∧ sp.spawn = none ∧ sp.parked = none ∧ sp.entering = false ∧
    (h.set.toNat ≤ 11 → c.flagCount h.set.toNat < 63) ∧
    (if sp.walked = true then b.st = .resident ∨ b.st = .checkpointing ∨ b.st = .saving
     else (b.st = .resident ∨ b.st = .checkpointing ∧ sp.forced = true) ∧ sp.hold = none ∧
       (∀ f, f < 12 → h.wait.getLsbD f = true → c.flagCount f = 0) ∧ sp.last + max h.gap.toNat 1 ≤ s.cycle)

theorem canIssue_iff (s : State) (g : Grid) (b : Block) (c : Cohort) (sp : Split) (h : Hdr) :
    canIssue s g b c sp h = true ↔ MayIssue s g b c sp h := by
  unfold canIssue MayIssue gapOf setFlag
  by_cases hs : h.set.toNat ≤ 11
  · cases sp.walked <;> simp [hs, waitsClear_iff, and_assoc, or_assoc]
  · cases sp.walked <;> simp [hs, waitsClear_iff, and_assoc, or_assoc]

section
variable {i : Instr} {h : Hdr} {s : State} {r : SRef} {rest : List SRef} {g : Grid} {b : Block} {c : Cohort} {sp : Split}
  (hh : hdr? i = some h) (hsel : s.selected = r :: rest) (hg : s.grid? r.c.b.grid = some g) (hb : s.block? r.c.b = some b)
  (hc : s.cohort? r.c = some c) (hsp : s.split? r = some sp)

/-- The split as issue leaves it: its distance is greater by the gap, and PC is past the instruction's words. -/
def Split.issued (sp : Split) (i : Instr) (h : Hdr) (cycle : Nat) : Split :=
  { sp with pc := sp.pc + BitVec.ofNat 64 (8 * (1 + inlineWords i)), dist := sp.dist + max h.gap.toNat 1, last := cycle, passed := 0,
            starved := false, yieldUntil := none, yieldFor := [], hold := none }

/-- The cohort in which an instruction issues: what is visible to it has been written. -/
def Cohort.issuing (c : Cohort) (i : Instr) (sp : Split) (h : Hdr) (cycle : Nat) : Cohort :=
  ((c.noteWaited sp.lanes h.wait).commitWhere sp.lanes (visibleAt (sp.dist + max h.gap.toNat 1) h.wait)).modSplit sp.id fun _ => sp.issued i h cycle

/-- What issue gives an instruction to work with. -/
def issueCtx (s : State) (r : SRef) (i : Instr) (h : Hdr) (g : Grid) (b : Block) (c : Cohort) (sp : Split) : Ctx :=
  ⟨r, i, h, g, b, c.issuing i sp h s.cycle, { sp.issued i h s.cycle with pc := sp.pc }, guardMask (c.issuing i sp h s.cycle) sp.lanes h.guard, s.fresh⟩

include hh hsel hg hb hc hsp

theorem beginIssue_chosen : s.beginIssue i =
    if canIssue s g b c sp h then
      .go (issueCtx s r i h g b c sp)
        (({ s with selected := rest, fresh := s.fresh + 1 } : State).modCohort r.c fun _ => (issueCtx s r i h g b c sp).c)
    else .stop { s with selected := rest } := by
  have hg' : ({ s with selected := rest } : State).grid? r.c.b.grid = some g := hg
  have hb' : ({ s with selected := rest } : State).block? r.c.b = some b := hb
  have hc' : ({ s with selected := rest } : State).cohort? r.c = some c := hc
  have hsp' : ({ s with selected := rest } : State).split? r = some sp := hsp
  unfold State.beginIssue
  rw [hsel]
  dsimp only
  rw [hg', hb', hc', hsp', hh]
  rfl

theorem beginIssue_stop (hm : ¬ MayIssue s g b c sp h) : s.beginIssue i = .stop { s with selected := rest } := by
  rw [beginIssue_chosen hh hsel hg hb hc hsp, if_neg fun hcan => hm ((canIssue_iff ..).1 hcan)]

theorem beginIssue_may_go (hm : MayIssue s g b c sp h) : s.beginIssue i = .go (issueCtx s r i h g b c sp)
    (({ s with selected := rest, fresh := s.fresh + 1 } : State).modCohort r.c fun _ => (issueCtx s r i h g b c sp).c) := by
  rw [beginIssue_chosen hh hsel hg hb hc hsp, if_pos ((canIssue_iff ..).2 hm)]

end

/-- Issue changes the registers of the cohort, the results owed to them and the split, and nothing else of it. -/
theorem Cohort.issuing_eq (c : Cohort) (i : Instr) (sp : Split) (h : Hdr) (cycle : Nat) :
    let d := c.issuing i sp h cycle
    d = { c with
      vregs := d.vregs, sregs := d.sregs, preds := d.preds, pend := d.pend
      splits := c.splits.map fun q => if q.id = sp.id then sp.issued i h cycle else q } := by
  intro d
  let e := (c.noteWaited sp.lanes h.wait).commitWhere sp.lanes (visibleAt (sp.dist + max h.gap.toNat 1) h.wait)
  have he : e = { c with vregs := e.vregs, sregs := e.sregs, preds := e.preds, pend := e.pend } :=
    Cohort.eq_of_besideRegs (Cohort.besideRegs_commitWhere _ _ _)
  have hd : d = { e with splits := e.splits.map fun q => if q.id == sp.id then sp.issued i h cycle else q } := rfl
  have hs : e.splits = c.splits := by rw [he]
  rw [hd, hs]
  simp only [beq_iff_eq]
  rw [he]

end Sys2Proof.Machine

namespace Sys2Proof.Machine

/-! ## The obligation on issue -/

/-- What issue does to the split, its cohort and the context of its instruction (R28-R30). -/
theorem issue_frame {i : Instr} {h : Hdr} {s : State} {r : SRef} {g : Grid} {b : Block} {c : Cohort} {sp : Split} :
    let x := issueCtx s r i h g b c sp
    x.r = r ∧ x.i = i ∧ x.h = h ∧ x.uid = s.fresh ∧ x.sp.pc = sp.pc ∧ x.sp.lanes = sp.lanes ∧ x.sp.dist = sp.dist + max h.gap.toNat 1 ∧
      (∀ l, x.ex.getLsbD l = (sp.lanes.getLsbD l && (x.pred (fld h.guard 2 0) l != h.guard.getLsbD 3))) ∧
      x.c = { c with
        vregs := x.c.vregs, sregs := x.c.sregs, preds := x.c.preds, pend := x.c.pend
        splits := c.splits.map fun q => if q.id = sp.id then sp.issued i h s.cycle else q } :=
  ⟨rfl, rfl, rfl, rfl, rfl, rfl, rfl, fun l => guardMask_getLsbD _ _ _ l, Cohort.issuing_eq c i sp h s.cycle⟩

/-- What the checks of issue make of an instruction that its guard's lanes execute (R16, R37, R50). -/
theorem checks_of_issue {i : Instr} {s u : State} {x : Ctx} (h : s.beginIssue i = .go x u) (hf : x.sp.forced = false)
    (hw : ∀ w ∈ s.walks, w.failed = false) (hn : LaneGuarded i) :
    (x.ex = 0#64 → ∃ t, x.Effect u t .v 0#64 [] (.latency (u.cycle + 1)) ∧ exec i s = .next (t.settle x.r)) ∧
      (x.ex ≠ 0#64 → x.legal = false → exec i s = .next ((x.raiseAll u 0x05).settle x.r)) ∧
      (cls i = .v → x.ex ≠ 0#64 → x.legal = true → x.underGap = true →
        exec i s = .next ((x.raiseAll u (if x.ownRule i then 0x09 else 0x05)).settle x.r)) := by
  obtain ⟨ok, hm⟩ := guarded_meets h hf hw hn
  exact ⟨fun hx => ⟨_, pulse_effect h, hm.empty hx⟩, hm.illegal, fun hc => (classV_meets h hc hf hw hn).gap⟩

/-- An instruction of class A or B that is under-gapped raises 0x09. -/
theorem alu_underGap {i : Instr} {s u : State} {x : Ctx} (h : s.beginIssue i = .go x u) (hc : cls i ≠ .v) (hx : x.ex ≠ 0#64)
    (hl : x.legal = true) (hd : x.decisionsOk i = true) (hg : x.underGap = true) :
    exec i s = .next ((x.raiseAll u 0x09).settle x.r) := by
  have hm := (alu_meets h hc).gap hx hl hg
  rwa [hd, if_pos rfl] at hm

/-- A result owed to a register that the instruction reads, in a lane that supplies it, makes it under-gapped (R37). -/
theorem owed_underGap {i : Instr} {s u : State} {x : Ctx} (h : s.beginIssue i = .go x u) {code : BitVec 8} {n : Nat}
    (hs : (code, 1) ∈ (shape i).srcs) (ho : opnd code = some (.vec n)) (hc : x.g.check = true)
    (hp : ∃ p ∈ x.c.pend, p.reg = .vec n ∧ p.lanes &&& x.ex &&& supplyOf i ≠ 0#64) : x.underGap = true := by
  obtain ⟨-, rfl, -⟩ := beginIssue_go h
  obtain ⟨p, hin, hr, hl⟩ := hp
  exact Ctx.underGap_of_owed hin hs (by rw [hr]; simp [regsOf, ho]) hr hl hc

/-- Settles O5: the cases of `beginIssue` give what issue does, and every instruction reaches its own effect through wrappers that each
meet the checks of issue. -/
theorem issueAndItsChecks : Obligations.IssueAndItsChecks := by
  unfold Obligations.IssueAndItsChecks
  refine ⟨?_, ?_, ?_, ?_, ?_⟩
  · intro i h s r rest g b c sp hh hsel hg hb hc hsp
    exact ⟨beginIssue_stop hh hsel hg hb hc hsp, fun hm => ⟨_, beginIssue_may_go hh hsel hg hb hc hsp hm, issue_frame⟩⟩
  · intro i s u x h hf hw hn
    exact checks_of_issue h hf hw hn
  · intro i o s u x hi h hw hl hg
    exact branch_underGap h hi hw hl hg
  · intro i s u x h
    exact ⟨Ctx.underGap_unchecked, alu_underGap h, fun code n hs ho hc hp => owed_underGap h hs ho hc hp⟩
  · intro o s u x h hp hu
    exact accld_notUnderGap h hp hu

end Sys2Proof.Machine

namespace Sys2Proof.Machine

/-! ## Integer instructions: values (R70-R82) -/

/-! ### Words of a register value -/

theorem word_chain_lt (f : Nat → Word) (n : Nat) :
    (List.range n).foldr (fun i acc => (f i).toNat + 2 ^ 32 * acc) 0 < 2 ^ (32 * n) := by
  induction n generalizing f with
  | zero => simp
  | succ n ih =>
    have hr := ih fun i => f (i + 1)
    rw [List.range_succ_eq_map, List.foldr_cons, List.foldr_map]
    have h0 := (f 0).isLt
    have hp : 2 ^ (32 * (n + 1)) = 2 ^ 32 * 2 ^ (32 * n) := by rw [← pow_add]; congr 1; ring
    generalize List.foldr _ _ _ = v at hr ⊢
    rw [hp]
    nlinarith

/-- A source of `n` registers has `32 * n` bits (R22, R25). -/
theorem Ctx.rdN_lt (x : Ctx) {n : Nat} (hn : 0 < n) (code : BitVec 8) (l : Nat) : x.rdN n code l < 2 ^ (32 * n) := by
  unfold Ctx.rdN Cohort.srcN
  split
  · exact word_chain_lt _ n
  · exact word_chain_lt _ n
  · split
    · exact Nat.sub_lt (by positivity) Nat.one_pos
    · exact lt_of_lt_of_le (BitVec.isLt _) (Nat.pow_le_pow_right (by omega) (by omega))
  · positivity

theorem widthOf_cases (m : BitVec 8) : widthOf m = 64 ∨ widthOf m = 32 := by unfold widthOf; split <;> simp

theorem widthOf_pos (m : BitVec 8) : 0 < widthOf m := by rcases widthOf_cases m with h | h <;> omega

/-- A source of the width of the instruction (R70). -/
theorem Ctx.rdN_lt_width (x : Ctx) (m : BitVec 8) (code : BitVec 8) (l : Nat) : x.rdN (widthOf m / 32) code l < 2 ^ widthOf m := by
  rcases widthOf_cases m with h | h <;> rw [h] <;> exact x.rdN_lt (by decide) code l

/-! ### Numbers of n bits -/

theorem two_pow_split {n : Nat} (hn : 0 < n) : (2 : Int) ^ n = 2 * 2 ^ (n - 1) := by
  rw [← pow_succ']; congr 1; omega

/-- A pattern stands for 0 only when it is 0. -/
theorem asInt_eq_zero {n v : Nat} {signed : Bool} (hv : v < 2 ^ n) : asInt n signed v = 0 ↔ v = 0 := by
  unfold asInt
  have hn : (v : Int) < 2 ^ n := by exact_mod_cast hv
  split
  · next h =>
    have h' : 2 ^ (n - 1) ≤ v := by simpa using (Bool.and_eq_true_iff.1 h).2
    have : 0 < 2 ^ (n - 1) := by positivity
    constructor <;> intro h <;> omega
  · omega

/-- The pattern of a number that n bits hold reads as that number. -/
theorem asInt_wrap {n : Nat} (hn : 0 < n) {signed : Bool} {e : Int} (hl : (if signed then -(2 : Int) ^ (n - 1) else 0) ≤ e)
    (hh : e ≤ if signed then (2 : Int) ^ (n - 1) - 1 else (2 : Int) ^ n - 1) : asInt n signed (e % (2 : Int) ^ n).toNat = e := by
  have h2 := two_pow_split hn
  have hp : (0 : Int) < 2 ^ (n - 1) := by positivity
  have hle (v : Nat) : 2 ^ (n - 1) ≤ v ↔ (2 : Int) ^ (n - 1) ≤ v := by exact_mod_cast Iff.rfl
  have hnn : 0 ≤ e % (2 : Int) ^ n := Int.emod_nonneg _ (by omega)
  simp only [asInt, Bool.and_eq_true, decide_eq_true_eq, hle, Int.toNat_of_nonneg hnn]
  by_cases h0 : 0 ≤ e
  · cases signed with
    | false =>
      simp only [Bool.false_eq_true, if_false] at hh
      rw [Int.emod_eq_of_lt h0 (by omega)]
      simp
    | true =>
      simp only [if_true] at hh
      rw [Int.emod_eq_of_lt h0 (by omega), if_neg (by omega)]
  · cases signed with
    | false =>
      simp only [Bool.false_eq_true, if_false] at hl
      omega
    | true =>
      simp only [if_true] at hl
      have he : e % (2 : Int) ^ n = e + 2 ^ n := by rw [← Int.add_emod_right, Int.emod_eq_of_lt (by omega) (by omega)]
      rw [he, if_pos ⟨rfl, by omega⟩]
      omega

/-- R72: a value that is wrapped or saturated is the pattern of the exact one. -/
theorem narrowed_wrapSat {n : Nat} (hn : 0 < n) (sat signed : Bool) (e : Int) : Narrowed n sat signed e (wrapSat n sat signed e) := by
  have h2 := two_pow_split hn
  have hp : (0 : Int) < 2 ^ (n - 1) := by positivity
  have hlt (e : Int) : (e % (2 : Int) ^ n).toNat < 2 ^ n := by
    have := Int.emod_lt_of_pos e (b := (2 : Int) ^ n) (by omega)
    have h := Int.toNat_of_nonneg (Int.emod_nonneg e (b := (2 : Int) ^ n) (by omega))
    zify; omega
  refine ⟨hlt _, ?_⟩
  cases sat with
  | true =>
    cases signed with
    | false => exact asInt_wrap hn (by simp; omega) (by simp)
    | true => exact asInt_wrap hn (by simp) (by simp)
  | false =>
    simp only [Bool.false_eq_true, if_false, wrapSat]
    rw [Int.toNat_of_nonneg (Int.emod_nonneg _ (by omega)), Int.emod_emod]

/-! ### Division (R73) -/

theorem tdiv_eq_sign (p q : Int) : p.tdiv q = p.sign * q.sign * (p.natAbs / q.natAbs : Nat) := by
  obtain ⟨m, rfl | rfl⟩ := p.eq_nat_or_neg <;> obtain ⟨n, rfl | rfl⟩ := q.eq_nat_or_neg <;>
    rcases m.eq_zero_or_pos with rfl | hm <;> rcases n.eq_zero_or_pos with rfl | hn <;>
    simp [Int.sign_eq_one_of_pos, *]

theorem tmod_eq_sign (p q : Int) : p.tmod q = p - q * (p.sign * q.sign * (p.natAbs / q.natAbs : Nat)) := by
  rw [← tdiv_eq_sign, Int.tmod_def]

end Sys2Proof.Machine

namespace Sys2Proof.Machine

/-! ## Arithmetic, moves and division (R70-R73) -/

section
variable {i : Instr} {o : OpA} {s u : State} {x : Ctx} {k : Cls}

theorem arith2_gives {f : Nat → Int → Int → Int} (he : exec i s = arith2 i o k f s) (hk : k ≠ .v) (h : Issues i s x u) :
    let n := widthOf o.m
    let sg := o.m.getLsbD 2
    ∃ v, Gives i s x u k (outs o.d (n / 32) v) ∧
      ∀ l, Narrowed n (o.m.getLsbD 1) sg (f n (asInt n sg (x.rdN (n / 32) o.a l)) (asInt n sg (x.rdN (n / 32) o.b l))) (v l) :=
  ⟨_, gives_compute h he hk, fun _ => narrowed_wrapSat (widthOf_pos _) _ _ _⟩

theorem arith1_gives {f : Int → Int} (he : exec i s = arith1 i o f s) (h : Issues i s x u) :
    let n := widthOf o.m
    ∃ v, Gives i s x u .a (outs o.d (n / 32) v) ∧
      ∀ l, Narrowed n (o.m.getLsbD 1) true (f (asInt n true (x.rdN (n / 32) o.a l))) (v l) :=
  ⟨_, gives_compute h he (by decide), fun _ => narrowed_wrapSat (widthOf_pos _) _ _ _⟩

theorem logic1_gives {dn : Nat} {f : Nat → Nat → Nat} (he : exec i s = logic1 i o dn f s) (h : Issues i s x u) :
    let n := widthOf o.m
    Gives i s x u .a (outs o.d (if dn == 0 then n / 32 else dn) fun l => f n (x.rdN (n / 32) o.a l)) :=
  gives_compute h he (by decide)

theorem logic3_gives {f : Nat → Nat → Nat → Nat} (he : exec i s = logic3 i o k f s) (hk : k ≠ .v) (h : Issues i s x u) :
    Gives i s x u k (out32 o.d fun l => BitVec.ofNat 32 (f (x.rd o.a l).toNat (x.rd o.b l).toNat (x.rd o.m l).toNat)) :=
  gives_compute h he hk

theorem immediate_gives {ob : OpB} {f : Word → BitVec 16 → Word} (he : exec i s = immediate i ob k f s) (hk : k ≠ .v) (h : Issues i s x u) :
    Gives i s x u k (out32 ob.d fun l => f (x.rd ob.a l) ob.imm) :=
  gives_compute h he hk

/-- A lane completes unless its divisor is zero; those whose divisor is zero trap together (R73, R102). -/
theorem divide_outcome {f : Int → Int → Int} (he : exec i s = divide i o f s) (h : Issues i s x u) :
    let n := widthOf o.m
    let sg := o.m.getLsbD 2
    let a (l : Nat) : Int := asInt n sg (x.rdN (n / 32) o.a l)
    let b (l : Nat) : Int := asInt n sg (x.rdN (n / 32) o.b l)
    let bad : List LaneFault := (x.lanes.filter fun l => b l = 0).map fun l => ⟨l, 0x0B, 0, 0⟩
    let good : Mask := x.ex &&& ~~~(maskOf (bad.map (·.lane)))
    ∃ v, (∀ l, Narrowed n false sg (f (a l) (b l)) (v l)) ∧
      (bad = [] → Gives i s x u .v (outs o.d (n / 32) v)) ∧
      (bad ≠ [] → good = 0#64 → exec i s = .next ((x.raise u bad).settle x.r)) ∧
      (bad ≠ [] → good ≠ 0#64 → ∃ t, { x with ex := good }.Effect u t .v good (outs o.d (n / 32) v) .complete ∧
        exec i s = .next ((x.raise t bad).settle x.r)) := by
  intro n sg a b bad good
  let v (l : Nat) : Nat := wrapSat n false sg (f (a l) (b l))
  have zero : ((x.lanes.filter fun l => x.rdN (n / 32) o.b l == 0).map fun l => (⟨l, 0x0B, 0, 0⟩ : LaneFault)) = bad := by
    congr 1
    refine List.filter_congr fun l _ => ?_
    rw [Bool.eq_iff_iff, beq_iff_eq, decide_eq_true_eq]
    exact (asInt_eq_zero (x.rdN_lt_width o.m o.b l)).symm
  have next : exec i s = .next ((x.completeSome u bad (outs o.d (n / 32) v)).settle x.r) := by
    rw [he, ← zero]
    exact issue_next h _
  refine ⟨v, fun l => narrowed_wrapSat (widthOf_pos _) _ _ _, fun hbad => ?_, fun _ hg => ?_, fun _ hg => ?_⟩
  · have all : x.completeSome u bad (outs o.d (n / 32) v) = x.complete u (outs o.d (n / 32) v) := by
      have he : x.ex &&& ~~~maskOf [] = x.ex := BitVec.and_allOnes
      unfold Ctx.completeSome Ctx.minus
      rw [hbad]
      simp only [List.map_nil, he, beq_eq_false_iff_ne.2 h.lanes]
      rfl
    exact ⟨_, by rw [next, all], complete_effect h _⟩
  · rw [next]
    unfold Ctx.completeSome Ctx.minus
    simp only [show x.ex &&& ~~~maskOf (bad.map (·.lane)) = 0#64 from hg, beq_self_eq_true, if_true]
  · refine ⟨_, effect_owe_note h.begins .v good _ (.inl hg) .complete, ?_⟩
    rw [next]
    unfold Ctx.completeSome Ctx.minus
    simp only [beq_eq_false_iff_ne.2 (show x.ex &&& ~~~maskOf (bad.map (·.lane)) ≠ 0#64 from hg)]
    rfl

end

theorem toNat_movh (a : Word) (i : BitVec 16) : (i ++ a.extractLsb' 0 16).toNat = 65536 * i.toNat + a.toNat % 65536 := by
  rw [BitVec.toNat_append, BitVec.extractLsb'_toNat]
  have : a.toNat % 65536 < 2 ^ 16 := Nat.mod_lt _ (by decide)
  rw [Nat.shiftRight_zero, Nat.shiftLeft_eq, mul_comm, show (2 : Nat) ^ 16 = 65536 from rfl, ← Nat.two_pow_add_eq_or_of_lt (i := 16) this]

/-- Settles O1: each form's exact value, through the shape of instruction that it is. -/
theorem integerArithmeticMovesAndDivision : Obligations.IntegerArithmeticMovesAndDivision := by
  unfold Obligations.IntegerArithmeticMovesAndDivision
  refine ⟨⟨fun o s x u => ?_, fun oa ob oc s x u => ?_⟩, fun o s x u => ?_⟩
  · intro n sg sat a b sa yields
    refine ⟨arith2_gives (f := fun _ a b => a + b) rfl (by decide), arith2_gives (f := fun _ a b => a - b) rfl (by decide),
      arith2_gives (f := fun _ a b => a * b) rfl (by decide), arith2_gives (f := fun n a b => a * b / (2 : Int) ^ n) rfl (by decide),
      arith2_gives (f := fun _ a b => min a b) rfl (by decide), arith2_gives (f := fun _ a b => max a b) rfl (by decide),
      fun h => ?_, arith1_gives (f := fun a => -a) rfl⟩
    simp only [Int.abs_eq_natAbs]
    exact arith1_gives (f := fun a => (a.natAbs : Int)) rfl h
  · intro n a b c d
    refine ⟨logic1_gives (dn := 0) (f := fun _ a => a) rfl,
      fun h => gives_compute (os := fun _ _ => out32 oc.d fun _ => oc.imm.signExtend 32) h rfl (by decide),
      fun h => ⟨_, immediate_gives (f := fun a i => i ++ a.extractLsb' 0 16) rfl (by decide) h, fun l => toNat_movh _ _⟩,
      immediate_gives (f := fun a i => a + i.signExtend 32) rfl (by decide),
      immediate_gives (f := fun a i => a * i.signExtend 32) rfl (by decide), fun h => ?_, fun h => ?_, fun h => ?_⟩
    · have gives := logic3_gives (f := fun a b c => a + b + c) rfl (by decide) h
      simpa only [BitVec.ofNat_add, BitVec.ofNat_toNat, BitVec.setWidth_eq] using gives
    · have gives := logic3_gives (f := fun a b c => a * b + c) rfl (by decide) h
      simpa only [BitVec.ofNat_add, BitVec.ofNat_mul, BitVec.ofNat_toNat, BitVec.setWidth_eq] using gives
    · exact ⟨_, gives_compute (os := fun x _ => outs oa.d 2 fun l => ((x.rd oa.a l).toNat * (x.rd oa.b l).toNat + x.rdN 2 oa.m l) % 2 ^ 64)
        h rfl (by decide), fun l => ⟨Nat.mod_lt _ (by positivity), Nat.mod_modEq _ _⟩⟩
  · intro n sg a b bad good divides
    refine ⟨fun h => ?_, fun h => ?_⟩
    · obtain ⟨v, value, outcome⟩ := divide_outcome (f := Int.tdiv) rfl h
      exact ⟨v, fun l _ => by simpa only [tdiv_eq_sign] using value l, outcome⟩
    · obtain ⟨v, value, outcome⟩ := divide_outcome (f := Int.tmod) rfl h
      exact ⟨v, fun l _ => by simpa only [tmod_eq_sign] using value l, outcome⟩

end Sys2Proof.Machine

namespace Sys2Proof.Machine

/-! ## Logic, bit counts, shifts and bit fields (R74-R77) -/

/-! ### Bits of a value -/

theorem testBit_complement {n v k : Nat} (hv : v < 2 ^ n) (hk : k < n) : (2 ^ n - 1 - v).testBit k = !v.testBit k := by
  rw [Nat.sub_sub, Nat.add_comm 1 v, Nat.testBit_two_pow_sub_succ hv]
  simp [hk]

/-- The bits of a value in the other order: what the first `m` steps add lies above bit `n - m`. -/
theorem bitReverse_testBit {n v k : Nat} (hk : k < n) : (bitReverse n v).testBit k = v.testBit (n - 1 - k) := by
  have key : ∀ m, m ≤ n → ∃ q, (List.range m).foldl (fun acc i => if v.testBit i then acc + 2 ^ (n - 1 - i) else acc) 0 = 2 ^ (n - m) * q ∧
      ∀ j, j < n → (2 ^ (n - m) * q).testBit j = (decide (n - m ≤ j) && v.testBit (n - 1 - j)) := by
    intro m
    induction m with
    | zero =>
      refine fun _ => ⟨0, rfl, fun j hj => ?_⟩
      simp [Nat.not_le.2 hj]
    | succ m ih =>
      intro hm
      obtain ⟨q, hq, hbits⟩ := ih (by omega)
      have low : n - m = n - (m + 1) + 1 := by omega
      rw [List.range_succ, List.foldl_append, List.foldl_cons, List.foldl_nil, hq]
      have at' : ∀ j, j < n → (decide (n - (m + 1) ≤ j) && v.testBit (n - 1 - j)) =
          (decide (n - m ≤ j) && v.testBit (n - 1 - j) || decide (n - (m + 1) = j) && v.testBit m) := by
        intro j hj
        rcases Nat.lt_trichotomy j (n - (m + 1)) with h | h | h
        · simp [show ¬ n - (m + 1) ≤ j by omega, show ¬ n - m ≤ j by omega, show n - (m + 1) ≠ j by omega]
        · simp [h, show ¬ n - m ≤ n - (m + 1) by omega, show n - 1 - (n - (m + 1)) = m by omega]
        · simp [show n - (m + 1) ≤ j by omega, show n - m ≤ j by omega, show n - (m + 1) ≠ j by omega]
      cases hb : v.testBit m with
      | false =>
        refine ⟨2 * q, ?_, fun j hj => ?_⟩
        · rw [low, pow_succ]
          simp only [Bool.false_eq_true, if_false]
          ring
        · rw [at' j hj, hb, ← mul_assoc, ← pow_succ, ← low, hbits j hj]
          simp
      | true =>
        refine ⟨2 * q + 1, ?_, fun j hj => ?_⟩
        · rw [low, pow_succ, if_pos rfl, show n - 1 - m = n - (m + 1) by omega]
          ring
        · rw [mul_add, ← mul_assoc, ← pow_succ, ← low, mul_one,
            Nat.two_pow_add_eq_or_of_lt (Nat.pow_lt_pow_right (by decide) (by omega)), Nat.testBit_or, hbits j hj, Nat.testBit_two_pow, at' j hj, hb]
          simp
  obtain ⟨q, hq, hbits⟩ := key n le_rfl
  rw [bitReverse, hq, hbits k hk]
  simp

theorem popcount_eq_card (n v : Nat) : popcount n v = ((Finset.range n).filter fun k => v.testBit k = true).card := by
  simp only [popcount, Finset.card_def, Finset.filter_val, Finset.range_val, Multiset.range, Multiset.filter_coe, Multiset.coe_card,
    Bool.decide_eq_true]

/-- The leading zeros of a value: the bits above its highest one (R74). -/
theorem leadingZeros_spec {n v : Nat} (hv : v < 2 ^ n) : leadingZeros n v ≤ n ∧
    (∀ k, n - leadingZeros n v ≤ k → k < n → v.testBit k = false) ∧
    (leadingZeros n v < n → v.testBit (n - 1 - leadingZeros n v) = true) := by
  unfold leadingZeros
  by_cases h0 : v = 0
  · subst h0
    simp
  · have hlog : v.log2 < n := (Nat.log2_lt h0).2 hv
    simp only [beq_iff_eq, if_neg h0]
    refine ⟨by omega, fun k hk _ => ?_, fun _ => ?_⟩
    · exact Nat.testBit_lt_two_pow (Nat.lt_of_lt_of_le Nat.lt_log2_self (Nat.pow_le_pow_right (by decide) (by omega)))
    · rw [show n - 1 - (n - 1 - v.log2) = v.log2 by omega]
      exact Nat.testBit_log2 h0

/-! ### Signed values as bit vectors -/

theorem asInt_true_eq_toInt {n v : Nat} (hv : v < 2 ^ n) (hn : 0 < n) : asInt n true v = (BitVec.ofNat n v).toInt := by
  have hp := Nat.two_pow_pred_add_two_pow_pred hn
  rw [BitVec.toInt_eq_toNat_cond, BitVec.toNat_ofNat, Nat.mod_eq_of_lt hv]
  unfold asInt
  by_cases h : 2 ^ (n - 1) ≤ v
  · rw [if_pos (by simp [h]), if_neg (by omega)]
    norm_num
  · rw [if_neg (by simp [h]), if_pos (by omega)]

theorem wrapSat_eq_ofInt (n : Nat) (signed : Bool) (e : Int) : wrapSat n false signed e = (BitVec.ofInt n e).toNat := by
  rw [BitVec.toNat_ofInt]
  simp [wrapSat]

/-! ### Shifts (R75) -/

theorem shiftLeft_testBit {n v k j : Nat} (hj : j < n) : (shiftVal n .left v k).testBit j = (decide (k ≤ j) && v.testBit (j - k)) := by
  unfold shiftVal
  by_cases h : n ≤ k
  · simp [h, show ¬ k ≤ j by omega]
  · simp [h, Nat.testBit_mod_two_pow, Nat.testBit_mul_two_pow, hj]

theorem shiftRight_testBit {n v k j : Nat} (hv : v < 2 ^ n) : (shiftVal n .right v k).testBit j = (decide (j + k < n) && v.testBit (j + k)) := by
  unfold shiftVal
  by_cases h : n ≤ k
  · simp [h, show ¬ j + k < n by omega]
  · by_cases hjk : j + k < n
    · simp [h, hjk, Nat.testBit_div_two_pow]
    · have : v.testBit (j + k) = false := Nat.testBit_lt_two_pow (hv.trans_le (Nat.pow_le_pow_right (by decide) (by omega)))
      simp [h, hjk, Nat.testBit_div_two_pow, this]

theorem shiftArith_testBit {n v k j : Nat} (hn : 0 < n) (hv : v < 2 ^ n) (hj : j < n) :
    (shiftVal n .arith v k).testBit j = v.testBit (min (j + k) (n - 1)) := by
  have value : shiftVal n .arith v k = ((BitVec.ofNat n v).sshiftRight (min k n)).toNat := by
    unfold shiftVal
    rw [wrapSat_eq_ofInt, asInt_true_eq_toInt hv hn]
    have shifted : (BitVec.ofNat n v).toInt / (2 : Int) ^ min k n = ((BitVec.ofNat n v).sshiftRight (min k n)).toInt := by
      rw [BitVec.toInt_sshiftRight, Int.shiftRight_eq_div_pow]
      norm_num
    dsimp only
    rw [shifted, BitVec.ofInt_toInt]
  rw [value, BitVec.testBit_toNat, BitVec.getLsbD_sshiftRight]
  by_cases h : j + k < n
  · have hk : min k n = k := by omega
    rw [hk, if_pos (by omega), BitVec.getLsbD_ofNat, show min (j + k) (n - 1) = k + j by omega]
    simp [hj, show k + j < n by omega]
  · rw [if_neg (by omega), BitVec.msb_eq_getLsbD_last, BitVec.getLsbD_ofNat, show min (j + k) (n - 1) = n - 1 by omega]
    simp [hj, show n - 1 < n by omega]

theorem rotate_testBit {n v k j : Nat} (hv : v < 2 ^ n) (hj : j < n) :
    (shiftVal n .rot v k).testBit j = v.testBit ((j + (n - k % n)) % n) := by
  unfold shiftVal
  dsimp only
  have hm : k % n < n := Nat.mod_lt _ (by omega)
  generalize k % n = m at hm
  have split : v * 2 ^ m % 2 ^ n = 2 ^ m * (v % 2 ^ (n - m)) := by
    rw [mul_comm, show (2 : Nat) ^ n = 2 ^ m * 2 ^ (n - m) by rw [← pow_add]; congr 1; omega, Nat.mul_mod_mul_left]
  have small : v / 2 ^ (n - m) < 2 ^ m := by
    rw [Nat.div_lt_iff_lt_mul (by positivity), ← pow_add]
    exact hv.trans_eq (by congr 1; omega)
  rw [split, Nat.testBit_two_pow_mul_add _ small]
  by_cases h : j < m
  · rw [if_pos h, Nat.testBit_div_two_pow, Nat.mod_eq_of_lt (by omega)]
  · have wraps : (j + (n - m)) % n = j - m := by
      rw [show j + (n - m) = (j - m) + n by omega, Nat.add_mod_right, Nat.mod_eq_of_lt (by omega)]
    rw [if_neg h, Nat.testBit_mod_two_pow, wraps]
    simp [show j - m < n - m by omega]

/-- R76: bit `j` of two words shifted to the left together by `m`. -/
theorem funnel_testBit {a b m j : Nat} (hb : b < 2 ^ 32) (hm : m < 32) (hj : j < 32) :
    ((a * 2 ^ 32 + b) * 2 ^ m % 2 ^ 64 / 2 ^ 32).testBit j = if m ≤ j then a.testBit (j - m) else b.testBit (32 + j - m) := by
  rw [Nat.testBit_div_two_pow, Nat.testBit_mod_two_pow, Nat.testBit_mul_two_pow, mul_comm, Nat.testBit_two_pow_mul_add _ hb]
  by_cases h : m ≤ j
  · rw [if_pos h, if_neg (by omega)]
    simp [show j + 32 < 64 by omega, show m ≤ j + 32 by omega, show j + 32 - m - 32 = j - m by omega]
  · rw [if_neg h, if_pos (by omega), Nat.add_comm 32 j]
    simp [show j + 32 < 64 by omega, show m ≤ j + 32 by omega]

/-! ### Bit fields (R77) -/

theorem bfxVal_testBit {signed : Bool} {v f k : Nat} (hk : k < 32) : (bfxVal signed v f).testBit k =
    let p := f % 256
    let m := min (f / 256 % 256) 32
    if f / 256 % 256 = 0 then false else if k < m then v.testBit (p + k) else signed && v.testBit (p + m - 1) := by
  unfold bfxVal
  dsimp only
  by_cases h0 : f / 256 % 256 = 0
  · simp [h0]
  · have hm : 0 < min (f / 256 % 256) 32 := by omega
    have hm' : min (f / 256 % 256) 32 ≤ 32 := min_le_right _ _
    rw [if_neg h0]
    generalize min (f / 256 % 256) 32 = m at hm hm'
    generalize f % 256 = p
    have hx : v / 2 ^ p % 2 ^ m < 2 ^ m := Nat.mod_lt _ (by positivity)
    have bit (j : Nat) (hj : j < m) : (v / 2 ^ p % 2 ^ m).testBit j = v.testBit (p + j) := by
      rw [Nat.testBit_mod_two_pow, Nat.testBit_div_two_pow, Nat.add_comm]
      simp [hj]
    rw [if_neg (by simpa using hm.ne'), wrapSat_eq_ofInt]
    cases signed with
    | true =>
      have extended : BitVec.ofInt 32 (asInt m true (v / 2 ^ p % 2 ^ m)) = (BitVec.ofNat m (v / 2 ^ p % 2 ^ m)).signExtend 32 := by
        rw [asInt_true_eq_toInt hx hm]
        rfl
      rw [extended, BitVec.testBit_toNat, BitVec.getLsbD_signExtend, BitVec.msb_eq_getLsbD_last, BitVec.getLsbD_ofNat, BitVec.getLsbD_ofNat,
        bit (m - 1) (by omega), show p + (m - 1) = p + m - 1 by omega]
      by_cases h : k < m
      · simp [hk, h, bit k h]
      · simp [hk, h, hm]
    | false =>
      have plain : (BitVec.ofInt 32 (asInt m false (v / 2 ^ p % 2 ^ m))).toNat = v / 2 ^ p % 2 ^ m := by
        have lt : v / 2 ^ p % 2 ^ m < 2 ^ 32 := hx.trans_le (Nat.pow_le_pow_right (by decide) hm')
        simp only [asInt, Bool.false_and, Bool.false_eq_true, if_false, BitVec.ofInt_natCast, BitVec.toNat_ofNat, Nat.mod_eq_of_lt lt]
      rw [plain]
      by_cases h : k < m
      · rw [if_pos h, bit k h]
      · rw [if_neg h, Bool.false_and]
        exact Nat.testBit_lt_two_pow (hx.trans_le (Nat.pow_le_pow_right (by decide) (by omega)))

theorem bfiVal_testBit {v f base k : Nat} (hk : k < 32) : (bfiVal v f base).testBit k =
    let p := f % 256
    if p ≤ k ∧ k < p + f / 256 % 256 then v.testBit (k - p) else base.testBit k := by
  unfold bfiVal
  dsimp only
  generalize f % 256 = p
  generalize f / 256 % 256 = m
  have mask : ((2 ^ m - 1) * 2 ^ p % 2 ^ 32).testBit k = decide (p ≤ k ∧ k < p + m) := by
    rw [Nat.testBit_mod_two_pow, Nat.testBit_mul_two_pow, Nat.testBit_two_pow_sub_one, Bool.eq_iff_iff]
    simp only [Bool.and_eq_true, decide_eq_true_eq]
    omega
  have lt : (2 ^ m - 1) * 2 ^ p % 2 ^ 32 < 2 ^ 32 := Nat.mod_lt _ (by positivity)
  rw [Nat.testBit_or, Nat.testBit_and, Nat.testBit_and, testBit_complement lt hk, mask, Nat.testBit_mod_two_pow, Nat.testBit_mul_two_pow]
  by_cases h : p ≤ k ∧ k < p + m
  · simp [h, hk]
  · simp [h]

end Sys2Proof.Machine

namespace Sys2Proof.Machine

/-! ## The instructions on bits (R74-R77) -/

section
variable {i : Instr} {o : OpA} {s u : State} {x : Ctx}

theorem logic2_gives {f : Nat → Nat → Nat → Nat} (he : exec i s = logic2 i o f s) (h : Issues i s x u) :
    let n := widthOf o.m
    Gives i s x u .a (outs o.d (n / 32) fun l => f n (x.rdN (n / 32) o.a l) (x.rdN (n / 32) o.b l)) :=
  gives_compute h he (by decide)

theorem shiftBy_gives {kind : ShiftKind} (he : exec i s = shiftBy i o kind s) (h : Issues i s x u) :
    let n := widthOf o.m
    Gives i s x u .a (outs o.d (n / 32) fun l => shiftVal n kind (x.rdN (n / 32) o.a l)
      (if o.m.getLsbD 1 then fld o.m 7 2 else (x.rd o.b l).toNat % 256)) :=
  gives_compute h he (by decide)

/-- The shift amount of an immediate form: the modifier byte above its two low bits. -/
theorem fld_high (m : BitVec 8) : fld m 7 2 = m.toNat / 4 := by
  unfold fld
  rw [Nat.shiftRight_eq_div_pow, Nat.mod_eq_of_lt]
  have := m.isLt
  omega

/-- One register of result, as a word or as a number. -/
theorem out32_eq_outs (code : BitVec 8) (f : Nat → Word) : out32 code f = outs code 1 fun l => (f l).toNat := by
  have one (r : Reg) : [(r, f)] = [r].mapIdx fun k r => (r, fun l => BitVec.ofNat 32 ((f l).toNat / 2 ^ (32 * k))) := by simp
  unfold out32 outs regsOf
  split
  · exact one _
  · exact one _
  · rfl

end

/-- Settles O2: each form's result bit by bit, from what its function does to the bits of its operands. -/
theorem logicShiftsAndBitFields : Obligations.LogicShiftsAndBitFields := by
  unfold Obligations.LogicShiftsAndBitFields
  refine ⟨fun oa ob s x u => ?_, fun o s x u => ?_⟩
  · intro n a b bits imm
    have lt (code : BitVec 8) (l : Nat) : x.rdN (n / 32) code l < 2 ^ n := x.rdN_lt_width _ _ _
    refine ⟨fun h => ⟨_, logic2_gives (f := fun _ a b => a &&& b) rfl h, fun l k _ => Nat.testBit_and ..⟩,
      fun h => ⟨_, logic2_gives (f := fun _ a b => a ||| b) rfl h, fun l k _ => Nat.testBit_or ..⟩,
      fun h => ⟨_, logic2_gives (f := fun _ a b => a ^^^ b) rfl h, fun l k _ => Nat.testBit_xor ..⟩,
      fun h => ⟨_, logic2_gives (f := fun n a b => a &&& (2 ^ n - 1 - b)) rfl h, fun l k hk => ?_⟩,
      fun h => ⟨_, logic1_gives (dn := 0) (f := fun n a => 2 ^ n - 1 - a) rfl h, fun l k hk => testBit_complement (lt oa.a l) hk⟩,
      fun h => ⟨_, logic1_gives (dn := 0) (f := bitReverse) rfl h, fun l k hk => bitReverse_testBit hk⟩,
      fun h => ⟨_, immediate_gives (f := fun a i => a &&& i.zeroExtend 32) rfl (by decide) h, fun l k hk => ?_⟩,
      fun h => ⟨_, immediate_gives (f := fun a i => a ||| i.zeroExtend 32) rfl (by decide) h, fun l k hk => ?_⟩,
      fun h => ⟨_, immediate_gives (f := fun a i => a ^^^ i.zeroExtend 32) rfl (by decide) h, fun l k hk => ?_⟩,
      fun h => ⟨_, logic1_gives (dn := 1) (f := popcount) rfl h, fun l => popcount_eq_card ..⟩,
      fun h => ⟨_, logic1_gives (dn := 1) (f := leadingZeros) rfl h, fun l => leadingZeros_spec (lt oa.a l)⟩⟩
    · rw [Nat.testBit_and, testBit_complement (lt oa.b l) hk]
    · simp [hk]
    · simp [hk]
    · simp [hk]
  · intro n a amount pos len bits
    have lt (l : Nat) : x.rdN (n / 32) o.a l < 2 ^ n := x.rdN_lt_width _ _ _
    have shifts {i : Instr} {kind : ShiftKind} (he : exec i s = shiftBy i o kind s) {f : Nat → Nat → Bool}
        (hf : ∀ l k, k < n → (shiftVal n kind (x.rdN (n / 32) o.a l) (amount l)).testBit k = f l k) : bits i n f := by
      intro h
      have gives := shiftBy_gives he h
      simp only [fld_high] at gives
      exact ⟨_, gives, hf⟩
    refine ⟨shifts rfl fun l k hk => shiftLeft_testBit hk, shifts rfl fun l k _ => shiftRight_testBit (lt l),
      shifts rfl fun l k hk => shiftArith_testBit (widthOf_pos _) (lt l) hk, shifts rfl fun l k hk => rotate_testBit (lt l) hk,
      fun h => ?_, fun h => ?_, fun h => ?_⟩
    · have gives := logic3_gives (f := fun a b c => (a * 2 ^ 32 + b) * 2 ^ (c % 32) % 2 ^ 64 / 2 ^ 32) rfl (by decide) h
      rw [out32_eq_outs] at gives
      refine ⟨_, gives, fun l k hk => ?_⟩
      rw [BitVec.toNat_ofNat, Nat.testBit_mod_two_pow, funnel_testBit (BitVec.isLt _) (Nat.mod_lt _ (by decide)) hk]
      simp [hk, BitVec.testBit_toNat]
    · exact ⟨_, gives_compute (os := fun x _ => outs o.d 1 fun l => bfxVal (o.m.getLsbD 2) (x.rd o.a l).toNat (x.rd o.b l).toNat) h rfl
        (by decide), fun l k hk => bfxVal_testBit hk⟩
    · have gives := logic3_gives (f := bfiVal) rfl (by decide) h
      rw [out32_eq_outs] at gives
      refine ⟨_, gives, fun l k hk => ?_⟩
      rw [BitVec.toNat_ofNat, Nat.testBit_mod_two_pow, bfiVal_testBit hk]
      simp [hk, BitVec.testBit_toNat, pos, len]

end Sys2Proof.Machine

namespace Sys2Proof.Machine

/-! ## Comparisons, selection, addresses and neighbours (R78-R82) -/

/-- A field rule of its own that an instruction which issues has met (R50). -/
theorem Issues.fieldsOk {i : Instr} {s u : State} {x : Ctx} (h : Issues i s x u) : (shape i).ok = true := by
  have hl := h.legal
  unfold Ctx.legal Shape.legal at hl
  rw [h.inst] at hl
  simp only [Bool.and_eq_true] at hl
  exact hl.1.1.1.1.1.1

theorem compareVal_eq {c : Nat} (hc : c ≤ 5) (a b : Int) : compareVal c a b =
    [decide (a < b), decide (a ≤ b), decide (a > b), decide (a ≥ b), decide (a = b), decide (a ≠ b)].getD c false := by
  interval_cases c
  · rfl
  · rfl
  · rfl
  · rfl
  · exact beq_eq_decide a b
  · simp [compareVal, bne, beq_eq_decide]

theorem asInt_imm (signed : Bool) (i : BitVec 16) : asInt 16 signed i.toNat = if signed then i.toInt else i.toNat := by
  cases signed with
  | false => rfl
  | true => rw [asInt_true_eq_toInt i.isLt (by decide), BitVec.ofNat_toNat, BitVec.setWidth_eq, if_pos rfl]

/-- R81: the base and the scaled index, modulo 2^64. -/
theorem lea_value (a : Nat) (signed : Bool) (b : Word) (k : Nat) :
    BitVec.ofNat 64 (wrapSat 64 false false ((a : Int) + asInt 32 signed b.toNat * (2 : Int) ^ k)) =
      BitVec.ofNat 64 a + ((if signed then b.signExtend 64 else b.zeroExtend 64) <<< k) := by
  have index : BitVec.ofInt 64 (asInt 32 signed b.toNat) = if signed then b.signExtend 64 else b.zeroExtend 64 := by
    cases signed with
    | false =>
      rw [if_neg (by decide)]
      exact (BitVec.ofInt_natCast ..).trans (BitVec.ofNat_toNat ..)
    | true =>
      rw [asInt_true_eq_toInt b.isLt (by decide), BitVec.ofNat_toNat, BitVec.setWidth_eq]
      rfl
  have scale : BitVec.ofInt 64 ((2 : Int) ^ k) = BitVec.twoPow 64 k := by
    rw [show ((2 : Int) ^ k) = ((2 ^ k : Nat) : Int) by norm_num, BitVec.ofInt_natCast]
    apply BitVec.eq_of_toNat_eq
    rw [BitVec.toNat_ofNat, BitVec.toNat_twoPow]
  rw [wrapSat_eq_ofInt, BitVec.ofNat_toNat, BitVec.setWidth_eq, BitVec.ofInt_add, BitVec.ofInt_mul, index, scale, BitVec.ofInt_natCast,
    BitVec.mul_twoPow_eq_shiftLeft]

/-- A byte of a delta as a signed number. -/
theorem asInt_byte (d : Word) (k : Nat) : asInt 8 true (d.toNat / 2 ^ k % 256) = (d.extractLsb' k 8).toInt := by
  have lt : d.toNat / 2 ^ k % 256 < 2 ^ 8 := Nat.mod_lt _ (by decide)
  rw [asInt_true_eq_toInt lt (by decide)]
  congr 1
  apply BitVec.eq_of_toNat_eq
  rw [BitVec.extractLsb'_toNat, BitVec.toNat_ofNat, Nat.shiftRight_eq_div_pow]
  exact Nat.mod_mod _ _

/-- R82: the name a delta away, where both cores lie in the rectangle. -/
theorem naddVal_eq_some (h : Chart) (name delta : Word) (e : Nat) : naddVal h name.toNat delta.toNat = some e ↔
    let row := (name.extractLsb' 8 8).toNat + (delta.extractLsb' 8 8).toInt
    let col := (name.extractLsb' 0 8).toNat + (delta.extractLsb' 0 8).toInt
    name.toNat < 2 ^ 24 ∧ ∃ r, h.rects[name.toNat / 65536]? = some r ∧
      (name.extractLsb' 8 8).toNat < r.rows ∧ (name.extractLsb' 0 8).toNat < r.cols ∧
      0 ≤ row ∧ row < r.rows ∧ 0 ≤ col ∧ col < r.cols ∧ (e : Int) = name.toNat / 65536 * 65536 + row * 256 + col := by
  have row : (name.extractLsb' 8 8).toNat = name.toNat / 256 % 256 := by
    rw [BitVec.extractLsb'_toNat, Nat.shiftRight_eq_div_pow]
  have col : (name.extractLsb' 0 8).toNat = name.toNat % 256 := by rw [BitVec.extractLsb'_toNat, Nat.shiftRight_zero]
  have down := asInt_byte delta 8
  have right := asInt_byte delta 0
  rw [show (2 : Nat) ^ 8 = 256 from rfl] at down
  rw [show (2 : Nat) ^ 0 = 1 from rfl, Nat.div_one] at right
  unfold naddVal
  rw [down, right, row, col]
  generalize (delta.extractLsb' 8 8).toInt = dr
  generalize (delta.extractLsb' 0 8).toInt = dc
  generalize name.toNat = n
  dsimp only
  by_cases hn : n < 2 ^ 24
  · rw [show n / 65536 % 256 = n / 65536 by omega]
    cases h.rects[n / 65536]? with
    | none => simp
    | some r =>
      have high : n / 2 ^ 24 = 0 := by omega
      simp only [Option.some.injEq, exists_eq_left', Option.ite_none_right_eq_some, Bool.and_eq_true, beq_iff_eq, decide_eq_true_eq,
        high, hn, true_and, and_assoc]
      constructor
      · rintro ⟨h1, h2, h3, h4, h5, h6, h7⟩
        exact ⟨h1, h2, h3, h4, h5, h6, by omega⟩
      · rintro ⟨h1, h2, h3, h4, h5, h6, h7⟩
        exact ⟨h1, h2, h3, h4, h5, h6, by omega⟩
  · have high : (n / 2 ^ 24 == 0) = false := by
      rw [beq_eq_false_iff_ne]
      omega
    simp only [high, Bool.false_and, Bool.false_eq_true, if_false, hn, false_and, iff_false]
    split <;> simp

/-- Settles O3: each form's predicate, selection, address or name, from what its function says of the operands. -/
theorem predicatesSelectionAndAddresses : Obligations.PredicatesSelectionAndAddresses := by
  unfold Obligations.PredicatesSelectionAndAddresses
  intro oa ob s x u cmp both bit
  refine ⟨fun h => ?_, fun h => ?_, fun h => ?_, fun h => ?_, fun h => ⟨_, gives_compute (os := fun x _ => outs oa.d 2 fun l =>
    wrapSat 64 false false ((x.rdN 2 oa.a l : Int) + asInt 32 (oa.m.getLsbD 3) (x.rd oa.b l).toNat * (2 : Int) ^ (fld oa.m 2 0)))
    h rfl (by decide), fun l => ⟨?_, lea_value ..⟩⟩, fun h => ⟨_, gives_compute (os := fun x s =>
      out32 oa.d (fun l => BitVec.ofNat 32 ((naddVal s.chart (x.rd oa.a l).toNat (x.rd oa.b l).toNat).getD 0x00FFFFFF)) ++
        outP (fld oa.m 2 0) fun l => (naddVal s.chart (x.rd oa.a l).toNat (x.rd oa.b l).toNat).isSome) h rfl (by decide),
    fun l e => naddVal_eq_some ..⟩⟩
  · have hc : fld oa.d 7 5 ≤ 5 := by
      have ok : (decide (fld oa.d 7 5 ≤ 5) && zf oa.m 7 7 && zf oa.m 3 0) = true := h.fieldsOk
      simp only [Bool.and_eq_true, decide_eq_true_eq] at ok
      exact ok.1.1
    have gives := gives_compute (os := fun x _ =>
      let n := if oa.d.getLsbD 3 then 64 else 32
      let sg := oa.d.getLsbD 4
      let f (l : Nat) := compareVal (fld oa.d 7 5) (asInt n sg (x.rdN (n / 32) oa.a l)) (asInt n sg (x.rdN (n / 32) oa.b l))
      outP (fld oa.d 2 0) f ++ outP (fld oa.m 6 4) fun l => !f l) h rfl (by decide)
    simp only [compareVal_eq hc] at gives
    exact gives
  · have ok : decide (fld ob.d 7 5 ≤ 5) = true := h.fieldsOk
    have hc := of_decide_eq_true ok
    have gives := gives_compute (os := fun x _ => outP (fld ob.d 2 0) fun l =>
      let n := if ob.d.getLsbD 3 then 64 else 32
      let sg := ob.d.getLsbD 4
      compareVal (fld ob.d 7 5) (asInt n sg (x.rdN (n / 32) ob.a l)) (asInt 16 sg ob.imm.toNat)) h rfl (by decide)
    simp only [compareVal_eq hc, asInt_imm] at gives
    exact gives
  · exact gives_compute (os := fun x _ =>
      let bit (p l : Nat) : Nat := if x.pred p l then 1 else 0
      let f (l : Nat) := oa.m.getLsbD (bit (fld oa.a 2 0) l + 2 * bit (fld oa.a 6 4) l + 4 * bit (fld oa.b 2 0) l)
      outP (fld oa.d 2 0) f ++ outP (fld oa.d 6 4) fun l => !f l) h rfl (by decide)
  · exact gives_compute (os := fun x _ => outs oa.d (if oa.m.getLsbD 4 then 2 else 1) fun l =>
      if x.pred (fld oa.m 2 0) l != oa.m.getLsbD 3 then x.rdN (if oa.m.getLsbD 4 then 2 else 1) oa.a l
      else x.rdN (if oa.m.getLsbD 4 then 2 else 1) oa.b l) h rfl (by decide)
  · rw [wrapSat_eq_ofInt]
    exact BitVec.isLt _

end Sys2Proof.Machine

namespace Sys2Proof.Machine

/-! ## Special registers (R83-R87, R93) -/

/-- An instruction that is not ready stays unissued, and the issue stage chooses anew. -/
theorem issueIf_waits {i : Instr} {s u : State} {x : Ctx} (h : Issues i s x u) {ready ok : Ctx → State → Bool} (hok : ok x u = true)
    (hr : ready x u = false) (k : Ctx → State → State) : issueIf i s ready ok k = .next { s with selected := s.selected.tail } := by
  unfold issueIf
  rw [h.begins]
  simp [h.lanes, h.legal, h.gap, hok, hr]

/-- The special registers of R85 that are no transfer counts, with their values in a lane. -/
def specialValues (x : Ctx) (u : State) (l : Nat) : List (Nat × Nat) :=
  let g := x.g
  let tid := tget 0 x.c.tids l
  let b := x.b.ref.block
  let name := x.c.core
  let rect := (u.chart.rects[name / 65536]?).getD ⟨0, 0, 0, 0⟩
  let t := u.ticks % 32768
  [(0x000, l), (0x001, tid), (0x002, tid % g.bdim.1), (0x003, tid / g.bdim.1 % g.bdim.2.1), (0x004, tid / g.bdim.1 / g.bdim.2.1),
    (0x005, g.bdim.1 * g.bdim.2.1 * g.bdim.2.2), (0x006, x.c.slot), (0x007, x.c.quad), (0x008, x.sp.lanes.toNat), (0x010, b),
    (0x011, b % g.gdim.1), (0x012, b / g.gdim.1 % g.gdim.2.1), (0x013, b / g.gdim.1 / g.gdim.2.1), (0x014, g.gdim.1),
    (0x015, g.gdim.2.1), (0x016, g.gdim.2.2), (0x017, g.bdim.1), (0x018, g.bdim.2.1), (0x019, g.bdim.2.2), (0x01A, g.depth),
    (0x020, name), (0x021, name / 2 ^ 16 * 2 ^ 16 + rect.rows * 2 ^ 8 + rect.cols), (0x022, u.coreDomain name),
    (0x023, u.grade name x.c.quad), (0x030, (u.cycle - (u.core name).up) % 2 ^ 64), (0x031, u.ticks % 2 ^ 64),
    (0x032, t / 2048 * 2 ^ 16 + (if t % 2048 < 640 then 2 ^ 15 else 0) + t), (0x038, x.c.ovf.toNat), (0x039, g.regs.seed.toNat),
    (0x050, u.chart.gcores), (0x051, u.chart.gbisect), (0x052, u.chart.gsram), (0x053, u.chart.gdetour), (0x054, u.chart.grade)]

theorem specialVal_of_mem {x : Ctx} {u : State} {l : Nat} : ∀ p ∈ specialValues x u l, specialVal x u p.1 l = p.2 :=
  have all : (specialValues x u l).map (fun p => specialVal x u p.1 l) = (specialValues x u l).map Prod.snd := rfl
  List.map_eq_map_iff.1 all

theorem specialVal_wptr (x : Ctx) (u : State) (l : Nat) {q : Nat} (hq : q < 8) :
    specialVal x u (0x040 + q) l = tget 0 x.b.wptr q % 2 ^ 64 := by
  interval_cases q <;> rfl

/-- No narrowing conversion of the cohort is under way (R87). -/
def Ctx.NarrowQuiet (x : Ctx) (s : State) : Prop := ∀ j ∈ s.issued, j.c = x.r.c → ∀ due k, j.fin ≠ .narrow due k

section
variable {i : Instr} {s u : State} {x : Ctx}

theorem narrowDone_iff (h : Issues i s x u) : narrowDone x u = true ↔ x.NarrowQuiet s := by
  obtain ⟨-, -, -, -, hu⟩ := beginIssue_go h.begins
  have issued : u.issued = s.issued := by
    rw [hu]
    rfl
  unfold narrowDone Ctx.NarrowQuiet
  simp only [issued, List.all_eq_true, Bool.or_eq_true, bne_iff_ne]
  refine forall₂_congr fun j _ => ?_
  rw [or_iff_not_imp_left, not_not]
  refine imp_congr_right fun _ => ?_
  cases j.fin <;> simp

/-- An access of %ovf is ready where no such conversion is under way, and one of another register always. -/
theorem ovfReady_iff (h : Issues i s x u) (n : Nat) : (n != 0x038 || narrowDone x u) = true ↔ (n = 0x038 → x.NarrowQuiet s) := by
  rw [Bool.or_eq_true, bne_iff_ne, narrowDone_iff h, or_iff_not_imp_left, not_not]

theorem sread_gives {o : OpB} (h : Issues (.sread o) s x u) (hq : fld o.imm 11 0 = 0x038 → x.NarrowQuiet s) :
    Gives (.sread o) s x u .v (outs o.d (if o.imm.getLsbD 12 then 2 else 1) fun l => specialVal x u (fld o.imm 11 0) l) :=
  ⟨_, issueIf_next (ready := fun x s => fld o.imm 11 0 != 0x038 || narrowDone x s) (ok := fun _ _ => true) h rfl ((ovfReady_iff h _).2 hq)
    fun x s => x.complete s (outs o.d (if o.imm.getLsbD 12 then 2 else 1) fun l => specialVal x s (fld o.imm 11 0) l), complete_effect h _⟩

/-- What SWRITE does once it has issued. -/
def swriteBody (o : OpB) (x : Ctx) (s : State) : State :=
  let v := x.rd o.a x.low
  if fld o.imm 11 0 == 0x038 then (x.complete s []).modCohort x.r.c fun c => { c with ovf := v }
  else if x.sp.mode == .user then x.raiseAll s 0x02
  else (x.complete s []).modGrid x.g.id fun g => { g with regs := { g.regs with seed := v } }

theorem swrite_next {o : OpB} (h : Issues (.swrite o) s x u) (hq : fld o.imm 11 0 = 0x038 → x.NarrowQuiet s) :
    exec (.swrite o) s = .next ((swriteBody o x u).settle x.r) :=
  issueIf_next (ready := fun x s => fld o.imm 11 0 != 0x038 || narrowDone x s) (ok := fun _ _ => true) h rfl ((ovfReady_iff h _).2 hq)
    (swriteBody o)

theorem swrite_waits {o : OpB} (h : Issues (.swrite o) s x u) (hn : fld o.imm 11 0 = 0x038) (hq : ¬ x.NarrowQuiet s) :
    exec (.swrite o) s = .next { s with selected := s.selected.tail } :=
  issueIf_waits (ready := fun x s => fld o.imm 11 0 != 0x038 || narrowDone x s) (ok := fun _ _ => true) h rfl
    (Bool.eq_false_iff.2 fun hr => hq ((ovfReady_iff h _).1 hr hn)) (swriteBody o)

/-- What OVCLR does once it has issued. -/
def ovclrBody (o : OpA) (x : Ctx) (s : State) : State :=
  (x.complete s (out32 o.d fun _ => x.c.ovf)).modCohort x.r.c fun c => { c with ovf := 0 }

theorem ovclr_next {o : OpA} (h : Issues (.ovclr o) s x u) (hq : x.NarrowQuiet s) :
    exec (.ovclr o) s = .next ((ovclrBody o x u).settle x.r) :=
  issueIf_next (ready := narrowDone) (ok := fun _ _ => true) h rfl ((narrowDone_iff h).2 hq) (ovclrBody o)

theorem ovclr_waits {o : OpA} (h : Issues (.ovclr o) s x u) (hq : ¬ x.NarrowQuiet s) :
    exec (.ovclr o) s = .next { s with selected := s.selected.tail } :=
  issueIf_waits (ready := narrowDone) (ok := fun _ _ => true) h rfl (Bool.eq_false_iff.2 fun hr => hq ((narrowDone_iff h).1 hr)) (ovclrBody o)

end

/-- Settles O21: each register's value, and what SWRITE and OVCLR do with and without a narrowing conversion under way. -/
theorem specialRegistersReadAndWrite : Obligations.SpecialRegistersReadAndWrite := by
  unfold Obligations.SpecialRegistersReadAndWrite
  refine ⟨fun o s x u h => ?_, fun ob oa s x u => ?_⟩
  · intro n hq
    refine ⟨_, sread_gives h hq, fun l => ⟨fun p hp hn => ?_, fun q hq hn => ?_⟩⟩
    · exact (congrArg (specialVal x u · l) hn).trans (specialVal_of_mem p hp)
    · exact (congrArg (specialVal x u · l) hn).trans (specialVal_wptr x u l hq)
  · intro quiet n v
    refine ⟨fun h hn hq => ⟨_, complete_effect h [], ?_⟩, fun h hn hm => ⟨_, complete_effect h [], ?_⟩, fun h hn hm => ?_,
      fun h hq => ⟨_, complete_effect h _, ovclr_next h hq⟩, swrite_waits, ovclr_waits⟩
    · have body : swriteBody ob x u = (x.complete u []).modCohort x.r.c fun c => { c with ovf := v } := if_pos (by simpa using hn)
      rw [swrite_next h fun _ => hq, body]
    · have seed : (fld ob.imm 11 0 == 0x038) = false := by simp [show fld ob.imm 11 0 = 0x039 from hn]
      have body : swriteBody ob x u = (x.complete u []).modGrid x.g.id fun g => { g with regs := { g.regs with seed := v } } := by
        simp only [swriteBody, seed, beq_eq_false_iff_ne.2 hm]
        rfl
      rw [swrite_next h fun h8 => absurd (hn.symm.trans h8) (by decide), body]
    · have seed : (fld ob.imm 11 0 == 0x038) = false := by simp [show fld ob.imm 11 0 = 0x039 from hn]
      have body : swriteBody ob x u = x.raiseAll u 0x02 := by simp [swriteBody, seed, hm]
      rw [swrite_next h fun h8 => absurd (hn.symm.trans h8) (by decide), body]

end Sys2Proof.Machine

namespace Sys2Proof.Machine

/-! ## Exchange between lanes (R88-R92) -/

/-! ### The lowest lane -/

/-- The lowest lane of a mask that has one. -/
theorem lowest_le {m : Mask} {l : Nat} (h : m.getLsbD l = true) : m.getLsbD (lowest m) = true ∧ lowest m ≤ l := by
  have hl := mem_lanesOf.2 h
  have sorted := lanesOf_pairwise m
  unfold lowest
  cases hm : lanesOf m with
  | nil =>
    rw [hm] at hl
    cases hl
  | cons k ks =>
    have hk : k ∈ lanesOf m := by
      rw [hm]
      exact List.mem_cons_self
    rw [hm] at hl sorted
    refine ⟨mem_lanesOf.1 hk, ?_⟩
    rcases List.mem_cons.1 hl with rfl | hl
    · exact Nat.le_refl _
    · exact ((List.pairwise_cons.1 sorted).1 l hl).le

theorem eq_lowest_iff {m : Mask} {l : Nat} (h : m.getLsbD l = true) : l = lowest m ↔ ∀ k, m.getLsbD k = true → l ≤ k := by
  obtain ⟨hlow, hle⟩ := lowest_le h
  constructor
  · rintro rfl k hk
    exact (lowest_le hk).2
  · exact fun hall => Nat.le_antisymm (hall _ hlow) hle

/-! ### SHFL (R88) -/

theorem shflSource_eq {m : Nat} (hm : m < 4) (j k : Nat) :
    shflSource m j k = [(k : Int), (j : Int) - k, (j : Int) + k, ((j ^^^ k : Nat) : Int)].getD m 0 := by
  interval_cases m <;> rfl

/-- The offset in its segment of the lane that a lane reads from. -/
def shflOffset (o : OpA) (x : Ctx) (l : Nat) : Int :=
  shflSource (fld o.m 1 0) (l % x.g.shuffleWidth) (if o.m.getLsbD 2 then o.b.toNat else (x.rd o.b l).toNat)

/-- The lane that a lane reads from, where it lies in the segment and executes. -/
def shflLane (o : OpA) (x : Ctx) (l : Nat) : Option Nat :=
  let t := shflOffset o x l
  let p := l - l % x.g.shuffleWidth + t.toNat
  if 0 ≤ t && t < x.g.shuffleWidth && x.ex.getLsbD p then some p else none

/-- What a lane of a SHFL receives. -/
def shflValue (o : OpA) (x : Ctx) (l : Nat) : Word :=
  match shflLane o x l with
  | some p => x.rd o.a p
  | none => if o.m.getLsbD 3 then 0 else x.rd o.a l

theorem shfl_gives {o : OpA} {s u : State} {x : Ctx} (h : Issues (.shfl o) s x u) :
    Gives (.shfl o) s x u .v (out32 o.d (shflValue o x) ++ outP (fld o.m 6 4) fun l => (shflLane o x l).isSome) :=
  gives_complete (os := fun x _ => out32 o.d (shflValue o x) ++ outP (fld o.m 6 4) fun l => (shflLane o x l).isSome) h rfl

theorem shflLane_isSome {o : OpA} {x : Ctx} {l : Nat} : (shflLane o x l).isSome = true ↔
    0 ≤ shflOffset o x l ∧ shflOffset o x l < x.g.shuffleWidth ∧
      x.ex.getLsbD (l - l % x.g.shuffleWidth + (shflOffset o x l).toNat) = true := by
  unfold shflLane
  simp [and_assoc]

theorem shflValue_eq (o : OpA) (x : Ctx) (l : Nat) : shflValue o x l =
    if (shflLane o x l).isSome then x.rd o.a (l - l % x.g.shuffleWidth + (shflOffset o x l).toNat)
    else if o.m.getLsbD 3 then 0 else x.rd o.a l := by
  unfold shflValue
  cases hp : shflLane o x l with
  | none => rfl
  | some p =>
    unfold shflLane at hp
    obtain ⟨-, hp⟩ := Option.ite_none_right_eq_some.1 hp
    rw [← Option.some.inj hp]
    rfl

/-! ### VOTE (R89) -/

/-- The executing lanes that vote. -/
def voters (o : OpA) (x : Ctx) : List Nat := x.lanes.filter fun l => x.pred (fld o.a 2 0) l != o.a.getLsbD 7

theorem mem_voters {o : OpA} {x : Ctx} {l : Nat} :
    l ∈ voters o x ↔ x.ex.getLsbD l = true ∧ x.pred (fld o.a 2 0) l ≠ o.a.getLsbD 7 := by
  simp [voters, Ctx.lanes, mem_lanesOf]

theorem voters_lt {o : OpA} {x : Ctx} {l : Nat} (h : l ∈ voters o x) : l < 64 := lanesOf_lt (List.mem_of_mem_filter h)

theorem voters_all {o : OpA} {x : Ctx} : (voters o x).length = x.lanes.length ↔ ∀ l, x.ex.getLsbD l = true → l ∈ voters o x := by
  rw [voters, List.length_filter_eq_length_iff]
  simp only [Ctx.lanes, List.mem_filter, mem_lanesOf]
  exact forall_congr' fun l => ⟨fun h hl => ⟨hl, h hl⟩, fun h hl => (h hl).2⟩

theorem voters_card {o : OpA} {x : Ctx} : (voters o x).length = Nat.card { l : Fin 64 // l.val ∈ voters o x } := by
  have nodup : (voters o x).Nodup := ((lanesOf_pairwise x.ex).imp fun h => Nat.ne_of_lt h).filter _
  rw [Nat.subtype_card ((voters o x).toFinset.attachFin fun l hl => voters_lt (List.mem_toFinset.1 hl)) (by simp), Finset.card_attachFin,
    List.toFinset_card_of_nodup nodup]

/-- The words of a ballot: two in a cohort of 64 lanes. -/
def ballotWords (o : OpA) (g : Grid) : Nat := if fld o.m 1 0 == 2 && g.width == 64 then 2 else 1

/-- What VOTE does once it has issued. -/
def voteBody (o : OpA) (x : Ctx) (s : State) : State :=
  match fld o.m 1 0 with
  | 0 => x.complete s (outP (fld o.d 2 0) fun _ => !(voters o x).isEmpty)
  | 1 => x.complete s (outP (fld o.d 2 0) fun _ => (voters o x).length == x.lanes.length)
  | 2 => x.complete s (outs o.d (ballotWords o x.g) fun _ => (maskOf (voters o x)).toNat)
  | _ => x.complete s (outs o.d 1 fun _ => (voters o x).length)

theorem vote_next {o : OpA} {s u : State} {x : Ctx} (h : Issues (.vote o) s x u) (hd : 2 ≤ fld o.m 1 0 →
    dstOk o.d (ballotWords o x.g) .uniAny = true ∧ allocOk x.g { dsts := [(o.d, ballotWords o x.g, .uniAny)] } = true) :
    exec (.vote o) s = .next ((voteBody o x u).settle x.r) := by
  refine issueIf_next (ready := fun _ _ => true) (ok := fun x _ => fld o.m 1 0 ≤ 1 || (dstOk o.d (ballotWords o x.g) .uniAny &&
    allocOk x.g { dsts := [(o.d, ballotWords o x.g, .uniAny)] })) h ?_ rfl (voteBody o)
  by_cases hm : fld o.m 1 0 ≤ 1
  · simp [hm]
  · simp [hd (by omega)]

theorem vote_gives {o : OpA} {s u : State} {x : Ctx} (h : Issues (.vote o) s x u) (hd : 2 ≤ fld o.m 1 0 →
    dstOk o.d (ballotWords o x.g) .uniAny = true ∧ allocOk x.g { dsts := [(o.d, ballotWords o x.g, .uniAny)] } = true)
    {os : List (Reg × (Nat → Word))} (hb : voteBody o x u = x.complete u os) : Gives (.vote o) s x u .v os :=
  ⟨_, hb ▸ vote_next h hd, complete_effect h os⟩

/-! ### The tree of REDX (R90) -/

theorem treeLevel_cons (f : Nat → Nat → Nat) (a b : Option Nat) (r : List (Option Nat)) : treeLevel f (a :: b :: r) =
    (match a, b with
      | some p, some q => some (f p q)
      | some p, none => some p
      | none, q => q) :: treeLevel f r := rfl

theorem treeLevel_range (f : Nat → Nat → Nat) (leaf : Nat → Option Nat) (k : Nat) : ∀ n j,
    treeLevel f ((List.range' (2 * j) (2 * n)).map (treeOf f leaf k)) = (List.range' j n).map (treeOf f leaf (k + 1))
  | 0, j => rfl
  | n + 1, j => by
    have ih := treeLevel_range f leaf k n (j + 1)
    rw [show 2 * (n + 1) = 2 * n + 1 + 1 by ring, List.range'_succ, List.range'_succ, List.range'_succ, List.map_cons, List.map_cons,
      List.map_cons, treeLevel_cons, show 2 * j + 1 + 1 = 2 * (j + 1) by ring, ih, treeOf] <;> rfl

/-- After `m` levels the values are those of the nodes of level `m`. -/
theorem treeLevels_range (f : Nat → Nat → Nat) (leaf : Nat → Option Nat) (m r : Nat) :
    (List.range m).foldl (fun v _ => treeLevel f v) ((List.range' 0 (2 ^ (m + r))).map leaf) = (List.range' 0 (2 ^ r)).map (treeOf f leaf m) := by
  induction m generalizing r with
  | zero =>
    rw [List.range_zero, List.foldl_nil, Nat.zero_add]
    rfl
  | succ m ih =>
    rw [List.range_succ, List.foldl_append, List.foldl_cons, List.foldl_nil, show m + 1 + r = m + (r + 1) by ring, ih, pow_succ', ← treeLevel_range]

theorem treeReduce_eq (f : Nat → Nat → Nat) (leaf : Nat → Option Nat) :
    treeReduce f ((List.range 64).map leaf) = (treeOf f leaf 6 0).getD 0 := by
  have levels : (List.range 6).foldl (fun v _ => treeLevel f v) ((List.range 64).map leaf) = [treeOf f leaf 6 0] := by
    rw [List.range_eq_range' (n := 64)]
    exact treeLevels_range f leaf 6 0
  unfold treeReduce
  rw [levels]
  cases treeOf f leaf 6 0 <;> rfl

/-- A node of the tree combines the lanes under it: what holds of one lane, and of two nodes combined, holds of it. -/
theorem treeOf_combines {f : Nat → Nat → Nat} {leaf : Nat → Option Nat} {R : List Nat → Nat → Prop}
    (single : ∀ l a, leaf l = some a → R [a] a) (join : ∀ as bs a b, R as a → R bs b → R (as ++ bs) (f a b)) : ∀ k i,
    match treeOf f leaf k i with
    | some v => R ((List.range' (2 ^ k * i) (2 ^ k)).filterMap leaf) v
    | none => (List.range' (2 ^ k * i) (2 ^ k)).filterMap leaf = []
  | 0, i => by
    rw [treeOf]
    cases h : leaf i with
    | none => simp [h]
    | some a => simpa [h] using single i a h
  | k + 1, i => by
    have left := treeOf_combines single join k (2 * i)
    have right := treeOf_combines single join k (2 * i + 1)
    have halves : (List.range' (2 ^ (k + 1) * i) (2 ^ (k + 1))).filterMap leaf =
        (List.range' (2 ^ k * (2 * i)) (2 ^ k)).filterMap leaf ++ (List.range' (2 ^ k * (2 * i + 1)) (2 ^ k)).filterMap leaf := by
      rw [← List.filterMap_append, show 2 ^ k * (2 * i + 1) = 2 ^ k * (2 * i) + 2 ^ k by ring, List.range'_append_1]
      congr 2 <;> ring
    rw [halves, treeOf]
    cases hl : treeOf f leaf k (2 * i) with
    | none =>
      rw [hl] at left
      rw [left, List.nil_append]
      exact right
    | some a =>
      rw [hl] at left
      cases hr : treeOf f leaf k (2 * i + 1) with
      | none =>
        rw [hr] at right
        rw [right, List.append_nil]
        exact left
      | some b =>
        rw [hr] at right
        exact join _ _ a b left right

/-! ### REDX (R90) -/

/-- What a lane brings to the tree. -/
def redxLeaf (o : OpA) (x : Ctx) (l : Nat) : Option Nat := if x.ex.getLsbD l then some (x.rd o.a l).toNat else none

/-- The values that the executing lanes bring, lowest lane first. -/
def redxValues (o : OpA) (x : Ctx) : List Nat := x.lanes.map fun l => (x.rd o.a l).toNat

theorem redxValues_eq (o : OpA) (x : Ctx) : redxValues o x = (List.range' 0 64).filterMap (redxLeaf o x) := by
  unfold redxValues redxLeaf Ctx.lanes lanesOf
  rw [List.range_eq_range']
  generalize List.range' 0 64 = ls
  induction ls with
  | nil => rfl
  | cons l ls ih => by_cases hl : x.ex.getLsbD l = true <;> simp [hl, ih]

/-- What a REDX combines its lanes' values to. -/
def redxValue (o : OpA) (x : Ctx) : Nat := (treeOf (redxOp x.g.ftz (fld o.m 3 0)) (redxLeaf o x) 6 0).getD 0

theorem redx_gives {o : OpA} {s u : State} {x : Ctx} (h : Issues (.redx o) s x u) :
    Gives (.redx o) s x u .v (outs o.d 1 fun _ => redxValue o x) := by
  unfold redxValue
  rw [← treeReduce_eq]
  exact gives_complete (os := fun x _ => outs o.d 1 fun _ => treeReduce (redxOp x.g.ftz (fld o.m 3 0)) ((List.range 64).map (redxLeaf o x))) h rfl

theorem redxValue_combines {o : OpA} {x : Ctx} (hx : x.ex ≠ 0#64) {R : List Nat → Nat → Prop} (single : ∀ a, a < 2 ^ 32 → R [a] a)
    (join : ∀ as bs a b, R as a → R bs b → R (as ++ bs) (redxOp x.g.ftz (fld o.m 3 0) a b)) : R (redxValues o x) (redxValue o x) := by
  have leaf : ∀ l a, redxLeaf o x l = some a → R [a] a := by
    intro l a h
    obtain ⟨-, h⟩ := Option.ite_none_right_eq_some.1 h
    exact single a (Option.some.inj h ▸ BitVec.isLt _)
  have node := treeOf_combines leaf join 6 0
  have all : (List.range' (2 ^ 6 * 0) (2 ^ 6)).filterMap (redxLeaf o x) = redxValues o x := (redxValues_eq o x).symm
  rw [all] at node
  unfold redxValue
  cases ht : treeOf (redxOp x.g.ftz (fld o.m 3 0)) (redxLeaf o x) 6 0 with
  | some v =>
    rw [ht] at node
    exact node
  | none =>
    rw [ht] at node
    have none : x.lanes = [] := List.map_eq_nil_iff.1 node
    exact absurd (lanesOf_eq_nil.1 none) hx

/-- An operation that answers one of its operands, never above either by a key, answers a least value of all the lanes. -/
theorem redxValue_least {o : OpA} {x : Ctx} (hx : x.ex ≠ 0#64) (key : Nat → Int)
    (pick : ∀ a b, redxOp x.g.ftz (fld o.m 3 0) a b = a ∨ redxOp x.g.ftz (fld o.m 3 0) a b = b)
    (left : ∀ a b, key (redxOp x.g.ftz (fld o.m 3 0) a b) ≤ key a) (right : ∀ a b, key (redxOp x.g.ftz (fld o.m 3 0) a b) ≤ key b) :
    redxValue o x ∈ redxValues o x ∧ ∀ a ∈ redxValues o x, key (redxValue o x) ≤ key a := by
  refine redxValue_combines hx (R := fun as v => v ∈ as ∧ ∀ a ∈ as, key v ≤ key a) (fun a _ => by simp) ?_
  rintro as bs a b ⟨ha, hle⟩ ⟨hb, hle'⟩
  refine ⟨?_, fun c hc => ?_⟩
  · rcases pick a b with h | h
    · rw [h]
      exact List.mem_append_left _ ha
    · rw [h]
      exact List.mem_append_right _ hb
  · rcases List.mem_append.1 hc with hc | hc
    · exact (left a b).trans (hle c hc)
    · exact (right a b).trans (hle' c hc)

/-- The least and the greatest value, signed and unsigned. -/
theorem redxValue_extremes {o : OpA} {x : Ctx} (hx : x.ex ≠ 0#64) :
    (fld o.m 3 0 = 1 → redxValue o x ∈ redxValues o x ∧ ∀ a ∈ redxValues o x, asInt 32 true (redxValue o x) ≤ asInt 32 true a) ∧
    (fld o.m 3 0 = 2 → redxValue o x ∈ redxValues o x ∧ ∀ a ∈ redxValues o x, asInt 32 true a ≤ asInt 32 true (redxValue o x)) ∧
    (fld o.m 3 0 = 3 → redxValue o x ∈ redxValues o x ∧ ∀ a ∈ redxValues o x, redxValue o x ≤ a) ∧
    (fld o.m 3 0 = 4 → redxValue o x ∈ redxValues o x ∧ ∀ a ∈ redxValues o x, a ≤ redxValue o x) := by
  refine ⟨fun hop => ?_, fun hop => ?_, fun hop => ?_, fun hop => ?_⟩
  · have op (a b : Nat) : redxOp x.g.ftz (fld o.m 3 0) a b = if asInt 32 true a ≤ asInt 32 true b then a else b := by rw [hop]; rfl
    exact redxValue_least hx (asInt 32 true) (fun a b => by rw [op]; split <;> simp) (fun a b => by rw [op]; split <;> omega)
      fun a b => by rw [op]; split <;> omega
  · have op (a b : Nat) : redxOp x.g.ftz (fld o.m 3 0) a b = if asInt 32 true a ≤ asInt 32 true b then b else a := by rw [hop]; rfl
    have least := redxValue_least hx (fun a => -asInt 32 true a) (fun a b => by rw [op]; split <;> simp)
      (fun a b => by rw [op]; split <;> omega) fun a b => by rw [op]; split <;> omega
    exact ⟨least.1, fun a ha => by simpa using least.2 a ha⟩
  · have op (a b : Nat) : redxOp x.g.ftz (fld o.m 3 0) a b = min a b := by rw [hop]; rfl
    have least := redxValue_least hx (fun a => (a : Int)) (fun a b => by rw [op]; omega) (fun a b => by rw [op]; omega)
      fun a b => by rw [op]; omega
    exact ⟨least.1, fun a ha => by simpa using least.2 a ha⟩
  · have op (a b : Nat) : redxOp x.g.ftz (fld o.m 3 0) a b = max a b := by rw [hop]; rfl
    have least := redxValue_least hx (fun a => -(a : Int)) (fun a b => by rw [op]; omega) (fun a b => by rw [op]; omega)
      fun a b => by rw [op]; omega
    exact ⟨least.1, fun a ha => by simpa using least.2 a ha⟩

theorem redxValue_sum {o : OpA} {x : Ctx} (hx : x.ex ≠ 0#64) (hop : fld o.m 3 0 = 0) : redxValue o x = (redxValues o x).sum % 2 ^ 32 := by
  refine redxValue_combines hx (R := fun as v => v = as.sum % 2 ^ 32) (fun a ha => ?_) fun as bs a b ha hb => ?_
  · rw [List.sum_singleton, Nat.mod_eq_of_lt ha]
  · rw [hop, ha, hb, List.sum_append]
    exact (Nat.add_mod ..).symm

theorem redxValue_and {o : OpA} {x : Ctx} (hx : x.ex ≠ 0#64) (hop : fld o.m 3 0 = 5) (k : Nat) :
    (redxValue o x).testBit k = true ↔ k < 32 ∧ ∀ a ∈ redxValues o x, a.testBit k = true := by
  refine redxValue_combines hx (R := fun as v => v.testBit k = true ↔ k < 32 ∧ ∀ a ∈ as, a.testBit k = true) (fun a ha => ?_)
    fun as bs a b ha hb => ?_
  · simp only [List.mem_singleton, forall_eq, iff_and_self]
    intro hbit
    by_contra hk
    rw [Nat.testBit_lt_two_pow (ha.trans_le (Nat.pow_le_pow_right (by decide) (by omega)))] at hbit
    cases hbit
  · rw [hop]
    change (a &&& b).testBit k = true ↔ _
    rw [Nat.testBit_and, Bool.and_eq_true, ha, hb, List.forall_mem_append]
    tauto

theorem redxValue_or {o : OpA} {x : Ctx} (hx : x.ex ≠ 0#64) (hop : fld o.m 3 0 = 6) (k : Nat) :
    (redxValue o x).testBit k = true ↔ ∃ a ∈ redxValues o x, a.testBit k = true := by
  refine redxValue_combines hx (R := fun as v => v.testBit k = true ↔ ∃ a ∈ as, a.testBit k = true) (fun a _ => by simp)
    fun as bs a b ha hb => ?_
  rw [hop]
  change (a ||| b).testBit k = true ↔ _
  simp only [Nat.testBit_or, Bool.or_eq_true, ha, hb, List.mem_append, or_and_right, exists_or]

theorem redxValue_xor {o : OpA} {x : Ctx} (hx : x.ex ≠ 0#64) (hop : fld o.m 3 0 = 7) (k : Nat) :
    (redxValue o x).testBit k = true ↔ ((redxValues o x).filter fun a => a.testBit k).length % 2 = 1 := by
  refine redxValue_combines hx (R := fun as v => v.testBit k = true ↔ (as.filter fun a => a.testBit k).length % 2 = 1) (fun a _ => ?_)
    fun as bs a b ha hb => ?_
  · cases hbit : a.testBit k <;> simp [hbit]
  · rw [hop]
    change (a ^^^ b).testBit k = true ↔ _
    rw [Nat.testBit_xor, bne_iff_ne, List.filter_append, List.length_append, Ne, Bool.eq_iff_iff, ha, hb]
    omega

/-- Settles O22: where each lane's value comes from, who votes, and what the tree of REDX combines. -/
theorem lanesExchangeValues : Obligations.LanesExchangeValues := by
  unfold Obligations.LanesExchangeValues
  intro o s x u on m
  have hm : m < 4 := Nat.mod_lt _ (by decide)
  refine ⟨fun h => ⟨_, _, shfl_gives h, fun l => ?_⟩, ?_, fun h => ⟨_, redx_gives h, ?_⟩,
    fun h => ⟨_, gives_complete (os := fun x _ => out32 o.d fun _ => if o.m.getLsbD 0 then
      (if x.ex.getLsbD ((x.rd o.b x.low).toNat % 64) then x.rd o.a ((x.rd o.b x.low).toNat % 64) else 0) else x.rd o.a x.low) h rfl, rfl⟩,
    fun h => ⟨_, gives_complete (os := fun x _ => outP (fld o.d 2 0) fun l => l == x.low) h rfl, fun l hl => ?_⟩⟩
  · intro w j k t from_
    have offset : t = shflOffset o x l := (shflSource_eq hm _ _).symm
    simp only [from_, offset]
    exact ⟨shflLane_isSome, shflValue_eq o x l⟩
  · intro words vote h hd
    have hwords : words = ballotWords o x.g := by simp [words, ballotWords, m]
    have hvote (l : Nat) : vote l ↔ l ∈ voters o x := mem_voters.symm
    simp only [hwords, hvote] at hd ⊢
    refine ⟨fun h0 => ⟨_, vote_gives h hd (by simp only [voteBody, show fld o.m 1 0 = 0 from h0]; rfl), ?_⟩,
      fun h1 => ⟨_, vote_gives h hd (by simp only [voteBody, show fld o.m 1 0 = 1 from h1]; rfl), ?_⟩,
      fun h2 => ⟨_, vote_gives h hd (by simp only [voteBody, show fld o.m 1 0 = 2 from h2]; rfl), fun l => ?_⟩,
      fun h3 => ⟨_, vote_gives h hd (by simp only [voteBody, show fld o.m 1 0 = 3 from h3]), voters_card⟩⟩
    · simp [List.eq_nil_iff_forall_not_mem]
    · rw [beq_iff_eq, voters_all]
    · rw [getLsbD_maskOf]
      exact ⟨fun hl => hl.2, fun hl => ⟨voters_lt hl, hl⟩⟩
  · intro op sg vs float
    have hx := h.lanes
    obtain ⟨smin, smax, umin, umax⟩ := redxValue_extremes (o := o) hx
    have tree {f : Nat → Nat → Nat} (hf : redxOp x.g.ftz op = f) : float f := by
      rw [← hf]
      rfl
    exact ⟨redxValue_sum hx, smin, smax, umin, umax, redxValue_and hx, redxValue_or hx, redxValue_xor hx,
      fun h8 => tree (by rw [h8]; rfl), fun h9 => tree (by rw [h9]; rfl), fun h10 => tree (by rw [h10]; rfl)⟩
  · simp only [beq_iff_eq]
    exact eq_lowest_iff hl

end Sys2Proof.Machine

namespace Sys2Proof.Machine

/-! ## The checks of an access (R101, R107, R199) -/

/-- A region that an access of this split may not touch. -/
def Ctx.Barred (x : Ctx) (region : Nat) : Prop := region = 2 ∨ region = 4 ∨ region = 3 ∧ x.sp.mode = .user

theorem Ctx.barred_iff (x : Ctx) (pa : Nat) :
    (paRegion pa == 2 || paRegion pa == 4 || (paRegion pa == 3 && x.sp.mode == .user)) = true ↔ x.Barred (pa / 2 ^ 44) := by
  simp [Ctx.Barred, paRegion, or_assoc]

/-- What the rules of the weight store make of an access whose page is one of it, or is not (R101 step 5). -/
def MemKind.ruled (k : MemKind) (ws : Bool) (r : Except XFault Phys) : Except XFault Phys :=
  match (if ws && (k == .st || k == .atom) then some 0x0A else if !ws && k == .ldw then some 0x02 else none : Option Nat) with
  | some c => .error { cause := c }
  | none => r

section
variable {k : MemKind} {ws : Bool} {r : Except XFault Phys}

theorem MemKind.ruled_write (hw : ws = true) (hk : k = .st ∨ k = .atom) : k.ruled ws r = .error { cause := 0x0A } := by
  subst hw
  rcases hk with rfl | rfl <;> rfl

theorem MemKind.ruled_ldw (hw : ws = false) (hk : k = .ldw) : k.ruled ws r = .error { cause := 2 } := by
  subst hw hk
  rfl

theorem MemKind.ruled_passes (hw : ¬ (ws = true ∧ (k = .st ∨ k = .atom))) (hl : ¬ (ws = false ∧ k = .ldw)) : k.ruled ws r = r := by
  have h1 : (ws && (k == .st || k == .atom)) = false := by simpa using hw
  have h2 : (!ws && k == .ldw) = false := by simpa using hl
  unfold MemKind.ruled
  rw [h1, h2]
  rfl

end

section
variable {x : Ctx} {s : State} {k : MemKind} {va : DWord} {size : Nat}

/-- The alignment and the high bits of the address are in order (R101 steps 1 and 2). -/
structure MemKind.Formed (k : MemKind) (va : DWord) (size : Nat) : Prop where
  aligned : k = .pref ∨ va.toNat % size = 0
  low : va.toNat < 2 ^ 51

theorem checkGlobal_misaligned (hk : k ≠ .pref) (ha : va.toNat % size ≠ 0) : x.checkGlobal s k va size = .error { cause := 3 } :=
  if_pos (by simp [hk, ha])

theorem aligned_passes (ha : k = .pref ∨ va.toNat % size = 0) : ¬ (k != .pref && va.toNat % size != 0) = true := by
  rcases ha with rfl | ha
  · exact Bool.false_ne_true
  · simp [ha]

theorem checkGlobal_high (ha : k = .pref ∨ va.toNat % size = 0) (hv : 2 ^ 51 ≤ va.toNat) :
    x.checkGlobal s k va size = .error { cause := 2 } := by
  have high : (fld va 63 51 != 0) = true := by
    rw [bne_iff_ne, Ne, fld_high_eq_zero]
    exact hv.not_gt
  exact (if_neg (aligned_passes ha)).trans (if_pos high)

/-- The checks of a well-formed address are those of its translation (R101 steps 3 to 6). -/
theorem checkGlobal_formed (h : k.Formed va size) : x.checkGlobal s k va size =
    match s.xlate x.c.core x.g x.sp.mode k.need va with
    | .error f =>
      if f.leaf.isSome then
        if paRegion f.gpa == 2 || paRegion f.gpa == 4 || (paRegion f.gpa == 3 && x.sp.mode == .user) then .error { cause := 2 }
        else k.ruled (paRegion f.gpa == 1) (.error f)
      else .error f
    | .ok p =>
      if (paRegion p.gpa == 2 || paRegion p.gpa == 4 || (paRegion p.gpa == 3 && x.sp.mode == .user)) ||
          (paRegion p.pa == 2 || paRegion p.pa == 4 || (paRegion p.pa == 3 && x.sp.mode == .user)) then .error { cause := 2 }
      else k.ruled p.ws (.ok p) := by
  have low : ¬ (fld va 63 51 != 0) = true := by
    rw [bne_iff_ne, Ne, not_not, fld_high_eq_zero]
    exact h.low
  unfold Ctx.checkGlobal
  rw [if_neg (aligned_passes h.aligned), if_neg low]
  unfold MemKind.ruled
  rfl

theorem checkGlobal_untranslated (h : k.Formed va size) {f : XFault} (ht : s.xlate x.c.core x.g x.sp.mode k.need va = .error f)
    (hf : f.leaf = none) : x.checkGlobal s k va size = .error f := by
  rw [checkGlobal_formed h, ht]
  exact if_neg (by simp [hf])

theorem checkGlobal_barred (h : k.Formed va size) {p : Phys} (ht : s.xlate x.c.core x.g x.sp.mode k.need va = .ok p)
    (hb : x.Barred (p.gpa / 2 ^ 44) ∨ x.Barred (p.pa / 2 ^ 44)) : x.checkGlobal s k va size = .error { cause := 2 } := by
  rw [checkGlobal_formed h, ht]
  refine if_pos ?_
  rw [Bool.or_eq_true, x.barred_iff, x.barred_iff]
  exact hb

theorem checkGlobal_ruled (h : k.Formed va size) {p : Phys} (ht : s.xlate x.c.core x.g x.sp.mode k.need va = .ok p)
    (hg : ¬ x.Barred (p.gpa / 2 ^ 44)) (hp : ¬ x.Barred (p.pa / 2 ^ 44)) : x.checkGlobal s k va size = k.ruled p.ws (.ok p) := by
  rw [checkGlobal_formed h, ht]
  refine if_neg ?_
  rw [Bool.or_eq_true, x.barred_iff, x.barred_iff]
  exact not_or.2 ⟨hg, hp⟩

section
variable {f : XFault} {r : Nat}

theorem checkGlobal_leaf_barred (h : k.Formed va size) (ht : s.xlate x.c.core x.g x.sp.mode k.need va = .error f)
    (hf : f.leaf = some r) (hb : x.Barred (f.gpa / 2 ^ 44)) : x.checkGlobal s k va size = .error { cause := 2 } := by
  rw [checkGlobal_formed h, ht]
  exact (if_pos (by simp [hf])).trans (if_pos ((x.barred_iff _).2 hb))

theorem checkGlobal_leaf_ruled (h : k.Formed va size) (ht : s.xlate x.c.core x.g x.sp.mode k.need va = .error f)
    (hf : f.leaf = some r) (hb : ¬ x.Barred (f.gpa / 2 ^ 44)) :
    x.checkGlobal s k va size = k.ruled (decide (f.gpa / 2 ^ 44 = 1)) (.error f) := by
  rw [checkGlobal_formed h, ht]
  exact (if_pos (by simp [hf])).trans (if_neg (mt (x.barred_iff _).1 hb))

end

/-! ### A scratchpad access -/

theorem checkScratch_misaligned {off : Nat} (h : off % size ≠ 0) : x.checkScratch off size = .error { cause := 3 } :=
  if_pos (by simpa using h)

theorem inScratch_iff (g : Grid) (off n : Nat) : inScratch g off n = true ↔ off + n ≤ 1024 * fld g.desc 23 14 ∨
    g.desc.getLsbD 30 = true ∧ (524288 ≤ off ∨ 1024 * fld g.desc 23 14 = 524288) ∧ off + n ≤ 524288 + 1024 * fld g.desc 23 14 := by
  simp only [inScratch, Bool.or_eq_true, Bool.and_eq_true, decide_eq_true_iff, beq_iff_eq, and_assoc]
  rfl

theorem checkScratch_outside {off : Nat} (ha : off % size = 0) (h : ¬ inScratch x.g off size = true) :
    x.checkScratch off size = .error { cause := 2 } := (if_neg (by simp [ha])).trans (if_neg h)

theorem checkScratch_inside {off : Nat} (ha : off % size = 0) (h : inScratch x.g off size = true) :
    x.checkScratch off size = .ok { pa := off, ws := false } := (if_neg (by simp [ha])).trans (if_pos h)

end

/-! ### The checks in their order -/

end Sys2Proof.Machine

namespace Sys2Proof.Machine

/-! ## Accesses put in flight one after another (R104, R201, R264) -/

/-- An access as the instruction of `x` puts it in flight: ordered behind what is in flight. -/
def Ctx.ordered (x : Ctx) (s : State) (a : Access) : Access :=
  { a with tags := x.tags s
           after := (s.afterOf x a.lane a.scratch a.pa a.size a.op.writes ++ s.afterLanes x.uid a.op a.scratch a.pa a.size).dedup }

/-- Put an access of the instruction in flight. -/
def Ctx.launch (x : Ctx) (s : State) (a : Access) : State := s.launchAccess (x.ordered s a)

/-- An access as it stands before it is put in flight from `t`. -/
structure Ctx.Fresh (x : Ctx) (t : State) (a : Access) : Prop where
  id : a.id = 0
  after : a.after = []
  tags : a.tags = x.tags t

/-- An earlier access of the lane of the later one touches none of its bytes. -/
def Access.Apart (a b : Access) : Prop := a.hasLane b.lane = true → a.overlaps b.scratch b.pa b.size = false

theorem mem_afterOf {x : Ctx} {s : State} {l pa size id : Nat} {scratch writes : Bool} :
    id ∈ s.afterOf x l scratch pa size writes ↔
      (∃ e ∈ s.flight, e.id = id ∧ e.c = x.r.c ∧ e.hasLane l = true ∧ e.isFixed = false ∧ e.overlaps scratch pa size = true) ∨
      ∃ o ∈ x.c.orders, o.lanes.getLsbD l = true ∧ (id ∈ o.acq ∨ writes = true ∧ id ∈ o.rel) := by
  unfold State.afterOf State.unperformed
  rw [List.mem_append]
  refine or_congr ?_ ?_
  · simp only [List.mem_map, List.mem_filter, Bool.and_eq_true, beq_iff_eq, Bool.not_eq_true']
    exact ⟨fun ⟨e, ⟨⟨he, ⟨hc, hl⟩, hf⟩, ho⟩, hid⟩ => ⟨e, he, hid, hc, hl, hf, ho⟩,
      fun ⟨e, he, hid, hc, hl, hf, ho⟩ => ⟨e, ⟨⟨he, ⟨hc, hl⟩, hf⟩, ho⟩, hid⟩⟩
  · rw [List.mem_flatMap]
    refine exists_congr fun o => and_congr_right fun _ => ?_
    by_cases hl : o.lanes.getLsbD l = true
    · cases writes <;> simp [hl]
    · simp [hl]

theorem mem_afterLanes {s : State} {uid pa size id : Nat} {op : AccOp} {scratch : Bool} : id ∈ s.afterLanes uid op scratch pa size ↔
    op.writes = true ∧ ∃ e ∈ s.flight, e.id = id ∧ e.uid = uid ∧ e.isFixed = false ∧
      ((∃ p, op = .tready p) ∨ e.overlaps scratch pa size = true) := by
  unfold State.afterLanes
  have all : (match op with | .tready _ => true | _ => false) = true ↔ ∃ p, op = .tready p := by cases op <;> simp
  by_cases hw : op.writes = true
  · simp only [hw, Bool.not_true, Bool.false_eq_true, if_false, true_and, List.mem_map, List.mem_filter, Bool.and_eq_true,
      beq_iff_eq, Bool.not_eq_true', Bool.or_eq_true]
    exact ⟨fun ⟨e, ⟨he, ⟨hu, hf⟩, ho⟩, hid⟩ => ⟨e, he, hid, hu, hf, ho.imp_left all.1⟩,
      fun ⟨e, he, hid, hu, hf, ho⟩ => ⟨e, ⟨he, ⟨hu, hf⟩, ho.imp_left all.2⟩, hid⟩⟩
  · simp [hw]

theorem mem_ordered_after {x : Ctx} {s : State} {a : Access} {id : Nat} : id ∈ (x.ordered s a).after ↔
    id ∈ s.afterOf x a.lane a.scratch a.pa a.size a.op.writes ∨ id ∈ s.afterLanes x.uid a.op a.scratch a.pa a.size :=
  List.mem_dedup.trans List.mem_append

section
variable {x : Ctx} {t v : State} {as : List Access}

theorem Ctx.launches_nil : x.Launches t t [] := ⟨[], by simp, rfl, rfl, by simp⟩

theorem bs_id {bs : List Access} {n : Nat} (hids : bs.map (·.id) = (List.range bs.length).map (n + ·)) {e : Access} (he : e ∈ bs) :
    e.id < n + bs.length := by
  have hin : e.id ∈ (List.range bs.length).map (n + ·) := hids ▸ List.mem_map_of_mem he
  obtain ⟨k, hk, hke⟩ := List.mem_map.1 hin
  have := List.mem_range.1 hk
  omega

/-- What an access comes after does not change when a later one is put in flight. -/
theorem Ctx.comesAfter_earlier {bs : List Access} {a b : Access} {id : Nat} (hid : a.id < b.id) :
    x.ComesAfter t (bs ++ [b]) a id ↔ x.ComesAfter t bs a id := by
  unfold Ctx.ComesAfter
  refine or_congr_right (or_congr_right (and_congr_right fun _ => exists_congr fun e => ?_))
  constructor
  · rintro ⟨he, hi, hu, hf, hb, ho⟩
    refine ⟨?_, hi, hu, hf, hb, ho⟩
    rcases List.mem_append.1 he with he | he
    · exact List.mem_append_left _ he
    · rcases List.mem_append.1 he with he | he
      · exact List.mem_append_right _ he
      · obtain rfl := List.mem_singleton.1 he
        exact List.mem_append_left _ (hb.resolve_right (by omega))
  · rintro ⟨he, h⟩
    refine ⟨?_, h⟩
    rw [← List.append_assoc]
    exact List.mem_append_left _ he

/-- A newly launched access comes after what the model orders it behind. -/
theorem Ctx.ordered_after {bs : List Access} {a : Access} {id : Nat} {w : State} (hw : w.flight = t.flight ++ bs)
    (hids : bs.map (·.id) = (List.range bs.length).map (t.fresh + ·)) (hn : w.fresh = t.fresh + bs.length)
    (hapart : ∀ e ∈ bs, e.Apart a) :
    id ∈ (x.ordered w a).after ↔ x.ComesAfter t (bs ++ [{ x.ordered w a with id := w.fresh }]) { x.ordered w a with id := w.fresh } id := by
  rw [mem_ordered_after, mem_afterOf, mem_afterLanes, hw]
  unfold Ctx.ComesAfter
  rw [or_assoc]
  have lane : (∃ e ∈ t.flight ++ bs, e.id = id ∧ e.c = x.r.c ∧ e.hasLane a.lane = true ∧ e.isFixed = false ∧
      e.overlaps a.scratch a.pa a.size = true) ↔
      ∃ e ∈ t.flight, e.id = id ∧ e.c = x.r.c ∧ e.hasLane a.lane = true ∧ e.isFixed = false ∧ e.overlaps a.scratch a.pa a.size = true := by
    refine ⟨fun ⟨e, he, h⟩ => ⟨e, ?_, h⟩, fun ⟨e, he, h⟩ => ⟨e, List.mem_append_left _ he, h⟩⟩
    obtain ⟨-, -, hl, -, ho⟩ := h
    refine (List.mem_append.1 he).resolve_right fun hb => ?_
    rw [hapart e hb hl] at ho
    cases ho
  refine or_congr lane (or_congr Iff.rfl (and_congr_right fun _ => exists_congr fun e => ?_))
  constructor
  · rintro ⟨he, hi, hu, hf, ho⟩
    refine ⟨?_, hi, hu, hf, ?_, ho⟩
    · rw [← List.append_assoc]
      exact List.mem_append_left _ he
    · exact (List.mem_append.1 he).imp_right fun hb => (bs_id hids hb).trans_eq hn.symm
  · rintro ⟨he, hi, hu, hf, hb, ho⟩
    refine ⟨?_, hi, hu, hf, ho⟩
    rcases hb with hb | hb
    · exact List.mem_append_left _ hb
    · rw [← List.append_assoc] at he
      refine (List.mem_append.1 he).resolve_right fun hs => ?_
      obtain rfl := List.mem_singleton.1 hs
      exact absurd hb (Nat.lt_irrefl _)

theorem Ctx.Launches.snoc (h : x.Launches t v as) {a : Access} (ha : x.Fresh t a) (hapart : ∀ e ∈ as, e.Apart a) :
    x.Launches t (x.launch v a) (as ++ [a]) := by
  obtain ⟨bs, rfl, hids, hclean, hafter⟩ := h
  set w : State := { t with fresh := t.fresh + bs.length, flight := t.flight ++ bs } with hw
  set b : Access := { x.ordered w a with id := w.fresh } with hb
  have apart : ∀ e ∈ bs, e.Apart a := fun e he =>
    hapart { e with id := 0, after := [] } (hclean ▸ List.mem_map_of_mem (f := fun a => { a with id := 0, after := [] }) he)
  refine ⟨bs ++ [b], ?_, ?_, ?_, fun e he id => ?_⟩
  · simp [Ctx.launch, State.launchAccess, State.bump, hw, hb, Nat.add_assoc]
  · rw [List.map_append, hids, List.length_append, List.length_singleton, List.range_succ, List.map_append]
    rfl
  · rw [List.map_append, hclean]
    have clean : ({ b with id := 0, after := [] } : Access) = a := by
      obtain ⟨hid, haf, htags⟩ := ha
      have tags : x.tags w = a.tags := htags.symm
      rw [hb, Ctx.ordered, tags]
      cases a
      simp_all
    rw [List.map_singleton, clean]
  · rcases List.mem_append.1 he with he | he
    · have lt : e.id < b.id := bs_id hids he
      rw [hafter e he id, or_false, or_false, Ctx.comesAfter_earlier lt]
    · obtain rfl := List.mem_singleton.1 he
      rw [or_false]
      exact Ctx.ordered_after rfl hids rfl apart

/-- Accesses of distinct lanes, or of distinct bytes, are put in flight in their order. -/
theorem Ctx.launches_foldl (hf : ∀ a ∈ as, x.Fresh t a) (hp : as.Pairwise Access.Apart) : x.Launches t (as.foldl x.launch t) as := by
  induction as using List.reverseRecOn with
  | nil => exact Ctx.launches_nil
  | append_singleton as a ih =>
    obtain ⟨before, -, cross⟩ := List.pairwise_append.1 hp
    rw [List.foldl_append]
    exact (ih (fun e he => hf e (List.mem_append_left _ he)) before).snoc (hf a (by simp)) fun e he => cross e he a (by simp)

end

/-! ### Plain accesses -/

/-- A part of a plain access of a lane (R104): the access `a` of the whole, cut to offset and size of the part. -/
def Access.part (a : Access) (p : Nat × Nat) : Access :=
  { a with va := a.va + BitVec.ofNat 64 p.1, pa := a.pa + p.1, size := p.2, bytes := (a.bytes.drop p.1).take p.2 }

theorem pieces_eq (size : Nat) : pieces size = halvesOf size := by
  simp [pieces, halvesOf]

section
variable {x : Ctx} {t : State} {size : Nat} {ls : List Nat} {f : Nat → Access}

/-- The accesses that the lanes `ls` put in flight, `f` giving a lane's. -/
def accessesOf (size : Nat) (f : Nat → Access) (ls : List Nat) : List Access := ls.flatMap fun l => (halvesOf size).map (f l).part

theorem accessesOf_cons (l : Nat) : accessesOf size f (l :: ls) = (halvesOf size).map (f l).part ++ accessesOf size f ls := rfl

theorem mem_accessesOf {a : Access} : a ∈ accessesOf size f ls ↔ ∃ l ∈ ls, ∃ p ∈ halvesOf size, (f l).part p = a := by
  simp [accessesOf, List.mem_flatMap]

theorem halves_apart (a : Access) : ((halvesOf size).map a.part).Pairwise Access.Apart := by
  unfold halvesOf
  split
  · refine List.pairwise_pair.2 fun _ => ?_
    simp [Access.overlaps, Access.part]
  · exact List.pairwise_singleton _ _

/-- A plain access is one of its lane alone. -/
def Access.Plain (a : Access) : Prop := a.op = .load ∨ a.op = .store

theorem Access.Plain.hasLane {a : Access} (h : a.Plain) (l : Nat) : a.hasLane l = (a.lane == l) := by
  unfold Access.hasLane
  rcases h with h | h <;> rw [h]

theorem accessesOf_apart (hl : ∀ l, (f l).lane = l) (ho : ∀ l, (f l).Plain) (hn : ls.Nodup) :
    (accessesOf size f ls).Pairwise Access.Apart := by
  induction ls with
  | nil => exact List.Pairwise.nil
  | cons l ls ih =>
    obtain ⟨hnot, hrest⟩ := List.nodup_cons.1 hn
    rw [accessesOf_cons]
    refine List.pairwise_append.2 ⟨halves_apart _, ih hrest, fun a ha b hb hlane => ?_⟩
    obtain ⟨p, -, rfl⟩ := List.mem_map.1 ha
    obtain ⟨k, hk, q, -, rfl⟩ := mem_accessesOf.1 hb
    have same : (f l).hasLane (f k).lane = true := hlane
    rw [(ho l).hasLane, hl, hl, beq_iff_eq] at same
    exact absurd (same ▸ hk) hnot

theorem accessesOf_fresh (hf : ∀ l ∈ ls, x.Fresh t (f l)) : ∀ a ∈ accessesOf size f ls, x.Fresh t a := by
  intro a ha
  obtain ⟨l, hl, p, -, rfl⟩ := mem_accessesOf.1 ha
  obtain ⟨hid, haf, htags⟩ := hf l hl
  exact ⟨hid, haf, htags⟩

theorem plainAccess_eq {l pa scope hint : Nat} {op : AccOp} {scratch draft covers : Bool} {va : DWord} {bytes : List Byte}
    {tags : Nat × Nat} :
    x.plainAccess t l op scratch va pa size scope bytes draft covers hint = ((halvesOf size).map (Access.part
      { id := 0, uid := x.uid, c := x.r.c, core := x.c.core, lane := l, op := op, scratch := scratch, va := va, pa := pa, size := size
        scope := scope, bytes := bytes, draft := draft, covers := covers, hint := hint, tags := tags })).foldl x.launch t := by
  rw [List.foldl_map, ← pieces_eq]
  rfl

/-- The lanes put their accesses in flight one after another. -/
theorem plain_launches {body : State → Nat → State} (hl : ∀ l, (f l).lane = l) (ho : ∀ l, (f l).Plain) (hf : ∀ l, x.Fresh t (f l))
    (hn : ls.Nodup) (hb : ∀ w l, body w l = ((halvesOf size).map (f l).part).foldl x.launch w) :
    x.Launches t (ls.foldl body t) (accessesOf size f ls) := by
  have folds : ls.foldl body t = (accessesOf size f ls).foldl x.launch t := by
    rw [accessesOf, List.foldl_flatMap, show body = _ from funext₂ hb]
  rw [folds]
  exact Ctx.launches_foldl (accessesOf_fresh fun l _ => hf l) (accessesOf_apart hl ho hn)

end

end Sys2Proof.Machine

namespace Sys2Proof.Machine

/-! ## The lanes of an access that pass their checks (R101, R102) -/

theorem fails_lanes (x : Ctx) (addr : Nat → DWord) (chk : Nat → Except XFault Phys) (l : Nat) :
    l ∈ (x.fails addr chk).map (·.lane) ↔ x.ex.getLsbD l = true ∧ ¬ ∃ p, chk l = .ok p := by
  unfold Ctx.fails Ctx.lanes
  simp only [List.mem_map, List.mem_filterMap, mem_lanesOf]
  constructor
  · rintro ⟨f, ⟨k, hk, hf⟩, rfl⟩
    cases hc : chk k with
    | ok p => simp [hc] at hf
    | error e =>
      obtain rfl : (⟨k, e.cause, addr k, e.gpa⟩ : LaneFault) = f := by simpa [hc] using hf
      exact ⟨hk, by simp [hc]⟩
  · rintro ⟨hl, hn⟩
    cases hc : chk l with
    | ok p => exact absurd ⟨p, hc⟩ hn
    | error e => exact ⟨⟨l, e.cause, addr l, e.gpa⟩, ⟨l, hl, by simp [hc]⟩, rfl⟩

/-- The lanes without a fault are those that pass. -/
theorem minus_fails {x : Ctx} {addr : Nat → DWord} {chk : Nat → Except XFault Phys} {good : Mask} (h : x.Passes chk good) :
    x.minus (x.fails addr chk) = x.only good := by
  have hex : x.ex &&& ~~~maskOf ((x.fails addr chk).map (·.lane)) = good := by
    refine BitVec.eq_of_getLsbD_eq fun l hl => Bool.eq_iff_iff.2 ?_
    have failed : (maskOf ((x.fails addr chk).map (·.lane))).getLsbD l = true ↔ x.ex.getLsbD l = true ∧ ¬ ∃ p, chk l = .ok p := by
      rw [getLsbD_maskOf, fails_lanes, and_iff_right hl]
    rw [BitVec.getLsbD_and, BitVec.getLsbD_not, Bool.and_eq_true, Bool.and_eq_true, decide_eq_true hl, h l, Bool.not_eq_true',
      ← Bool.not_eq_true, failed]
    tauto
  unfold Ctx.minus Ctx.only
  rw [hex]

theorem setWidth_ofInt (z : Int) : (BitVec.ofInt 64 z).setWidth 32 = BitVec.ofInt 32 z := by
  apply BitVec.eq_of_toNat_eq
  simp only [BitVec.toNat_setWidth, BitVec.toNat_ofInt]
  omega

theorem Ctx.at32_eq (x : Ctx) (o : OpM) (size l : Nat) : (x.rd o.a l + (offsetOf o size).truncate 32).toNat = x.at32 o size l := by
  have product : (offsetOf o size).truncate 32 = BitVec.ofInt 32 (size * o.off.toInt) := by
    unfold offsetOf
    rw [BitVec.signExtend, mul_comm, BitVec.truncate_eq_setWidth, BitVec.setWidth_mul _ _ (by decide), BitVec.ofInt_mul,
      setWidth_ofInt]
    simp
  unfold Ctx.at32
  rw [product]

/-! ## Effects from a state with the same blocks -/

theorem Ctx.noteOwe_frame (x : Ctx) (s : State) (k : Cls) (ls : Mask) (os : List (Reg × (Nat → Word))) (fin : Finish) :
    x.note (x.owe s k ls os) ls fin =
      { s with blocks := (x.note (x.owe s k ls os) ls fin).blocks
               issued := s.issued ++ [⟨x.uid, x.r.c, x.r.split, ls, setFlag x.h, fin⟩] } := by
  unfold Ctx.note Ctx.owe
  split <;> split <;> rfl

theorem Ctx.noteOwe_blocks (x : Ctx) {s t : State} (h : t.blocks = s.blocks) (k : Cls) (ls : Mask) (os : List (Reg × (Nat → Word)))
    (fin : Finish) : (x.note (x.owe t k ls os) ls fin).blocks = (x.note (x.owe s k ls os) ls fin).blocks := by
  unfold Ctx.note Ctx.owe State.modCohort State.modBlock
  split <;> split <;> simp [h]

theorem Ctx.note_frame (x : Ctx) (s : State) (ls : Mask) (fin : Finish) : x.note s ls fin =
    { s with blocks := (x.note s ls fin).blocks, issued := s.issued ++ [⟨x.uid, x.r.c, x.r.split, ls, setFlag x.h, fin⟩] } := by
  unfold Ctx.note
  split <;> rfl

theorem Ctx.note_blocks (x : Ctx) {s t : State} (h : t.blocks = s.blocks) (ls : Mask) (fin : Finish) :
    (x.note t ls fin).blocks = (x.note s ls fin).blocks := by
  unfold Ctx.note State.modCohort State.modBlock
  split <;> simp [h]

section
variable {i : Instr} {s u t : State} {x : Ctx} {ls : Mask} {fin : Finish}

/-- An effect from a state is one from another with the same blocks. -/
theorem Ctx.Effect.beside {v : State} {k : Cls} {os : List (Reg × (Nat → Word))} (h : x.Effect u v k ls os fin) (ht : t.blocks = u.blocks) :
    x.Effect t { t with blocks := v.blocks, issued := t.issued ++ [⟨x.uid, x.r.c, x.r.split, ls, setFlag x.h, fin⟩] } k ls os fin := by
  obtain ⟨d, hv, hd⟩ := h
  have blocks : v.blocks = (t.modCohort x.r.c fun _ => d).blocks := by
    rw [hv]
    unfold State.modCohort State.modBlock
    simp only [ht]
  refine ⟨d, ?_, hd⟩
  rw [blocks]
  rfl

/-- Results are owed and the instruction is noted from a state with the same blocks as where its effect begins. -/
theorem effect_beside (h : s.beginIssue i = .go x u) (ht : t.blocks = u.blocks) (k : Cls) (os : List (Reg × (Nat → Word)))
    (hl : ls ≠ 0#64 ∨ os = []) : x.Effect t (x.note (x.owe t k ls os) ls fin) k ls os fin := by
  have moved := (effect_owe_note h k ls os hl fin).beside ht
  rwa [← Ctx.noteOwe_blocks x ht, ← Ctx.noteOwe_frame] at moved

theorem note_beside (h : s.beginIssue i = .go x u) (ht : t.blocks = u.blocks) (k : Cls) :
    x.Effect t (x.note t ls fin) k ls [] fin := by
  have moved := (note_effect h ls k fin).beside ht
  rwa [← Ctx.note_blocks x ht, ← Ctx.note_frame] at moved

end

theorem Ctx.tags_noteOwe (x : Ctx) (s : State) (k : Cls) (ls : Mask) (os : List (Reg × (Nat → Word))) (fin : Finish) :
    x.tags (x.note (x.owe s k ls os) ls fin) = x.tags s := by
  rw [Ctx.noteOwe_frame]
  rfl

theorem Ctx.tags_note (x : Ctx) (s : State) (ls : Mask) (fin : Finish) : x.tags (x.note s ls fin) = x.tags s := by
  rw [Ctx.note_frame]
  rfl

end Sys2Proof.Machine

namespace Sys2Proof.Machine

/-! ## A list in the order of a key -/

section
variable {f : Nat → Nat} {t l : List Nat}

/-- In the order of the key, equals in rising order. -/
def KeyOrder (f : Nat → Nat) (k l : Nat) : Prop := f k < f l ∨ f k = f l ∧ k < l

/-- A number in its place among numbers in the order of a key, behind those with its own key. -/
def insertOn (f : Nat → Nat) (t : List Nat) (a : Nat) : List Nat :=
  (t.takeWhile fun b => decide (f b ≤ f a)) ++ [a] ++ (t.dropWhile fun b => decide (f b ≤ f a))

theorem sortOn_eq (f : Nat → Nat) (l : List Nat) : sortOn f l = l.foldl (insertOn f) [] := rfl

theorem insertOn_perm (a : Nat) : (insertOn f t a).Perm (t ++ [a]) := by
  unfold insertOn
  rw [List.append_assoc]
  conv_rhs => rw [← List.takeWhile_append_dropWhile (p := fun b => decide (f b ≤ f a)) (l := t), List.append_assoc]
  exact List.perm_append_comm.append_left _

theorem dropWhile_above {a c : Nat} (h : t.Pairwise (KeyOrder f)) (hc : c ∈ t.dropWhile fun b => decide (f b ≤ f a)) : f a < f c := by
  induction t with
  | nil => cases hc
  | cons b t ih =>
    obtain ⟨first, rest⟩ := List.pairwise_cons.1 h
    by_cases hb : f b ≤ f a
    · rw [List.dropWhile_cons_of_pos (by simpa using hb)] at hc
      exact ih rest hc
    · rw [List.dropWhile_cons_of_neg (by simpa using hb)] at hc
      rcases List.mem_cons.1 hc with rfl | hc
      · omega
      · rcases first c hc with hlt | ⟨heq, -⟩ <;> omega

theorem insertOn_ordered {a : Nat} (h : t.Pairwise (KeyOrder f)) (ha : ∀ b ∈ t, b < a) : (insertOn f t a).Pairwise (KeyOrder f) := by
  have parts := h
  rw [← List.takeWhile_append_dropWhile (p := fun b => decide (f b ≤ f a)) (l := t)] at parts
  obtain ⟨low, high, cross⟩ := List.pairwise_append.1 parts
  have below : ∀ b ∈ t.takeWhile fun b => decide (f b ≤ f a), KeyOrder f b a := fun b hb =>
    (Nat.lt_or_eq_of_le (by simpa using List.mem_takeWhile_imp hb)).imp_right fun he => ⟨he, ha b ((List.takeWhile_sublist _).subset hb)⟩
  have above : ∀ c ∈ t.dropWhile fun b => decide (f b ≤ f a), KeyOrder f a c := fun c hc => .inl (dropWhile_above h hc)
  unfold insertOn
  rw [List.append_assoc]
  refine List.pairwise_append.2 ⟨low, List.pairwise_cons.2 ⟨above, high⟩, fun b hb c hc => ?_⟩
  rcases List.mem_cons.1 hc with rfl | hc
  · exact below b hb
  · exact cross b hb c hc

theorem sortOn_perm (f : Nat → Nat) (l : List Nat) : (sortOn f l).Perm l := by
  rw [sortOn_eq]
  induction l using List.reverseRecOn with
  | nil => exact .nil
  | append_singleton l a ih =>
    rw [List.foldl_append]
    exact (insertOn_perm a).trans (ih.append_right _)

/-- Rising numbers are put in the order of the key. -/
theorem sortOn_ordered (h : l.Pairwise (· < ·)) : (sortOn f l).Pairwise (KeyOrder f) := by
  rw [sortOn_eq]
  induction l using List.reverseRecOn with
  | nil => exact List.Pairwise.nil
  | append_singleton l a ih =>
    obtain ⟨before, -, cross⟩ := List.pairwise_append.1 h
    rw [List.foldl_append]
    refine insertOn_ordered (ih before) fun b hb => cross b ?_ a (by simp)
    exact (sortOn_perm f l).subset hb

end

/-! ## LDS and STS (R100, R101, R104) -/

section
variable {i : Instr} {o : OpM} {s u : State} {x : Ctx} {good : Mask} {size n : Nat} {signed : Bool}

/-- The scratchpad access of a lane, with the bytes that it writes. -/
def Ctx.scratchAccess (x : Ctx) (u : State) (o : OpM) (op : AccOp) (size : Nat) (bytes : Nat → List Byte) (l : Nat) : Access :=
  { id := 0, uid := x.uid, c := x.r.c, core := x.c.core, lane := l, op := op, scratch := true, va := BitVec.ofNat 64 (x.at32 o size l)
    pa := x.at32 o size l, size := size, scope := 0, bytes := bytes l, tags := x.tags u }

/-- The faults of a scratchpad access. -/
def Ctx.scratchFails (x : Ctx) (o : OpM) (size : Nat) : List LaneFault :=
  x.fails (fun l => BitVec.ofNat 64 (x.at32 o size l)) fun l => x.checkScratch (x.at32 o size l) size

theorem lanesOf_nodup (m : Mask) : (lanesOf m).Nodup := (lanesOf_pairwise m).imp Nat.ne_of_lt

/-- The scratchpad accesses of lanes, in flight. -/
theorem scratch_launches {t : State} {op : AccOp} {bytes : Nat → List Byte} {ls : List Nat} (hop : op = .load ∨ op = .store)
    (ht : x.tags t = x.tags u) (hn : ls.Nodup) {body : State → Nat → State}
    (hb : ∀ w l, body w l = x.plainAccess w l op true (BitVec.ofNat 64 (x.at32 o size l)) (x.at32 o size l) size 0 (bytes l) false false) :
    x.Launches t (ls.foldl body t) (accessesOf size (x.scratchAccess u o op size bytes) ls) :=
  plain_launches (fun _ => rfl) (fun _ => hop) (fun _ => ⟨rfl, rfl, ht.symm⟩) hn fun w l => (hb w l).trans plainAccess_eq

theorem loadScratch_next (h : Issues i s x u) (hp : x.Passes (fun l => x.checkScratch (x.at32 o size l) size) good) :
    loadScratch i o size n signed s = .next ((x.raise (if good == 0#64 then u else
      (lanesOf good).foldl (fun t l => (x.only good).plainAccess t l .load true (BitVec.ofNat 64 (x.at32 o size l)) (x.at32 o size l) size 0
        [] false false) ((x.only good).note ((x.only good).owe u .v good (outs o.d n fun _ => 0)) good
          (.reply o.d n size signed ((encode i).headD 0) x.sp.pc))) (x.scratchFails o size)).settle x.r) := by
  have next : loadScratch i o size n signed s = .next ((_ : State).settle x.r) := issue_next h _
  simp only [Ctx.at32_eq] at next
  rw [next]
  have only : x.minus (faultsOf x.lanes (fun l => BitVec.ofNat 64 (x.at32 o size l)) fun l => x.checkScratch (x.at32 o size l) size) =
      x.only good := minus_fails hp
  rw [only]
  rfl

theorem loadScratch_fails (h : Issues i s x u) (hp : x.Passes (fun l => x.checkScratch (x.at32 o size l) size) good) (hg : good = 0#64) :
    loadScratch i o size n signed s = .next ((x.raise u (x.scratchFails o size)).settle x.r) := by
  rw [loadScratch_next h hp, if_pos (by simpa using hg)]

theorem loadScratch_loads (h : Issues i s x u) (hp : x.Passes (fun l => x.checkScratch (x.at32 o size l) size) good) (hg : good ≠ 0#64) :
    ∃ t v, (x.only good).Effect u t .v good (outs o.d n fun _ => 0) (.reply o.d n size signed ((encode i).headD 0) x.sp.pc) ∧
      x.Launches t v (accessesOf size (x.scratchAccess u o .load size fun _ => []) (lanesOf good)) ∧
      loadScratch i o size n signed s = .next ((x.raise v (x.scratchFails o size)).settle x.r) := by
  rw [loadScratch_next h hp, if_neg (by simpa using hg)]
  refine ⟨_, _, effect_owe_note h.begins .v good _ (.inl hg) _, ?_, rfl⟩
  exact scratch_launches (.inl rfl) (Ctx.tags_noteOwe ..) (lanesOf_nodup good) fun _ _ => rfl

/-- The bytes that the lanes of an STS touch. -/
def Ctx.scratchBytes (x : Ctx) (o : OpM) (size : Nat) : List Nat :=
  x.lanes.flatMap fun l => (List.range size).map fun k => x.at32 o size l + k

/-- An STS takes no checkpoint first, or has taken it, and closes no packet too many. -/
structure Ctx.MayStore (x : Ctx) (u : State) (o : OpM) (size : Nat) : Prop where
  quiet : x.sp.forced = true ∨ x.g.ckpt = false ∨ u.publishes x.r.c.b (x.scratchBytes o size) = false
  room : u.wouldOverflow x.r.c.b ((x.scratchBytes o size).map fun k => (k, 0)) = false

/-- What the stores of an STS make of the state. -/
def Ctx.scratchStored (x : Ctx) (u : State) (i : Instr) (o : OpM) (size n : Nat) (good : Mask) : State :=
  (sortOn (x.at32 o size) (lanesOf good)).foldl (fun t l => (x.only good).plainAccess t l .store true (BitVec.ofNat 64 (x.at32 o size l))
    (x.at32 o size l) size 0 (leBytes size (x.rdN n o.d l)) false false)
    ((x.only good).note u good (.performed ((encode i).headD 0) x.sp.pc false))

theorem storeScratch_next (h : Issues i s x u) (hm : x.MayStore u o size)
    (hp : x.Passes (fun l => x.checkScratch (x.at32 o size l) size) good)
    (hf : u.fresh ≤ (if good == 0#64 then u else x.scratchStored u i o size n good).fresh) :
    storeScratch i o size n s = .next (x.after ((x.raise (if good == 0#64 then u else x.scratchStored u i o size n good)
      (x.scratchFails o size)).settle x.r)) := by
  obtain ⟨quiet, room⟩ := hm
  unfold storeScratch
  simp only [Ctx.at32_eq]
  refine forced_passes h.begins quiet ((issueIf_next h rfl ?_ _).trans ?_) ?_
  · rw [Bool.not_eq_true']
    exact room
  · have only : x.minus (faultsOf x.lanes (fun l => BitVec.ofNat 64 (x.at32 o size l)) fun l => x.checkScratch (x.at32 o size l) size) =
        x.only good := minus_fails hp
    rw [only]
    rfl
  · have raised := (Ctx.before_raise x (if good == 0#64 then u else x.scratchStored u i o size n good) (x.scratchFails o size)).1
    exact (beginIssue_fresh h.begins).trans_le (hf.trans (raised.trans (State.before_settle _ _).1))

theorem storeScratch_fails (h : Issues i s x u) (hm : x.MayStore u o size)
    (hp : x.Passes (fun l => x.checkScratch (x.at32 o size l) size) good) (hg : good = 0#64) :
    storeScratch i o size n s = .next (x.after ((x.raise u (x.scratchFails o size)).settle x.r)) := by
  have none : (if good == 0#64 then u else x.scratchStored u i o size n good) = u := if_pos (by simpa using hg)
  rw [storeScratch_next h hm hp (by rw [none]), none]

theorem storeScratch_stores (h : Issues i s x u) (hm : x.MayStore u o size)
    (hp : x.Passes (fun l => x.checkScratch (x.at32 o size l) size) good) (hg : good ≠ 0#64) :
    ∃ t v, (x.only good).Effect u t .v good [] (.performed ((encode i).headD 0) x.sp.pc false) ∧
      (∃ ls : List Nat, ls.Perm (lanesOf good) ∧ ls.Pairwise (KeyOrder (x.at32 o size)) ∧
        x.Launches t v (accessesOf size (x.scratchAccess u o .store size fun l => leBytes size (x.rdN n o.d l)) ls)) ∧
      storeScratch i o size n s = .next (x.after ((x.raise v (x.scratchFails o size)).settle x.r)) := by
  have some : (if good == 0#64 then u else x.scratchStored u i o size n good) = x.scratchStored u i o size n good :=
    if_neg (by simpa using hg)
  have effect : (x.only good).Effect u ((x.only good).note u good (.performed ((encode i).headD 0) x.sp.pc false)) .v good []
      (.performed ((encode i).headD 0) x.sp.pc false) := note_effect h.begins good .v _
  have ordered := sortOn_perm (x.at32 o size) (lanesOf good)
  have launched : x.Launches ((x.only good).note u good (.performed ((encode i).headD 0) x.sp.pc false))
      (x.scratchStored u i o size n good)
      (accessesOf size (x.scratchAccess u o .store size fun l => leBytes size (x.rdN n o.d l)) (sortOn (x.at32 o size) (lanesOf good))) :=
    scratch_launches (.inr rfl) (Ctx.tags_note ..) (ordered.nodup_iff.2 (lanesOf_nodup good)) fun _ _ => rfl
  refine ⟨_, _, effect, ⟨_, ordered, sortOn_ordered (lanesOf_pairwise good), launched⟩, ?_⟩
  refine (storeScratch_next h hm hp ?_).trans (by rw [some])
  rw [some]
  obtain ⟨bs, hv, -⟩ := launched
  obtain ⟨d, ht, -⟩ := effect
  rw [hv, ht]
  exact Nat.le_add_right _ _

end

/-! ## O25 -/

theorem MemKind.need_eq (k : MemKind) : (match k with | .st => .wr | .atom => .rw | _ => .rd : Need) = k.need := by
  cases k <;> rfl

/-- Settles O25: the checks case by case; an LDS or STS launches the accesses of the lanes that pass, for an STS in the order in which
they are sorted by offset. -/
theorem accessChecksAndScratchpad : Obligations.AccessChecksAndScratchpad := by
  unfold Obligations.AccessChecksAndScratchpad
  refine ⟨fun x s k va off size _ => ?_, fun o s x u good => ?_⟩
  · intro tr barred chk s3
    have need : tr = s.xlate x.c.core x.g x.sp.mode k.need va := by
      dsimp only [tr]
      rw [← MemKind.need_eq] <;> rfl
    refine ⟨checkGlobal_misaligned, checkGlobal_high, fun f h ht hf => ?_, fun p h ht => ⟨fun hb => ?_, fun hg hp => ?_⟩,
      fun f r h ht hf => ⟨fun hb => ?_, fun hb => ?_⟩, checkScratch_misaligned,
      fun ha hin => checkScratch_outside ha (mt (inScratch_iff _ _ _).1 hin), fun ha hin => checkScratch_inside ha ((inScratch_iff _ _ _).2 hin)⟩
    · exact checkGlobal_untranslated ⟨h.1, h.2⟩ (need ▸ ht) hf
    · exact checkGlobal_barred ⟨h.1, h.2⟩ (need ▸ ht) hb
    · have ruled : chk = k.ruled p.ws (.ok p) := checkGlobal_ruled ⟨h.1, h.2⟩ (need ▸ ht) hg hp
      rw [ruled]
      exact ⟨MemKind.ruled_write, MemKind.ruled_ldw, MemKind.ruled_passes⟩
    · exact checkGlobal_leaf_barred ⟨h.1, h.2⟩ (need ▸ ht) hf hb
    · have ruled : chk = k.ruled (decide (f.gpa / 2 ^ 44 = 1)) (.error f) := checkGlobal_leaf_ruled ⟨h.1, h.2⟩ (need ▸ ht) hf hb
      rw [ruled]
      refine ⟨fun hw => MemKind.ruled_write (decide_eq_true hw), fun hw => MemKind.ruled_ldw (decide_eq_false hw), fun hw hl => ?_⟩
      exact MemKind.ruled_passes (by rwa [decide_eq_true_iff]) (by rwa [decide_eq_false_iff_not])
  · intro chk addr acc loads stores
    have loaded (i : Instr) (size n : Nat) (signed : Bool) (he : exec i s = loadScratch i o size n signed s) : loads i size n signed := by
      intro h hp
      rw [he]
      exact ⟨loadScratch_fails h hp, loadScratch_loads h hp⟩
    have stored (i : Instr) (size n : Nat) (he : exec i s = storeScratch i o size n s) : stores i size n := by
      intro h hp quiet room
      rw [he]
      exact ⟨storeScratch_fails h ⟨quiet, room⟩ hp, storeScratch_stores h ⟨quiet, room⟩ hp⟩
    exact ⟨loaded _ 1 1 true rfl, loaded _ 1 1 false rfl, loaded _ 2 1 true rfl, loaded _ 2 1 false rfl, loaded _ 4 1 false rfl,
      loaded _ 8 2 false rfl, loaded _ 16 4 false rfl, stored _ 1 1 rfl, stored _ 2 1 rfl, stored _ 4 1 rfl, stored _ 8 2 rfl,
      stored _ 16 4 rfl⟩

end Sys2Proof.Machine

namespace Sys2Proof.Machine

/-! ## LD, LDW and ST (R100-R106, R397) -/

section
variable {i : Instr} {o : OpM} {k : MemKind} {s u : State} {x : Ctx} {good : Mask} {size n : Nat} {signed : Bool}

theorem fillTlb_blocks (x : Ctx) (u : State) (ls : List Nat) (addr : Nat → DWord) : (x.fillTlb u ls addr).blocks = u.blocks :=
  (congrArg State.blocks (fillTlb_offTlb x u ls addr) :)

theorem tags_fillTlb (x : Ctx) (u : State) (ls : List Nat) (addr : Nat → DWord) : x.tags (x.fillTlb u ls addr) = x.tags u := by
  have parts : (x.fillTlb u ls addr).parts = u.parts := (congrArg State.parts (fillTlb_offTlb x u ls addr) :)
  unfold Ctx.tags State.part
  rw [parts]

/-- The pages that a global access has translated before it issues. -/
def Ctx.memPages (x : Ctx) (o : OpM) (size : Nat) : List DWord := (x.lanes.map (x.at64 o size)).filter fun a => a.toNat % size == 0

theorem memAddrs_eq (o : OpM) (size : Nat) (x : Ctx) : memAddrs o size x = x.memPages o size := by
  have addr : (fun l => x.rdD o.a l + offsetOf o size) = x.at64 o size := funext fun l => Ctx.at64_eq x o size l
  unfold Ctx.memPages
  rw [← addr]
  rfl

/-- The check of a lane's global access. -/
def Ctx.memCheck (x : Ctx) (u : State) (o : OpM) (k : MemKind) (size l : Nat) : Except XFault Phys :=
  x.checkGlobal u k (x.at64 o size l) size

/-- The faults of a global access. -/
def Ctx.memFails (x : Ctx) (u : State) (o : OpM) (k : MemKind) (size : Nat) : List LaneFault :=
  x.fails (x.at64 o size) (x.memCheck u o k size)

/-- The state whose TLBs hold the pages of the lanes that pass. -/
def Ctx.memFilled (x : Ctx) (u : State) (o : OpM) (size : Nat) (good : Mask) : State := x.fillTlb u (lanesOf good) (x.at64 o size)

/-- A lane's load of memory. -/
def Ctx.loadAccess (x : Ctx) (u : State) (o : OpM) (k : MemKind) (size l : Nat) : Access :=
  { id := 0, uid := x.uid, c := x.r.c, core := x.c.core, lane := l, op := .load, scratch := false, va := x.at64 o size l
    pa := paOf (x.memCheck u o k size) l, size := size, scope := o.scope.toNat, covers := decide (k = .ldw), hint := o.hint.toNat
    tags := x.tags u }

/-- The parts of the lanes' loads carry no bytes. -/
theorem accessesOf_loads (ls : List Nat) : accessesOf size (x.loadAccess u o k size) ls = ls.flatMap fun l => (halvesOf size).map fun p =>
    { x.loadAccess u o k size l with
      va := x.at64 o size l + BitVec.ofNat 64 p.1, pa := paOf (x.memCheck u o k size) l + p.1, size := p.2 } := by
  unfold accessesOf
  congr 1
  funext l
  refine List.map_congr_left fun p _ => ?_
  simp [Access.part, Ctx.loadAccess]

/-- The state in which the loads of the lanes that pass are in flight. -/
def Ctx.memLoaded (x : Ctx) (u : State) (i : Instr) (o : OpM) (k : MemKind) (size n : Nat) (signed : Bool) (good : Mask) : State :=
  (lanesOf good).foldl (fun t l => (x.only good).plainAccess t l .load false (x.at64 o size l) (paOf (x.memCheck u o k size) l) size
    o.scope.toNat [] false (k == .ldw) o.hint.toNat)
    ((x.only good).note ((x.only good).owe (x.memFilled u o size good) .v good (outs o.d n fun _ => 0)) good
      (.reply o.d n size signed ((encode i).headD 0) x.sp.pc))

theorem loadGlobal_suspends (h : Issues i s x u) (hm : ¬ x.Mapped u (x.memPages o size)) :
    ∃ t, loadGlobal i o k size n signed s = .next t ∧ x.Suspends s t (x.memPages o size) := by
  rw [← memAddrs_eq] at hm ⊢
  exact withWalks_suspends h hm

theorem loadGlobal_next (h : Issues i s x u) (hm : x.Mapped u (x.memPages o size)) (hp : x.Passes (x.memCheck u o k size) good) :
    loadGlobal i o k size n signed s = .next (x.walked (x.memPages o size) ((x.raise
      (if good == 0#64 then x.memFilled u o size good else x.memLoaded u i o k size n signed good) (x.memFails u o k size)).settle x.r)) := by
  rw [← memAddrs_eq] at hm ⊢
  refine withWalks_passes h.begins hm ((issue_next h _).trans ?_)
  simp only [Ctx.at64_eq]
  have only : x.minus (faultsOf x.lanes (x.at64 o size) (x.memCheck u o k size)) = x.only good := minus_fails hp
  unfold Ctx.memCheck at only
  rw [only]
  rfl

theorem memFilled_none (hg : good = 0#64) : x.memFilled u o size good = u := by
  subst hg
  unfold Ctx.memFilled Ctx.fillTlb
  split <;> rfl

theorem loadGlobal_fails (h : Issues i s x u) (hm : x.Mapped u (x.memPages o size)) (hp : x.Passes (x.memCheck u o k size) good)
    (hg : good = 0#64) : loadGlobal i o k size n signed s =
      .next (x.walked (x.memPages o size) ((x.raise u (x.memFails u o k size)).settle x.r)) := by
  rw [loadGlobal_next h hm hp, if_pos (by simpa using hg), memFilled_none hg]

theorem loadGlobal_loads (h : Issues i s x u) (hm : x.Mapped u (x.memPages o size)) (hp : x.Passes (x.memCheck u o k size) good)
    (hg : good ≠ 0#64) :
    ∃ t v, (x.only good).Effect (x.memFilled u o size good) t .v good (outs o.d n fun _ => 0)
        (.reply o.d n size signed ((encode i).headD 0) x.sp.pc) ∧
      x.Launches t v (accessesOf size (x.loadAccess u o k size) (lanesOf good)) ∧
      loadGlobal i o k size n signed s = .next (x.walked (x.memPages o size) ((x.raise v (x.memFails u o k size)).settle x.r)) := by
  rw [loadGlobal_next h hm hp, if_neg (by simpa using hg)]
  refine ⟨_, _, effect_beside h.begins (fillTlb_blocks ..) .v _ (.inl hg), ?_, rfl⟩
  exact plain_launches (fun _ => rfl) (fun _ => .inl rfl)
    (fun _ => ⟨rfl, rfl, ((Ctx.tags_noteOwe ..).trans (tags_fillTlb ..)).symm⟩) (lanesOf_nodup good) fun _ _ => plainAccess_eq

/-! ### ST -/

/-- The physical addresses that the lanes of an ST write. -/
def Ctx.storePas (x : Ctx) (u : State) (o : OpM) (size : Nat) (good : Mask) : List Nat :=
  (lanesOf good).map (paOf (x.memCheck u o .st size))

/-- A lane's store to memory. -/
def Ctx.storeAccess (x : Ctx) (u : State) (o : OpM) (size n : Nat) (good : Mask) (l : Nat) : Access :=
  { id := 0, uid := x.uid, c := x.r.c, core := x.c.core, lane := l, op := .store, scratch := false, va := x.at64 o size l
    pa := paOf (x.memCheck u o .st size) l, size := size, scope := o.scope.toNat, bytes := leBytes size (x.rdN n o.d l)
    draft := x.g.ckpt && decide (paOf (x.memCheck u o .st size) l / 2 ^ 44 ≠ 3)
    covers := coversSector (x.storePas u o size good) size (paOf (x.memCheck u o .st size) l), tags := x.tags u }

/-- The state of an ST that is noted. -/
def Ctx.memNoted (x : Ctx) (u : State) (i : Instr) (o : OpM) (size : Nat) (good : Mask) : State :=
  (x.only good).note (x.memFilled u o size good) good (.performed ((encode i).headD 0) x.sp.pc false)

/-- The state in which the stores of the lanes that pass are in flight. -/
def Ctx.memStored (x : Ctx) (u : State) (i : Instr) (o : OpM) (size n : Nat) (good : Mask) : State :=
  (lanesOf good).foldl (fun t l => (x.only good).plainAccess t l .store false (x.at64 o size l) (paOf (x.memCheck u o .st size) l) size
    o.scope.toNat (leBytes size (x.rdN n o.d l)) ((x.only good).drafts (paOf (x.memCheck u o .st size) l))
    (coversSector (x.storePas u o size good) size (paOf (x.memCheck u o .st size) l)))
    ((x.memNoted u i o size good).storeIssued x.c.core ((x.storePas u o size good).map (· / 128)))

theorem drafts_eq (x : Ctx) (pa : Nat) : x.drafts pa = (x.g.ckpt && decide (pa / 2 ^ 44 ≠ 3)) := by
  unfold Ctx.drafts paRegion
  rw [bne_eq, decide_not]
  rfl

/-- The core's own copies of the lines go, and no later load joins a fill of them (R240, R246). -/
theorem storeIssued_eq (t : State) (core : Nat) (pas : List Nat) : t.storeIssued core (pas.map (· / 128)) =
    { t.modCore core (fun c => { c with l1 := c.l1.filter fun e => pas.all fun p => p / 128 != e.line }) with
      flight := t.flight.map fun e => match e.miss with
        | some m => if e.core = core ∧ e.pa / 128 ∈ pas.map (· / 128) then { e with miss := some { m with opened := false } } else e
        | none => e } := by
  have kept (e : L1Line) : (!(pas.map (· / 128)).contains e.line) = pas.all fun p => p / 128 != e.line := by
    rw [Bool.eq_iff_iff]
    simp
  unfold State.storeIssued
  simp only [kept]
  congr 1
  refine List.map_congr_left fun e _ => ?_
  cases e.miss <;> simp

theorem storeGlobal_suspends (h : Issues i s x u) (hm : ¬ x.Mapped u (x.memPages o size)) :
    ∃ t, storeGlobal i o size n s = .next t ∧ x.Suspends s t (x.memPages o size) := by
  rw [← memAddrs_eq] at hm ⊢
  exact withWalks_suspends h hm

theorem storeGlobal_next (h : Issues i s x u) (hm : x.Mapped u (x.memPages o size)) (hp : x.Passes (x.memCheck u o .st size) good) :
    storeGlobal i o size n s = .next (x.walked (x.memPages o size) ((x.raise
      (if good == 0#64 then x.memFilled u o size good else x.memStored u i o size n good) (x.memFails u o .st size)).settle x.r)) := by
  rw [← memAddrs_eq] at hm ⊢
  refine withWalks_passes h.begins hm ((issue_next h _).trans ?_)
  simp only [Ctx.at64_eq]
  have only : x.minus (faultsOf x.lanes (x.at64 o size) (x.memCheck u o .st size)) = x.only good := minus_fails hp
  unfold Ctx.memCheck at only
  rw [only]
  rfl

theorem storeGlobal_fails (h : Issues i s x u) (hm : x.Mapped u (x.memPages o size)) (hp : x.Passes (x.memCheck u o .st size) good)
    (hg : good = 0#64) : storeGlobal i o size n s =
      .next (x.walked (x.memPages o size) ((x.raise u (x.memFails u o .st size)).settle x.r)) := by
  rw [storeGlobal_next h hm hp, if_pos (by simpa using hg), memFilled_none hg]

theorem memStored_launches : x.Launches ((x.memNoted u i o size good).storeIssued x.c.core ((x.storePas u o size good).map (· / 128)))
    (x.memStored u i o size n good) (accessesOf size (x.storeAccess u o size n good) (lanesOf good)) := by
  have tags : x.tags ((x.memNoted u i o size good).storeIssued x.c.core ((x.storePas u o size good).map (· / 128))) = x.tags u := by
    have noted : x.tags (x.memNoted u i o size good) = x.tags u := (Ctx.tags_note ..).trans (tags_fillTlb ..)
    exact noted
  refine plain_launches (fun _ => rfl) (fun _ => .inr rfl) (fun _ => ⟨rfl, rfl, tags.symm⟩) (lanesOf_nodup good) fun w l => ?_
  rw [drafts_eq]
  exact plainAccess_eq

theorem launches_mem {t v : State} {as : List Access} (h : x.Launches t v as) : v.mem = t.mem := by
  obtain ⟨bs, rfl, -⟩ := h
  rfl

theorem memStored_mem : (x.memStored u i o size n good).mem = u.mem := by
  rw [launches_mem memStored_launches, State.storeIssued_mem, Ctx.memNoted, Ctx.note_mem, Ctx.memFilled, Ctx.fillTlb_mem]

theorem storeGlobal_stores (h : Issues i s x u) (hm : x.Mapped u (x.memPages o size)) (hp : x.Passes (x.memCheck u o .st size) good)
    (hg : good ≠ 0#64) :
    ∃ t v, (x.only good).Effect (x.memFilled u o size good) t .v good [] (.performed ((encode i).headD 0) x.sp.pc false) ∧
      x.Launches (t.storeIssued x.c.core ((x.storePas u o size good).map (· / 128))) v
        (accessesOf size (x.storeAccess u o size n good) (lanesOf good)) ∧
      v.mem = u.mem ∧
      storeGlobal i o size n s = .next (x.walked (x.memPages o size) ((x.raise v (x.memFails u o .st size)).settle x.r)) := by
  rw [storeGlobal_next h hm hp, if_neg (by simpa using hg)]
  exact ⟨_, _, note_beside h.begins (fillTlb_blocks ..) .v, memStored_launches, memStored_mem, rfl⟩

end

/-! ## O26 -/

/-- Settles O26: the lanes that pass launch their accesses from the state whose TLBs are filled, for an ST after its lines have left
the L1. -/
theorem globalAccessesIssue : Obligations.GlobalAccessesIssue := by
  unfold Obligations.GlobalAccessesIssue
  refine ⟨fun o s x u good => ?_, fun o s x u good => ?_⟩
  · intro loads
    have loaded (i : Instr) (k : MemKind) (size n : Nat) (signed : Bool) (he : exec i s = loadGlobal i o k size n signed s) :
        loads i k size n signed := by
      intro h
      rw [he]
      refine ⟨loadGlobal_suspends h, fun hm hp => ⟨loadGlobal_fails h hm hp, fun hg => ?_⟩⟩
      obtain ⟨t, v, effect, launched, next⟩ := loadGlobal_loads h hm hp hg
      rw [accessesOf_loads] at launched
      exact ⟨t, v, effect, launched, next⟩
    exact ⟨loaded _ .ld 1 1 true rfl, loaded _ .ld 1 1 false rfl, loaded _ .ld 2 1 true rfl, loaded _ .ld 2 1 false rfl,
      loaded _ .ld 4 1 false rfl, loaded _ .ld 8 2 false rfl, loaded _ .ld 16 4 false rfl, loaded _ .ldw 4 1 false rfl,
      loaded _ .ldw 8 2 false rfl, loaded _ .ldw 16 4 false rfl⟩
  · intro stores
    have stored (i : Instr) (size n : Nat) (he : exec i s = storeGlobal i o size n s) : stores i size n := by
      intro h
      rw [he]
      refine ⟨storeGlobal_suspends h, fun hm hp => ⟨storeGlobal_fails h hm hp, fun hg => ?_⟩⟩
      obtain ⟨t, v, effect, launched, mem, next⟩ := storeGlobal_stores h hm hp hg
      rw [storeIssued_eq] at launched
      exact ⟨t, v, effect, launched, mem, next⟩
    exact ⟨stored _ 1 1 rfl, stored _ 2 1 rfl, stored _ 4 1 rfl, stored _ 8 2 rfl, stored _ 16 4 rfl⟩

end Sys2Proof.Machine

namespace Sys2Proof.Machine

/-! ## O28 fails: the status of a grid that performing the write ends -/

/-- The status write of a grid, at its home bank with nothing left to wait for. -/
def statusWrite : Access :=
  { id := 1, uid := 9, c := ⟨⟨0, 0⟩, 0⟩, core := 0, lane := 0, op := .status 0, scratch := false, va := 0, pa := 0, size := 4, scope := 3
    bytes := [0, 0, 0, 0], stage := .waiting 0 { domain := 0, arrived := true } [] }

/-- A split of the grid that waits by WAITM on the sector of the status word. -/
def statusWaiter : Split := { id := 0, lanes := 1, hold := some ⟨.waitm 0 [(0, 0, 0, 0)], 5, 1, 0⟩ }

/-- The grid has ended with status 0, by an ending of a later tick. -/
def endedGrid : Grid := { id := 0, st := .ended, endedBy := some (1, 0, 0, 0) }

/-- The sector is poisoned: the waiting lane will trap when the status word is written. -/
def poisonedStatus : State :=
  { grids := [endedGrid], blocks := [{ ref := ⟨0, 0⟩, cohorts := [{ id := 0, threads := 1, splits := [statusWaiter] }] }]
    poison := [0], flight := [statusWrite] }

/-- The status of grid 0 in the next state. -/
def nextStatus : Host.Outcome State Fault Refusal → Option Nat
  | .next t => (t.grid? 0).map (·.status)
  | _ => none

theorem poisonedStatus_performed : nextStatus (exec (.writePerform 1) poisonedStatus) = some 0 := by decide

/-- Performing the write makes the lane trap, and its earlier ending takes the place of the one that stood. -/
def trappedGrid : Grid := { endedGrid with status := 7, endedBy := some (0, 0, 0, 0) }

theorem trapped_performed : (poisonedStatus.performStore statusWrite).grid? 0 = some trappedGrid := by decide

theorem trapped_status : nextStatus (.next (((poisonedStatus.performStore statusWrite).finishRetire trappedGrid 7).releaseAll.imaged
    poisonedStatus)) = some 7 := by decide

/-- Refutes O28: its clause on a status write takes the grid's status after the write is performed, and the model the one before. Where the
write wakes a WAITM of the grid on a poisoned sector, the trap changes the status in between: the statement says 7, and the model keeps 0. A
grid whose status write is under way is `.closing` in every state that a run reaches, and takes no ending then; the state below is none of
those. -/
theorem not_writesArriveAndPerform : ¬ Obligations.WritesArriveAndPerform := by
  unfold Obligations.WritesArriveAndPerform
  rintro ⟨-, -, agents, -⟩
  obtain ⟨-, -, -, -, -, status, -⟩ := agents poisonedStatus statusWrite rfl rfl rfl rfl ⟨0, _, rfl, rfl, .inl (Nat.le_refl 0)⟩
  have claimed := status 0 trappedGrid rfl trapped_performed
  have seven : nextStatus (exec (.writePerform 1) poisonedStatus) = some 7 := (congrArg nextStatus claimed).trans trapped_status
  rw [poisonedStatus_performed] at seven
  exact absurd seven (by decide)

end Sys2Proof.Machine

namespace Sys2Proof.Machine

/-! ## What a home write leaves: grids keep their names, cohorts their handles

A home write wakes the WAITMs of its sector; their lanes may trap, and their splits go on. `KeptBySplits p` says that `p` shows nothing
of the state that these operations change at their bottom: cohorts, endings, the numbers given out and the instructions under way. -/

/-- What `p` shows of a state is kept by the changes that operations over splits are made of. -/
structure KeptBySplits {γ : Type} (p : State → γ) : Prop where
  cohort : ∀ s c f, p (State.modCohort s c f) = p s
  ending : ∀ s g b c lane cause team, p (State.endByTrap s g b c lane cause team) = p s
  bump : ∀ s : State, p s.bump = p s
  issued : ∀ (s : State) (l : List Issued), p { s with issued := l } = p s

namespace KeptBySplits

section
variable {γ : Type} {p : State → γ} (h : KeptBySplits p)
include h

theorem split (s : State) (r : SRef) (f : Split → Split) : p (s.modSplit r f) = p s := h.cohort ..

theorem trapEntry (s : State) (r : SRef) (ts : Mask) (t : Trap) : p (s.trapEntry r ts t) = p s := by
  unfold State.trapEntry
  split
  · split
    · rfl
    · dsimp only
      split
      · exact h.ending ..
      · split
        · exact h.ending ..
        · split
          · exact h.cohort ..
          · split
            · exact h.ending ..
            · exact (h.cohort ..).trans (h.bump _)
  · rfl

theorem enterHeader (s : State) (r : SRef) (merged : Bool) : p (s.enterHeader r merged) = p s := by
  unfold State.enterHeader
  split
  · split
    · exact h.split ..
    · split
      · exact h.trapEntry ..
      · exact h.split ..
  · rfl

theorem mergeAll (cr : CRef) (n : Nat) (s : State) : p (State.mergeAll cr n s) = p s := by
  have merged (s : State) (g : List Split) : p (s.mergeGroup cr g) = p s := by
    unfold State.mergeGroup
    split
    · rfl
    · exact (h.enterHeader ..).trans (h.cohort ..)
  induction n generalizing s with
  | zero => rfl
  | succ n ih =>
    unfold State.mergeAll
    split
    · rfl
    · rw [ih, merged]

theorem settle (s : State) (r : SRef) : p (s.settle r) = p s := by
  have entered : p (s.enterBlock r) = p s := by
    unfold State.enterBlock
    split
    · split
      · exact h.split ..
      · split
        · exact h.enterHeader ..
        · split
          · split
            · exact h.split ..
            · split
              · exact h.trapEntry ..
              · exact (h.mergeAll ..).trans (h.split ..)
          · exact h.enterHeader ..
    · rfl
  unfold State.settle
  split
  · split
    · exact entered
    · rfl
  · rfl

theorem heldTrap (s : State) (r : SRef) (fs : List LaneFault) : p (s.heldTrap r fs) = p s := by
  unfold State.heldTrap
  split
  · exact (h.trapEntry ..).trans (h.split ..)
  · rfl

theorem finishIssue (s : State) (uid : Nat) : p (s.finishIssue uid) = p s := by
  unfold State.finishIssue
  split
  · rfl
  · exact (h.cohort ..).trans (h.issued ..)

theorem releaseRest (s : State) (r : SRef) (all bad : Mask) : p (s.releaseRest r all bad) = p s := by
  unfold State.releaseRest
  split
  · rfl
  · exact (h.settle ..).trans (h.split ..)

theorem wakeWaitm (s : State) (sector : Nat) : p (s.wakeWaitm sector) = p s := by
  refine foldl_keeps p (fun t r => ?_) _ _
  unfold State.lookAgain
  split
  · split
    · split
      · dsimp only
        split
        · rw [h.releaseRest, h.finishIssue, h.heldTrap, h.split]
        · rw [h.heldTrap, h.split]
      · rfl
    · rfl
  · rfl

end

end KeptBySplits

/-- The names of the grids. -/
def State.gridIds (s : State) : List Nat := s.grids.map (·.id)

theorem modGrid_gridIds (s : State) (g : Nat) {f : Grid → Grid} (hf : ∀ x, (f x).id = x.id) : (s.modGrid g f).gridIds = s.gridIds := by
  unfold State.modGrid State.gridIds
  rw [List.map_map]
  refine List.map_congr_left fun x _ => ?_
  show (if x.id == g then f x else x).id = x.id
  split
  · exact hf x
  · rfl

theorem endGrid_gridIds (s : State) (g : Nat) (key : Nat × Nat × Nat) (status : Nat) (team : Option (Nat × Nat)) :
    (s.endGrid g key status team).gridIds = s.gridIds := by
  refine modGrid_gridIds _ _ fun x => ?_
  split
  · rfl
  · split
    · split <;> rfl
    · rfl

theorem gridIds_kept : KeptBySplits State.gridIds where
  cohort _ _ _ := rfl
  ending s g b c lane cause team := by
    have recorded : (s.record (s.coreDomain c.core) 3 c.core (g.id + 2 ^ 64 * cause)).gridIds = s.gridIds := by
      unfold State.record
      split <;> rfl
    exact (endGrid_gridIds ..).trans recorded
  bump _ := rfl
  issued _ _ := rfl

/-- A grid that stands is found in every state with the same names of grids. -/
theorem grid?_of_gridIds {s t : State} (h : t.gridIds = s.gridIds) {id : Nat} (hs : (s.grid? id).isSome = true) :
    (t.grid? id).isSome = true := by
  have named (v : State) : (v.grid? id).isSome = true ↔ id ∈ v.gridIds := by
    simp [State.grid?, State.gridIds]
  rw [named, h, ← named]
  exact hs

/-! ### Cohorts keep their handles -/

theorem State.before_finishIssue (s : State) (uid : Nat) : s.Before (s.finishIssue uid) := by
  have ended (c : Cohort) (sel : Pend → Bool) : (c.land sel).foldAll.id = c.id ∧ (c.land sel).foldAll.handles = c.handles := by
    rw [Cohort.foldAll_frame]
    exact ⟨rfl, rfl⟩
  unfold State.finishIssue
  split
  · exact .rfl
  · next i _ =>
    refine State.Before.trans (State.before_of_blocks (t := { s with issued := s.issued.filter fun j => j.uid != uid }) (Nat.le_refl _)
      (Eq.refl _)) (State.before_modCohort (fun c hc => ?_) fun c _ => ?_)
    · cases i.flag <;> exact (ended c _).1.trans hc
    · cases i.flag <;> exact (ended c _).2

theorem State.before_heldTrap (s : State) (r : SRef) (fs : List LaneFault) : s.Before (s.heldTrap r fs) := by
  unfold State.heldTrap
  split
  · exact (State.before_modSplit ..).trans (State.before_trapEntry ..)
  · exact .rfl

theorem State.before_releaseRest (s : State) (r : SRef) (all bad : Mask) : s.Before (s.releaseRest r all bad) := by
  unfold State.releaseRest
  split
  · exact .rfl
  · exact (State.before_modSplit ..).trans (State.before_settle ..)

theorem State.before_lookAgain (s : State) (r : SRef) (sector : Nat) : s.Before (s.lookAgain r sector) := by
  unfold State.lookAgain
  split
  · split
    · split
      · dsimp only
        split
        · exact (((State.before_modSplit ..).trans (State.before_heldTrap ..)).trans (State.before_finishIssue ..)).trans
            (State.before_releaseRest ..)
        · exact (State.before_modSplit ..).trans (State.before_heldTrap ..)
      · exact .rfl
    · exact .rfl
  · exact .rfl

theorem State.before_wakeWaitm (s : State) (sector : Nat) : s.Before (s.wakeWaitm sector) :=
  List.foldlRecOn (motive := fun t => s.Before t) _ _ .rfl fun t ht r _ => ht.trans (State.before_lookAgain t r sector)

theorem homeWrite_before (s : State) (pa : Nat) (bytes : List Byte) (clears : Bool) :
    s.Before (s.homeWrite pa bytes clears) ∧ (s.homeWrite pa bytes clears).gridIds = s.gridIds := by
  have brought (t : State) : (t.l2Bring (paDomain pa) pa 0 true 0).blocks = t.blocks ∧ (t.l2Bring (paDomain pa) pa 0 true 0).fresh = t.fresh ∧
      (t.l2Bring (paDomain pa) pa 0 true 0).grids = t.grids := by
    unfold State.l2Bring
    split <;> exact ⟨rfl, rfl, rfl⟩
  have woken {u : State} (hb : u.blocks = s.blocks) (hf : u.fresh = s.fresh) (hg : u.grids = s.grids) :
      s.Before (u.wakeWaitm (pa / 64)) ∧ (u.wakeWaitm (pa / 64)).gridIds = s.gridIds :=
    ⟨(State.before_of_blocks hf.ge hb).trans (State.before_wakeWaitm ..),
      (gridIds_kept.wakeWaitm ..).trans (congrArg (List.map Grid.id) hg)⟩
  unfold State.homeWrite
  dsimp only
  split
  · obtain ⟨blocks, fresh, grids⟩ := brought (s.writeRun pa bytes)
    exact woken blocks fresh grids
  · exact woken rfl rfl rfl

end Sys2Proof.Machine

namespace Sys2Proof.Machine

/-! ## The banks that the registrar's reads touch

A touch of the banks changes when they were last busy, and nothing that decides what a bank takes. -/

/-- `t` is `s` but for when the banks of domains were last busy. -/
def State.Touched (s t : State) : Prop := t = { s with domains := t.domains } ∧ ∀ d, t.domainUp d = s.domainUp d

namespace State.Touched

theorem rfl {s : State} : s.Touched s := ⟨Eq.refl _, fun _ => Eq.refl _⟩

theorem trans {s t u : State} (h : s.Touched t) (k : t.Touched u) : s.Touched u := by
  refine ⟨?_, fun d => (k.2 d).trans (h.2 d)⟩
  have hu := k.1
  rw [h.1] at hu
  exact hu

theorem touchBanks (s : State) (pa : Nat) : s.Touched (s.touchBanks pa) := by
  refine ⟨?_, fun d => State.domainUp_of_aside (State.touchBanks_aside s pa) d⟩
  unfold State.touchBanks
  split <;> exact Eq.refl _

theorem touchAll (s : State) (pas : List Nat) : s.Touched (s.touchAll pas) :=
  List.foldlRecOn (motive := fun t => s.Touched t) _ _ rfl fun _ ht pa _ => ht.trans (touchBanks _ pa)

section
variable {s t : State} (h : s.Touched t)
include h

theorem lineWaits (pa : Nat) : t.lineWaits pa = s.lineWaits pa := by
  have up := h.2
  rw [h.1] at up ⊢
  unfold State.lineWaits State.banksUp
  rw [up]
  exact Eq.refl _

theorem lineFree (pa : Nat) : t.lineFree pa = s.lineFree pa := by
  have waits := h.lineWaits pa
  rw [h.1] at waits ⊢
  unfold State.lineFree
  rw [waits]
  exact Eq.refl _

theorem bankTakes (a : Access) : t.bankTakes a = s.bankTakes a := by
  have waits := h.lineWaits
  have up := h.2
  rw [h.1] at waits up ⊢
  unfold State.bankTakes State.bankServes
  simp only [waits, up]
  exact Eq.refl _

theorem bankQuiet (pa : Nat) : t.bankQuiet pa = s.bankQuiet pa := by
  have takes := h.bankTakes
  rw [h.1] at takes ⊢
  unfold State.bankQuiet
  simp only [takes]
  exact Eq.refl _

theorem statusPlace (g : Grid) : t.statusPlace g = s.statusPlace g := by
  rw [h.1]
  exact Eq.refl _

end

end State.Touched

end Sys2Proof.Machine

namespace Sys2Proof.Machine

/-! ## The retirement of a grid (R170, R240, R305) -/

section
variable {s u v : State} {g : Grid} {status : Nat}

/-! ### Handles that follow a launch -/

theorem Handle.resolvedBy_twice (op code : Nat) (cancelled : Bool) (n : Nat) (a : DWord) (v : Handle) :
    Handle.resolvedBy op code cancelled n a (Handle.resolvedBy op code cancelled n a v) = Handle.resolvedBy op code cancelled n a v := by
  unfold Handle.resolvedBy
  by_cases hv : v = .pending op
  · rw [if_pos hv, if_neg (by simp)]
  · rw [if_neg hv, if_neg hv]

/-- The handles of another block stay. -/
theorem resolve_cohort?_other {b : BRef} {cr : CRef} (hb : b ≠ cr.b) {c : Cohort} (h : s.cohort? cr = some c) (op code : Nat)
    (cancelled : Bool) (n : Nat) (a : DWord) : (s.resolve b op code cancelled n a).cohort? cr = some c := by
  obtain ⟨x, hx, hc⟩ := Option.bind_eq_some_iff.1 h
  have ref : x.ref = cr.b := by simpa using List.find?_some hx
  have kept : (s.resolve b op code cancelled n a).block? cr.b = some x := by
    refine (find?_map_named (n := Block.ref) (fun y _ => ?_) hx).trans (congrArg some (if_neg ?_))
    · split <;> rfl
    · rw [ref, beq_iff_eq]
      exact hb.symm
  unfold State.cohort?
  rw [kept]
  exact hc

/-- Operations of blocks one after another resolve the handles of each of these blocks. -/
theorem resolveAll_cohort? {cr : CRef} (op code : Nat) (l : List Block) : ∀ {t : State} {c : Cohort}, t.cohort? cr = some c →
    ∃ d, (l.foldl (fun t b => t.resolve b.ref op code false 0 0) t).cohort? cr = some d ∧ ∀ k, tget .empty d.handles k =
      if cr.b ∈ l.map (·.ref) then Handle.resolvedBy op code false 0 0 (tget .empty c.handles k) else tget .empty c.handles k := by
  induction l with
  | nil => exact fun h => ⟨_, h, fun k => by simp⟩
  | cons b l ih =>
    intro t c h
    by_cases hb : b.ref = cr.b
    · obtain ⟨d, hd, hdk⟩ := State.resolve_cohort? h op code false 0 0
      obtain ⟨e, he, hek⟩ := ih (t := t.resolve b.ref op code false 0 0) (by rw [hb]; exact hd)
      refine ⟨e, he, fun k => ?_⟩
      rw [hek, hdk, Handle.resolvedBy_twice, ite_self, List.map_cons, if_pos (hb ▸ List.mem_cons_self)]
    · obtain ⟨e, he, hek⟩ := ih (resolve_cohort?_other hb h op code false 0 0)
      refine ⟨e, he, fun k => ?_⟩
      rw [hek, List.map_cons]
      simp only [List.mem_cons, Ne.symm hb, false_or]

theorem resolveLaunch_cohort? {cr : CRef} {c : Cohort} (h : s.cohort? cr = some c) (op code : Nat) :
    ∃ d, (s.resolveLaunch (some op) code).cohort? cr = some d ∧
      ∀ k, tget .empty c.handles k = .pending op → tget .empty d.handles k = .resolved code false 0 0 := by
  obtain ⟨d, hd, hdk⟩ := resolveAll_cohort? op code s.blocks h
  obtain ⟨b, hb, -⟩ := Option.bind_eq_some_iff.1 h
  have there : cr.b ∈ s.blocks.map (·.ref) :=
    List.mem_map.2 ⟨b, List.mem_of_find?_eq_some hb, by simpa using List.find?_some hb⟩
  refine ⟨d, hd, fun k hk => ?_⟩
  rw [hdk, if_pos there, hk, Handle.resolvedBy, if_pos rfl]

theorem resolveLaunch_grids (s : State) (op : Option Nat) (code : Nat) : (s.resolveLaunch op code).grids = s.grids := by
  unfold State.resolveLaunch
  split
  · exact foldl_keeps State.grids (f := fun (t : State) (b : Block) => t.resolve b.ref _ code false 0 0) (fun _ _ => rfl) _ _
  · rfl

/-! ### The grid has retired -/

theorem grid?_modGrid {g : Nat} {f : Grid → Grid} (hs : (s.grid? g).isSome = true) (hf : ∀ x, (f x).id = x.id) :
    ∃ x, s.grid? g = some x ∧ (s.modGrid g f).grid? g = some (f x) := by
  obtain ⟨x, hx⟩ := Option.isSome_iff_exists.1 hs
  have id : (f x).id = g := (hf x).trans (by simpa using List.find?_some hx)
  exact ⟨x, hx, find?_map_found (p := fun x : Grid => x.id == g) hx (by simpa using id)⟩

theorem finishRetire_grid? (hs : (v.grid? g.id).isSome = true) :
    ∃ h, (v.finishRetire g status).grid? g.id = some h ∧ h.status = status ∧ h.st = .retired := by
  obtain ⟨x, -, hx⟩ := grid?_modGrid (f := fun x => { x with st := .retired, status := status }) hs fun _ => rfl
  refine ⟨{ x with st := .retired, status := status }, ?_, rfl, rfl⟩
  unfold State.finishRetire State.grid?
  rw [resolveLaunch_grids]
  exact hx

theorem finishRetire_handles {op : Nat} (ho : g.handleOp = some op) {cr : CRef} {c : Cohort} (h : v.cohort? cr = some c) :
    ∃ d, (v.finishRetire g status).cohort? cr = some d ∧
      ∀ k, tget .empty c.handles k = .pending op → tget .empty d.handles k = .resolved status false 0 0 := by
  unfold State.finishRetire
  rw [ho]
  exact resolveLaunch_cohort? (s := v.modGrid g.id fun x => { x with st := .retired, status := status }) h op status

/-- The status word's pointer is not 0. -/
def Grid.statusVa (g : Grid) : Nat := (g.word 5).toNat / 4 * 4

theorem statusVa_eq_zero (g : Grid) : ((g.word 5).toNat / 4 == 0) = true ↔ g.statusVa = 0 := by
  unfold Grid.statusVa
  rw [beq_iff_eq]
  omega

/-- The home bank takes the write of the status word at once. -/
def State.TakesNow (s : State) (pa : Nat) : Prop := s.lineFree pa = true ∧ s.bankQuiet pa = true

/-- A state in which a grid retires: what it shows beside the status word is that of `s`. -/
structure State.RetireFrom (s v : State) (g : Grid) : Prop where
  grid : (v.grid? g.id).isSome = true
  before : s.Before v

/-- A grid that has retired, its status word having been dealt with. -/
theorem retires_of_finish (h : s.RetireFrom v g) (hlate : ¬ (g.statusVa ≠ 0 ∧ ∃ pa, s.statusPlace g = some pa ∧ ¬ s.TakesNow pa))
    (hmem : g.statusVa = 0 ∨ s.statusPlace g = none → v.mem = s.mem)
    (hword : ∀ pa, g.statusVa ≠ 0 → s.statusPlace g = some pa → s.TakesNow pa →
      (∀ a ∈ s.flight, (∃ b, a.op = .reg b) → a.overlaps false pa 4 = false) → ∀ a, v.readMem a =
        if pa ≤ a ∧ a < pa + 4 then BitVec.ofNat 8 (status / 256 ^ (a - pa)) else s.readMem a) :
    Retires s (v.finishRetire g status) g status := by
  have mem : (v.finishRetire g status).mem = v.mem := State.finishRetire_mem ..
  have read (a : Nat) : (v.finishRetire g status).readMem a = v.readMem a := congrArg (tget memDefault · a) mem
  obtain ⟨x, hx, hst, hret⟩ := finishRetire_grid? (status := status) h.grid
  refine ⟨⟨x, hx, hst, fun _ => hret, fun hl => absurd hl hlate⟩, fun hc a => ?_, fun pa hva hpl ht hr a => ?_, fun pa hva hpl ht => ?_,
    fun op _ ho r c hc => ?_⟩
  · have same : v.mem = s.mem := hmem (hc.imp_right fun hc => hc.resolve_left hlate)
    exact (read a).trans (congrArg (tget memDefault · a) same)
  · exact (read a).trans (hword pa hva hpl ht hr a)
  · exact absurd ⟨hva, pa, hpl, ht⟩ hlate
  · obtain ⟨d, hd, hdh⟩ := h.before.2 r c hc
    obtain ⟨e, he, heh⟩ := finishRetire_handles (status := status) ho hd
    exact ⟨e, he, fun k hk => heh k (by rw [hdh]; exact hk)⟩

/-- A write of the registrar keeps the grids' names and the cohorts' handles. -/
theorem regWrite_before (s : State) (owner : Option BRef) (pa : Nat) (bytes : List Byte) :
    s.Before (s.regWrite owner pa bytes) ∧ (s.regWrite owner pa bytes).gridIds = s.gridIds := by
  unfold State.regWrite State.outsideWrite
  dsimp only
  split
  · have touched := (State.Touched.touchBanks s pa).1
    obtain ⟨before, ids⟩ := homeWrite_before (s.touchBanks pa) pa bytes (pa % 64 == 0 && bytes.length == 64)
    have same : s.Before (s.touchBanks pa) ∧ (s.touchBanks pa).gridIds = s.gridIds := by
      rw [touched]
      exact ⟨State.before_of_blocks (Nat.le_refl _) rfl, rfl⟩
    exact ⟨same.1.trans before, ids.trans same.2⟩
  · exact ⟨State.before_of_blocks (Nat.le_succ _) rfl, rfl⟩

/-- Where its bank takes it, and none of the registrar's writes to its bytes is under way, the registrar's write stands in memory. -/
theorem regWrite_readMem {pa : Nat} {bytes : List Byte} (ht : u.TakesNow pa)
    (hr : ∀ a ∈ u.flight, (∃ b, a.op = .reg b) → a.overlaps false pa bytes.length = false) (a : Nat) :
    (u.regWrite none pa bytes).readMem a = (u.writeRun pa bytes).readMem a := by
  have none_before : (u.flight.filter fun a => a.op.sameAgent (.reg none) && a.overlaps false pa bytes.length) = [] := by
    refine List.filter_eq_nil_iff.2 fun e he hs => ?_
    obtain ⟨agent, bytes⟩ := Bool.and_eq_true_iff.1 hs
    have reg : ∃ b, e.op = .reg b := by
      revert agent
      cases e.op <;> simp [AccOp.sameAgent]
    rw [hr e he reg] at bytes
    cases bytes
  obtain ⟨free, quiet⟩ := ht
  have touched : (u.touchBanks pa).mem = u.mem := by rw [(State.Touched.touchBanks u pa).1]
  have home : u.regWrite none pa bytes = (u.touchBanks pa).homeWrite pa bytes (pa % 64 == 0 && bytes.length == 64) := by
    unfold State.regWrite State.outsideWrite
    dsimp only
    rw [none_before, if_pos (by rw [free, quiet]; rfl)]
  rw [home]
  have mem := State.homeWrite_mem (u.touchBanks pa) pa bytes (pa % 64 == 0 && bytes.length == 64)
  have there : (u.touchBanks pa).writeRun pa bytes = { u.writeRun pa bytes with domains := (u.touchBanks pa).domains } := by
    rw [(State.Touched.touchBanks u pa).1]
    rfl
  rw [there] at mem
  exact congrArg (tget memDefault · a) mem

/-- A word written reads back byte by byte, and no other address has changed. -/
theorem readMem_writeWord (hw : Memory.wf s.mem = true) (n pa v a : Nat) : (s.writeRun pa (leBytes n v)).readMem a =
    if pa ≤ a ∧ a < pa + n then BitVec.ofNat 8 (v / 256 ^ (a - pa)) else s.readMem a := by
  by_cases h : pa ≤ a ∧ a < pa + n
  · have inside := readMem_writeRun_at (pa := pa) (k := a - pa) (vs := leBytes n v) hw (by simp; omega)
    rw [getElem_leBytes, Nat.add_sub_cancel' h.1] at inside
    rw [inside, if_pos h]
  · rw [readMem_writeRun_outside hw (by simp; omega), if_neg h]

/-! ### The retirement -/

theorem retireGrid_retires (hu : s.Touched u) (hs : (s.grid? g.id).isSome = true) (hw : Memory.wf s.mem = true) :
    Retires s (u.retireGrid g status) g status := by
  have takes (pa : Nat) : u.TakesNow pa ↔ s.TakesNow pa := by
    unfold State.TakesNow
    rw [hu.lineFree, hu.bankQuiet]
  have from_u : s.Before u ∧ u.gridIds = s.gridIds ∧ u.mem = s.mem ∧ u.flight = s.flight := by
    rw [hu.1]
    exact ⟨State.before_of_blocks (Nat.le_refl _) rfl, rfl, rfl, rfl⟩
  obtain ⟨before, ids, mem, flight⟩ := from_u
  have retire_from {v : State} (hb : u.Before v) (hg : v.gridIds = u.gridIds) : s.RetireFrom v g :=
    ⟨grid?_of_gridIds (hg.trans ids) hs, before.trans hb⟩
  unfold State.retireGrid
  split
  · next hva =>
    have hva := (statusVa_eq_zero g).1 hva
    exact retires_of_finish (retire_from .rfl rfl) (fun h => h.1 hva) (fun _ => mem) fun _ h => absurd hva h
  · next hva =>
    have hva : g.statusVa ≠ 0 := mt (statusVa_eq_zero g).2 hva
    split
    · next hpl =>
      rw [hu.statusPlace] at hpl
      have recorded : u.Before (u.record 0 2 0xFFFFFF g.id) ∧ (u.record 0 2 0xFFFFFF g.id).gridIds = u.gridIds := by
        unfold State.record
        split <;> exact ⟨State.before_of_blocks (Nat.le_refl _) rfl, rfl⟩
      refine retires_of_finish (retire_from recorded.1 recorded.2) ?_ (fun _ => (State.record_mem ..).trans mem) ?_
      · rintro ⟨-, pa, hpa, -⟩
        rw [hpl] at hpa
        cases hpa
      · intro pa _ hpa
        rw [hpl] at hpa
        cases hpa
    · next pa hpl =>
      rw [hu.statusPlace] at hpl
      have place {q : Nat} (h : s.statusPlace g = some q) : q = pa := Option.some.inj (h.symm.trans hpl)
      split
      · next ht =>
        have ht : u.TakesNow pa := Bool.and_eq_true_iff.1 ht
        obtain ⟨kept, names⟩ := regWrite_before u none pa (leBytes 4 status)
        refine retires_of_finish (retire_from kept names) ?_ ?_ ?_
        · rintro ⟨-, q, hq, hn⟩
          rw [place hq] at hn
          exact hn ((takes pa).1 ht)
        · intro h
          rcases h with h | h
          · exact absurd h hva
          · rw [hpl] at h
            cases h
        · intro q _ hq _ hr a
          obtain rfl := place hq
          rw [regWrite_readMem ht (by rw [flight]; simpa using hr), readMem_writeWord (by rw [mem]; exact hw)]
          unfold State.readMem
          rw [mem]
      · next ht =>
        have ht : ¬ s.TakesNow pa := fun h => ht (Bool.and_eq_true_iff.2 ((takes pa).2 h))
        have late : g.statusVa ≠ 0 ∧ ∃ pa, s.statusPlace g = some pa ∧ ¬ s.TakesNow pa := ⟨hva, pa, hpl, ht⟩
        have launched := retire_from (v := u.launchAccess
          { id := 0, uid := 0, c := ⟨⟨0, 0⟩, 0⟩, core := 0, lane := 0, op := .status g.id, scratch := false, va := 0, pa := pa,
            size := 4, scope := 3, bytes := leBytes 4 status }) (State.before_of_blocks (Nat.le_succ _) rfl) rfl
        obtain ⟨x, -, hx⟩ := grid?_modGrid (f := fun x => { x with st := .closing, status := status }) launched.grid fun _ => rfl
        refine ⟨⟨_, hx, rfl, fun h => absurd late h, fun _ => rfl⟩, fun _ a => ?_, fun q _ hq hn => ?_, fun q _ hq _ => ?_,
          fun _ h => absurd late h⟩
        · exact congrArg (tget memDefault · a) mem
        · rw [place hq] at hn
          exact absurd hn ht
        · obtain rfl := place hq
          exact ⟨_, List.mem_append_right _ (List.mem_singleton_self _), rfl, rfl, rfl, rfl, rfl⟩

end

end Sys2Proof.Machine

namespace Sys2Proof.Machine

/-! ## Grids that retire or go on after their producers (R170, R176, R177) -/

section
variable {s : State} {g : Grid}

theorem producerFailed_iff (s : State) (g : Grid) : s.producerFailed g = true ↔ g.depkind = 1 ∧ ∃ id p, g.producer = some id ∧
    s.grid? id = some p ∧ p.status ≠ 0 ∧ (p.st = .ended ∨ p.st = .closing ∨ p.st = .retired) := by
  unfold State.producerFailed
  rw [Bool.and_eq_true, beq_iff_eq]
  refine and_congr_right fun _ => ?_
  cases hp : g.producer with
  | none => simp
  | some id => cases hg : s.grid? id <;> simp [hg, or_assoc]

/-! ### The grid's work is done -/

/-- What R170 asks of a grid that retires. -/
def State.GridDone (s : State) (g : Grid) : Prop :=
  (∀ b ∈ s.blocks, b.ref.grid ≠ g.id) ∧ (∀ a ∈ s.flight, a.c.b.grid ≠ g.id ∧ ∀ b, a.op = .publish b → b.grid ≠ g.id) ∧
    (∀ h ∈ s.grids, h.parent = some g.id → h.st = .retired) ∧
    (g.st = .ended ∨ g.st = .running ∧ (g.blockCount ≤ g.next ∨ s.producerFailed g = true))

theorem gridDone_iff (s : State) (g : Grid) : s.gridDone g = true ↔ s.GridDone g := by
  have blocks : (!(s.blocks.any fun b => b.ref.grid == g.id)) = true ↔ ∀ b ∈ s.blocks, b.ref.grid ≠ g.id := by simp
  have access (a : Access) : (a.c.b.grid == g.id || (match a.op with | .publish b => b.grid == g.id | _ => false)) = false ↔
      a.c.b.grid ≠ g.id ∧ ∀ b, a.op = .publish b → b.grid ≠ g.id := by
    cases a.op <;> simp
  have flight : (!(s.flight.any fun a => a.c.b.grid == g.id || (match a.op with | .publish b => b.grid == g.id | _ => false))) = true ↔
      ∀ a ∈ s.flight, a.c.b.grid ≠ g.id ∧ ∀ b, a.op = .publish b → b.grid ≠ g.id := by
    rw [Bool.not_eq_true', List.any_eq_false]
    exact forall₂_congr fun a _ => (Bool.eq_false_iff.symm).trans (access a)
  have children : (s.grids.all fun h => h.parent != some g.id || h.st == .retired) = true ↔
      ∀ h ∈ s.grids, h.parent = some g.id → h.st = .retired := by
    rw [List.all_eq_true]
    exact forall₂_congr fun h _ => by by_cases hp : h.parent = some g.id <;> simp [hp]
  have stage : ((g.st == .running || g.st == .ended) = true ∧ (g.st == .ended || decide (g.blockCount ≤ g.next) || s.producerFailed g) = true) ↔
      (g.st = .ended ∨ g.st = .running ∧ (g.blockCount ≤ g.next ∨ s.producerFailed g = true)) := by
    cases g.st <;> simp
  unfold State.gridDone State.GridDone
  rw [Bool.and_eq_true, Bool.and_eq_true, Bool.and_eq_true, Bool.and_eq_true, blocks, children, ← stage, ← flight]
  tauto

/-! ### Images that stand as they are -/

theorem State.imaged_noImages {t : State} (h : s.NoImages) : t.imaged s = t := by
  refine List.foldlRecOn (motive := fun u => u = t) _ _ rfl fun u hu b _ => ?_
  split
  · next a g ha _ =>
    obtain ⟨saved, restoring, captured⟩ := h a (List.mem_of_find?_eq_some ha)
    have no_image : (if a.st == b.st then s.standingImage g a else none) = none := by
      unfold State.standingImage
      simp [saved, restoring, captured]
    rw [no_image]
    exact hu
  · exact hu

/-- Where blocks have different names, a state that stays writes no image. -/
theorem State.imaged_self (h : (s.blocks.map (·.ref)).Nodup) : s.imaged s = s := by
  refine List.foldlRecOn (motive := fun u => u = s) _ _ rfl fun u hu b hb => ?_
  have found : s.block? b.ref = some b := by
    have same (y : Block) (hy : y ∈ s.blocks) (hr : y.ref = b.ref) : y = b := List.inj_on_of_nodup_map h hy hb hr
    obtain ⟨y, hy⟩ := Option.isSome_iff_exists.1 (List.find?_isSome.2 ⟨b, hb, by simp⟩ : (s.blocks.find? (·.ref == b.ref)).isSome = true)
    exact hy.trans (congrArg some (same y (List.mem_of_find?_eq_some hy) (by simpa using List.find?_some hy)))
  rw [found]
  split
  · next a g ha _ =>
    obtain rfl := Option.some.inj ha
    rw [if_pos (beq_self_eq_true _)]
    cases hi : s.standingImage g b with
    | none => exact hu
    | some i => simpa using hu
  · exact hu

/-! ### GRID_RETIRE -/

theorem gridRetire_stays (hg : s.grid? g.id = some g) (h : ¬ (s.GridDone g ∧ s.regReady (s.statusReads g) = true)) :
    gridRetire g.id s = s := by
  have retires : s.retires g = false := by
    rw [← gridDone_iff, ← Bool.and_eq_true] at h
    exact Bool.eq_false_iff.2 h
  unfold gridRetire
  rw [hg]
  simp [retires]

/-- The status with which a grid retires. -/
def State.statusOf (s : State) (g : Grid) : Nat := if g.st = .running ∧ s.producerFailed g = true then 0x1D else g.status

theorem gridRetire_done (hg : s.grid? g.id = some g) (hd : s.GridDone g) (hr : s.regReady (s.statusReads g) = true) :
    gridRetire g.id s = ((s.touchAll (s.statusReads g)).retireGrid g (s.statusOf g)).releaseAll := by
  have retires : s.retires g = true := Bool.and_eq_true_iff.2 ⟨(gridDone_iff s g).2 hd, hr⟩
  unfold gridRetire State.statusOf
  rw [hg]
  simp [retires]

/-! ### Consumers go on -/

/-- A consumer whose producer has retired, and whose weights the banks look up. -/
def State.FreeConsumer (s : State) (h : Grid) : Prop :=
  h.st = .awaiting ∧ (h.depkind = 2 → ∀ p, s.grid? (h.word 6).toNat = some p → p.st = .retired) ∧ s.regReady (s.rangeReads h) = true

theorem releases_iff (s : State) (h : Grid) : s.releases h = true ↔ s.FreeConsumer h := by
  have producer : s.producerDone h = true ↔ (h.depkind = 2 → ∀ p, s.grid? (h.word 6).toNat = some p → p.st = .retired) := by
    unfold State.producerDone
    rw [Bool.or_eq_true, bne_iff_ne, ← imp_iff_not_or]
    refine imp_congr_right fun _ => ?_
    cases s.grid? (h.word 6).toNat <;> simp
  unfold State.releases State.FreeConsumer
  rw [Bool.and_eq_true, Bool.and_eq_true, beq_iff_eq, producer, and_assoc]

theorem releaseConsumers_none (h : ∀ g ∈ s.grids, ¬ s.FreeConsumer g) (n : Nat) : s.releaseConsumers n = s := by
  have none_free : s.grids.find? s.releases = none := List.find?_eq_none.2 fun g hg => mt (releases_iff s g).1 (h g hg)
  cases n with
  | zero => rfl
  | succ n =>
    unfold State.releaseConsumers
    rw [none_free]

theorem releaseConsumers_first {pre post : List Grid} {h : Grid} (hs : s.grids = pre ++ h :: post)
    (hpre : ∀ q ∈ pre, ¬ s.FreeConsumer q) (hh : s.FreeConsumer h) (n : Nat) :
    s.releaseConsumers (n + 1) = ((s.touchAll (s.rangeReads h)).release2 h).releaseConsumers n := by
  have first : s.grids.find? s.releases = some h := by
    rw [hs, List.find?_append, List.find?_eq_none.2 fun q hq => mt (releases_iff s q).1 (hpre q hq), Option.none_or,
      List.find?_cons_of_pos ((releases_iff s h).2 hh)]
  conv_lhs => unfold State.releaseConsumers
  rw [first]
  rfl

/-! ### Steps 6 and 7 of R166 -/

/-- The producer of a depkind 2 grid has failed. -/
def State.FailedBefore (s : State) (g : Grid) : Prop := g.depkind = 2 ∧ ∃ p, s.grid? (g.word 6).toNat = some p ∧ p.status ≠ 0

/-- The status of the producer that a depkind 2 grid names; 0 where the registrar does not know it. -/
def State.producerStatus (s : State) (g : Grid) : Nat := match s.grid? (g.word 6).toNat with | some p => p.status | none => 0

theorem failedBefore_iff (s : State) (g : Grid) : (g.depkind == 2 && s.producerStatus g != 0) = true ↔ s.FailedBefore g := by
  unfold State.FailedBefore State.producerStatus
  cases s.grid? (g.word 6).toNat <;> simp

/-- The grid as it begins to run. -/
def State.startGrid (s : State) (g : Grid) : State := s.modGrid g.id fun x => { x with st := .running, waitFrom := some s.ticks }

theorem release2_cases (s : State) (g : Grid) : s.release2 g = if g.depkind == 2 && s.producerStatus g != 0 then s.retireGrid g 0x1D
    else if !s.weightsReady g then s.retireGrid g 0x19 else (s.startGrid g).askTiles g.id := rfl

theorem release2_failed (h : s.FailedBefore g) : s.release2 g = s.retireGrid g 0x1D := by
  rw [release2_cases, if_pos ((failedBefore_iff s g).2 h)]

theorem release2_unready (h : ¬ s.FailedBefore g) (hw : s.weightsReady g = false) : s.release2 g = s.retireGrid g 0x19 := by
  rw [release2_cases, if_neg (mt (failedBefore_iff s g).1 h), hw]
  rfl

/-- A grid that starts asks for tile flags where its record names an array of them. -/
theorem release2_ready (hg : s.grid? g.id = some g) (h : ¬ s.FailedBefore g) (hw : s.weightsReady g = true) :
    s.release2 g = if g.depkind = 1 then (s.startGrid g).askTiles g.id else s.startGrid g := by
  rw [release2_cases, if_neg (mt (failedBefore_iff s g).1 h), hw]
  split
  · next h => simp at h
  · split
    · rfl
    · next hk =>
      have started : (s.startGrid g).grid? g.id = some { g with st := .running, waitFrom := some s.ticks } := by
        obtain ⟨x, hx, hm⟩ := grid?_modGrid (g := g.id) (f := fun x => { x with st := .running, waitFrom := some s.ticks })
          (Option.isSome_of_mem hg) fun _ => rfl
        obtain rfl := Option.some.inj (hg.symm.trans hx)
        exact hm
      have other : ({ g with st := .running, waitFrom := some s.ticks } : Grid).depkind ≠ 1 := hk
      unfold State.askTiles
      rw [started]
      simp [other]

end

end Sys2Proof.Machine

namespace Sys2Proof.Machine

/-! ## The retirement of a block (R98, R339, R396) -/

section
variable {s t : State} {b : Block} {g : Grid} {br : BRef}

/-! ### When a block may retire -/

theorem blockBusy_iff (s : State) (br : BRef) : s.blockBusy br = false ↔ (∀ a ∈ s.flight, a.c.b ≠ br) ∧ (∀ o ∈ s.copies, o.b ≠ br) ∧
    (∀ i ∈ s.issued, i.c.b ≠ br) ∧ (∀ q ∈ s.begun, q.b ≠ br) ∧ (∀ q ∈ s.requests, q.sub ≠ br) := by
  simp [State.blockBusy, and_assoc]

theorem retireReady_running (hg : s.grid? b.ref.grid = some g) (hr : g.st = .running) : s.retireReady b = true ↔ b.st = .resident ∧
    g.ntid ≤ b.exited ∧ (∀ a ∈ s.flight, a.c.b ≠ b.ref) ∧ (∀ o ∈ s.copies, o.b ≠ b.ref) ∧ (∀ i ∈ s.issued, i.c.b ≠ b.ref) ∧
    (∀ q ∈ s.begun, q.b ≠ b.ref) ∧ (∀ q ∈ s.requests, q.sub ≠ b.ref) ∧ (g.ckpt = true → b.settledCk = true) ∧
    ∀ e ∈ s.allEntries, e.2.pub = b.ref → e.2.outstanding = 0 ∧ e.2.chunk = none := by
  have entries : (s.allEntries.all fun e => e.2.pub != b.ref || (e.2.outstanding == 0 && e.2.chunk.isNone)) = true ↔
      ∀ e ∈ s.allEntries, e.2.pub = b.ref → e.2.outstanding = 0 ∧ e.2.chunk = none := by
    rw [List.all_eq_true]
    exact forall₂_congr fun e _ => by by_cases he : e.2.pub = b.ref <;> simp [he]
  have ckpt : (!g.ckpt || b.settledCk) = true ↔ (g.ckpt = true → b.settledCk = true) := by cases g.ckpt <;> simp
  unfold State.retireReady
  rw [hg]
  simp only [hr, beq_self_eq_true, if_true]
  rw [Bool.and_eq_true, Bool.and_eq_true, Bool.and_eq_true, Bool.and_eq_true, entries, ckpt, Bool.not_eq_true', blockBusy_iff,
    decide_eq_true_iff, beq_iff_eq]
  tauto

theorem retireReady_ended (hg : s.grid? b.ref.grid = some g) (hr : g.st = .ended) : s.retireReady b = true ↔ b.st ≠ .saving ∧
    b.st ≠ .restoring ∧ (∀ a ∈ s.flight, a.c.b = b.ref → a.op ≠ .load ∧ ∀ op wide red sr ls, a.op ≠ .atomic op wide red sr ls) ∧
    (∀ q ∈ s.begun, q.b ≠ b.ref) ∧ ∀ i ∈ s.issued, i.c.b = b.ref → ∀ n v hyper, i.fin ≠ .priv n v hyper := by
  have replies (op : AccOp) : op.replies = false ↔ op ≠ .load ∧ ∀ o wide red sr ls, op ≠ .atomic o wide red sr ls := by
    cases op with
    | atomic => exact iff_of_false (by simp [AccOp.replies]) fun h => h.2 _ _ _ _ _ rfl
    | _ => simp [AccOp.replies]
  have priv (f : Finish) : f.isPriv = false ↔ ∀ n v hyper, f ≠ .priv n v hyper := by
    cases f <;> simp [Finish.isPriv]
  unfold State.retireReady
  rw [hg]
  simp [hr, replies, priv, and_assoc]

theorem retireReady_other (hg : s.grid? b.ref.grid = some g) (hr : g.st ≠ .running) (he : g.st ≠ .ended) : s.retireReady b = false := by
  unfold State.retireReady
  rw [hg]
  simp [hr, he]

/-! ### The notices that a retiring block sends, and the entries that they free -/

/-- A block but for the entries that it holds in its image. -/
def Block.bare (b : Block) : Block := { b with entries := [] }

/-- `t` is `s` with notices sent and entries freed. -/
structure State.Removing (s t : State) : Prop where
  frame : t = { s with blocks := t.blocks, notices := t.notices, packets := t.packets, cores := t.cores, fresh := t.fresh }
  blocks : t.blocks.map Block.bare = s.blocks.map Block.bare
  notices : s.notices ⊆ t.notices

namespace State.Removing

theorem rfl {s : State} : s.Removing s := ⟨Eq.refl _, Eq.refl _, List.Subset.refl _⟩

theorem trans {u : State} (h : s.Removing t) (k : t.Removing u) : s.Removing u := by
  refine ⟨?_, k.blocks.trans h.blocks, List.Subset.trans h.notices k.notices⟩
  have hu := k.frame
  rw [h.frame] at hu
  exact hu

theorem foldl {α : Type} {f : State → α → State} (hf : ∀ (u : State) x, u.Removing (f u x)) (l : List α) (s : State) :
    s.Removing (l.foldl f s) :=
  List.foldlRecOn (motive := fun t => s.Removing t) _ _ rfl fun _ ht x _ => ht.trans (hf _ x)

theorem notice (s : State) (m : Notice) : s.Removing { s.bump with notices := s.notices ++ [m] } :=
  ⟨Eq.refl _, Eq.refl _, List.subset_append_left _ _⟩

theorem freeEntry (s : State) (e : SubEntry) : s.Removing (s.freeEntry e) := by
  unfold State.freeEntry State.updEntry
  dsimp only
  split
  · exact ⟨Eq.refl _, Eq.refl _, List.Subset.refl _⟩
  · refine ⟨Eq.refl _, ?_, List.Subset.refl _⟩
    show (List.map _ s.blocks).map Block.bare = _
    rw [List.map_map]
    refine List.map_congr_left fun x _ => ?_
    rw [Function.comp_apply]
    split <;> exact Eq.refl _

end State.Removing

/-- A notice that one step of a fold sends stands in the end, where no step takes one back. -/
theorem exists_notice_foldl {α : Type} {f : State → α → State} (hf : ∀ (u : State) x, u.Removing (f u x)) {p : Notice → Prop}
    {l : List α} {x : α} (hx : x ∈ l) (hp : ∀ u, ∃ m ∈ (f u x).notices, p m) (s : State) : ∃ m ∈ (l.foldl f s).notices, p m := by
  obtain ⟨pre, post, rfl⟩ := List.append_of_mem hx
  rw [List.foldl_append, List.foldl_cons]
  obtain ⟨m, hm, hpm⟩ := hp (pre.foldl f s)
  exact ⟨m, (State.Removing.foldl hf post _).notices hm, hpm⟩

/-- A retiring block tells the publisher of one of its records. -/
def State.tellPublisher (b : Block) (s : State) (r : Nat × SubRec) : State :=
  if r.2.state == 2 then
    { s.bump with notices := s.notices ++ [{ id := s.fresh, kind := .removal, sub := b.ref, pub := ⟨b.ref.grid, r.2.pub⟩, n := r.1
                                             rid := r.2.id }] }
  else s

/-- A retiring block tells the subscriber of one of its entries, which is freed. -/
def State.tellSubscriber (b : Block) (s : State) (e : Nat × SubEntry) : State :=
  { (s.freeEntry e.2).bump with notices := s.notices ++ [{ id := s.fresh, kind := .removed, sub := e.2.sub, pub := b.ref, n := e.2.n
                                                           rid := s.recId e.2.sub e.2.n }] }

theorem sendRemovals_folds (s : State) (b : Block) : s.sendRemovals b = ((b.recs.foldl (State.tellPublisher b) s).allEntries.filter
    fun e => e.2.pub == b.ref).foldl (State.tellSubscriber b) (b.recs.foldl (State.tellPublisher b) s) := rfl

theorem tellPublisher_removing (b : Block) (s : State) (r : Nat × SubRec) : s.Removing (s.tellPublisher b r) := by
  unfold State.tellPublisher
  split
  · exact .notice s _
  · exact .rfl

theorem tellSubscriber_removing (b : Block) (s : State) (e : Nat × SubEntry) : s.Removing (s.tellSubscriber b e) := by
  have freed := State.Removing.freeEntry s e.2
  have frame := freed.frame
  refine ⟨?_, freed.blocks, List.subset_append_left _ _⟩
  unfold State.tellSubscriber
  rw [frame]
  rfl

theorem sendRemovals_removing (s : State) (b : Block) : s.Removing (s.sendRemovals b) := by
  rw [sendRemovals_folds]
  exact (State.Removing.foldl (tellPublisher_removing b) b.recs s).trans (.foldl (tellSubscriber_removing b) _ _)

theorem sendRemovals_publishers {r : Nat × SubRec} (hr : r ∈ b.recs) (h2 : r.2.state = 2) :
    ∃ m ∈ (s.sendRemovals b).notices, m.kind = .removal ∧ m.sub = b.ref ∧ m.pub = ⟨b.ref.grid, r.2.pub⟩ ∧ m.n = r.1 := by
  obtain ⟨m, hm, h⟩ := exists_notice_foldl (p := fun m => m.kind = .removal ∧ m.sub = b.ref ∧ m.pub = ⟨b.ref.grid, r.2.pub⟩ ∧ m.n = r.1)
    (tellPublisher_removing b) hr (fun u => by
      unfold State.tellPublisher
      rw [if_pos (by simp [h2])]
      exact ⟨_, List.mem_append_right _ (List.mem_singleton_self _), rfl, rfl, rfl, rfl⟩) s
  rw [sendRemovals_folds]
  exact ⟨m, (State.Removing.foldl (tellSubscriber_removing b) _ _).notices hm, h⟩

theorem sendRemovals_subscribers {e : Nat × SubEntry} (he : e ∈ s.allEntries) (hp : e.2.pub = b.ref) :
    ∃ m ∈ (s.sendRemovals b).notices, m.kind = .removed ∧ m.sub = e.2.sub ∧ m.pub = b.ref ∧ m.n = e.2.n := by
  have cores : (b.recs.foldl (State.tellPublisher b) s).cores = s.cores := foldl_keeps State.cores (fun u r => by
    unfold State.tellPublisher
    split <;> rfl) _ _
  have entry : e ∈ (b.recs.foldl (State.tellPublisher b) s).allEntries.filter fun e => e.2.pub == b.ref := by
    unfold State.allEntries
    rw [cores]
    exact List.mem_filter.2 ⟨he, by simp [hp]⟩
  rw [sendRemovals_folds]
  exact exists_notice_foldl (tellSubscriber_removing b) entry
    (fun u => ⟨_, List.mem_append_right _ (List.mem_singleton_self _), rfl, rfl, rfl, rfl⟩) _

/-! ### The cores that it leaves -/

/-- Cores without a block become idle; nothing else changes. -/
theorem vacateAll_frame (l : List Nat) (s : State) : l.foldl State.vacate s = { s with cores := (l.foldl State.vacate s).cores } := by
  refine List.foldlRecOn (motive := fun t : State => t = { s with cores := t.cores }) _ _ rfl fun t ht k _ => ?_
  unfold State.vacate
  split
  · rw [ht]
    rfl
  · exact ht

theorem occupying_isEmpty (bs : List Block) (k : Nat) :
    (occupying bs k).isEmpty = true ↔ ∀ c ∈ bs, k ∈ c.core :: c.core2.toList → c.st = .saved := by
  simp [occupying, Block.cores]

theorem vacate_core (s : State) (j k : Nat) : (s.vacate j).core k =
    if k = j ∧ (occupying s.blocks j).isEmpty = true then { s.core j with idleSince := some s.ticks } else s.core k := by
  unfold State.vacate
  by_cases h : (occupying s.blocks j).isEmpty = true
  · have idle : ({ s.core j with idleSince := some s.ticks } : Core) ≠ {} := fun he => by
      have := congrArg Core.idleSince he
      cases this
    rw [if_pos h]
    simp only [h, and_true]
    exact tget_tput_ne idle
  · rw [if_neg h, if_neg fun hk => h hk.2]

/-- A core among those left, without a block that stands on it, is idle from now on. -/
theorem vacateAll_idle {l : List Nat} {k : Nat} (hk : k ∈ l) (he : (occupying s.blocks k).isEmpty = true) :
    ((l.foldl State.vacate s).core k).idleSince = some s.ticks := by
  have step {t : State} (ht : t = { s with cores := t.cores }) (j : Nat) : (t.vacate j).core k =
      if k = j then { t.core k with idleSince := some s.ticks } else t.core k := by
    have blocks : t.blocks = s.blocks := by rw [ht]
    have ticks : t.ticks = s.ticks := by rw [ht]; rfl
    rw [vacate_core, blocks, ticks]
    by_cases hj : k = j
    · subst hj
      rw [if_pos ⟨rfl, he⟩, if_pos rfl]
    · rw [if_neg fun h => hj h.1, if_neg hj]
  obtain ⟨pre, post, rfl⟩ := List.append_of_mem hk
  rw [List.foldl_append, List.foldl_cons]
  have there := vacateAll_frame pre s
  have left : (pre.foldl State.vacate s).vacate k = { s with cores := ((pre.foldl State.vacate s).vacate k).cores } := by
    simpa using vacateAll_frame (pre ++ [k]) s
  refine (List.foldlRecOn (motive := fun t : State => t = { s with cores := t.cores } ∧ (t.core k).idleSince = some s.ticks) _ _
    ⟨left, ?_⟩ fun t ht j _ => ⟨?_, ?_⟩).2
  · rw [step there, if_pos rfl]
  · have := vacateAll_frame [j] t
    rw [ht.1] at this ⊢
    exact this
  · rw [step ht.1]
    split
    · rfl
    · exact ht.2

/-! ### Barriers with nothing to settle -/

theorem settleAll_idle (hb : ∀ c ∈ s.blocks, c.barriers = []) (hn : s.NoneHeld fun k => ∃ i n sub, k = .barRecord i n sub) :
    s.settleAll = s := by
  have full : s.readyPhase = none := List.findSome?_eq_none_iff.2 fun b hm => by
    rw [hb b hm]
    split <;> rfl
  have waiters (k : Nat) : s.recordWaiters k = [] := by
    refine List.flatMap_eq_nil_iff.2 fun b hm => List.flatMap_eq_nil_iff.2 fun c hc => List.filterMap_eq_nil_iff.2 fun p hp => ?_
    split
    · next h hh =>
      split
      · next id count sub hk => exact absurd ⟨id, count, sub, hk⟩ (hn b (List.mem_of_mem_filter hm) c hc p hp h hh)
      · rfl
    · rfl
  have grant : s.grantable = none := List.findSome?_eq_none_iff.2 fun k _ => by
    rw [waiters]
    split <;> rfl
  show settleBarriers (s.allSplits.length + 18 * s.blocks.length + 1) s = s
  unfold settleBarriers
  rw [full, grant]

end

end Sys2Proof.Machine

namespace Sys2Proof.Machine

section
variable {s u : State} {b : Block} {g : Grid}

/-! ### BLOCK_RETIRE -/

theorem blockRetire_stays (hb : s.block? b.ref = some b) (h : s.retireReady b = false) : exec (.blockRetire b.ref) s = .next s := by
  show execBlockRetire b.ref s = _
  unfold execBlockRetire
  rw [hb]
  simp [h]

/-- The block is off the machine, and its grid counts it. -/
def State.withoutBlock (s : State) (br : BRef) : State :=
  ({ s with blocks := s.blocks.filter fun c => c.ref ≠ br, issued := s.issued.filter fun i => i.c.b ≠ br,
            selected := s.selected.filter fun r => r.c.b ≠ br, checkpoints := s.checkpoints.filter fun c => c.ref ≠ br } : State).modGrid
    br.grid fun g => { g with retiredBlocks := g.retiredBlocks + 1 }

/-- What the retirement of a block sends and frees first: nothing where its grid has ended. -/
def State.removals (s : State) (b : Block) (g : Grid) : State := if g.st = .ended then s else s.sendRemovals b

theorem removals_removing (s : State) (b : Block) (g : Grid) : s.Removing (s.removals b g) := by
  unfold State.removals
  split
  · exact .rfl
  · exact sendRemovals_removing s b

/-- The state in which the block has left its cores. -/
def State.blockGone (s : State) (b : Block) (g : Grid) : State := b.cores.foldl State.vacate ((s.removals b g).withoutBlock b.ref)

theorem filter_ref_bne {α : Type} (l : List α) (f : α → BRef) (br : BRef) :
    (l.filter fun x => f x != br) = l.filter fun x => f x ≠ br := List.filter_congr fun x _ => by simp [bne, Bool.beq_eq_decide_eq]

theorem blockRetire_ready (hb : s.block? b.ref = some b) (hg : s.grid? b.ref.grid = some g) (h : s.retireReady b = true) :
    exec (.blockRetire b.ref) s = .next (s.blockGone b g).settleAll := by
  have ended : ((s.grid? b.ref.grid).map fun g => g.st == .ended).getD false = decide (g.st = .ended) := by
    rw [hg]
    exact (Bool.beq_eq_decide_eq ..)
  have gone : s.blockGone b g = b.cores.foldl State.vacate ((if decide (g.st = .ended) then s else s.sendRemovals b).withoutBlock b.ref) := by
    unfold State.blockGone State.removals
    by_cases hst : g.st = .ended <;> simp only [hst, decide_true, decide_false, if_true, if_false, Bool.false_eq_true]
  rw [gone]
  unfold State.withoutBlock
  simp only [← filter_ref_bne]
  show execBlockRetire b.ref s = _
  unfold execBlockRetire
  rw [hb]
  dsimp only
  rw [h, ended]
  rfl

theorem blockGone_of_withoutBlock (s : State) (b : Block) (g : Grid) :
    s.blockGone b g = { (s.removals b g).withoutBlock b.ref with cores := (s.blockGone b g).cores } := vacateAll_frame _ _

theorem blockGone_blocks (s : State) (b : Block) (g : Grid) :
    (s.blockGone b g).blocks = (s.removals b g).blocks.filter fun c => c.ref ≠ b.ref := by
  rw [blockGone_of_withoutBlock]
  rfl

theorem blockGone_notices (s : State) (b : Block) (g : Grid) : (s.blockGone b g).notices = (s.removals b g).notices := by
  rw [blockGone_of_withoutBlock]
  rfl

theorem blockGone_grids (s : State) (b : Block) (g : Grid) : (s.blockGone b g).grids =
    s.grids.map fun x => if x.id = b.ref.grid then { x with retiredBlocks := x.retiredBlocks + 1 } else x := by
  rw [blockGone_of_withoutBlock]
  show (List.map _ (s.removals b g).grids) = _
  rw [(removals_removing s b g).frame]
  exact List.map_congr_left fun x _ => by simp

/-- The frame of a block's retirement. -/
theorem blockGone_frame (s : State) (b : Block) (g : Grid) : s.blockGone b g =
    { s with blocks := (s.blockGone b g).blocks, issued := s.issued.filter fun i => i.c.b ≠ b.ref,
             selected := s.selected.filter fun r => r.c.b ≠ b.ref, checkpoints := s.checkpoints.filter fun c => c.ref ≠ b.ref,
             grids := (s.blockGone b g).grids, notices := (s.blockGone b g).notices, packets := (s.blockGone b g).packets,
             cores := (s.blockGone b g).cores, fresh := (s.blockGone b g).fresh } := by
  have gone := blockGone_of_withoutBlock s b g
  unfold State.withoutBlock State.modGrid at gone
  have frame := (removals_removing s b g).frame
  rw [frame] at gone
  rw [gone]

/-- Each block that stays is one that stood, but for the entries in its image. -/
theorem blockGone_bare {c : Block} (hc : c ∈ (s.blockGone b g).blocks) : ∃ d ∈ s.blocks, d.bare = c.bare := by
  rw [blockGone_blocks] at hc
  have bare : c.bare ∈ s.blocks.map Block.bare := (removals_removing s b g).blocks ▸ List.mem_map_of_mem (List.mem_of_mem_filter hc)
  exact List.mem_map.1 bare

theorem blockGone_refs (s : State) (b : Block) (g : Grid) :
    (s.blockGone b g).blocks.map (·.ref) = (s.blocks.map (·.ref)).filter (fun r => r ≠ b.ref) := by
  have refs : (s.removals b g).blocks.map (·.ref) = s.blocks.map (·.ref) := by
    have := congrArg (List.map Block.ref) (removals_removing s b g).blocks
    rwa [List.map_map, List.map_map] at this
  rw [blockGone_blocks, ← refs, List.filter_map]
  rfl

theorem blockGone_settleAll (hb : ∀ c ∈ s.blocks, c.barriers = []) (hn : s.NoneHeld fun k => ∃ i n sub, k = .barRecord i n sub) :
    (s.blockGone b g).settleAll = s.blockGone b g := by
  refine settleAll_idle (fun c hc => ?_) fun c hc k hk => ?_
  · obtain ⟨d, hd, h⟩ := blockGone_bare hc
    have barriers : d.bare.barriers = c.bare.barriers := by rw [h]
    exact barriers.symm.trans (hb d hd)
  · obtain ⟨d, hd, h⟩ := blockGone_bare hc
    have cohorts : d.bare.cohorts = c.bare.cohorts := by rw [h]
    exact hn d hd k (cohorts ▸ hk)

theorem blockGone_idle {k : Nat} (hk : k ∈ b.core :: b.core2.toList)
    (h : ∀ c ∈ (s.blockGone b g).blocks, k ∈ c.core :: c.core2.toList → c.st = .saved) :
    ((s.blockGone b g).core k).idleSince = some s.ticks := by
  have ticks : ((s.removals b g).withoutBlock b.ref).ticks = s.ticks := by
    show (s.removals b g).ticks = s.ticks
    rw [(removals_removing s b g).frame]
    rfl
  rw [← ticks]
  refine vacateAll_idle hk ((occupying_isEmpty _ k).2 ?_)
  rw [blockGone_blocks] at h
  exact h

end

/-- Settles O58: a block's retirement is read through what its notices and its vacating leave; a grid retires through
`retireGrid_retires`, whether its own work is done or its look-up of steps 6 and 7 fails. -/
theorem blocksAndGridsRetire : Obligations.BlocksAndGridsRetire := by
  unfold Obligations.BlocksAndGridsRetire
  refine ⟨?_, ?_, fun _ => rfl, ?_, ?_, producerFailed_iff⟩
  · intro s br b g hb hg ready
    obtain rfl : b.ref = br := by simpa using List.find?_some hb
    have is_ready : ready ↔ s.retireReady b = true := by
      cases hst : g.st with
      | running =>
        rw [retireReady_running hg hst]
        simp [ready, hst]
      | ended =>
        rw [retireReady_ended hg hst]
        simp [ready, hst]
      | _ => simp [ready, hst, retireReady_other hg]
    refine ⟨fun h => blockRetire_stays hb (Bool.eq_false_iff.2 (mt is_ready.2 h)), fun h => ?_⟩
    have running (hr : g.st = .running) : (s.blockGone b g).notices = (s.sendRemovals b).notices := by
      rw [blockGone_notices, State.removals, if_neg (by simp [hr])]
    refine ⟨s.blockGone b g, blockRetire_ready hb hg (is_ready.1 h), blockGone_settleAll, blockGone_frame s b g, fun c hc => ?_,
      blockGone_refs s b g, blockGone_grids s b g, fun hr r hm h2 => ?_, fun hr e he hp => ?_, fun _ k hk hc => blockGone_idle hk hc⟩
    · rw [blockGone_blocks] at hc
      simpa using (List.mem_filter.1 hc).2
    · rw [running hr]
      exact sendRemovals_publishers hm h2
    · rw [running hr]
      exact sendRemovals_subscribers he hp
  · intro s g hg hw done served
    refine ⟨fun h nodup => ?_, fun hd hr => ⟨_, retireGrid_retires (State.Touched.touchAll s (s.statusReads g)) (Option.isSome_of_mem hg) hw, ?_,
      State.imaged_noImages⟩⟩
    · show Host.Outcome.next ((gridRetire g.id s).imaged s) = _
      rw [gridRetire_stays hg h, State.imaged_self nodup]
    · show Host.Outcome.next ((gridRetire g.id s).imaged s) = _
      rw [gridRetire_done hg hd hr]
      rfl
  · intro s n free
    exact ⟨fun h => releaseConsumers_none h n, fun pre h post hs hpre hh => releaseConsumers_first hs hpre hh n⟩
  · intro s g hg hw failed started
    have stands := Option.isSome_of_mem hg
    refine ⟨fun h => ?_, fun h hk => ?_, fun h hk => release2_ready hg h hk⟩
    · rw [release2_failed h]
      exact retireGrid_retires .rfl stands hw
    · rw [release2_unready h hk]
      exact retireGrid_retires .rfl stands hw

end Sys2Proof.Machine
